-- ==== Sys2Proof/Word.lean ====
section
/-! DEFINITION. The word types of the device and the plainest arithmetic on them: bytes, 32-bit
registers (R9), 64-bit pairs, sign conversion and saturation. -/
namespace Sys2Proof

/-- A byte of HBM, local memory, flash or a link frame. -/
abbrev Byte := BitVec 8
/-- A register (R9: all registers are 32 bits wide). -/
abbrev Word32 := BitVec 32
/-- A register pair, a worker general register or a bitmap word. -/
abbrev Word64 := BitVec 64
/-- The 48-bit address a vector sees: X in 23:0, Y in 39:24, Z in 47:40. -/
abbrev Addr48 := BitVec 48

/-- Low and high word of a 64-bit pair (R9: low word first). -/
def lo32 (w : Word64) : Word32 := w.extractLsb' 0 32
def hi32 (w : Word64) : Word32 := w.extractLsb' 32 32
/-- A pair from its two words. -/
def pair64 (lo hi : Word32) : Word64 := hi ++ lo

/-- Bits `lsb + len - 1 : lsb` of a word as a number. -/
def fld {w : Nat} (x : BitVec w) (lsb len : Nat) : Nat := (x.toNat >>> lsb) % 2 ^ len
/-- Bit `i` of a word. -/
def bit {w : Nat} (x : BitVec w) (i : Nat) : Bool := x.getLsbD i

/-- The value of a `w`-bit field read as a two's complement number. -/
def signedOf (w n : Nat) : Int := (BitVec.ofNat w n).toInt

/-- Saturation of a 32-bit counter at 0xFFFF_FFFF. -/
def sat32 (n : Nat) : Nat := min n 0xFFFFFFFF
/-- Clamp of a number to an inclusive range. -/
def clampInt (lo hi x : Int) : Int := max lo (min hi x)

/-- Rounded quotient, half up, for a positive divisor. -/
def roundDiv (n d : Int) : Int := (2 * n + d) / (2 * d)

/-- A list of the words of `n` bits set in `x`, ascending. -/
def setBits {w : Nat} (x : BitVec w) : List Nat := (List.range w).filter (fun i => x.getLsbD i)

/-- `x` with bit `i` set, and with bit `i` cleared. -/
def setBit {w : Nat} (x : BitVec w) (i : Nat) : BitVec w := x ||| BitVec.twoPow w i
def clrBit {w : Nat} (x : BitVec w) (i : Nat) : BitVec w := x &&& ~~~ BitVec.twoPow w i

/-- A flag as a bit of a packed register. -/
def b2n (b : Bool) : Nat := if b then 1 else 0

end Sys2Proof
end

