-- ==== Sys2Proof/Names.lean ====
section
/-! DEFINITION. Names of the device's parts as the commands carry them: sequencers, sites, channels, banks, units,
streams, links, paths and statuses. -/
namespace Sys2Proof

/-- The path of a register access (R389): PCI Express, or management firmware. -/
inductive Path where | pcie | mgmt
  deriving DecidableEq, Repr

/-- Completion status of an HBM request (R343). -/
inductive HbmStatus where | ok | ecc | reset | unmapped
  deriving DecidableEq, Repr

/-- Ports of the HBM controller, in the order of their numbers (R342). -/
inductive HbmPort where | vf | msss | cw | bm | sw | we | ha | mt
  deriving DecidableEq, Repr

/-- What the last step of an HBM training pass reports for the 32 pseudo-channels of a stack (R353, R354). -/
structure TrainRep where
  /-- Worst lane's FOM, a lane without a working setting, and a redundant lane in use. -/
  fom : List Nat
  failed : BitVec 32
  repaired : BitVec 32
  deriving DecidableEq, Repr

/-- A measure stream or a source stream, 64 of each (R256). -/
inductive StreamId where
  | ms (i : Fin 64)
  | ss (i : Fin 64)
  deriving DecidableEq, Repr

/-- A unit that a time compare, a host write or a mark starts. -/
inductive Starter where
  | seq (i : Fin 64)
  | ms (i : Fin 64)
  | ss (i : Fin 64)
  | tim (i : Fin 32)
  deriving DecidableEq, Repr

/-- An executor of tasks: worker engine or copy engine. -/
inductive ExecId where
  | we (i : Fin 24)
  | ce (i : Fin 8)
  deriving DecidableEq, Repr

/-- A link that trains: a Zheind port or a PE link. -/
inductive LinkId where
  | zp (i : Fin 6)
  | pl (i : Fin 32)
  deriving DecidableEq, Repr

/-- The DESC frame of a PE (R380): protocol, firmware version, channels, and V_lo and V_hi of its measure converters. -/
structure PeDesc where
  major : BitVec 4
  minor : BitVec 8
  fw : Word32
  channels : Nat
  vlo : List (BitVec 18)
  vhi : List (BitVec 18)
  deriving DecidableEq, Repr

/-- What a completed fetch of a sequencer brought (R129); its count or number is an operand of its own. -/
inductive FetchWhat where
  /-- Further vectors of the fetch order; behind a JIF those of its fall-through path. -/
  | vectors
  /-- Further vectors of the target path of the JIF at the end of the lead. -/
  | target
  /-- Further vectors of jump target `slot`. -/
  | head (slot : Fin 4)
  /-- A segment table entry. -/
  | segEntry
  /-- The granules of a segment's stream image. -/
  | image
  deriving DecidableEq, Repr

/-- What the compare port of one channel showed in one vector: the window comparators' outputs as sampled. -/
structure ChanObs where
  /-- Channel number. -/
  chan : Fin 512
  /-- CHI and CLO at each strobe instant, bit i for unit interval i (bit 0 outside serial mode). -/
  chi : BitVec 8 := 0
  clo : BitVec 8 := 0
  /-- WINDOW mode: the set of (CHI, CLO) pairs seen, bit 2*CHI + CLO. -/
  seen : BitVec 4 := 0
  /-- SREF mode: the grid samples g_0, g_1, ... in order, bit 1 CHI and bit 0 CLO (R160). -/
  grid : List (BitVec 2) := []
  /-- The monitor sampler's level differed from the main sample (R322). -/
  monDiff : Bool := false
  deriving DecidableEq, Repr

/-- A calibration target: kind 1 to 10 and index (table of calibration kinds). -/
structure CalTarget where
  kind : Nat
  index : Nat
  deriving DecidableEq, Repr

/-- What a calibration measurement found (R320 to R324). -/
inductive CalMeas where
  /-- DESKEW: on-die DAT, EN and CMP delays in fine steps. -/
  | deskew (dat en cmp : Int)
  /-- LIN: fine code to fine code of the drive and of the strobe interpolator. -/
  | lin (drive strobe : List Nat)
  /-- SERIAL: mean odd-UI minus mean even-UI width, as the odd-UI correction it calls for. -/
  | serial (corr : Int)
  /-- MSF: averages at the two reference levels. -/
  | conv (mlo mhi : Int)
  /-- SSG: the gain and offset that land both codes on their requested values. -/
  | fit (gain ofs : Int)
  /-- Code density: events per code. -/
  | codes (n : List Nat)
  /-- TIM_TAP: tap corrections of the four taps, 0.5 ps. -/
  | taps (v : List Int)
  /-- SYNC: recompute from SYNC_PHASE, SYNC_DELAY and the receiver trim. -/
  | sync
  deriving DecidableEq, Repr

end Sys2Proof
end

