-- ==== Sys2Proof/Syntax.lean ====
section
/-! DEFINITION. The commands of the XPT-512H: one constructor for each row of the opcode table, in its order, with the
operands the command or event carries. Operands that the device reads from its own registers are not repeated here. -/
namespace Sys2Proof

/-- One command or event of the device. Each docstring names the row and the rule that governs it. -/
inductive Instr where
  /-- ARM (R44). Host writes SEQ.CTRL.ARM; if the sequencer is idle or in a final state, the arm is taken up and the cast header read starts. -/
  | arm (q : Fin 64)
  /-- CAST_HEADER_READ_DONE (R437). The arm's read of the cast header and channel map completes; the arm is then refused, or accepted and prefill starts. -/
  | castHeaderReadDone (q : Fin 64) (res : HbmStatus)
  /-- PREFILL_COMPLETE (R118). Loop cache, fetch lead, head buffer and decoded queue are filled; the sequencer enters ARMED and its start sources are enabled. -/
  | prefillComplete (q : Fin 64)
  /-- START (R48). Host writes SEQ.CTRL.START; an ARMED sequencer's start commits and its first vector issues 10 ns later. -/
  | start (q : Fin 64)
  /-- ABORT (R66). Host writes SEQ.CTRL.ABORT; it ends the burst, loses to completion, or is ignored, depending on its commit cycle. -/
  | abort (q : Fin 64)
  /-- CLEAR (R41). Host writes SEQ.CTRL.CLEAR; a sequencer in a final state returns to IDLE. -/
  | clear (q : Fin 64)
  /-- PAUSE (R68). Host writes SEQ.CTRL.PAUSE; the burst enters HOLD at the next pausable point. -/
  | pause (q : Fin 64)
  /-- RESUME (R128). Host writes SEQ.CTRL.RESUME; the sequencer leaves HOLD and the next vector issues 10 ns later. -/
  | resume (q : Fin 64)
  /-- SITE_RETIRE (R52). Host writes 1 to a SITE_RETIRE bit; the retirement becomes pending and takes effect at the next segment boundary. -/
  | siteRetire (q : Fin 64) (w : Fin 4) (bits : Word32)
  /-- JUMP_REQ (R113). Host writes SEQ.JUMP_REQ.GO with SLOT; a jump request commits or is discarded for an unusable slot. -/
  | jumpReq (q : Fin 64) (slot : Fin 4)
  /-- STRM_WR (R120). Host writes the low word of STRM_WR; the new byte count commits and the bytes become available to VFS. -/
  | strmWr (q : Fin 64) (lo : Word32) (hi : Option Word32)
  /-- MARK_ID_READ (R112). A read of MARK_ID returns the head mark, latches its timestamp and removes the entry. -/
  | markIdRead (q : Fin 64) (path : Path)
  /-- FETCH_COMPLETE (R129). A vector, segment-table or stream-image fetch from HBM completes and fills the fetch lead, or fails with a fetch fault. -/
  | fetchComplete (q : Fin 64) (what : FetchWhat) (res : HbmStatus) (n : Nat)
  /-- AUTO_RESUME (R128). In a starvation HOLD with AUTO_RESUME set, the lead reaches LEAD and the sequencer resumes by itself. -/
  | autoResume (q : Fin 64)
  /-- FILL_VECTOR (R81). The issue side needs a vector and the queue is empty, so it issues a fill vector repeating the last vector. -/
  | fillVector (q : Fin 64)
  /-- EMIT (R75). The sequencer executes EMIT and issues its run of vectors. -/
  | emit (q : Fin 64)
  /-- RPT (R75). The sequencer executes RPT and issues its one vector OPD times. -/
  | rpt (q : Fin 64)
  /-- LOOP (R83). The sequencer executes LOOP, issues its run and pushes a loop entry. -/
  | loop (q : Fin 64)
  /-- ENDL (R83). The sequencer executes ENDL, issues its run and repeats or closes the top loop. -/
  | endl (q : Fin 64)
  /-- CALL (R85). The sequencer executes CALL, issues its run, pushes the return index and continues at the target. -/
  | call (q : Fin 64)
  /-- RET (R85). The sequencer executes RET, issues its run and continues at the popped index. -/
  | ret (q : Fin 64)
  /-- JMP (R85). The sequencer executes JMP, issues its run and continues at the target. -/
  | jmp (q : Fin 64)
  /-- JIF (R86). The sequencer executes JIF, issues its run, evaluates its condition and takes the target or falls through. -/
  | jif (q : Fin 64)
  /-- MATCH (R89). The sequencer executes MATCH and repeats its run until the condition is met or the limit is reached. -/
  | matchRun (q : Fin 64)
  /-- WAIT (R90). The sequencer executes WAIT, issues its run and notes the instant from which its delay counts. -/
  | waitRun (q : Fin 64)
  /-- WAIT_END (R90). The WAIT instant t0 + D passes in its domain and the successor issues in that vector slot. -/
  | waitEnd (q : Fin 64)
  /-- MARK (R92). The sequencer executes MARK, delivering the mark identity, setting and clearing flags, pulsing TRIG_OUT lines and optionally stamping. -/
  | markRun (q : Fin 64)
  /-- TSET (R78). The sequencer executes TSET, issues its run and loads a new timing-set rotation. -/
  | tset (q : Fin 64)
  /-- APG (R94). The sequencer executes an APG instruction and applies its operation to the APG after the run or after each vector. -/
  | apg (q : Fin 64)
  /-- SMASK (R93). The sequencer executes SMASK and loads, sets or clears the site mask state from the next vector on. -/
  | smask (q : Fin 64)
  /-- ALIGN (R91). The sequencer executes ALIGN, issues its run and arrives at its barrier. -/
  | align (q : Fin 64)
  /-- STOP (R95). The sequencer executes STOP, issues its run and reaches the completion point. -/
  | stop (q : Fin 64)
  /-- ALIGN_RELEASE (R58). The barrier's release edge is reached and waiting members resume 10 ns later. -/
  | alignRelease (g : BitVec 8)
  /-- ALIGN_TIMEOUT (R61). The barrier timeout expires before release; waiting members go FAULTED and CANCEL is sent. -/
  | alignTimeout (g : BitVec 8)
  /-- ARRIVE (R59). The master receives an ARRIVE message for an align group. -/
  | arrive (port : Fin 6) (g : BitVec 8)
  /-- RELEASE (R60). A member chip receives RELEASE(group, T); it releases at T, or faults ALIGN_LATE if T has passed. -/
  | release (port : Fin 6) (g : BitVec 8) (t : Word64)
  /-- CANCEL (R62). A CANCEL message arrives; the barrier is cancelled, waiting members go FAULTED and the master forwards CANCEL. -/
  | cancel (port : Fin 6) (g : BitVec 8)
  /-- TIME_COMPARE_FIRE (R303). A time-domain compare instant passes and the start source it names fires. -/
  | timeCompareFire (u : Starter)
  /-- TRIG_IN_EDGE (R210). An edge on a TRIG_IN ball is sampled and acts as a start source or trigger condition. -/
  | trigInEdge (line : Fin 4) (rising : Bool)
  /-- CAP_COMMIT (R195). CAP commits the judged compare results of a vector for every site, 40 ns after its last strobe window. -/
  | capCommit (q : Fin 64) (obs : List ChanObs)
  /-- CAPTURE_WRITE_COMPLETE (R208). A CW or BM write of a capture context completes; a failed one counts as lost. -/
  | captureWriteComplete (site : Fin 128) (res : HbmStatus)
  /-- TSS_TABLE_WRITE (R150). A direct BAR2 write of a TSS entry or period header that is not in use takes effect. -/
  | tssTableWrite (off : BitVec 23) (lo : Word32) (hi : Option Word32)
  /-- APG_TABLE_WRITE (R135). A BAR2 write to an APG scramble or background table takes effect, or is ignored while the sequencer is in progress. -/
  | apgTableWrite (off : BitVec 23) (lo : Word32) (hi : Option Word32)
  /-- PUSH (R166). STG_CTRL.PUSH copies the staged item into the open batch, or is refused. -/
  | push
  /-- CLOSE (R167). STG_CTRL.CLOSE closes the open batch, gives it an identity and assigns its items. -/
  | closeBatch
  /-- DISCARD (R170). STG_CTRL.DISCARD empties the open batch. -/
  | discard
  /-- APPLY_ID_READ (R171). A read of APPLY_ID returns the head record, latches APPLY_VEC and APPLY_SEG and removes it. -/
  | applyIdRead (path : Path)
  /-- WAKE (R187). A BANK WAKE command withdraws a pending off, or queues a wake. -/
  | bankWake (b : Fin 16)
  /-- SLEEP (R187). A BANK SLEEP command moves the bank toward SLEEP, queues a power-up, or is recorded. -/
  | bankSleep (b : Fin 16)
  /-- OFF (R187). A BANK OFF command moves the bank toward OFF or withdraws a queued start. -/
  | bankOff (b : Fin 16)
  /-- BANK_START (R188). A queued bank wake or power-up begins once 20 µs have passed since the previous start. -/
  | bankStart (b : Fin 16)
  /-- BANK_WAKE_DONE (R187). A waking bank's 20 µs or 40 µs ramp ends and the bank goes ON. -/
  | bankWakeDone (b : Fin 16)
  /-- BANK_POWER_UP_DONE (R187). A powering bank's 20 µs power-up ends and the bank enters SLEEP. -/
  | bankPowerUpDone (b : Fin 16)
  /-- BANK_ENTRY_END (R187). The 2 µs entry of a PENDING_OFF bank ends and the bank enters its target state. -/
  | bankEntryEnd (b : Fin 16)
  /-- CAL_RELEASE (R18). CAL releases a bank, unit or converter within 2 µs of an arm or command and discards the partial measurement. -/
  | calRelease (t : CalTarget)
  /-- TRIGGER_FIRE (R211). An armed trigger unit not in hold-off samples true conditions, fires and starts hold-off. -/
  | triggerFire (u : Fin 16)
  /-- PULSE_END (R111). A TRIG_OUT pulse's 10 ns elapse and the line falls. -/
  | pulseEnd (line : Fin 4)
  /-- XT_ASSERT_END (R212). A trigger's 10 ns XT assertion ends. -/
  | xtAssertEnd (line : Fin 8)
  /-- HOLDOFF_END (R213). A trigger unit's hold-off ends by elapsed domain time or by count of qualifying events. -/
  | holdoffEnd (u : Fin 16)
  /-- UNIT_ARM (R214). UCTRL.ARM re-arms a single-shot trigger unit, or waits for hold-off to end. -/
  | unitArm (u : Fin 16)
  /-- UNIT_ENABLE (R218). UCTRL.EN goes from 0 to 1, which arms the unit and clears its records. -/
  | unitEnable (u : Fin 16)
  /-- FORCE (R210). A write of TRG.FORCE makes the HOST condition of the named units true. -/
  | force (units : BitVec 16)
  /-- FLAG_SET (R88). A write of TRG.FLAG_SET sets chip pattern flags. -/
  | flagSet (flags : BitVec 8)
  /-- FLAG_CLEAR (R88). A write of 1 to TRG.FLAGS clears chip pattern flags. -/
  | flagClear (flags : BitVec 8)
  /-- DISPATCH (R248). The scheduler places the first ready task of the highest level in an eligible executor's running or prefetch slot. -/
  | dispatch
  /-- WORK_BLOCK_LOADED (R219). An engine has read the work block and any new program, initialises its registers and issues the first instruction. -/
  | workBlockLoaded (e : Fin 24) (res : HbmStatus)
  /-- ADD (R225). Worker ADD writes RA plus B to RD and sets flags. -/
  | add (e : Fin 24)
  /-- SUB (R225). Worker SUB writes RA minus B to RD and sets flags. -/
  | sub (e : Fin 24)
  /-- AND (R225). Worker AND writes RA AND B to RD. -/
  | andOp (e : Fin 24)
  /-- OR (R225). Worker OR writes RA OR B to RD. -/
  | orOp (e : Fin 24)
  /-- XOR (R225). Worker XOR writes RA XOR B to RD. -/
  | xorOp (e : Fin 24)
  /-- SHL (R225). Worker SHL shifts RA left by B[5:0] into RD. -/
  | shl (e : Fin 24)
  /-- SHR (R225). Worker SHR shifts RA right with zero fill into RD. -/
  | shr (e : Fin 24)
  /-- SAR (R225). Worker SAR shifts RA right with sign fill into RD. -/
  | sar (e : Fin 24)
  /-- MUL (R225). Worker MUL writes the low 64 bits of RA times B to RD. -/
  | mul (e : Fin 24)
  /-- MIN (R225). Worker MIN writes the unsigned minimum of RA and B to RD. -/
  | minOp (e : Fin 24)
  /-- MAX (R225). Worker MAX writes the unsigned maximum of RA and B to RD. -/
  | maxOp (e : Fin 24)
  /-- CMP (R225). Worker CMP sets flags from RA minus B. -/
  | cmp (e : Fin 24)
  /-- POPC (R225). Worker POPC writes the population count of RA to RD. -/
  | popc (e : Fin 24)
  /-- CTZ (R225). Worker CTZ writes the trailing zero count of RA to RD. -/
  | ctz (e : Fin 24)
  /-- BITX (R225). Worker BITX extracts the lowest set bit index of RA and clears that bit. -/
  | bitx (e : Fin 24)
  /-- LDI (R225). Worker LDI loads a sign-extended immediate into RD. -/
  | ldi (e : Fin 24)
  /-- LDIH (R225). Worker LDIH loads the immediate into RD's high word. -/
  | ldih (e : Fin 24)
  /-- BR (R225). Worker BR branches if its condition holds. -/
  | br (e : Fin 24)
  /-- WE_CALL (R225). Worker CALL writes the return index to G31 and branches. -/
  | weCall (e : Fin 24)
  /-- WE_RET (R225). Worker RET continues at G31[12:0]. -/
  | weRet (e : Fin 24)
  /-- DJNZ (R225). Worker DJNZ decrements RA and branches if it is non-zero. -/
  | djnz (e : Fin 24)
  /-- LD (R225). Worker LD loads 8 bytes of local memory into RD. -/
  | ld (e : Fin 24)
  /-- ST (R225). Worker ST stores RB as 8 bytes to local memory. -/
  | st (e : Fin 24)
  /-- LDH (R225). Worker LDH loads a zero-extended halfword from local memory. -/
  | ldh (e : Fin 24)
  /-- STH (R225). Worker STH stores a halfword to local memory. -/
  | sth (e : Fin 24)
  /-- HRD (R221). Worker HRD submits an HBM-to-local transfer under a tag, or sets Q on refusal. -/
  | hrd (e : Fin 24)
  /-- HWR (R221). Worker HWR submits a local-to-HBM transfer under a tag, or sets Q on refusal. -/
  | hwr (e : Fin 24)
  /-- HWAIT (R226). Worker HWAIT waits until the named tags are complete and returns the worst status. -/
  | hwait (e : Fin 24)
  /-- DONE (R231). Worker DONE ends the task with program status and result word once no transfer is outstanding. -/
  | doneTask (e : Fin 24)
  /-- POST (R223). Worker POST submits a task descriptor to the scheduler and writes back the assigned identity. -/
  | post (e : Fin 24)
  /-- WE_TIME (R225). Worker TIME loads a short timestamp of a domain into RD. -/
  | weTime (e : Fin 24)
  /-- BMSCAN (R225). Worker BMSCAN finds the first non-zero word of 64 bytes of local memory. -/
  | bmscan (e : Fin 24)
  /-- LCMUST (R225). Worker LCMUST gathers the MUST bits of 16 line-counter halfwords into a mask. -/
  | lcmust (e : Fin 24)
  /-- CDEC (R225). Worker CDEC lowers a line counter's COUNT and clears MUST below a threshold. -/
  | cdec (e : Fin 24)
  /-- HBM_TRANSFER_COMPLETE (R222). A worker's tagged HBM transfer completes with OK, ECC or RESET and frees its tag. -/
  | hbmTransferComplete (e : Fin 24) (tag : Fin 16) (res : HbmStatus)
  /-- WATCHDOG_EXPIRY (R232). 32 µs pass without an instruction boundary; the engine is reset and its tasks are redispatched or completed RESET. -/
  | watchdogExpiry (e : Fin 24)
  /-- TASK_TIME_LIMIT (R230). TIME_LIMIT elapses and the task ends TIMEOUT at the next boundary. -/
  | taskTimeLimit (x : ExecId)
  /-- CONTROL_STORE_RELOADED (R233). An engine's control store reload after a watchdog completes and the engine returns to service. -/
  | controlStoreReloaded (e : Fin 24)
  /-- OFFLINE (R237). A write of WE.CTRL.OFFLINE takes the engine out of service and returns its prefetched task. -/
  | offline (e : Fin 24) (off : Bool)
  /-- LM_DATA (R237). An access of LM_DATA reads or writes engine local memory at LM_ADDR, or is ignored while the engine is online. -/
  | lmData (e : Fin 24) (write : Option (Word32 × Option Word32)) (path : Path)
  /-- CS_DATA (R234). A write of CS_DATA_HI stores a microword into the control store. -/
  | csData (e : Fin 24) (hi : Word32) (lo : Option Word32)
  /-- COPY_RETRY (R235). 64 ns after a QUEUE_FULL refusal the copy engine retries its HBM request. -/
  | copyRetry (c : Fin 8)
  /-- COPY_COMPLETE (R236). A copy's last write is acknowledged or an error ends it; it completes COMPLETE, CE_ERROR or ABORTED. -/
  | copyComplete (c : Fin 8) (res : HbmStatus)
  /-- COPY_LINK_TIMEOUT (R382). A copy to host memory has had no PCIe link for 1 ms and ends CE_ERROR. -/
  | copyLinkTimeout (c : Fin 8)
  /-- SUBMIT (R240). A write of SUBPp_ADDR_LO commits a submission and starts the descriptor read. -/
  | submit (p : Fin 8) (lo : Word32) (hi : Option Word32)
  /-- DESCRIPTOR_READ_DONE (R239). The submitted descriptor has been read; the task is accepted, refused TABLE_FULL or ends BAD_DESC. -/
  | descriptorReadDone (p : Fin 8) (res : HbmStatus)
  /-- TASK_CANCEL (R250). A write of SCH.CANCEL.GO cancels the named task, or aborts it if running. -/
  | taskCancel
  /-- DELAY_RELEASE (R247). At a delay-list tick, tasks whose RELEASE_TIME has passed leave DELAYED. -/
  | delayRelease (td : Fin 4)
  /-- HELD_RELEASE (R243). The capture contexts of a HELD task's burst read DRAINED and the task enters READY. -/
  | heldRelease (t : Fin 16384)
  /-- TASK_COMPLETE (R244). An executor reaches a task's completion point; successor counters are decremented. -/
  | taskComplete (x : ExecId)
  /-- COMPLETION_RECORD_WRITE (R255). A COMPLETING task's record is written to its ring once there is room, RING_TAIL updates and the entry frees. -/
  | completionRecordWrite (t : Fin 16384)
  /-- STREAM_ARM (R258). A write of MSF or SSG CTRL.ARM checks the converter, link and configuration and sends rate and enable to the PE. -/
  | streamArm (m : StreamId)
  /-- STREAM_ARM_ACK (R258). The PE acknowledges a stream arm and, with prefill complete, the stream enters ARMED. -/
  | streamArmAck (m : StreamId)
  /-- STREAM_START (R259). A host CTRL.START, time compare or mark starts an ARMED stream at t_s. -/
  | streamStart (m : StreamId)
  /-- STREAM_STOP (R261). A write of CTRL.STOP ends the stream ABORTED, loses to completion, or is ignored. -/
  | streamStop (m : StreamId)
  /-- STREAM_CLEAR (R257). A write of CTRL.CLEAR returns a stream in a final state to IDLE. -/
  | streamClear (m : StreamId)
  /-- RESYNC (R264). A write of CTRL.RESYNC causes a synchronising reset at the next input sample. -/
  | resync (i : Fin 64)
  /-- CONVERTER_SWITCH (R266). A write of CTRL.SWITCH asks to rebind the measure stream to NEXT_CONV. -/
  | converterSwitch (i : Fin 64)
  /-- SWITCH_EFFECT (R266). The first output boundary at least 2 µs after a switch arrives; inputs come from the new converter with a reset. -/
  | switchEffect (i : Fin 64)
  /-- STREAM_FRAME (R278). A measure stream block arrives from the PE and its samples enter the filter chain. -/
  | streamFrame (pl : Fin 32) (words : List Word32) (crcOk : Bool)
  /-- MSF_OUTPUT_WRITE (R269). Buffered outputs are written to the ring in HBM once OUT_RD leaves room. -/
  | msfOutputWrite (i : Fin 64) (res : HbmStatus)
  /-- SW_RETRY (R269). 64 ns after a QUEUE_FULL refusal the MSF retries its SW write. -/
  | swRetry (i : Fin 64)
  /-- SOURCE_SAMPLE_OUTPUT (R273). At each converter grid instant the resampler computes a source sample and sends it to the PE. -/
  | sourceSampleOutput (i : Fin 64)
  /-- SAMPLE_FETCH_COMPLETE (R271). A sample or descriptor read on the MS/SS port completes into the source buffer. -/
  | sampleFetchComplete (i : Fin 64) (res : HbmStatus)
  /-- SWAP_REQ (R275). A write of SWAP_REQ.GO requests a coefficient bank cross-fade. -/
  | swapReq (i : Fin 64) (target : Bool) (fadeM1 : BitVec 16)
  /-- COEF_DATA (R276). A write of COEF_DATA stores a tap in an inactive bank, or is ignored with COEF_BUSY. -/
  | coefData (i : Fin 64) (v : Word32)
  /-- TIM_ARM (R293). A write of TIM CTRL.ARM arms the unit or is refused. -/
  | timArm (u : Fin 32)
  /-- TIM_START (R294). A host START, time compare or mark starts an ARMED TIM unit. -/
  | timStart (u : Fin 32)
  /-- TIM_ABORT (R295). A write of TIM CTRL.ABORT ends the measurement with partial results, or loses to completion. -/
  | timAbort (u : Fin 32)
  /-- TIM_CLEAR (R293). A write of TIM CTRL.CLEAR returns a finished unit to IDLE. -/
  | timClear (u : Fin 32)
  /-- TIM_EDGE (R286). A tap edge arrives and is accepted as a start, stop or counted edge. -/
  | timEdge (u : Fin 32) (kind : Fin 16) (index : Fin 512) (rising : Bool) (tick : Nat) (vern : Fin 625)
  /-- TIM_HOLDOFF_END (R285). A source's hold-off after an accepted edge ends. -/
  | timHoldoffEnd (u : Fin 32) (src : Fin 2)
  /-- TIM_READY (R286). 256 ns after a shot's stop edge the unit is ready for the next shot. -/
  | timReady (u : Fin 32)
  /-- SHOT_TIMEOUT (R287). SHOT_TIMEOUT passes without the last stop edge; the shot is discarded and MISSED increments. -/
  | shotTimeout (u : Fin 32)
  /-- GATE_CLOSE (R291). A frequency gate closes after GATE µs. -/
  | gateClose (u : Fin 32)
  /-- TIM_COMPLETE (R290). The completion point is reached; results are written and the unit enters DONE. -/
  | timComplete (u : Fin 32)
  /-- LOAD (R306). A write of TIME CMD.LOAD arms a GRID load at the next SYNC pulse. -/
  | timeLoad (td : Fin 4)
  /-- PAIR_SWITCH (R310). A write of TIME CMD.SWITCH exchanges the roles of a pair's members. -/
  | pairSwitch (td : Fin 4)
  /-- REPHASE (R300). A write of CMD.REPHASE re-fixes the chip phase at the next SYNC pulse. -/
  | rephase
  /-- SYNC_PULSE (R299). A SYNC pulse arrives; it fixes the phase, performs a pending load, or is checked for slip. -/
  | syncPulse (off : Fin 4096)
  /-- PTM_EXCHANGE (R304). A PTM request and response exchange completes and yields an offset update. -/
  | ptmExchange (td : Fin 4) (theta : Option Int)
  /-- UPDATE_MISSED (R307). A steered domain's source misses an interval; after three the domain enters HOLDOVER. -/
  | updateMissed (td : Fin 4)
  /-- TT_SYNC (R305). A member receives TT_SYNC with t1 and answers with TT_DREQ. -/
  | ttSync (port : Fin 6) (td : Fin 4) (t1 : Word64) (fine : Fin 4096)
  /-- TT_DREQ (R376). The master receives TT_DREQ and answers with TT_DRESP carrying t4. -/
  | ttDreq (port : Fin 6) (td : Fin 4) (fine : Fin 4096)
  /-- TT_DRESP (R305). The member receives TT_DRESP and computes offset and delay. -/
  | ttDresp (port : Fin 6) (td : Fin 4) (t4 : Word64)
  /-- CAL_RUN (R319). A write of CAL CMD.RUN requests calibration of a target, queued if the target is busy. -/
  | calRun
  /-- CAL_ABORT (R337). A write of CAL CMD.ABORT discards the running measurement. -/
  | calAbort
  /-- EXT_DATA (R317). A write of EXT_DATA stages a new external path correction. -/
  | extData (v : Word32)
  /-- CAL_MEASUREMENT_START (R319). CAL takes a scheduled free target and starts measuring it. -/
  | calMeasurementStart (t : CalTarget)
  /-- CAL_MEASUREMENT_DONE (R320). A calibration measurement finishes and its correction is staged or rejected. -/
  | calMeasurementDone (m : CalMeas) (temp : Int) (resid : Nat)
  /-- BURN (R335). A write of FUSE.CTRL.BURN starts a record burn at the first free block, or is refused. -/
  | burn (path : Path)
  /-- FUSE_WORD_PROGRAMMED (R332). A fuse word finishes programming and is read back; the burn goes on, commits or fails VERIFY_FAIL. -/
  | fuseWordProgrammed (ok : Bool)
  /-- BUF_DATA (R335). A write of BUF_DATA stores a payload entry and increments BUF_ADDR. -/
  | bufData (v : Word32)
  /-- HBM_REQUEST (R342). A requester submits a request to an HMC port; it is accepted, held back or refused QUEUE_FULL. -/
  | hbmRequest (port : HbmPort) (addr : Nat) (owner : BitVec 16)
  /-- OR64 (R348). A BM request atomically ORs a mask into a 64-bit word and returns the old word. -/
  | or64 (site : Fin 128) (res : HbmStatus)
  /-- ADDSAT15 (R348). A BM request atomically adds to a line counter, saturates and sets MUST. -/
  | addsat15 (site : Fin 128) (res : HbmStatus)
  /-- REQUEST_ISSUE (R345). A pseudo-channel issues its highest-ranked issuable request to the stack. -/
  | requestIssue (pc : Fin 64)
  /-- HBM_REQUEST_COMPLETE (R343). An HBM request completes with OK, ECC, RESET or UNMAPPED to its port. -/
  | hbmRequestComplete (id : Nat) (res : HbmStatus) (ce : Bool)
  /-- REFRESH (R349). A per-bank refresh interval elapses and the refresh issues. -/
  | refresh (pc : Fin 64)
  /-- STACK_TEMP_READ (R349). Every 1 ms the stack temperature is read and the refresh factor set. -/
  | stackTempRead (st : Fin 2) (temp : Int)
  /-- SELF_REFRESH_ENTRY (R350). A stack idle for SR_IDLE µs enters self-refresh. -/
  | selfRefreshEntry (st : Fin 2)
  /-- SCRUB (R352). The MT port reads a block and writes back a corrected one. -/
  | scrub (addr : Nat) (ce : Bool) (ue : Bool)
  /-- FREQ_REQ (R355). A write of FREQ_REQ.GO asks for a stack rate change, refused or started. -/
  | freqReq (st : Fin 2) (rate : Fin 4)
  /-- HBM_TRAINING_STEP_END (R356). An HBM training step ends; training continues, or restarts for a deferred rate request. -/
  | hbmTrainingStepEnd (st : Fin 2) (rep : Option TrainRep)
  /-- PC_FAIL (R358). A pseudo-channel's PHY loses lock or exceeds UE_LIMIT and enters FAILED. -/
  | pcFail (pc : Fin 64)
  /-- FLIT_RECEIVE (R369). A Zheind flit arrives; CRC, sequence, ACK, NAK, credits and XT levels are processed. -/
  | flitReceive (port : Fin 6) (bytes : List Byte)
  /-- REPLAY_TIMEOUT (R369). The oldest unacknowledged flit sees no ACK progress for 4 µs and is replayed. -/
  | replayTimeout (port : Fin 6)
  /-- LANE_FAILURE (R363). A Zheind lane loses CDR lock or has a low FOM for two windows and is marked FAILED. -/
  | laneFailure (port : Fin 6) (lane : Fin 9)
  /-- SPARE_REQ (R371). A SPARE_REQ control flit arrives; the sender moves to the new lane map and sends SPARE_MARK. -/
  | spareReq (port : Fin 6) (mask : BitVec 9)
  /-- SPARE_MARK_END (R371). The 2 µs of SPARE_MARK end; the receiver aligns and sends a NAK. -/
  | spareMarkEnd (port : Fin 6)
  /-- LINK_LOST (R372). A Zheind port is lost; XT goes inactive, barriers fault, time domains hold over and requests end LINK_RESET. -/
  | linkLost (port : Fin 6)
  /-- LINK_RESTART (R372). 4 µs after a loss or soft reset, the forwarded clock restarts and training begins. -/
  | linkRestart (l : LinkId)
  /-- HELLO (R365). A HELLO block is received during training or probing and the version is negotiated. -/
  | hello (port : Fin 6) (verMax : Fin 256) (chipId : Word32)
  /-- TRAINING_STEP_TIMEOUT (R364). A link training step or attempt exceeds its limit and the attempt fails. -/
  | trainingStepTimeout (l : LinkId)
  /-- ABSENT_PROBE (R366). Every 100 ms an ABSENT port sends HELLO for 200 µs. -/
  | absentProbe (l : LinkId)
  /-- RETRAIN (R366). A write of CTRL.RETRAIN makes a Zheind or PE link port retrain. -/
  | retrain (l : LinkId)
  /-- RATE_REQ (R368). A write of ZP RATE_REQ.GO asks for a lane rate change. -/
  | rateReq (port : Fin 6) (rate : Bool)
  /-- MBOX_MESSAGE (R415). A Zheind MBOX message carries a mailbox or update request from a neighbour. -/
  | mboxMessage (port : Fin 6) (words : List Word32)
  /-- HEARTBEAT (R379). Every 1 µs the device sends HB on an UP PE link and counts a miss if no acknowledgement came. -/
  | heartbeat (pl : Fin 32)
  /-- HB_ACK (R379). An HB_ACK frame echoing HB_SEQ arrives and clears the miss count. -/
  | hbAck (pl : Fin 32) (seq : BitVec 16) (status : BitVec 8) (crcOk : Bool)
  /-- HEARTBEAT_PAUSE_END (R379). 16 µs without heartbeat after a loss end and the PE link retrains. -/
  | heartbeatPauseEnd (pl : Fin 32)
  /-- CTRL_RESP (R378). A CTRL_RESP frame answers a CTRL frame of the same SEQ. -/
  | ctrlResp (pl : Fin 32) (seq : Fin 4096) (crcOk : Bool)
  /-- CTRL_RESEND (R378). A CTRL frame without answer in 4 µs is resent; after three resends the link is LOST. -/
  | ctrlResend (pl : Fin 32)
  /-- DESC (R380). A DESC frame reports the PE's protocol, firmware and converters; the link goes UP or stays in VERSION. -/
  | desc (pl : Fin 32) (d : PeDesc) (crcOk : Bool)
  /-- UPDATE_FRAME (R406). UPDATE frames deliver PE firmware on a link in VERSION. -/
  | updateFrame (pl : Fin 32)
  /-- BAR4_ACCESS (R381). A host BAR4 access reaches HBM through the HA port. -/
  | bar4Access (off : BitVec 32) (write : Option (List Byte)) (len : Nat) (res : HbmStatus)
  /-- BAR4_RETRY (R344). 64 ns after a refusal the endpoint retries a BAR4 access. -/
  | bar4Retry
  /-- PCIE_LINK_DOWN (R382). The PCIe link is lost or hot reset; host-bound traffic is held. -/
  | pcieLinkDown
  /-- PCIE_LINK_UP (R382). The PCIe link comes up again and held records and messages are sent. -/
  | pcieLinkUp (width : Fin 17) (speed : Fin 6)
  /-- PCIE_RESET (R407). PERST_N resets only the endpoint and its configuration space. -/
  | pcieReset
  /-- REGISTER_WRITE (R389). A write to a register with no row of its own takes effect, or is ignored with ASSIGN_BUSY. -/
  | registerWrite (bar2 : Bool) (addr : BitVec 26) (lo : Word32) (hi : Option Word32) (path : Path)
  /-- LOW_WORD_READ (R389). A read of a 64-bit pair's low word latches the high word for that path. -/
  | lowWordRead (bar2 : Bool) (addr : BitVec 26) (path : Path)
  /-- PAGE_SOFT_RESET (R386). A write of PAGE_CTRL.SOFT_RESET runs the unit's reset, or is ignored while the unit is in use. -/
  | pageSoftReset (page : BitVec 16)
  /-- FREEZE (R387). A write of PAGE_CTRL.FREEZE holds or releases the page's read-only values for reading. -/
  | freeze (page : BitVec 16) (on : Bool)
  /-- ERROR_CLEAR (R385). A write of 1 to PAGE_STAT.ERROR clears ERROR, ERR_CODE and ERR_INFO. -/
  | errorClear (page : BitVec 16)
  /-- EVT_RAW_CLEAR (R391). A W1C write of EVT_RAW clears event bits and counts as a rise if events remain pending. -/
  | evtRawClear (page : BitVec 16) (bits : Word32)
  /-- EVT_MASK_WRITE (R391). A write of EVT_MASK changes which events are pending and may count as a rise. -/
  | evtMaskWrite (page : BitVec 16) (v : Word32)
  /-- POWER_ON_RESET (R403). VDD_AUX reaches power good and the whole chip resets and boots. -/
  | powerOnReset
  /-- CHIP_RESET (R394). A write of RST_CTRL with CHIP_RESET and the right key starts a chip reset. -/
  | chipReset (key : BitVec 8)
  /-- RESET_N (R403). RESET_N held low for at least 1 µs causes a chip reset. -/
  | resetN
  /-- RAIL_FAULT (R400). A rail other than VDD_AUX leaves power good and a chip reset begins. -/
  | railFault (rail : Fin 7)
  /-- MGT_WATCHDOG (R402). The 1 s management watchdog expires and a chip reset begins. -/
  | mgtWatchdog
  /-- REFCLK_LOSS (R427). REFCLK stops or strays; REFCLK_LOST is set and the PLL holds and then stops. -/
  | refclkLoss
  /-- REFCLK_DETECT (R405). REFCLK becomes present and boot proceeds from the CLOCK stage. -/
  | refclkDetect
  /-- BOOT_DONE (R405). The boot stages are complete and BOOT_DONE is set. -/
  | bootDone
  /-- TEMP_WARN (R429). The hottest die sensor reaches TEMP_LIMIT and TEMP_WARN rises. -/
  | tempWarn (temp : BitVec 16)
  /-- DOORBELL (R395). A write of MBOX CTRL.DOORBELL passes the request to firmware, which writes a response. -/
  | doorbell
  /-- MBOX_ACK (R395). A write of MBOX CTRL.ACK clears RSP_VALID. -/
  | mboxAck
  /-- VERSIONS (R395). Mailbox command 0x01 returns one version word per bundle component. -/
  | versions
  /-- TEMPS (R395). Mailbox command 0x02 returns the die and stack temperatures. -/
  | temps
  /-- UPD_OPEN (R415). Opens an update session on the target slot, takes the lock and erases the slot trailer. -/
  | updOpen
  /-- UPD_DATA (R411). Appends bundle data, which is decrypted, re-encrypted and programmed into the slot. -/
  | updData
  /-- UPD_COMMIT (R415). Writes the slot trailer and then the commit word, or is DENIED if the payload is incomplete. -/
  | updCommit
  /-- UPD_ABORT (R415). Ends the update session with reason ABORTED. -/
  | updAbort
  /-- UPD_PIN (R413). Writes the pin record naming slot A, slot B or none. -/
  | updPin
  /-- UPD_STATUS (R415). Returns SESS_STAT and SESS_BYTES. -/
  | updStatus
  /-- EPOCH_BUMP (R416). Programs the next epoch fuse, or is DENIED. -/
  | epochBump
  /-- REVOKE (R416). Programs the revoke fuse of a signer slot, or is DENIED. -/
  | revoke
  /-- FUSE_BUF (R415). Writes entries into the FUSE burn buffer from the mailbox. -/
  | fuseBuf
  /-- FUSE_BURN (R335). Starts a fuse record burn from the mailbox. -/
  | fuseBurn
  /-- SESSION_TIMEOUT (R415). No update data arrive for SESS_TIMEOUT seconds and the session fails TIMEOUT. -/
  | sessionTimeout
  /-- LINK_TRAINING_STEP_END (R364). A Zheind training step (LOCK, EQ, MAP, DESKEW) ends normally and the next begins, until step 7 brings the port UP or UP_HALF. -/
  | linkTrainingStepEnd (l : LinkId) (fom : List Nat) (partner : BitVec 9)
  /-- RECEIVER_LOSS_OF_LOCK (R379). A PE link receiver stays out of lock for 1 µs and the link becomes LOST. -/
  | receiverLossOfLock (pl : Fin 32)
  /-- VQPS_LOSS (R332). VQPS leaves power good, STAT.VQPS_OK clears and a running burn stops at the word in progress. -/
  | vqpsLoss
  /-- RAIL_POWER_GOOD (R398). The last rail other than VQPS reaches power good and the device leaves chip reset and starts boot. -/
  | railPowerGood (rail : Fin 7)
  /-- RESET_N_RELEASE (R403). RESET_N is deasserted and boot runs from its first step. -/
  | resetNRelease
  /-- VDD_AUX_LOSS (R400). VDD_AUX leaves power good and the whole chip becomes unpowered, with ports high-impedance. -/
  | vddAuxLoss
  /-- PLL_STOP (R427). 10 µs after the REFCLK loss the PLL ends its holdover and stops. -/
  | pllStop
  /-- SELF_REFRESH_EXIT (R350). A stack completes its exit from self-refresh, up to 2 µs after a request arrived, and the held requests may issue. -/
  | selfRefreshExit (st : Fin 2)
  /-- FLASH_PROGRAM_COMPLETE (R415). A flash erase or program of update data completes, advancing SESS_BYTES or failing the session with FLASH. -/
  | flashProgramComplete (ok : Bool)
  /-- TT_SYNC_SEND (R305). On a served port the master's INTERVAL timer expires and it sends TT_SYNC carrying t1. -/
  | ttSyncSend (port : Fin 6) (td : Fin 4)
  /-- FW_READY (R395). Management firmware starts, sets MBOX.STAT.FW_READY, and a request waiting since an earlier DOORBELL goes to firmware. -/
  | fwReady
  deriving DecidableEq, Repr

end Sys2Proof
end

