-- ==== Sys2Proof/WellFormed.lean ====
section
/-! DEFINITION. Well-formed commands: what the operand types alone do not rule out and the spec excludes, such as a
misaligned register access (R388), a flit of another size than 64 bytes (R369) or a calibration target that does not exist
(R318). A meaning is total all the same: what it does with an ill-formed command stands at the meaning. -/
namespace Sys2Proof

/-- A register access of 32 bits on 4 bytes, of 64 bits on 8 bytes (R388). -/
def accessOk (off : Nat) (hi : Option Word32) : Bool := if hi.isSome then off % 8 == 0 else off % 4 == 0

/-- A fetch of vectors brings at least one. -/
def FetchWhat.ok (what : FetchWhat) (n : Nat) : Bool :=
  match what with
  | .vectors | .target | .head _ => decide (1 ≤ n)
  | .segEntry | .image => true

/-- Targets of each calibration kind (R318). -/
def CalTarget.ok (t : CalTarget) : Bool :=
  decide (t.index < [0, 512, 512, 512, 512, 64, 64, 32, 32, 1, 16].getD t.kind 0)

/-- A training step of a Zheind port reports a figure of merit for each of nine lanes (R363). -/
def LinkId.fomOk (l : LinkId) (fom : List Nat) : Bool :=
  match l with
  | .zp _ => decide (fom.length = 9)
  | .pl _ => true

/-- A command with operands the spec allows. -/
def Instr.wellFormed : Instr → Bool
  | .arm _ => true
  | .castHeaderReadDone _ _ => true
  | .prefillComplete _ => true
  | .start _ => true
  | .abort _ => true
  | .clear _ => true
  | .pause _ => true
  | .resume _ => true
  | .siteRetire _ _ _ => true
  | .jumpReq _ _ => true
  | .strmWr _ _ _ => true
  | .markIdRead _ _ => true
  | .fetchComplete _ what _ n => what.ok n
  | .autoResume _ => true
  | .fillVector _ => true
  | .emit _ => true
  | .rpt _ => true
  | .loop _ => true
  | .endl _ => true
  | .call _ => true
  | .ret _ => true
  | .jmp _ => true
  | .jif _ => true
  | .matchRun _ => true
  | .waitRun _ => true
  | .waitEnd _ => true
  | .markRun _ => true
  | .tset _ => true
  | .apg _ => true
  | .smask _ => true
  | .align _ => true
  | .stop _ => true
  | .alignRelease _ => true
  | .alignTimeout _ => true
  | .arrive _ _ => true
  | .release _ _ _ => true
  | .cancel _ _ => true
  | .timeCompareFire _ => true
  | .trigInEdge _ _ => true
  | .capCommit _ obs => decide (obs.map (·.chan)).Nodup
  | .captureWriteComplete _ _ => true
  | .tssTableWrite off _ hi => accessOk off.toNat hi
  | .apgTableWrite off _ hi => accessOk off.toNat hi
  | .push => true
  | .closeBatch => true
  | .discard => true
  | .applyIdRead _ => true
  | .bankWake _ => true
  | .bankSleep _ => true
  | .bankOff _ => true
  | .bankStart _ => true
  | .bankWakeDone _ => true
  | .bankPowerUpDone _ => true
  | .bankEntryEnd _ => true
  | .calRelease t => t.ok
  | .triggerFire _ => true
  | .pulseEnd _ => true
  | .xtAssertEnd _ => true
  | .holdoffEnd _ => true
  | .unitArm _ => true
  | .unitEnable _ => true
  | .force _ => true
  | .flagSet _ => true
  | .flagClear _ => true
  | .dispatch => true
  | .workBlockLoaded _ _ => true
  | .add _ => true
  | .sub _ => true
  | .andOp _ => true
  | .orOp _ => true
  | .xorOp _ => true
  | .shl _ => true
  | .shr _ => true
  | .sar _ => true
  | .mul _ => true
  | .minOp _ => true
  | .maxOp _ => true
  | .cmp _ => true
  | .popc _ => true
  | .ctz _ => true
  | .bitx _ => true
  | .ldi _ => true
  | .ldih _ => true
  | .br _ => true
  | .weCall _ => true
  | .weRet _ => true
  | .djnz _ => true
  | .ld _ => true
  | .st _ => true
  | .ldh _ => true
  | .sth _ => true
  | .hrd _ => true
  | .hwr _ => true
  | .hwait _ => true
  | .doneTask _ => true
  | .post _ => true
  | .weTime _ => true
  | .bmscan _ => true
  | .lcmust _ => true
  | .cdec _ => true
  | .hbmTransferComplete _ _ _ => true
  | .watchdogExpiry _ => true
  | .taskTimeLimit _ => true
  | .controlStoreReloaded _ => true
  | .offline _ _ => true
  | .lmData _ _ _ => true
  | .csData _ _ _ => true
  | .copyRetry _ => true
  | .copyComplete _ _ => true
  | .copyLinkTimeout _ => true
  | .submit _ _ _ => true
  | .descriptorReadDone _ _ => true
  | .taskCancel => true
  | .delayRelease _ => true
  | .heldRelease _ => true
  | .taskComplete _ => true
  | .completionRecordWrite _ => true
  | .streamArm _ => true
  | .streamArmAck _ => true
  | .streamStart _ => true
  | .streamStop _ => true
  | .streamClear _ => true
  | .resync _ => true
  | .converterSwitch _ => true
  | .switchEffect _ => true
  | .streamFrame _ words _ => decide (words ≠ [])
  | .msfOutputWrite _ _ => true
  | .swRetry _ => true
  | .sourceSampleOutput _ => true
  | .sampleFetchComplete _ _ => true
  | .swapReq _ _ _ => true
  | .coefData _ _ => true
  | .timArm _ => true
  | .timStart _ => true
  | .timAbort _ => true
  | .timClear _ => true
  | .timEdge _ kind _ _ _ _ => decide (1 ≤ kind.val ∧ kind.val ≤ 7)
  | .timHoldoffEnd _ _ => true
  | .timReady _ => true
  | .shotTimeout _ => true
  | .gateClose _ => true
  | .timComplete _ => true
  | .timeLoad _ => true
  | .pairSwitch _ => true
  | .rephase => true
  | .syncPulse _ => true
  | .ptmExchange _ _ => true
  | .updateMissed _ => true
  | .ttSync _ _ _ _ => true
  | .ttDreq _ _ _ => true
  | .ttDresp _ _ _ => true
  | .calRun => true
  | .calAbort => true
  | .extData _ => true
  | .calMeasurementStart t => t.ok
  | .calMeasurementDone _ _ _ => true
  | .burn _ => true
  | .fuseWordProgrammed _ => true
  | .bufData _ => true
  | .hbmRequest _ _ _ => true
  | .or64 _ _ => true
  | .addsat15 _ _ => true
  | .requestIssue _ => true
  | .hbmRequestComplete _ _ _ => true
  | .refresh _ => true
  | .stackTempRead _ _ => true
  | .selfRefreshEntry _ => true
  | .scrub addr _ _ => decide (addr % 64 = 0)
  | .freqReq _ _ => true
  | .hbmTrainingStepEnd _ _ => true
  | .pcFail _ => true
  | .flitReceive _ bytes => decide (bytes.length = 64)
  | .replayTimeout _ => true
  | .laneFailure _ _ => true
  | .spareReq _ _ => true
  | .spareMarkEnd _ => true
  | .linkLost _ => true
  | .linkRestart _ => true
  | .hello _ _ _ => true
  | .trainingStepTimeout _ => true
  | .absentProbe _ => true
  | .retrain _ => true
  | .rateReq _ _ => true
  | .mboxMessage _ words => decide (1 ≤ words.length ∧ words.length ≤ 16)
  | .heartbeat _ => true
  | .hbAck _ _ _ _ => true
  | .heartbeatPauseEnd _ => true
  | .ctrlResp _ _ _ => true
  | .ctrlResend _ => true
  | .desc _ d _ => decide (d.vlo.length = 4 ∧ d.vhi.length = 4)
  | .updateFrame _ => true
  | .bar4Access _ write len _ => decide (1 ≤ len) && write.all (fun l => decide (l.length = len))
  | .bar4Retry => true
  | .pcieLinkDown => true
  | .pcieLinkUp _ _ => true
  | .pcieReset => true
  | .registerWrite _ addr _ hi _ => accessOk addr.toNat hi
  | .lowWordRead _ addr _ => decide (addr.toNat % 4 = 0)
  | .pageSoftReset _ => true
  | .freeze _ _ => true
  | .errorClear _ => true
  | .evtRawClear _ _ => true
  | .evtMaskWrite _ _ => true
  | .powerOnReset => true
  | .chipReset _ => true
  | .resetN => true
  | .railFault rail => decide (rail.val < 5)
  | .mgtWatchdog => true
  | .refclkLoss => true
  | .refclkDetect => true
  | .bootDone => true
  | .tempWarn _ => true
  | .doorbell => true
  | .mboxAck => true
  | .versions => true
  | .temps => true
  | .updOpen => true
  | .updData => true
  | .updCommit => true
  | .updAbort => true
  | .updPin => true
  | .updStatus => true
  | .epochBump => true
  | .revoke => true
  | .fuseBuf => true
  | .fuseBurn => true
  | .sessionTimeout => true
  | .linkTrainingStepEnd l fom _ => l.fomOk fom
  | .receiverLossOfLock _ => true
  | .vqpsLoss => true
  | .railPowerGood rail => decide (rail.val ≠ 5)
  | .resetNRelease => true
  | .vddAuxLoss => true
  | .pllStop => true
  | .selfRefreshExit _ => true
  | .flashProgramComplete _ => true
  | .ttSyncSend _ _ => true
  | .fwReady => true

end Sys2Proof
end

