-- ==== Sys2Proof/Decode.lean ====
section
/-! DEFINITION. The command a word spells: no row of the opcode table gives bits, so no word spells one. -/
namespace Sys2Proof

/-- The command of a word by the table's bits: none, since the table gives its rows none. -/
def decodeTableWord (_nbits _w : Nat) : Option Instr := none

end Sys2Proof
end

