-- ==== Sys2Proof/Config.lean ====
section
/-! DEFINITION. What the spec leaves open or takes from another standard, as constants with no body: no proof
can see their value, so every statement holds for all of them. Each has a row in the assumption log. -/
namespace Sys2Proof.Config

/-- A fresh free value of `w` bits: the step that needs one reads and advances `State.freeCtr`. -/
opaque freeBits (w : Nat) (ctr : Nat) : BitVec w

/-- The measure filter chain (R262): the spec gives its order, decimation and response but not its taps. The
arguments are the preset code, the constant input that primed the chain (if any) and the chain inputs since the last
synchronising reset, oldest first; the answer is the chain output scaled by 64, before saturation. -/
opaque chainOutput (preset : Nat) (primed : Option Rat) (inputs : List Rat) : Int

/-- Whether the resampler of a source stream goes on while CAL holds the converter (R279 gives the samples sent only). -/
opaque sourceRunsWhileHeld : Bool

/-- Bytes one bitmap update takes in the shared capture write buffer (R207 gives the buffer's size only). -/
opaque bitmapItemBytes : Nat

/-- SHA-384, ECDSA P-384 verification, AES-256-GCM decryption and encryption with tag (R410 to R412): standards
the spec names and does not restate. -/
opaque sha384 (data : List Byte) : BitVec 384
opaque ecdsaP384Verify (pubkey signature data : List Byte) : Bool
opaque gcmCrypt (key : BitVec 256) (iv : BitVec 96) (data : List Byte) : List Byte
opaque gcmTag (key : BitVec 256) (iv : BitVec 96) (aad data : List Byte) : BitVec 128

/-- The mean odd-UI minus mean even-UI width to correction step of R323 and the fit residuals of R329 are reported
by the measurement itself; the version words of the bundle components (mailbox VERSIONS) come from the slot. -/
opaque uidWord (i : Nat) : Word32

/-- The microword the vendor bundle places at a control store address (R228 shows BITX only). -/
opaque vendorMicroword (addr : Nat) : BitVec 40

/-- The service of the micro-operation SYS that a literal names, numbered in the order R228's table lists them: set index, post,
timestamp, end task, Q update; none: no service. The spec gives no codes. -/
opaque sysFunction (lit : Nat) : Option (Fin 5)

/-- A byte of HBM that nothing has written since its pseudo-channel lost its contents for the `g + 1`-th time. -/
opaque lostByte (g key : Nat) : Byte

/-- CHI (bit 0) and CLO (bit 1) that a channel's compare receiver samples at a PFCLK edge: what the world puts on the balls. -/
opaque comparePins (edge chan : Nat) : BitVec 2

/-- VDD_CORE current that RCP.CORE_CUR shows at a PFCLK edge (a measurement). -/
opaque coreCurrent (edge : Nat) : BitVec 16

/-- SYNC_CORR from SYNC_PHASE, SYNC_DELAY and the trim of the SYNC receiver (R301 names the three, not the formula). -/
opaque syncCorr (phase : Nat) (delay trim : Int) : Int

end Sys2Proof.Config
end

