-- ==== Sys2Proof/Machine/Sparse.lean ====
section
/-! DEFINITION. Sorted sparse maps: the representation of register files, of the numbered units of one kind and of
byte memories. `sget` reads an unlisted key as the default, `sput` stores, `mput` stores and keeps out entries equal to
the default (the canonical form of a memory). -/
namespace Sys2Proof.Machine

/-- A map from numbers to values, keys strictly rising. -/
abbrev Sparse (α : Type) := List (Nat × α)

/-- The value at `k`; `d` where no entry lists it. -/
def sget {α : Type} (d : α) : Sparse α → Nat → α
  | [], _ => d
  | (k', v) :: t, k => if k' = k then v else sget d t k

/-- Store `v` at `k`. -/
def sput {α : Type} : Sparse α → Nat → α → Sparse α
  | [], k, v => [(k, v)]
  | (k', v') :: t, k, v =>
    if k = k' then (k, v) :: t
    else if k < k' then (k, v) :: (k', v') :: t
    else (k', v') :: sput t k v

/-- Drop the entry at `k`. -/
def sdel {α : Type} (m : Sparse α) (k : Nat) : Sparse α := m.filter (fun e => e.1 ≠ k)

/-- Keys strictly rising. -/
def keysRise {α : Type} : Sparse α → Bool
  | [] => true
  | [_] => true
  | (k, _) :: (k', v') :: t => decide (k < k') && keysRise ((k', v') :: t)

/-- A byte that nothing has written reads as zero (assumption 2). -/
def blankByte : Byte := 0

/-- One byte of a memory. -/
def mget (m : List Host.Cell) (a : Nat) : Byte := sget blankByte m a

/-- Write one byte, keeping the canonical form. -/
def mput (m : List Host.Cell) (a : Nat) (b : Byte) : List Host.Cell :=
  if b = blankByte then sdel m a else sput m a b

/-- The canonical form of a memory: keys strictly rising and no entry equal to what an unlisted address reads as. -/
def Memory.wf (m : List Host.Cell) : Bool := keysRise m && m.all (fun e => e.2 != blankByte)

/-- `n` bytes from `a`. -/
def mread (m : List Host.Cell) (a : Nat) : Nat → List Byte
  | 0 => []
  | n + 1 => mget m a :: mread m (a + 1) n

/-- Write bytes from `a` upward. -/
def mwrite (m : List Host.Cell) (a : Nat) : List Byte → List Host.Cell
  | [] => m
  | b :: t => mwrite (mput m a b) (a + 1) t

/-- Little-endian value of bytes, and the bytes of a value (R9: registers and memory are little-endian). -/
def leNat : List Byte → Nat
  | [] => 0
  | b :: t => b.toNat + 256 * leNat t

def leBytes : Nat → Nat → List Byte
  | 0, _ => []
  | n + 1, x => BitVec.ofNat 8 x :: leBytes n (x / 256)

/-- A little-endian number of `n` bytes at `a`. -/
def mreadLe (m : List Host.Cell) (a n : Nat) : Nat := leNat (mread m a n)

end Sys2Proof.Machine
end

