-- ==== Sys2Proof/Machine/BaseTypes.lean ====
section
/-! DEFINITION. State shared by all blocks: page headers and their event sources, messages the device has sent, and
the time base. Every field default is the reset value. -/
namespace Sys2Proof.Machine

/-- The common header of one page (R383 to R391). READY is `up` and not BUSY. -/
structure PageHdr where
  /-- Brought up by boot (R386). -/
  up : Bool := false
  busy : Bool := false
  freeze : Bool := false
  enable : Bool := true
  error : Bool := false
  errCode : BitVec 16 := 0
  errInfo : Word32 := 0
  /-- Cycle in which ERROR was last set (plus one), and the lowest-coded error of a cycle: cycle, code, detail. -/
  errEdge : Nat := 0
  errCyc : Option (Nat × BitVec 16 × Word32) := none
  evtRaw : Word32 := 0
  evtMask : Word32 := 0xFFFFFFFF
  /-- Events raised in cycle `evtEdge` (plus one), which win over a clear of that cycle (R391). -/
  evtEdge : Nat := 0
  evtNow : Word32 := 0
  /-- RO registers as held while FREEZE is 1, and the cycle (plus one) in which FREEZE was cleared (R387). -/
  frozen : Sparse Word32 := []
  thawEdge : Nat := 0
  /-- Cycle (plus one) of the last SOFT_RESET: other writes of that cycle act first (R386). -/
  resetEdge : Nat := 0
  deriving DecidableEq, Repr

/-- A message body carried by a Zheind port (R374 to R376). -/
inductive ZpMsg where
  | xt (levels : BitVec 8)
  | arrive (g : BitVec 8)
  | release (g : BitVec 8) (t : Word64)
  | cancel (g : BitVec 8)
  | ttSync (td : Nat) (t1 : Word64)
  | ttDreq (td : Nat)
  | ttDresp (td : Nat) (t4 : Word64)
  | mbox (words : List Word32)
  /-- A CTL flit asking the sender to spare failed lanes (R371). -/
  | spareReq (mask : BitVec 9)
  | hello (verMax : Nat) (chipId : Word32)
  /-- A flit with NAK = 1 and the ACK field (R369). -/
  | nak (ack : Nat)
  deriving DecidableEq, Repr

/-- What a CTRL frame asks of a PE (R378); the spec gives no layout of its words. -/
inductive PeOp where
  /-- Converter rate and enable (R258): source or measure converter, number, DIV. -/
  | conv (source : Bool) (conv div : Nat)
  /-- Converter switch (R266). -/
  | switch (conv : Nat)
  deriving DecidableEq, Repr

/-- What the device has put out for the world to see, oldest first. -/
inductive OutMsg where
  /-- An MSI-X message of a vector (R391). -/
  | msix (vector : Nat)
  /-- A write to host memory: completion record or copy (R254, R236). -/
  | host (addr : Nat) (data : List Byte)
  | zp (port : Nat) (m : ZpMsg)
  /-- A frame of a PE link: its words (R278, R378). -/
  | pe (pl : Nat) (words : List Word32)
  /-- A CTRL frame of a PE link, whose words the spec does not give: SEQ and content. -/
  | peCtrl (pl seq : Nat) (op : PeOp)
  /-- The completion of a BAR4 read; none: a Completer Abort (R381). -/
  | bar4 (data : Option (List Byte))
  /-- A TRIG_OUT line rises after this PFCLK edge (R111, R212). -/
  | trigOut (line : Nat) (edge : Nat)
  /-- A drive port changes: channel, EN or DAT, level, and instant in fine steps (R151, R186). -/
  | port (chan : Nat) (en lvl : Bool) (at_ : Nat)
  deriving DecidableEq, Repr

/-- TIME.STAT.STATE. -/
inductive TdState where | free | gridWait | acquire | locked | holdover
  deriving DecidableEq, Repr

def TdState.code : TdState → Nat
  | .free => 0 | .gridWait => 1 | .acquire => 2 | .locked => 3 | .holdover => 4

/-- One time domain member. Time counts units of 2.5 ns / 2^40 since the epoch, seconds included (R302). -/
structure TimeDom where
  t : Nat := 0
  rate : Int := 0
  integ : Int := 0
  state : TdState := .free
  loadPending : Bool := false
  /-- Cycle (plus one) in which the load was armed. -/
  loadEdge : Nat := 0
  /-- Edge at which a load takes effect (R306). -/
  loadAt : Option Nat := none
  /-- Once loaded, a GRID domain advances (R306). -/
  loaded : Bool := false
  offset : Int := 0
  delay : Int := 0
  missed : Nat := 0
  stepCount : Nat := 0
  /-- Consecutive updates below 1 ns, and consecutive missed intervals (R307). -/
  good : Nat := 0
  missRun : Nat := 0
  /-- A two-way exchange in progress on the member: t1, t2, t3 as short timestamps (R305). -/
  exch : Option (Word64 × Word64 × Word64) := none
  deriving DecidableEq, Repr

/-- A redundant pair (R309, R310): active member, OFS and D in units of 2.5 ns / 2^40. -/
structure TimePair where
  activeOdd : Bool := false
  ofs : Int := 0
  diff : Int := 0
  switchCount : Nat := 0
  switchStep : Int := 0
  /-- Cycle of the last switch (plus one, R311). -/
  switchEdge : Nat := 0
  /-- The active member left LOCKED in this cycle (R310). -/
  left : Bool := false
  deriving DecidableEq, Repr

/-- SYNC and the chip phase (R299 to R301). -/
structure SyncState where
  fixed : Bool := false
  rephase : Bool := false
  /-- Cycle (plus one) of the REPHASE, and instant of the last pulse in fine steps (R300, R306). -/
  rephaseEdge : Nat := 0
  pulseAt : Option Nat := none
  phase : Nat := 0
  /-- Model edge number of PFCLK edge 0. -/
  origin : Nat := 0
  ts : Word64 := 0
  slips : Nat := 0
  corr : Int := 0
  /-- Instant of the pulse that fixed the phase, in fine steps. -/
  lastAt : Option Nat := none
  deriving DecidableEq, Repr

end Sys2Proof.Machine
end

