-- ==== Sys2Proof/Machine/CalTypes.lean ====
section
/-! DEFINITION. State of the calibration unit and of the fuses. Every field default is the reset value. -/
namespace Sys2Proof.Machine

/-- Figures kept of one target (R329). -/
structure CalFig where
  count : Nat := 0
  time : Word64 := 0
  temp : Int := 0
  value : Nat := 0
  result : Int := 0
  pending : Bool := false
  insufficient : Bool := false
  /-- Edge of the last measurement since boot. -/
  last : Option Nat := none
  deriving DecidableEq, Repr

/-- Correction terms of one channel in force (R317, R321 to R323). -/
structure ChanTerms where
  onDat : Int := 0
  onEn : Int := 0
  onCmp : Int := 0
  extDat : Int := 0
  extEn : Int := 0
  extCmp : Int := 0
  sync : Int := 0
  align : Int := 0
  serial : Int := 0
  linDrive : List Nat := []
  linStrobe : List Nat := []
  deriving DecidableEq, Repr

/-- One staged term of a channel. -/
inductive Term where
  | deskew (dat en cmp : Int)
  | ext (x : Nat) (v : Int)
  | sync (v : Int)
  | align (v : Int)
  | serial (v : Int)
  | lin (drive strobe : List Nat)
  deriving DecidableEq, Repr

/-- Two staged terms are corrections of the same term (R327). -/
def Term.same : Term → Term → Bool
  | .deskew .., .deskew .. | .sync _, .sync _ | .align _, .align _ | .serial _, .serial _ | .lin .., .lin .. => true
  | .ext x _, .ext y _ => x == y
  | _, _ => false

/-- A staged correction of a channel: the term, its staging cycle and whether it was staged at an arm (R326). -/
structure StagedTerm where
  term : Term
  edge : Nat
  atArm : Bool := false
  deriving DecidableEq, Repr

/-- Alignment counts of a channel (R322): next offset index j, UI, and A_j and X_j. -/
structure AlignCnt where
  j : Nat := 0
  u : Nat := 0
  made : List Nat := []
  diff : List Nat := []
  deriving DecidableEq, Repr

/-- Staged corrections of a TIM unit: vernier table, tap corrections, SYNC term, staging cycle. -/
structure StagedTim where
  tab : Option (List Int) := none
  taps : Option (List Int) := none
  sync : Option Int := none
  edge : Nat := 0
  deriving DecidableEq, Repr

/-- The calibration unit. -/
structure Cal where
  /-- Measurement in progress, and a RUN that waits for its target (R319). -/
  running : Option (Nat × Nat) := none
  runReq : Option (Nat × Nat) := none
  /-- An arm or a bank command has asked for what the measurement uses (R18, R189). -/
  wanted : Bool := false
  cmdStat : Nat := 0
  /-- SYNC_CORR is to be computed anew (R325). -/
  syncDue : Bool := false
  bootDone : Bool := false
  figs : Sparse CalFig := []
  terms : Sparse ChanTerms := []
  /-- Staged terms by channel. -/
  staged : Sparse (List StagedTerm) := []
  /-- Staged gain and offset of measure streams (0 to 63) and source streams (64 to 127), with the staging cycle. -/
  stagedConv : Sparse (Nat × Int × Int) := []
  /-- Staged vernier tables and tap corrections of TIM units. -/
  stagedTim : Sparse StagedTim := []
  /-- Bank vernier tables (BANKREF). -/
  bankTab : Sparse (List Int) := []
  alignCnt : Sparse AlignCnt := []
  /-- EXT_X last written, by 3 * channel + X (R337). -/
  ext : Sparse (BitVec 16) := []
  deriving DecidableEq, Repr

/-- A burn in progress (R332): first block, fuse words still to program, the commit word last, and the edge at which the word in
progress began. -/
structure Burn where
  block : Nat
  words : List (Nat × Word32)
  edge : Nat
  deriving DecidableEq, Repr

/-- The fuses and the burn unit. -/
structure Fuse where
  /-- Programmed fuse words, 32 bits each, 0 to 2,047 (R330). -/
  words : Sparse Word32 := []
  burn : Option Burn := none
  cmdStat : Nat := 0
  scanned : Bool := false
  free : Nat := 0
  accepted : Nat := 0
  ignored : Nat := 0
  lastGen : Nat := 0
  burnBlock : Nat := 0
  /-- Items whose value in force comes from a record, and that value (R334). -/
  items : Sparse (BitVec 16) := []
  /-- Payload buffer (R335). -/
  buf : Sparse Word32 := []
  deriving DecidableEq, Repr

end Sys2Proof.Machine
end

