-- ==== Sys2Proof/Machine/HmcTypes.lean ====
section
/-! DEFINITION. State of the HBM controller, its ports, stacks and pseudo-channels. Field defaults are the reset values. -/
namespace Sys2Proof.Machine

/-- PC.STAT.STATE. -/
inductive PcState where | off | training | inService | selfRefresh | resetting | failed
  deriving DecidableEq, Repr

def PcState.code : PcState → Nat
  | .off => 0 | .training => 1 | .inService => 2 | .selfRefresh => 3 | .resetting => 4 | .failed => 5

/-- An accepted request (R343): port number, device address, where it maps, acceptance edge, whether it is issued to the
stack, a completion already fixed (RESET or UNMAPPED), and how often it was passed (R347). -/
structure HbmReq where
  id : Nat
  port : Nat
  addr : Nat
  loc : Option (Nat × Nat)
  /-- Bank and row (R340). -/
  bank : Nat := 0
  row : Nat := 0
  /-- Page of the requester (R359). -/
  owner : Nat
  accepted : Nat
  issued : Bool := false
  /-- A status fixed before completion, and its edge; a reply that is stale at its requester. -/
  forced : Option (HbmStatus × Nat) := none
  stale : Bool := false
  passed : Nat := 0
  deriving DecidableEq, Repr

/-- One pseudo-channel. -/
structure PcUnit where
  state : PcState := .off
  dataLost : Bool := false
  laneRepaired : Bool := false
  ceCount : Nat := 0
  ceAddr : Nat := 0
  ueCount : Nat := 0
  ueAddr : Nat := 0
  /-- Edges at which uncorrectable errors were counted within the last second (R358). -/
  ueEdges : List Nat := []
  temp : Int := 0
  refMult : Nat := 1
  fom : Nat := 0
  trnErr : Nat := 0
  /-- Edge at which the next refresh falls due, and the bank it refreshes (R349). -/
  refAt : Nat := 0
  refBank : Nat := 0
  /-- Bank served last (R347) and open rows. -/
  lastBank : Nat := 47
  openRow : Sparse Nat := []
  deriving DecidableEq, Repr

/-- Counters of a port (R346). -/
structure HPort where
  served : Nat := 0
  late : Nat := 0
  refused : Nat := 0
  maxLat : Nat := 0
  deriving DecidableEq, Repr

/-- One stack: self-refresh, frequency change, rate code, training, edge of its last request. -/
structure HbmStack where
  selfRefresh : Bool := false
  changing : Bool := false
  rate : Nat := 0
  training : Bool := false
  step : Nat := 0
  /-- A rate that waits for the end of the training step (R356), and the rate being trained. -/
  deferred : Option Nat := none
  target : Nat := 0
  /-- In a change: requests from this one on are held. -/
  holdFrom : Nat := 0
  /-- Edge (plus one) of the last step end. -/
  stepEdge : Nat := 0
  lastReq : Nat := 0
  deriving DecidableEq, Repr

/-- The HBM controller. -/
structure Hmc where
  pcs : Sparse PcUnit := []
  ports : Sparse HPort := []
  hstacks : Sparse HbmStack := []
  reqs : List HbmReq := []
  nextId : Nat := 0
  freqStat : Nat := 0
  hot : Bool := false
  degraded : Bool := false
  capacity : Nat := 0xC000
  pcOk : BitVec 64 := 0xFFFFFFFFFFFFFFFF
  deriving DecidableEq, Repr

end Sys2Proof.Machine
end

