-- ==== Sys2Proof/Machine/LinkTypes.lean ====
section
/-! DEFINITION. State of the serial links: Zheind ports (ZP), PE links (PL) and the PCI Express endpoint. Field defaults
are the reset values. -/
namespace Sys2Proof.Machine

/-- ZP.STAT.STATE. -/
inductive ZpState where | disabled | training | up | upHalf | absent | down | resetting
  deriving DecidableEq, Repr

def ZpState.code : ZpState → Nat
  | .disabled => 0 | .training => 1 | .up => 2 | .upHalf => 3 | .absent => 4 | .down => 5 | .resetting => 6

/-- A sequenced flit kept for replay (R369): its SEQ, message and replays so far. -/
structure TxFlit where
  seq : Nat
  msg : ZpMsg
  replays : Nat := 0
  deriving DecidableEq, Repr

/-- RATE_STAT outcomes. -/
inductive RateStat where | done | inProgress | deferred | v1
  deriving DecidableEq, Repr

def RateStat.code : RateStat → Nat
  | .done => 0 | .inProgress => 1 | .deferred => 2 | .v1 => 3

/-- One Zheind port. -/
structure Zp where
  state : ZpState := .disabled
  /-- Training step 1 to 7, failed attempts in a row, and whether one of them failed later than step 1. -/
  step : Nat := 0
  attempts : Nat := 0
  lateFail : Bool := false
  /-- PFCLK edges at which the attempt and the step began. -/
  attemptAt : Nat := 0
  stepAt : Nat := 0
  /-- HELLOs received in a row in step 1. -/
  hellos : Nat := 0
  /-- Partner's VER_MAX and its version 2 reply. -/
  partnerVer : Nat := 0
  version : Nat := 0
  /-- STAT.RATE: true for 25 Gb/s; a rate waiting for the next attempt or for the step's end. -/
  rate25 : Bool := false
  rateNext : Option Bool := none
  rateDefer : Option Bool := none
  rateStat : RateStat := .done
  /-- Receive lanes marked FAILED (8 is S); lanes the partner reported failed in our transmit direction. -/
  rxFailed : BitVec 9 := 0
  txFailed : BitVec 9 := 0
  rxSpare : Bool := false
  txSpare : Bool := false
  rxHalf : Bool := false
  txHalf : Bool := false
  fom : List Nat := [0, 0, 0, 0, 0, 0, 0, 0, 0]
  /-- A sparing of our transmit direction runs: SPARE_MARK ends at this edge; one of our receive direction runs. -/
  markEnd : Option Nat := none
  /-- From SPARE_REQ to the partner's NAK no new sequenced flit is sent. -/
  txSparing : Bool := false
  rxSparing : Bool := false
  /-- Cycle (plus one) of the last training step end; the port was up when this training began (R368). -/
  stepEdge : Nat := 0
  retrain : Bool := false
  xtRx : BitVec 8 := 0
  partnerId : Word32 := 0
  /-- CHIP_ID as the last training attempt took it. -/
  ownId : Word32 := 0
  replayCount : Nat := 0
  crcErr : Nat := 0
  spareCount : Nat := 0
  lostCount : Nat := 0
  stale : Nat := 0
  badMsg : Nat := 0
  rtt : Nat := 0
  /-- Transmit side: next SEQ, flits kept for replay, messages that wait for a credit or for the sparing, credits. -/
  txSeq : Nat := 0
  kept : List TxFlit := []
  waiting : List ZpMsg := []
  credMsg : Nat := 64
  credData : Nat := 64
  /-- Edge of the last ACK progress. -/
  ackAt : Nat := 0
  /-- Receive side: expected SEQ, and a refusal in progress. -/
  rxSeq : Nat := 0
  refusing : Bool := false
  /-- The forwarded clock is stopped until this edge after a loss or reset. -/
  restartAt : Nat := 0
  /-- Edge of the next probe while ABSENT. -/
  probeAt : Nat := 0
  deriving DecidableEq, Repr

/-- PL.STAT.STATE. -/
inductive PlState where | disabled | training | version | up | lost | absent
  deriving DecidableEq, Repr

def PlState.code : PlState → Nat
  | .disabled => 0 | .training => 1 | .version => 2 | .up => 3 | .lost => 4 | .absent => 5

/-- A CTRL frame that waits for its answer (R378). -/
structure CtrlFrame where
  seq : Nat
  op : PeOp
  resends : Nat := 0
  sentAt : Nat := 0
  deriving DecidableEq, Repr

/-- One PE link. -/
structure Pl where
  state : PlState := .disabled
  /-- Receivers locked in this attempt; failed attempts in a row and whether the PE answered in any. -/
  locked : Bool := false
  attempts : Nat := 0
  answered : Bool := false
  attemptAt : Nat := 0
  protoMajor : Nat := 0
  protoMinor : Nat := 0
  peStatus : Nat := 0
  peFw : Word32 := 0
  /-- HB_SEQ of the last heartbeat sent, whether it is acknowledged, misses in a row, and the edge of the last send. -/
  hbSeq : Nat := 0
  hbSent : Bool := false
  hbAcked : Bool := true
  hbMiss : Nat := 0
  /-- Cycle (plus one) in which the eighth miss was counted. -/
  hbEdge : Nat := 0
  hbAt : Nat := 0
  lostCount : Nat := 0
  crcErr : Nat := 0
  ctrlRetry : Nat := 0
  stale : Nat := 0
  vlo : List Nat := [0, 0, 0, 0]
  vhi : List Nat := [0, 0, 0, 0]
  /-- SEQ of the next frame sent, and unanswered CTRL frames, oldest first. -/
  txSeq : Nat := 0
  ctrl : List CtrlFrame := []
  /-- SEQs of frames that a loss of the link left unanswered: their answers are stale. -/
  lostCtrl : List Nat := []
  /-- End of the 16 µs without heartbeats after a loss. -/
  pauseEnd : Nat := 0
  probeAt : Nat := 0
  /-- Words of the PE component sent in UPDATE frames (R406). -/
  updSent : Nat := 0
  deriving DecidableEq, Repr

/-- A BAR4 access that the controller refused and that is retried (R381, R344). -/
structure Bar4Retry where
  off : Nat
  write : Option (List Byte)
  len : Nat
  /-- How the controller completes it once it is accepted. -/
  res : HbmStatus
  /-- Edge of the last refusal. -/
  at_ : Nat
  deriving DecidableEq, Repr

/-- The PCI Express endpoint. -/
structure PcieEp where
  up : Bool := false
  width : Nat := 0
  speed : Nat := 0
  bar4Err : Nat := 0
  downCount : Nat := 0
  /-- Edge of the last loss. -/
  downAt : Nat := 0
  /-- PTM has been enabled by the host; its last exchange was valid. -/
  ptmOn : Bool := false
  ptmValid : Bool := false
  bar4 : List Bar4Retry := []
  deriving DecidableEq, Repr

end Sys2Proof.Machine
end

