-- ==== Sys2Proof/Machine/PatternTypes.lean ====
section
/-! DEFINITION. State of the pattern, timing and capture domains: sequencers with their fetch units (SEQ, VFS),
pattern generators (APG), timing set store (TSS), channels and banks (PCA), capture contexts (CAP) and the trigger
matrix (TRG). Every field default is the reset value. -/
namespace Sys2Proof.Machine

/-- SEQ.STAT.STATE (R41). -/
inductive BurstState where | idle | armed | running | hold | done | aborted | faulted
  deriving DecidableEq, Repr

def BurstState.code : BurstState → Nat
  | .idle => 0 | .armed => 1 | .running => 2 | .hold => 3 | .done => 4 | .aborted => 5 | .faulted => 6

/-- SEQ.STAT.END_CAUSE (R42). -/
inductive EndCause where
  | none | stop | failStop | trigStop | allRetired | hostAbort | underrun | fetchFault | alignTimeout
  | alignCancelled | alignLinkLost | alignLate | peLinkLost | execFault | reset
  deriving DecidableEq, Repr

def EndCause.code : EndCause → Nat
  | .none => 0 | .stop => 1 | .failStop => 2 | .trigStop => 3 | .allRetired => 4 | .hostAbort => 5 | .underrun => 6
  | .fetchFault => 7 | .alignTimeout => 8 | .alignCancelled => 9 | .alignLinkLost => 10 | .alignLate => 11
  | .peLinkLost => 12 | .execFault => 13 | .reset => 14

/-- The final state a cause leads to (R41). -/
def EndCause.final : EndCause → BurstState
  | .none | .stop | .failStop | .trigStop | .allRetired => .done
  | .hostAbort | .underrun | .fetchFault | .reset => .aborted
  | .alignTimeout | .alignCancelled | .alignLinkLost | .alignLate | .peLinkLost | .execFault => .faulted

/-- Progress of an arm (R437, R46): none, the cast header is read, or the prefill runs. -/
inductive Arming where | none | header | prefill
  deriving DecidableEq, Repr

/-- The armed cast as read at the arm (R104, R106, R107). -/
structure CastInfo where
  version : Nat := 0
  base : Nat := 0
  instrCount : Nat := 0
  segCount : Nat := 0
  instrOff : Nat := 0
  segtabOff : Nat := 0
  f4Off : Nat := 0
  s8Off : Nat := 0
  f4Bytes : Nat := 0
  s8Bytes : Nat := 0
  idleTs : Nat := 0
  retainBytes : Nat := 0
  staticVectors : Nat := 0
  /-- JUMP_TGT0 to JUMP_TGT3. -/
  jumpTgt : List Nat := []
  /-- Channel map entries, CHAN already overridden and mapped (R107, R106). -/
  map : List Word32 := []
  deriving DecidableEq, Repr

/-- A segment table entry (R108). -/
structure SegEnt where
  first : Nat
  count : Nat
  vectors : Nat
  flags : Nat
  payloadFirst : Nat
  streamSeq : Nat
  imageBytes : Nat
  deriving DecidableEq, Repr

/-- A static vector as VFS holds it (R99, R117, R118): segment and static offset, the instruction that owns it with its
word, its F4 and S8 records, and the kind of fault that its fetch ended with (R129). -/
structure Held where
  seg : Nat
  off : Nat
  idx : Nat
  /-- Its position in the instruction's run. -/
  pos : Nat := 0
  word : Word64 := 0
  f4 : Nat := 0
  s8 : Nat := 0
  bad : Option Nat := none
  deriving DecidableEq, Repr

/-- An entry of the decoded-instruction queue (R79): index, word, segment and static offset of its first vector, and the
cycle in which it was decoded. -/
structure Decoded where
  idx : Nat
  word : Word64
  seg : Nat
  off : Nat
  edge : Nat
  deriving DecidableEq, Repr

/-- The run in execution: its instruction, segment and static offset, and the number of its vectors. -/
structure Run where
  idx : Nat
  word : Word64
  seg : Nat
  off : Nat
  n : Nat
  deriving DecidableEq, Repr

/-- An open loop (R83): its LOOP's index, remaining count, call depth, the start of its static body, whether the
iteration now running replays from the loop cache (R117) up to instruction `lastIdx`, and the byte count STRM_REL is
held at by a retained loop (R123). -/
structure LoopEnt where
  idx : Nat
  remaining : Nat
  depth : Nat
  /-- Static index of its LOOP's first vector (R103). -/
  start : Nat := 0
  lastIdx : Nat := 0
  replay : Bool := false
  /-- Its ENDL has just repeated it: the LOOP runs again without a push. -/
  again : Bool := false
  holdRel : Option Nat := none
  deriving DecidableEq, Repr

/-- Where a walk along the instructions stands (R79, R118): next index (none: the walk has ended), vectors of that
instruction already taken, whether it ended at a JIF, open loops and calls. -/
structure Walk where
  pc : Option Nat := some 0
  pos : Nat := 0
  jif : Option Nat := none
  loops : List LoopEnt := []
  calls : List Nat := []
  deriving DecidableEq, Repr

/-- What VFS has fetched along one path (R118). -/
structure FetchQ where
  vecs : List Held := []
  path : Walk := {}
  deriving DecidableEq, Repr

/-- What the fetch unit of a sequencer holds (R117, R118). -/
structure Vfs where
  /-- Fetch lead, the two paths of a JIF that ends it, the head buffers by slot, and the loop cache, latest first. -/
  lead : FetchQ := {}
  fall : FetchQ := {}
  targ : FetchQ := {}
  heads : List (Nat × FetchQ) := []
  cache : List Held := []
  /-- Segment and granule of the last block fetched. -/
  gran : Option (Nat × Nat) := none
  /-- Segment-table entries read, and those whose read failed. -/
  segs : List (Nat × SegEnt) := []
  segBad : List Nat := []
  deriving DecidableEq, Repr

/-- A block of the merge buffer (R119): cast image or stream window (base, size), segment, granule, its vectors, bytes, and
the sequencers that have taken it. -/
structure MergeBlk where
  streamed : Bool
  base : Nat
  size : Nat
  seg : Nat
  gran : Nat
  vecs : List Held
  bytes : Nat
  takers : List Nat
  deriving DecidableEq, Repr

/-- A mark waiting in the mark FIFO (R112). -/
structure Mark where
  id : BitVec 8
  ts : Word64
  deriving DecidableEq, Repr

/-- A pending jump request (R113 to R115): its slot, the segment it committed in, whether a decision point has issued
since, who made it, and its commit cycle. -/
structure JumpReq where
  slot : Nat
  seg : Nat
  decided : Bool := false
  /-- Trigger unit that made it, 16 for the host: of one cycle the lowest stands. -/
  src : Nat := 16
  edge : Nat := 0
  /-- The fetch lead already goes on at its target (R116). -/
  led : Bool := false
  deriving DecidableEq, Repr

/-- Expected level of a judged sample (R180). -/
inductive Expect where | low | high | mid
  deriving DecidableEq, Repr

/-- A strobe event of one channel in one vector: a compare made (R156) or an SREF search (R160). -/
structure StrobeEv where
  chan : Nat
  /-- Strobe mode code 1 to 4 (R155). -/
  mode : Nat
  ser : Bool := false
  /-- Judged unit intervals and their expected levels (R182). -/
  exps : List (Nat × Expect) := []
  /-- Cycle start at the port plus the correction in force (R151), and offsets of the samples from there: one per unit
  interval; of a WINDOW or a search, its two ends. For a SRCSYNC member they count from the strobe instant (R161). -/
  base : Int := 0
  samples : List Int := []
  /-- The group misses by construction (R161). -/
  missed : Bool := false
  /-- Reference channel of a SRCSYNC member. -/
  ref : Option Nat := none
  /-- SREF: number of grid points and rising edge searched. -/
  gridN : Nat := 0
  rising : Bool := true
  /-- Dropped under R152 or R163. -/
  dropped : Bool := false
  deriving DecidableEq, Repr

/-- An issued vector whose results CAP has not committed yet. -/
structure VecRec where
  /-- Ordinal in the burst, fill vectors included. -/
  ord : Nat
  /-- VEC_COUNT of the vector. -/
  vc : Nat
  fill : Bool := false
  /-- MATCH repetition the vector belongs to, and whether it ends that repetition. -/
  rep : Option Nat := none
  repEnd : Bool := false
  /-- Which MATCH of the burst. -/
  matchId : Nat := 0
  instr : Nat := 0
  seg : Nat := 0
  addr : Addr48 := 0
  /-- Cycle start at the port, absolute fine steps. -/
  start : Nat := 0
  /-- Sites judged at this vector: active and not masked. -/
  sites : BitVec 128 := 0
  /-- PFCLK edge from which CAP commits the results (R24). -/
  commitAt : Nat := 0
  /-- A channel carries a serial vector on its entry (for the record headers). -/
  serChans : List Nat := []
  events : List StrobeEv := []
  deriving DecidableEq, Repr

/-- What is kept of the last issued vector for fill vectors (R81). -/
structure LastVec where
  ts : Nat
  instr : Nat
  pos : Nat
  f4 : Nat := 0
  s8 : Nat := 0
  addr : Addr48 := 0
  deriving DecidableEq, Repr

/-- A MATCH in execution (R55, R89). -/
structure MatchRun where
  id : Nat := 0
  reps : Nat := 0
  /-- Sites that failed a compare in a repetition, oldest pending repetition first. -/
  failed : List (Nat × BitVec 128) := []
  /-- Outcome once decided: met or not. -/
  decided : Option Bool := none
  /-- Timing sets of the first repetition, replayed by the later ones. -/
  tss : List Nat := []
  deriving DecidableEq, Repr

/-- One sequencer with its fetch unit. -/
structure Seq where
  state : BurstState := .idle
  endCause : EndCause := .none
  arming : Arming := .none
  /-- STATE before the arm that is taken up (R437), and the cycles (plus one) in which the arm was taken up and accepted. -/
  preState : BurstState := .idle
  armEdge : Nat := 0
  acceptEdge : Nat := 0
  /-- ALIGN_CFG in force since the arm (R74). -/
  alignCfg : Word32 := 0
  /-- Of its group: ALIGN_CFG, ALIGN_TIMEOUT and ALIGN_LEAD of the lowest-numbered local member at the arm. -/
  alignPar : Word32 := 0
  alignTo : Nat := 0
  alignLead : Nat := 0
  compat : Bool := false
  maquette : Bool := false
  maqMatch : Bool := false
  startLate : Bool := false
  /-- The start instant had passed when ARMED was entered (R47). -/
  lateStart : Bool := false
  matched : Bool := false
  abortLate : Bool := false
  waitAlign : Bool := false
  cmdStat : Word32 := 0
  /-- Cast, and the limits in force since the arm (R132). -/
  cast : CastInfo := {}
  leadCfg : Nat := 0
  guardCfg : Nat := 0
  /-- Host retirements pending: commit cycle and sites (R52). -/
  retireReq : List (Nat × BitVec 128) := []
  /-- Sites the sequencer owned at its arm (R33), and those of them still active (R50). -/
  owned : BitVec 128 := 0
  active : BitVec 128 := 0
  smask : BitVec 128 := 0
  /-- A retirement ordered by the capture context, from the next vector on (R52). -/
  capRetire : BitVec 128 := 0
  matchSites : BitVec 128 := 0
  vecCount : Nat := 0
  ord : Nat := 0
  /-- Period generator: base instant in fine steps, accumulator of the next vector and of the last one (R39). -/
  genBase : Nat := 0
  genNext : Nat := 0
  cycleTime : Nat := 0
  /-- End at the port of the last cycle issued. -/
  portEnd : Nat := 0
  /-- First PFCLK edge at which the next vector may issue (R23). -/
  issueFrom : Nat := 0
  endVaddr : Nat := 0
  unownedCmp : Nat := 0
  maqCollide : Nat := 0
  maqTsIllegal : Nat := 0
  maqUnderrun : Nat := 0
  maqMinLead : Nat := 0
  stretch : Nat := 0
  stale : Nat := 0
  /-- Instruction index in execution or next to execute, its run in progress, and the vectors of it already issued. -/
  pc : Nat := 0
  run : Option Run := none
  runPos : Nat := 0
  /-- PFCLK cycle (plus one) of the last vectors issued, how many it has issued, and the segment of the first of them. -/
  cycEdge : Nat := 0
  cycVecs : Nat := 0
  cycSeg : Nat := 0
  /-- The decoded-instruction queue, and the first cycle in which the decoder may decode (R79). -/
  queue : List Decoded := []
  decFrom : Nat := 0
  rotation : List Nat := []
  rotPos : Nat := 0
  loops : List LoopEnt := []
  calls : List Nat := []
  failFlag : Bool := false
  trigFlag : Bool := false
  /-- A JIF whose first vector has issued: the cycle (plus one), and its level where that is taken before the cycle. -/
  jifEdge : Nat := 0
  jifLvl : Bool := false
  /-- Outcome of the JIF in execution. -/
  jifTaken : Option Bool := none
  pausePend : Bool := false
  /-- The instruction being waited on is a pausable point (R102). -/
  pzWait : Bool := false
  /-- A host PAUSE is in force in this HOLD. -/
  pauseHold : Bool := false
  starvePend : Bool := false
  starveHold : Bool := false
  underrunFlag : Bool := false
  belowGuard : Bool := false
  /-- Issue stalls for want of fetched vectors: compatibility or maquette (R71, R69). -/
  stalled : Bool := false
  /-- What its fetch unit holds. -/
  vfs : Vfs := {}
  strmWr : Nat := 0
  /-- STRM_WR before the commit of cycle `strmEdge` (plus one): its bytes count from the next cycle (R120). -/
  strmOld : Nat := 0
  strmEdge : Nat := 0
  strmRd : Nat := 0
  strmRel : Nat := 0
  /-- End of the last streamed segment that has ended (R123). -/
  strmDone : Nat := 0
  /-- Ring byte counts at which the images of streamed segments start. -/
  images : List (Nat × Nat) := []
  imageBad : List Nat := []
  jump : Option JumpReq := none
  jumpTaken : Bool := false
  jumpSuperseded : Bool := false
  jumpLapsed : Bool := false
  jumpNoTarget : Bool := false
  jumpBoundary : Bool := false
  jumpSlot : Nat := 0
  jumpSeg : Nat := 0
  jumpVec : Nat := 0
  undrInstr : Nat := 0
  undrCount : Nat := 0
  undrVec : Nat := 0
  segCur : Nat := 0
  /-- Cycle of the last decision point issued (plus one). -/
  decEdge : Nat := 0
  /-- A segment ended and its boundary actions are due before the next vector (R110). -/
  atBoundary : Bool := false
  /-- The next vector is the first after a boundary or of the burst (R111). -/
  markDue : Bool := false
  marks : List Mark := []
  markTs : Word64 := 0
  markOvf : Nat := 0
  fetchHbm : Nat := 0
  fetchMerged : Nat := 0
  /-- Ending cause committed, and its cycle (R42, R67). -/
  ending : Option (EndCause × Nat) := none
  /-- Cycle in which the SEQ_END condition of the ending counts at the earliest (R210, R211). -/
  endCond : Nat := 0
  /-- Cycle (plus one) in which the final state was entered. -/
  finalEdge : Nat := 0
  /-- The plinth entries of the burst's end are scheduled (R42). -/
  parked : Bool := false
  /-- A page soft reset waits for the final state (R43); one has run since the last accepted arm (R32). -/
  resetPend : Bool := false
  wasReset : Bool := false
  inflight : List VecRec := []
  last : Option LastVec := none
  matchRun : Option MatchRun := none
  matchIds : Nat := 0
  /-- WAIT: domain and instant its successor waits for (R90). -/
  waitUntil : Option (Fin 4 × Nat) := none
  /-- Arrived at an ALIGN barrier in this cycle. -/
  arrived : Option Nat := none
  deriving DecidableEq, Repr

/-- One address axis of an APG (R133). -/
structure Axis where
  cur : Nat := 0
  pos : Nat := 0
  saveCur : Nat := 0
  savePos : Nat := 0
  carry : Bool := false
  deriving DecidableEq, Repr

/-- One data generator (R133). -/
structure DataGen where
  cur : Word64 := 0
  inv : Bool := false
  deriving DecidableEq, Repr

/-- One algorithmic pattern generator. -/
structure Apg where
  x : Axis := {}
  y : Axis := {}
  z : Axis := {}
  dg0 : DataGen := {}
  dg1 : DataGen := {}
  opCount : Nat := 0
  deriving DecidableEq, Repr

/-- A placed item of a drive or strobe stream of a channel (R163): vector ordinal, the edge that carries it, nominal start
and end, the level it leaves and whether it is a serial span. -/
structure Item where
  ord : Nat
  edge : Nat := 0
  t : Nat
  e : Nat
  lvl : Bool := false
  span : Bool := false
  deriving DecidableEq, Repr

/-- One stream of a channel: placed items that may still be dropped, oldest first, and what settled before them. -/
structure Stream where
  items : List Item := []
  lvl : Bool := false
  lastT : Option Nat := none
  lastEnd : Option Nat := none
  deriving DecidableEq, Repr

/-- A transition on its way to a drive port (R151): EN or DAT, instant in fine steps with the correction, the level at the
port, and the item it belongs to (vector ordinal and nominal start). -/
structure Trans where
  en : Bool
  at_ : Nat
  lvl : Bool
  ord : Nat := 0
  t : Nat := 0
  deriving DecidableEq, Repr

/-- One pin channel. -/
structure Chan where
  plinth : Bool := true
  /-- Instant of an entry into the plinth state that is still ahead (R186). -/
  plinthAt : Option Nat := none
  /-- Transitions on their way to the port, in order, and the levels of the port. -/
  sched : List Trans := []
  datOut : Bool := false
  enOut : Bool := false
  dat : Stream := {}
  en : Stream := {}
  stb : Stream := {}
  /-- Previous level of R96. -/
  prev : Bool := false
  edgeCollide : Nat := 0
  edgeRange : Nat := 0
  strobeMiss : Nat := 0
  cmpMade : Nat := 0
  cmpInvalid : Nat := 0
  corrDat : BitVec 16 := 0
  corrEn : BitVec 16 := 0
  corrCmp : BitVec 16 := 0
  lapsed : Bool := false
  deriving DecidableEq, Repr

/-- BANK.STAT.STATE (R187). -/
inductive BankState where | off | sleep | waking | on | pendingOff
  deriving DecidableEq, Repr

def BankState.code : BankState → Nat
  | .off => 0 | .sleep => 1 | .waking => 2 | .on => 3 | .pendingOff => 4

/-- BANK.STAT.TARGET (R187). -/
inductive BankCmd where | none | wake | sleep | off
  deriving DecidableEq, Repr

def BankCmd.code : BankCmd → Nat
  | .none => 0 | .wake => 1 | .sleep => 2 | .off => 3

/-- One bank of 32 channels. -/
structure Bank where
  state : BankState := .off
  target : BankCmd := .none
  entering : Bool := false
  powering : Bool := false
  queued : Bool := false
  calBusy : Bool := false
  /-- PFCLK edge at which the running entry, ramp or power-up ends. -/
  due : Nat := 0
  /-- Cycle (plus one) of the command that left ON (R17). -/
  reqEdge : Nat := 0
  wakeCount : Nat := 0
  deriving DecidableEq, Repr

/-- A staged item (R166): KIND (header), timing set, index and the eight data words. -/
structure StgItem where
  header : Bool
  ts : Nat
  index : Nat
  data : BitVec 256
  deriving DecidableEq, Repr

/-- A closed batch part waiting for its application (R167): batch identity, its sequencer (none: unassigned items),
its items and the cycle of its close. -/
structure BatchPart where
  batch : Nat
  seq : Option Nat
  items : List StgItem
  edge : Nat
  deriving DecidableEq, Repr

/-- A record of the apply log (R171). -/
structure ApplyRec where
  id : Word32
  vec : Word64
  seg : Word32
  deriving DecidableEq, Repr

/-- The timing set store and its staged commit buffer. -/
structure Tss where
  /-- Entry (t, c) at 512 t + c; header (t, n) at 64 t + n. -/
  entries : Sparse (BitVec 256) := []
  headers : Sparse Word64 := []
  openItems : List StgItem := []
  parts : List BatchPart := []
  lastBatch : Nat := 0
  nextBatch : Nat := 1
  refused : Nat := 0
  cmd : Word32 := 0
  log : List ApplyRec := []
  applyVec : Word64 := 0
  applySeg : Word32 := 0
  applyOvf : Nat := 0
  deriving DecidableEq, Repr

/-- A line counter still to be incremented (R201): address, threshold, whether it is a row's, and by how much. -/
structure LineCtr where
  addr : Nat
  thr : Nat
  row : Bool
  n : Nat := 1
  deriving DecidableEq, Repr

/-- A bitmap update (R200, R201): word address and mask F, X, Y and Z index, VEC_COUNT, the context's BM_CFG, BM_LIM and
counter bases, whether its OR64 is done, the counters still to increment, and whether a request of it failed. -/
structure BmItem where
  addr : Nat
  f : Word64
  x : Nat
  y : Nat
  zi : Nat
  vc : Nat
  cfg : Word32
  lim : Word32
  rowBase : Nat
  colBase : Nat
  ored : Bool := false
  ctrs : List LineCtr := []
  bad : Bool := false
  deriving DecidableEq, Repr

/-- A captured item on its way to HBM (R207, R208). -/
inductive CapItem where
  /-- A CW write of a log entry or raw record: address, bytes, VEC_COUNT. -/
  | cw (addr : Nat) (data : List Byte) (vc : Nat)
  | bm (b : BmItem)
  deriving DecidableEq, Repr

/-- One capture context. -/
structure Cap where
  /-- Channel list of the armed burst (R194). -/
  chans : List Nat := []
  flogCount : Nat := 0
  flogFull : Bool := false
  failVec : Nat := 0
  failCmp : Nat := 0
  firstVec : Nat := 0
  firstTs : Word64 := 0
  retireVec : Nat := 0
  lostCount : Nat := 0
  lostVec : Nat := 0
  stale : Nat := 0
  mustRows : Nat := 0
  mustCols : Nat := 0
  bmOutside : Nat := 0
  recBytes : Nat := 0
  postEff : Nat := 0
  rawWr : Nat := 0
  trigVec : Nat := 0
  trigOfs : Nat := 0
  /-- A CAPTURE action waits for its trigger record; post records written since. -/
  trigPend : Bool := false
  posts : Nat := 0
  /-- Raw records of one cycle: cycle, and RAW_WR before and VEC_COUNT of each (R206). -/
  recEdge : Nat := 0
  recs : List (Nat × Nat) := []
  lost : Bool := false
  thresh : Bool := false
  rawTriggered : Bool := false
  rawDone : Bool := false
  postClamped : Bool := false
  drained : Bool := false
  retired : Bool := false
  fcount : Sparse Nat := []
  queue : List CapItem := []
  /-- Items whose requests were made before a reset of the page (R32, R359). -/
  old : List CapItem := []
  /-- Bursts that armed the context, and items of `queue` that earlier ones left (R209, R243). -/
  arms : Nat := 0
  before : Nat := 0
  deriving DecidableEq, Repr

/-- A condition event of the trigger matrix (R210). -/
inductive CondEv where
  | trigIn (line : Nat) (rising : Bool)
  | xt (line : Nat) (rising : Bool)
  | siteFail (s : Nat)
  | seqFail (q : Nat)
  | siteThresh (s : Nat)
  | mark (q : Nat) (id : Nat)
  | flag (i : Nat)
  | seqEnd (q : Nat)
  | unit (u : Nat)
  | capLost (s : Nat)
  | host (u : Nat)
  deriving DecidableEq, Repr

/-- One trigger unit. -/
structure TrgUnit where
  enabled : Bool := false
  armed : Bool := false
  /-- An ARM written during hold-off waits (R214). -/
  armPend : Bool := false
  inHoldoff : Bool := false
  /-- End of a TIME hold-off in its domain (five times its units), and events left of an EVENTS hold-off (R213). -/
  hoEnd : Nat := 0
  hoLeft : Nat := 0
  causeMask : BitVec 4 := 0
  causeAction : BitVec 8 := 0
  fireCount : Nat := 0
  suppressed : Nat := 0
  fireTs : Word64 := 0
  fireVec : Nat := 0
  /-- Last cycle in which the unit sampled (plus one). -/
  sampled : Nat := 0
  deriving DecidableEq, Repr

/-- A write to a unit's own state: EN, or ARM. -/
inductive UnitAct where
  | enable (on : Bool)
  | arm
  deriving DecidableEq, Repr

/-- A unit as before the writes of cycle `edge`, with its eight configuration words, and what those writes do to it (R215). -/
structure UnitWas where
  edge : Nat
  u : Nat
  unit : TrgUnit
  cfg : List Word32
  acts : List UnitAct := []
  deriving DecidableEq, Repr

/-- The trigger matrix, the chip pattern flags and the trigger lines. -/
structure Trg where
  units : Sparse TrgUnit := []
  /-- Units written in the present cycle, whose sample does not see the writes. -/
  was : List UnitWas := []
  /-- Chip pattern flags as committed before cycle `flagEdge`, and the sets and clears of that cycle (R87, R88). -/
  flags : BitVec 8 := 0
  flagEdge : Nat := 0
  flagSets : BitVec 8 := 0
  flagClrs : BitVec 8 := 0
  /-- Conditions true in a cycle: cycle and event (R210). -/
  conds : List (Nat × CondEv) := []
  trigIn : BitVec 4 := 0
  /-- TRIG_OUT pulses ahead: line and edge of the rise (R111). -/
  outPend : List (Nat × Nat) := []
  /-- TRIG_OUT lines high, and the edge each pulse ends at. -/
  out : BitVec 4 := 0
  outEnd : List Nat := [0, 0, 0, 0]
  /-- XT lines this chip asserts, and the edge each assertion ends at (R212). -/
  xtOut : BitVec 8 := 0
  xtEnd : List Nat := [0, 0, 0, 0, 0, 0, 0, 0]
  /-- XT levels as decoded before cycle `xtEdge`, and now (R87). -/
  xtPrev : BitVec 8 := 0
  xtEdge : Nat := 0
  xtNow : BitVec 8 := 0
  /-- Starts by an XT edge that are due: PFCLK edge, line, rising (R48). -/
  xtPend : List (Nat × Nat × Bool) := []
  deriving DecidableEq, Repr

/-- An align group on this chip (R57 to R64): members arrived, ports arrived, opening edge, release instant once fixed,
and whether the group is closed. -/
structure AlignGroup where
  opened : Bool := false
  openEdge : Nat := 0
  arrived : List Nat := []
  ports : BitVec 6 := 0
  lastEdge : Nat := 0
  /-- All arrived: release at this PFCLK edge (XCHIP 0), or domain instant T once known (XCHIP 1). -/
  releaseEdge : Option Nat := none
  releaseT : Option Nat := none
  sentArrive : Bool := false
  closed : Bool := false
  deriving DecidableEq, Repr

end Sys2Proof.Machine
end

