-- ==== Sys2Proof/Machine/PowTypes.lean ====
section
/-! DEFINITION. State of the management island: rails, resets, clocks, boot, mailbox, flash and update sessions. Field
defaults are the reset values, the device unpowered. -/
namespace Sys2Proof.Machine

/-- Whether the chip is unpowered, held in reset, booting, in recovery mode, or up. -/
inductive ChipPhase where | unpowered | reset | booting | recovery | up
  deriving DecidableEq, Repr

/-- CHIP.BOOT_STAT.STAGE. -/
inductive Stage where | reset | rom | fuse | slot | mgt | clock | hbm | links | peFw | banks | done | recovery
  deriving DecidableEq, Repr
def Stage.code : Stage → Nat
  | .reset => 0 | .rom => 1 | .fuse => 2 | .slot => 3 | .mgt => 4 | .clock => 5 | .hbm => 6 | .links => 7 | .peFw => 8
  | .banks => 9 | .done => 0xA | .recovery => 0xF

/-- SESS_STAT.STATE. -/
inductive SessState where | idle | receiving | headerOk | committing | done | failed
  deriving DecidableEq, Repr
def SessState.code : SessState → Nat
  | .idle => 0 | .receiving => 1 | .headerOk => 2 | .committing => 3 | .done => 4 | .failed => 5

/-- REASON of a failed session. -/
inductive SessReason where
  | none | format | part | signer | signature | epoch | compat | length | flash | timeout | aborted | reset
  deriving DecidableEq, Repr
def SessReason.code : SessReason → Nat
  | .none => 0 | .format => 1 | .part => 2 | .signer => 3 | .signature => 4 | .epoch => 5 | .compat => 6 | .length => 7
  | .flash => 8 | .timeout => 9 | .aborted => 10 | .reset => 11

/-- A management request: its source (none: the host's mailbox, or a Zheind port), words and edge of arrival. -/
structure MboxReq where
  src : Option Nat
  words : List Word32
  edge : Nat
  deriving DecidableEq, Repr

/-- What the flash is doing for a session: an erase, the next chunk of the payload, the trailer, the commit word. -/
inductive FlashOp where
  | erase
  | program (n : Nat)
  | trailer
  | commit
  deriving DecidableEq, Repr

/-- An update session (R415). -/
structure Session where
  state : SessState := .idle
  /-- Holder of the lock: none, the host (some none) or a Zheind port. -/
  owner : Option (Option Nat) := none
  reason : SessReason := .none
  targetB : Bool := false
  total : Nat := 0
  /-- Bytes received and programmed. -/
  bytes : Nat := 0
  header : List Byte := []
  /-- Bundle bytes received, in transit form, and bytes still expected in DATA flits. -/
  received : List Byte := []
  expect : Nat := 0
  storeIv : BitVec 96 := 0
  /-- Edge of the last data. -/
  dataAt : Nat := 0
  /-- The UPD_COMMIT that waits for the flash. -/
  commitReq : Option MboxReq := none
  deriving DecidableEq, Repr

/-- The management island. -/
structure Mgt where
  phase : ChipPhase := .unpowered
  stage : Stage := .reset
  /-- Rails power good, as RCP.PWR_STAT numbers them: VDD_CORE, VDD_PIN, VDD_LINK, VDDQ_HBM, VPP_HBM, VDD_AUX, VQPS. -/
  rails : BitVec 7 := 0
  /-- RESET_N is held low. -/
  resetN : Bool := false
  /-- RST_CAUSE; BOOT_FAILS of slots A and B (R413). -/
  cause : Word32 := 0
  fails : List Nat := [0, 0]
  refclk : Bool := false
  pllLocked : Bool := false
  /-- Edge of the REFCLK loss while the PLL holds (R427). -/
  refLost : Option Nat := none
  temp : BitVec 16 := 0
  /-- Booted slot; BUNDLE_VERSION of each slot at the last boot, 0 if invalid. -/
  bootedB : Bool := false
  bootVer : Word32 := 0
  verA : Word32 := 0
  verB : Word32 := 0
  /-- PE component of the booted slot: version and bytes (R406); version of its management firmware. -/
  peVer : Word32 := 0
  peImage : List Byte := []
  fwVer : Word32 := 0
  /-- Edge at which the LINKS stage began (R401). -/
  linksAt : Option Nat := none
  /-- Edge at which the BANKS stage began. -/
  banksAt : Option Nat := none
  /-- MBOX: firmware ready, a request busy, a response valid and the cycle (plus one) it became so, the response, and
  requests at or waiting for firmware, in order. -/
  fwReady : Bool := false
  mboxBusy : Bool := false
  rspValid : Bool := false
  rspEdge : Nat := 0
  rsp : List Word32 := []
  waiting : List MboxReq := []
  /-- Pin record: none, or slot B. -/
  pin : Option Bool := none
  /-- Flash bytes; an unlisted byte reads 0xFF (erased). -/
  flash : List Host.Cell := []
  flashOps : List FlashOp := []
  sess : Session := {}
  deriving DecidableEq, Repr

end Sys2Proof.Machine
end

