-- ==== Sys2Proof/Machine/SchTypes.lean ====
section
/-! DEFINITION. State of the task scheduler: task table, submission ports, executor slots. Field defaults are the reset
values. -/
namespace Sys2Proof.Machine

/-- States of a task (table of R243). -/
inductive TaskState where | free | waiting | delayed | held | ready | prefetched | running | completing
  deriving DecidableEq, Repr

/-- Completion statuses (table of R254). -/
inductive TaskStatus where
  | complete | cancelled | cancelledUpstream | aborted | timeout | workerFault | ceError | reset | badDesc | noExecutor
  deriving DecidableEq, Repr

def TaskStatus.code : TaskStatus → Nat
  | .complete => 0 | .cancelled => 1 | .cancelledUpstream => 2 | .aborted => 3 | .timeout => 4 | .workerFault => 5
  | .ceError => 6 | .reset => 7 | .badDesc => 8 | .noExecutor => 9

/-- One entry of the task table (R238). -/
structure Task where
  state : TaskState := .free
  gen : Nat := 0
  cfg : Nat := 0
  /-- Dependences still to satisfy, and whether the event dependence has been satisfied (R246). -/
  dep : Nat := 0
  evDone : Bool := false
  subEdge : Nat := 0
  block : Nat := 0
  execMask : Nat := 0
  release : Word64 := 0
  tag : Nat := 0
  succs : List Nat := []
  /-- Order in the delay list and in the ready list: cycle of entry. -/
  entered : Nat := 0
  /-- Returned to the head of its level (R233, R248): number of the return, later ones ahead. 0: it entered in order. -/
  head : Nat := 0
  /-- Capture contexts of the bound burst, each with the number of its arm (R243). -/
  ctxs : List (Nat × Nat) := []
  /-- Completion: status, program status, executor code, result, stamp and flags (R254). -/
  status : TaskStatus := .complete
  prog : Nat := 0
  executor : Nat := 0xFF
  result : Nat := 0
  ts : Word64 := 0
  abortLate : Bool := false
  redispatched : Bool := false
  posted : Bool := false
  deriving DecidableEq, Repr

/-- A final state a sequencer entered: its code, and the capture contexts of the burst with the number of their arm. -/
structure Final where
  seq : Nat
  code : Nat
  ctxs : List (Nat × Nat)
  deriving DecidableEq, Repr

/-- A submission port (R240): pending address, commit cycle, and final states entered since the commit (R246). -/
structure SubPort where
  pending : Bool := false
  addr : Nat := 0
  edge : Nat := 0
  finals : List Final := []
  code : Nat := 0
  id : Nat := 0
  deriving DecidableEq, Repr

/-- What the scheduler knows of one executor: its slots by table index, an abort on its way, the end the running task
has reached, and whether it may take tasks (R248, R250). -/
structure ExecSlots where
  running : Option Nat := none
  prefetch : Option Nat := none
  /-- Cycle in which the running task entered the running slot (R249, R251). -/
  startAt : Nat := 0
  abort : Option Nat := none
  ended : Option (TaskStatus × Nat × Nat) := none
  /-- Reports on their way of tasks that a reset has taken from the executor (R252). -/
  lost : Nat := 0
  offline : Bool := false
  retired : Bool := false
  deriving DecidableEq, Repr

/-- The scheduler. -/
structure Sch where
  tasks : Sparse Task := []
  ports : Sparse SubPort := []
  /-- Executors by code: 0x00 to 0x17 WE, 0x20 to 0x27 CE. -/
  execs : Sparse ExecSlots := []
  /-- Cascaded completions: cycle in which they are due and identity (R245). -/
  cascades : List (Nat × Nat) := []
  /-- Running tasks whose completion point fell in a cycle: cycle and identity (R251). -/
  ends : List (Nat × Nat) := []
  /-- Tasks returned to the head of their level so far (R248). -/
  returns : Nat := 0
  /-- Dispatches of a PFCLK cycle, at most two fabric cycles long: cycle and number (R248). -/
  dispEdge : Nat := 0
  dispCount : Nat := 0
  cancelCode : Nat := 0
  cancelPending : Option Nat := none
  tableFull : Nat := 0
  badSucc : Nat := 0
  depUnderflow : Nat := 0
  stale : Nat := 0
  lateRelease : Nat := 0
  submitted : Nat := 0
  /-- RING_TAIL of each ring. -/
  tails : List Nat := [0, 0, 0, 0]
  /-- Last whole microsecond of each domain at which its delay list was served; it follows a step back (R247). -/
  ticks : List Nat := [0, 0, 0, 0]
  deriving DecidableEq, Repr

end Sys2Proof.Machine
end

