-- ==== Sys2Proof/Machine/StreamTypes.lean ====
section
/-! DEFINITION. State of the measure and source streams (MSF, SSG) and of the interval measurement units (TIM). Field
defaults are the reset values. -/
namespace Sys2Proof.Machine

/-- States of a stream (R257). -/
inductive StrState where | idle | armed | running | done | aborted | faulted
  deriving DecidableEq, Repr
def StrState.code : StrState → Nat
  | .idle => 0 | .armed => 1 | .running => 2 | .done => 3 | .aborted => 4 | .faulted => 5

/-- END_CAUSE of a stream. -/
inductive StrCause where | none | complete | hostStop | underrun | fetchFault | peLinkLost | reset
  deriving DecidableEq, Repr
def StrCause.code : StrCause → Nat
  | .none => 0 | .complete => 1 | .hostStop => 2 | .underrun => 3 | .fetchFault => 4 | .peLinkLost => 5 | .reset => 6

/-- What measure and source streams share: the run, its start and its converter grid (R257 to R261). -/
structure StrRun where
  state : StrState := .idle
  cause : StrCause := .none
  cmd : Nat := 0
  /-- An accepted arm waits for the PE's acknowledge and the prefill; the acknowledge has come (R258). -/
  arming : Bool := false
  acked : Bool := false
  startLate : Bool := false
  /-- Edge at which ARMED was entered; the start instant had passed then (R259). -/
  armedAt : Nat := 0
  lateStart : Bool := false
  /-- An instant of the converter grid in fine steps (R260): grid index 0. -/
  grid : Nat := 0
  /-- Start instant, and grid index of the next sample. -/
  startAt : Option Nat := none
  next : Nat := 0
  /-- Cycle (plus one) of a completion and of a stop (R261). -/
  doneEdge : Nat := 0
  stopEdge : Nat := 0
  firstTs : Word64 := 0
  corrGain : Int := 0x40000
  corrOfs : Int := 0
  corrOut : Nat := 0
  /-- CAL holds the converter (R279). -/
  held : Bool := false
  /-- CAL takes or returns it at the next frame boundary. -/
  holdNext : Option Bool := none
  stale : Nat := 0
  deriving DecidableEq, Repr

/-- A measure stream. -/
structure Ms where
  run : StrRun := {}
  /-- Chain inputs since the last synchronising reset, and the constant that primed the chain (R265). -/
  chain : List Rat := []
  primed : Option Rat := none
  /-- Mean of the DC-blocking stage, exact; the next input sets it (R268). -/
  mean : Rat := 0
  meanSet : Bool := false
  /-- Outputs produced, lost ones included; outputs that still carry UNSETTLED; the last output word. -/
  out : Nat := 0
  unsettled : Nat := 0
  lastWord : Word32 := 0
  /-- Over-range or missing samples in the current span. -/
  ovr : Bool := false
  gap : Bool := false
  /-- Outputs buffered on chip, with their indices (R269). -/
  buf : List (Nat × Word32) := []
  outWr : Nat := 0
  lost : Bool := false
  lostCount : Nat := 0
  lostOut : Nat := 0
  resyncOut : Nat := 0
  /-- Instants of resets not yet in effect (R264), in fine steps. -/
  resets : List Nat := []
  /-- A switch that waits: converter and commit cycle (R266). -/
  switch : Option (Nat × Nat) := none
  /-- Submissions refused with QUEUE_FULL: address, and the edge from which each is tried again (R269). -/
  retries : List (Nat × Nat) := []
  deriving DecidableEq, Repr

/-- The cross-fade state of a source stream (R274, R275). -/
structure Fade where
  active : Bool := false
  /-- New bank, outputs done, length. -/
  fade : Option (Bool × Nat × Nat) := none
  waiting : Option (Bool × Nat) := none
  noop : Bool := false
  superseded : Nat := 0
  deriving DecidableEq, Repr

/-- A source stream. -/
structure Ss where
  run : StrRun := {}
  /-- Taps by 256 * bank + tap. -/
  taps : Sparse Int := []
  /-- Fetch: descriptor to read or in play, its fields once read (address, samples, plays left, next, end), samples of
  the play fetched. -/
  desc : Nat := 0
  seg : Option (Nat × Nat × Nat × Nat × Bool) := none
  pos : Nat := 0
  /-- Everything up to the end of an END segment is fetched. -/
  fetched : Bool := false
  /-- Samples held, and the index of the first of them. -/
  buf : List Int := []
  base : Nat := 0
  /-- Phase accumulator with 32 fractional bits (R273). -/
  acc : Nat := 0
  samples : Nat := 0
  last : Int := 0
  undr : Nat := 0
  clips : Nat := 0
  fade : Fade := {}
  /-- Cross-fade state before the host request of a cycle (plus one), and cycle (plus one) of a mark request (R275). -/
  fadeOld : Option (Nat × Fade) := none
  markEdge : Nat := 0
  /-- Swaps ordered by marks: instant in fine steps and length. -/
  swaps : List (Nat × Nat) := []
  deriving DecidableEq, Repr

/-- States of a TIM unit (R293). -/
inductive TimState where | idle | armed | running | done | aborted
  deriving DecidableEq, Repr
def TimState.code : TimState → Nat
  | .idle => 0 | .armed => 1 | .running => 2 | .done => 3 | .aborted => 4

/-- END_CAUSE of a TIM unit. -/
inductive TimCause where | none | complete | missLimit | hostAbort | reset
  deriving DecidableEq, Repr
def TimCause.code : TimCause → Nat
  | .none => 0 | .complete => 1 | .missLimit => 2 | .hostAbort => 3 | .reset => 4

/-- An interval measurement unit. Instants of edges are in units of 0.5 ps since PFCLK edge 0 (R288). -/
structure Tim where
  state : TimState := .idle
  cause : TimCause := .none
  cmd : Nat := 0
  partialRes : Bool := false
  startLate : Bool := false
  lateStart : Bool := false
  armedAt : Nat := 0
  /-- An accepted arm waits for CAL to release the unit (R296). -/
  arming : Bool := false
  /-- t_s in fine steps. -/
  startAt : Option Nat := none
  /-- Ends of the hold-offs of the start and the stop source. -/
  hold : List (Option Int) := [none, none]
  /-- The shot's start edge (as measured, and as it arrived) and stop edges accepted in it. -/
  shot : Option (Int × Int) := none
  stops : Nat := 0
  /-- The unit is ready again from this instant on. -/
  readyAt : Option Int := none
  /-- PFCLK edge of the completion point once known (R290), and cycle (plus one) of the completion. -/
  doneAt : Option Nat := none
  doneEdge : Nat := 0
  /-- Shots taken, their sums and extremes. -/
  shots : Nat := 0
  s1 : Nat := 0
  s2 : Nat := 0
  minX : Nat := 0
  maxX : Nat := 0
  missed : Nat := 0
  /-- Frequency mode: edges, first, last and the previous edge of the source; crystal estimate at the gate's opening. -/
  edges : Nat := 0
  first : Int := 0
  last : Int := 0
  prev : Option Int := none
  est : Int := 0
  gateClosed : Bool := false
  firstTs : Word64 := 0
  /-- The first start edge of the run is accepted. -/
  gotFirst : Bool := false
  /-- Results (R289, R291). -/
  mean : Nat := 0
  sdev : Nat := 0
  minR : Nat := 0
  maxR : Nat := 0
  freq : Nat := 0
  /-- Corrections in force: vernier table (empty: identity) and tap corrections (R284, R288). -/
  tab : List Int := []
  taps : List Int := []
  sync : Int := 0
  deriving DecidableEq, Repr

end Sys2Proof.Machine
end

