-- ==== Sys2Proof/Machine/WeTypes.lean ====
section
/-! DEFINITION. State of the worker engines and copy engines. Field defaults are the reset values. -/
namespace Sys2Proof.Machine

/-- Worker flags (R224). -/
structure WeFlags where
  z : Bool := false
  n : Bool := false
  c : Bool := false
  q : Bool := false
  deriving DecidableEq, Repr

/-- An outstanding transfer (R221): tag, direction, local and HBM address, bytes. -/
structure Transfer where
  tag : Nat
  write : Bool
  lm : Nat
  hbm : Nat
  len : Nat
  deriving DecidableEq, Repr

/-- How a task on an engine ends once its transfers are complete (R230): status code, program status, result. -/
inductive WeEnd where
  | done (prog : BitVec 8) (result : Word64)
  | aborted | timeout | fault
  deriving DecidableEq, Repr

/-- What the microcode engine keeps from one microword to the next (R228): the result of the previous LMRD, the micro-flag
UZ, whether the last HSUB was refused, and products not readable yet: register selector and microwords still to pass. -/
structure Micro where
  lmData : Word64 := 0
  uz : Bool := false
  refused : Bool := false
  late : List (Nat × Nat) := []
  deriving DecidableEq, Repr

/-- One worker engine. Local memory is 512 KiB, the control store 16,384 microwords. -/
structure We where
  /-- The work block is read and instructions issue (R219). -/
  started : Bool := false
  regs : Sparse Word64 := []
  flags : WeFlags := {}
  idx : Nat := 0
  pc : Nat := 0
  lm : List Host.Cell := []
  transfers : List Transfer := []
  /-- Status of the last transfer of each tag: 0 OK, 1 ECC, 2 RESET. -/
  tagStat : Sparse Nat := []
  progBase : Nat := 0
  progLen : Nat := 0
  resident : Bool := false
  instrCount : Nat := 0
  wdogCount : Nat := 0
  /-- Edges of watchdog expiries (R233), of the last boundary and of the task's start. -/
  expiries : List Nat := []
  boundary : Nat := 0
  startAt : Nat := 0
  timeLimit : Nat := 0
  limitHit : Bool := false
  redispatch : Bool := false
  hbmRefused : Nat := 0
  stale : Nat := 0
  faultInfo : Word32 := 0
  ending : Option WeEnd := none
  /-- CTRL.OFFLINE. -/
  offline : Bool := false
  csValid : Bool := false
  reloading : Bool := false
  /-- Edge at which the running reload began. -/
  reloadAt : Nat := 0
  /-- Microwords written over those of the bundle (R234). -/
  cs : Sparse (BitVec 40) := []
  mcodeVer : Word32 := 0
  micro : Micro := {}
  deriving DecidableEq, Repr

/-- One copy engine. -/
structure Ce where
  busy : Bool := false
  status : Nat := 0
  taskId : Nat := 0
  bytes : Nat := 0
  refused : Nat := 0
  stale : Nat := 0
  startAt : Nat := 0
  /-- The copy block as the engine read it, the status of that read, and the worker engines offline when it accepted the
  copy (R235). -/
  block : List Byte := []
  blockStatus : HbmStatus := .ok
  offMask : BitVec 24 := 0
  /-- Requests refused with QUEUE_FULL: address, and the edge from which each is tried again (R235). -/
  retries : List (Nat × Nat) := []
  deriving DecidableEq, Repr

end Sys2Proof.Machine
end

