-- ==== Sys2Proof/Machine/State.lean ====
section
/-! DEFINITION. The state of the device as plain data, its faults and refusals, and the state after reset. -/
namespace Sys2Proof.Machine

/-- What stops a step. -/
inductive Fault where
  /-- An act that R396 lists as undefined behaviour; `item` is its number there. Raised by register, table and
  control-store accesses. The spec gives no effect (R397 only bounds what may follow): safe. -/
  | undefinedBehaviour (item : Nat)
  deriving DecidableEq, Repr

/-- Why a command has no meaning. -/
inductive Refusal where
  /-- The command is not modelled. Raised by the dispatch only: safe. -/
  | notModelled (mnemonic : String)
  deriving DecidableEq, Repr

/-- The device. Numbered units are sparse maps whose unlisted entries are in their reset state. -/
structure State where
  /-- Commands waiting, first in, first out. -/
  pending : List Instr := []
  /-- PFCLK edges since the chip's phase origin. -/
  now : Nat := 0
  /-- Model's own counter for free values. -/
  freeCtr : Nat := 0
  /-- Messages the device has sent. -/
  outbox : List OutMsg := []
  /-- Data of the last read a command made. -/
  hostOut : Word64 := 0
  hdr : Sparse PageHdr := []
  /-- Pages written after their SOFT_RESET of this cycle, whose reset therefore acts once more when the cycle ends (R386). -/
  redo : List Nat := []
  /-- MSI-X vectors whose mask bit is clear, and pending bits (R391). -/
  msixOn : BitVec 2048 := 0
  msixPend : BitVec 2048 := 0
  /-- Messages and host writes made while the PCIe link was not up, held in order (R382). -/
  pcieHeld : List OutMsg := []
  /-- RW registers by BAR0 byte address (the TSS control block at its event source page). -/
  regs : Sparse Word32 := []
  /-- High-word latches by 2 * address + path (R389). -/
  latches : Sparse Word32 := []
  /-- HBM bytes by key (`hbmKey`: 768 MiB times the pseudo-channel plus the local address), and 64-byte blocks with an
  uncorrectable error. -/
  hbm : List Host.Cell := []
  hbmBad : List Nat := []
  /-- How often a pseudo-channel has lost its contents (R357, R403): a byte not written since reads a free value. -/
  hbmLost : Sparse Nat := []
  seq : Sparse Seq := []
  apg : Sparse Apg := []
  /-- APG tables by BAR2 word address (R146). -/
  apgTab : Sparse Word32 := []
  chan : Sparse Chan := []
  bank : Sparse Bank := []
  /-- Queued bank starts, commit cycle and bank, in order; edge of the last start (R188). -/
  bankQueue : List (Nat × Nat) := []
  bankLastStart : Option Nat := none
  tss : Tss := {}
  cap : Sparse Cap := []
  trg : Trg := {}
  align : Sparse AlignGroup := []
  /-- The fetch merge buffer, oldest block first (R119). -/
  merge : List MergeBlk := []
  td : Sparse TimeDom := []
  pair : Sparse TimePair := []
  sync : SyncState := {}
  cal : Cal := {}
  fuse : Fuse := {}
  sch : Sch := {}
  zp : Sparse Zp := []
  pl : Sparse Pl := []
  pcie : PcieEp := {}
  hmc : Hmc := {}
  we : Sparse We := []
  ce : Sparse Ce := []
  ms : Sparse Ms := []
  ss : Sparse Ss := []
  tim : Sparse Tim := []
  mgt : Mgt := {}
  deriving DecidableEq, Repr

/-- The device right after reset: unpowered, no page brought up by boot, every register at its reset value. -/
def State.reset : State := {}

end Sys2Proof.Machine
end

