-- ==== Sys2Proof/Machine/RegMap.lean ====
section
/-! DEFINITION. The register map: page bases of the blocks (R383), and for every register of a block its offset, its
stored bits, its other non-reserved bits and its reset value. Generic RW storage and its accessors. -/
namespace Sys2Proof.Machine

/-- `n` registers from `off`, `stride` bytes apart. `rw`: bits a write stores; `other`: further bits that are not
reserved (commands, read-only fields). -/
structure RegSpec where
  off : Nat
  n : Nat := 1
  stride : Nat := 4
  rw : Word32 := 0
  other : Word32 := 0
  reset : Word32 := 0
  /-- Read-only. -/
  ro : Bool := false
  deriving DecidableEq, Repr

/-- A read-only register: writes are ignored. -/
def regRo (off : Nat) (n : Nat := 1) : RegSpec := { off := off, n := n, other := 0xFFFFFFFF, ro := true }
/-- A read-write register with all bits stored in `rw`. -/
def regRw (off : Nat) (rw : Word32 := 0xFFFFFFFF) (reset : Word32 := 0) (n : Nat := 1) : RegSpec :=
  { off := off, n := n, rw := rw, reset := reset }
/-- A register of self-clearing commands. -/
def regCmd (off : Nat) (bits : Word32) : RegSpec := { off := off, other := bits }

/-- Pages of the blocks (R383). -/
def pgChip : Nat := 0
def pgRcp : Nat := 1
def pgFuse : Nat := 2
def pgUpd : Nat := 3
def pgMbox : Nat := 4
def pgTime (d : Nat) : Nat := 0x10 + d
def pgZp (p : Nat) : Nat := 0x20 + p
def pgPl (j : Nat) : Nat := 0x30 + j
def pgPcie : Nat := 0x50
def pgPc (n : Nat) : Nat := 0x80 + n
def pgHmc : Nat := 0xC0
def pgSeq (q : Nat) : Nat := 0x100 + q
def pgApg (q : Nat) : Nat := 0x140 + q
def pgCap (s : Nat) : Nat := 0x180 + s
def pgTrg : Nat := 0x200
def pgTim (u : Nat) : Nat := 0x210 + u
def pgMsf (i : Nat) : Nat := 0x240 + i
def pgSsg (i : Nat) : Nat := 0x280 + i
def pgSch : Nat := 0x300
def pgWe (e : Nat) : Nat := 0x310 + e
def pgCe (c : Nat) : Nat := 0x330 + c
def pgCal : Nat := 0x380
def pgCh (c : Nat) : Nat := 0x400 + c
def pgBank (b : Nat) : Nat := 0x600 + b
/-- Event source index of the TSS control block (R390); its registers are kept under this page number. -/
def pgTss : Nat := 0x610

def chipRegs : List RegSpec :=
  [regRo 0x100, regRw 0x104, regRo 0x108 5, regRw 0x11C 0xFFFF 0x3E8, regRo 0x200 49,
   regRw 0x300 0x87FF87FF 0 777]

def rcpRegs : List RegSpec := [regCmd 0x100 0x8000FF00, regRo 0x104 5]

def mboxRegs : List RegSpec := [regCmd 0x100 3, regRo 0x104, regRw 0x200 0xFFFFFFFF 0 16, regRo 0x300 16]

/-- Registers of every TIME page. -/
def timeOddRegs : List RegSpec :=
  [regRw 0x100 0x003F037F, regRo 0x104, regCmd 0x108 7, regRo 0x110 4,
   regRw 0x120 0xFFFFFFFF 0 4, regRo 0x130 5, regRw 0x144, regRo 0x148 2, regRw 0x150,
   regRw 0x164 0xFFFFFFFF 0x3E8, regRw 0x168 0xFFFFFFFF 0x3E8, regRw 0x16C 0xFFFFFFFF 0x186A0,
   regRw 0x170 0xFFFF 0x308, regRo 0x174 2]

/-- With those of the pair, on even pages only. -/
def timeRegs : List RegSpec := timeOddRegs ++ [regRw 0x10C 0xC000FFFF 0x3E8, regRo 0x154 4]

/-- Chip-wide registers of TIME page 0x0010. -/
def time0Regs : List RegSpec :=
  [regRw 0x200 0xB0FFFFFF, regRo 0x204, regRw 0x208 0x3FFFF, regRo 0x20C 5, regRw 0x220 0xFFFF, regRw 0x224,
   regRo 0x228]

def seqRegs : List RegSpec :=
  [{ off := 0x100, rw := 0x111, other := 0xFC000000 }, regRo 0x104 2, regRw 0x10C 0x137F, regRw 0x110 0xFFFFFFFF 0 4,
   regRw 0x120 0xF03F30FF, regRw 0x124 0xFFFFFFFF 0x2710, regRw 0x128 0xFFFFFFFF 0x7D0, regRw 0x12C 0x1BF,
   { off := 0x130, n := 4, other := 0xFFFFFFFF }, regRo 0x140 8, regRw 0x160 0xFFFFFFFF 0 16, regRo 0x1A0 12,
   regRw 0x200 0x14FFFF00 0x44000, regRo 0x204, regRw 0x208 0xFFFFFFFF 0 4, regRw 0x218 0xFFFFFFFF 0x40,
   { off := 0x220, other := 0xFFFFFFFF }, regRw 0x224, regRo 0x228 4, { off := 0x238, rw := 3, other := 0x80000000 }, regRo 0x23C 8,
   regRw 0x25C 3, regRo 0x260 6]

def apgRegs : List RegSpec :=
  [regRw 0x100 0x33, regRo 0x104, regRw 0x108,
   regRo 0x110 2, regRw 0x118 0xFFFFFF, regRw 0x11C 0xFFFFFF 1, regRw 0x120 0xFFFFFF 0xFFFFFF, regRo 0x124 2,
   regRo 0x130 2, regRw 0x138 0xFFFF, regRw 0x13C 0xFFFF 1, regRw 0x140 0xFFFF 0xFFFF, regRo 0x144 2,
   regRo 0x150 2, regRw 0x158 0xFF, regRw 0x15C 0xFF 1, regRw 0x160 0xFF 0xFF, regRo 0x164 2,
   regRw 0x170 0x31F01 0 2, regRw 0x178 0xBFBFBFBF 0 2,
   { off := 0x180, rw := 0x13F03, other := 0x1000000 }, regRw 0x188 0xFFFFFFFF 0 2, regRo 0x190 2,
   regRw 0x198 0xFFFFFFFF 0 2,
   { off := 0x1A0, rw := 0x13F03, other := 0x1000000 }, regRw 0x1A8 0xFFFFFFFF 0 2, regRo 0x1B0 2,
   regRw 0x1B8 0xFFFFFFFF 0 2, regRo 0x1C0 2]

def capRegs : List RegSpec :=
  [regRw 0x100 0x8000003F, regRw 0x104 0xF, regRw 0x108 0x339, regRo 0x10C, regRw 0x110, regRo 0x114 15,
   regRw 0x150 0xFFFFFFFF 0 8, regRw 0x170 0xCFFF3FFF, regRw 0x174 0xFF00FFFF, regRo 0x178 3, regRw 0x184 0xC000001F,
   regRw 0x188 0xFFFFFFFF 0 2, regRw 0x190 0xFFFFFFFF 0x40, regRo 0x194, regRw 0x198 0xFFFFFFFF 0 2, regRo 0x1A0,
   regRo 0x1A8 2, regRw 0x1B0 0xFFFFFFFF 0 2, regRo 0x1B8 4, regRw 0x200 0xFFFFFFFF 0 16, regRo 0x800 512]

def trgRegs : List RegSpec :=
  [regCmd 0x100 0xFF, regCmd 0x104 0xFF, regCmd 0x108 0xFFFF, regRo 0x10C, regRw 0x110 3,
   { off := 0x400, n := 16, stride := 0x40, rw := 0x03030001, other := 0xF0000000 },
   { off := 0x404, n := 16, stride := 0x40, rw := 0x0007033F }, { off := 0x408, n := 16, stride := 0x40, rw := 0xFF0F },
   { off := 0x40C, n := 16, stride := 0x40, rw := 0xFFFFFFFF },
   { off := 0x410, n := 16, stride := 0x40, rw := 0xCFFFFFFF },
   { off := 0x414, n := 16, stride := 0x40, rw := 0xCFFFFFFF },
   { off := 0x418, n := 16, stride := 0x40, rw := 0xCFFFFFFF },
   { off := 0x41C, n := 16, stride := 0x40, rw := 0xCFFFFFFF },
   { off := 0x420, n := 16, stride := 0x40, other := 0xFFFFFFFF, ro := true },
   { off := 0x424, n := 16, stride := 0x40, other := 0xFFFFFFFF, ro := true },
   { off := 0x428, n := 16, stride := 0x40, other := 0xFFFFFFFF, ro := true },
   { off := 0x430, n := 16, stride := 0x40, other := 0xFFFFFFFF, ro := true },
   { off := 0x434, n := 16, stride := 0x40, other := 0xFFFFFFFF, ro := true },
   { off := 0x438, n := 16, stride := 0x40, other := 0xFFFFFFFF, ro := true },
   { off := 0x43C, n := 16, stride := 0x40, other := 0xFFFFFFFF, ro := true }]

def chRegs : List RegSpec :=
  [regRw 0x100 0xC000037F, regRw 0x104 0xF, regRw 0x108 1, { off := 0x10C, rw := 7, other := 0x80000000 }, regRo 0x110,
   regRo 0x120 3, regRo 0x180 3, regRo 0x190 2]

def bankRegs : List RegSpec := [regCmd 0x100 3, regRo 0x104 4]

def tssRegs : List RegSpec :=
  [regCmd 0x100 7, regRw 0x104 0x80FF01FF, regRw 0x108 0xFFFFFFFF 0 8, regRo 0x128 11]

def fuseRegs : List RegSpec :=
  [regCmd 0x100 1, regRo 0x104 3, regRw 0x110 0xFFFFFF, regRo 0x114 3, regRw 0x120 0x3FF, regRo 0x124,
   regRw 0x128 0x1FF, { off := 0x12C, other := 0xFFFFFFFF }, regRo 0x130]

def calRegs : List RegSpec :=
  [regRw 0x100 0x00FF03FB 0x50033, regRo 0x104, regCmd 0x108 3, regRw 0x10C 0xF000FFFF, regRw 0x110 0xFFFFFFFF 0xE10,
   regRw 0x114 0x1F 0x16, regRw 0x118 0xFFFF00FF 0x10000004, regRo 0x11C, regRw 0x120 0xFFFFFFFF 0 16,
   regRw 0x160 0xF000FFFF, regRo 0x164 7, regRw 0x180 0x301FF, { off := 0x184, other := 0xFFFF }]

def schRegs : List RegSpec :=
  [regRw 0x100 0x37FFF 0x100, regRo 0x104, regRw 0x108, regCmd 0x10C 1, regRo 0x110 8,
   { off := 0x200, n := 8, stride := 0x10, other := 0xFFFFFFFF }, { off := 0x204, n := 8, stride := 0x10, rw := 0xFFFFFFFF },
   { off := 0x208, n := 8, stride := 0x10, other := 0xFFFFFFFF, ro := true }, { off := 0x20C, n := 8, stride := 0x10, other := 0xFFFFFFFF, ro := true },
   { off := 0x300, n := 4, stride := 0x20, rw := 0xFFFFFFFF }, { off := 0x304, n := 4, stride := 0x20, rw := 0xFFFFFFFF },
   { off := 0x308, n := 4, stride := 0x20, rw := 0xFFFFFFFF, reset := 0x40 },
   { off := 0x30C, n := 4, stride := 0x20, rw := 0x800007FF }, { off := 0x310, n := 4, stride := 0x20, rw := 0xFFFFFFFF },
   { off := 0x314, n := 4, stride := 0x20, other := 0xFFFFFFFF, ro := true }, { off := 0x318, n := 4, stride := 0x20, other := 0xFFFFFFFF, ro := true }]

def zpRegs : List RegSpec :=
  [{ off := 0x100, rw := 0x80000003, other := 0x40000000, reset := 2 }, regRo 0x104,
   { off := 0x108, rw := 1, other := 0x80000000 }, regRo 0x10C, regRw 0x110 0xFFFFFFFF 0x20, regRo 0x114 4,
   regRw 0x124 0xFFFF 0xFFFF, regRo 0x128 9]

def plRegs : List RegSpec := [{ off := 0x100, rw := 0x80000000, other := 0x40000000 }, regRo 0x104 15]

def pcieRegs : List RegSpec := [regRo 0x100, regRw 0x104 0x3FF, regRo 0x108 4]

def pcRegs : List RegSpec :=
  [regRo 0x100 9, regRw 0x124 0xFFFFFFFF 0x20, regRo 0x128, regRw 0x12C 0xFFFFFFFF 0 3, regRo 0x138, regRw 0x13C, regRo 0x140]

def hmcRegs : List RegSpec :=
  [regRw 0x100 0x8000FFFF 0x64, regRo 0x104 4, { off := 0x114, rw := 0x103, other := 0x80000000 }, regRo 0x118,
   regRw 0x11C 0xFFFFFFFF 8, regRw 0x120 0xFFFFFFFF 0x10, regRo 0x124,
   { off := 0x200, n := 16, stride := 0x20, rw := 0x3FF }, { off := 0x204, n := 16, stride := 0x20, rw := 0x3FF },
   { off := 0x208, n := 16, stride := 0x20, rw := 0xFFFFFFFF }, { off := 0x20C, n := 16, stride := 0x20, rw := 0xFFFFFFFF },
   { off := 0x210, n := 16, stride := 0x20, rw := 0xCF0003FF },
   { off := 0x400, n := 8, stride := 0x20, other := 0xFFFFFFFF, ro := true }, { off := 0x404, n := 8, stride := 0x20, other := 0xFFFFFFFF, ro := true },
   { off := 0x408, n := 8, stride := 0x20, other := 0xFFFFFFFF, ro := true }, { off := 0x40C, n := 8, stride := 0x20, other := 0xFFFFFFFF, ro := true },
   { off := 0x410, n := 8, stride := 0x20, other := 0xFFFFFFFF, ro := true }, { off := 0x414, n := 8, stride := 0x20, other := 0xFFFFFFFF, ro := true }]

def timRegs : List RegSpec :=
  [regCmd 0x100 0xF0000000, regRo 0x104 2, regRw 0x10C 0xC00000FF, regRw 0x110 0xFDFFFFFF 0 2, regRw 0x118 0xFFFFFF 1,
   regRw 0x11C 0xFFFFFFFF 0x3E8, regRw 0x120, regRw 0x124 0xFFFFFFFF 0x3E8, regRw 0x128 0xFF3F33, regRw 0x130 0xFFFFFFFF 0 2,
   regRo 0x138 3, regRo 0x148 12]

def msfRegs : List RegSpec :=
  [{ off := 0x100, rw := 3, other := 0xFC000000 }, regRo 0x104 2, regRw 0x10C 0xC0FF0FFF, regRw 0x110 0x031F0003,
   regRw 0x114 0xFF3F33, regRw 0x118 0xFFFFFFFF 0 2, regRw 0x120 0x80FF3F00, regRw 0x124 0xC0000000, regRw 0x128,
   regRw 0x12C 0xFFFFFFFF 0xC, regRw 0x130 0xFFFFFFFF 0 2, regRw 0x138 0xFFFFFFFF 1, regRw 0x13C, regRo 0x140 2,
   regRw 0x148 0xFFFFFFFF 0 2, regRo 0x150 12]

def ssgRegs : List RegSpec :=
  [{ off := 0x100, rw := 1, other := 0xF0000000 }, regRo 0x104 2, regRw 0x10C 0xFFFF8FFF, regRw 0x110 0x031F0003,
   regRw 0x114 0xFF3F33, regRw 0x118 0xFFFFFFFF 0 2, regRw 0x120 0xBFFFFFFF, { off := 0x124, rw := 0x1FFFF, other := 0x80000000 },
   regRo 0x128 2, regRw 0x130 0x1FF, regRw 0x134 0x3FFFF, regRw 0x138 0xFFFFFFFF 0 2, regRw 0x140 0xFF, regRw 0x144,
   regRw 0x148 1 1, regRw 0x14C 0xFFFFFFFF 0xC, regRo 0x150 12]

def weRegs : List RegSpec :=
  [regRw 0x100 1, regRo 0x104 5, regRw 0x118, regRo 0x11C 6, regRw 0x134, regRw 0x138 0xFFFFFFFF 0 2, regRw 0x140 0x3FFF, regRw 0x144,
   { off := 0x148, other := 0xFF }, regRo 0x14C]

def ceRegs : List RegSpec := [regRo 0x100 6]

def updRegs : List RegSpec := [regRo 0x100 3, regRw 0x10C 0xFFFFFFFF 0xA, regRo 0x110 6]

/-- Register tables by page: first page, page count, registers. -/
def blocks : List (Nat × Nat × List RegSpec) :=
  [(0, 1, chipRegs), (1, 1, rcpRegs), (2, 1, fuseRegs), (3, 1, updRegs), (4, 1, mboxRegs),
   (0x10, 1, timeRegs ++ time0Regs), (0x11, 1, timeOddRegs), (0x12, 1, timeRegs), (0x13, 1, timeOddRegs), (0x20, 6, zpRegs), (0x30, 32, plRegs), (0x50, 1, pcieRegs),
   (0x80, 64, pcRegs), (0xC0, 1, hmcRegs), (0x210, 32, timRegs), (0x240, 64, msfRegs), (0x280, 64, ssgRegs),
   (0x310, 24, weRegs), (0x330, 8, ceRegs),
   (0x100, 64, seqRegs), (0x140, 64, apgRegs), (0x180, 128, capRegs), (0x200, 1, trgRegs), (0x300, 1, schRegs), (0x380, 1, calRegs),
   (0x400, 512, chRegs),
   (0x600, 16, bankRegs), (0x610, 1, tssRegs)]

def blockAt (page : Nat) : List RegSpec :=
  match blocks.find? (fun b => b.1 ≤ page ∧ page < b.1 + b.2.1) with
  | some b => b.2.2
  | none => []

def RegSpec.covers (r : RegSpec) (off : Nat) : Bool :=
  r.off ≤ off ∧ (off - r.off) % r.stride = 0 ∧ (off - r.off) / r.stride < r.n

/-- The description of the register at `off` of a page; none: reserved. -/
def specAt (page off : Nat) : Option RegSpec := (blockAt page).find? (·.covers off)

def resetAt (page off : Nat) : Word32 :=
  match specAt page off with
  | some r => r.reset
  | none => 0

/-- A stored register. -/
def State.reg (s : State) (page off : Nat) : Word32 := sget (resetAt page off) s.regs (page * 0x1000 + off)
def State.regN (s : State) (page off : Nat) : Nat := (s.reg page off).toNat
/-- A stored 64-bit pair, low word at `off`. -/
def State.reg64 (s : State) (page off : Nat) : Nat := s.regN page off + 2 ^ 32 * s.regN page (off + 4)
def State.setReg (s : State) (page off : Nat) (v : Word32) : State :=
  { s with regs := sput s.regs (page * 0x1000 + off) v }
/-- Return every stored register of a page to its reset value, except those `keep` names. -/
def State.resetRegs (s : State) (page : Nat) (keep : Nat → Bool := fun _ => false) : State :=
  { s with regs := s.regs.filter (fun e => e.1 / 0x1000 ≠ page ∨ keep (e.1 % 0x1000)) }

end Sys2Proof.Machine
end

