-- ==== Sys2Proof/Machine/Ops.lean ====
section
/-! DEFINITION. Named operations over the state that every block shares: access to the numbered units, page headers with
errors and events, messages to the host, time domains, HBM through the partition map, trigger conditions and flags. A
block has no exception entry: what a processor would trap on is here an error code, an event or an interrupt message. -/
namespace Sys2Proof.Machine

abbrev Res := Host.Outcome State Fault Refusal

/-! ### Units -/

def State.seqAt (s : State) (q : Nat) : Seq := sget {} s.seq q
def State.setSeq (s : State) (q : Nat) (v : Seq) : State := { s with seq := sput s.seq q v }
def State.modSeq (s : State) (q : Nat) (f : Seq → Seq) : State := s.setSeq q (f (s.seqAt q))
def State.apgAt (s : State) (q : Nat) : Apg := sget {} s.apg q
def State.setApg (s : State) (q : Nat) (v : Apg) : State := { s with apg := sput s.apg q v }
def State.chanAt (s : State) (c : Nat) : Chan := sget {} s.chan c
def State.setChan (s : State) (c : Nat) (v : Chan) : State := { s with chan := sput s.chan c v }
def State.modChan (s : State) (c : Nat) (f : Chan → Chan) : State := s.setChan c (f (s.chanAt c))
def State.bankAt (s : State) (b : Nat) : Bank := sget {} s.bank b
def State.setBank (s : State) (b : Nat) (v : Bank) : State := { s with bank := sput s.bank b v }
def State.capAt (s : State) (i : Nat) : Cap := sget {} s.cap i
def State.setCap (s : State) (i : Nat) (v : Cap) : State := { s with cap := sput s.cap i v }
def State.modCap (s : State) (i : Nat) (f : Cap → Cap) : State := s.setCap i (f (s.capAt i))
def State.unitAt (s : State) (u : Nat) : TrgUnit := sget {} s.trg.units u
def State.setUnit (s : State) (u : Nat) (v : TrgUnit) : State :=
  { s with trg := { s.trg with units := sput s.trg.units u v } }
def State.alignAt (s : State) (g : Nat) : AlignGroup := sget {} s.align g
def State.setAlign (s : State) (g : Nat) (v : AlignGroup) : State := { s with align := sput s.align g v }
def State.tdAt (s : State) (d : Nat) : TimeDom := sget {} s.td d
def State.setTd (s : State) (d : Nat) (v : TimeDom) : State := { s with td := sput s.td d v }
def State.pairAt (s : State) (p : Nat) : TimePair := sget {} s.pair p
def State.setPair (s : State) (p : Nat) (v : TimePair) : State := { s with pair := sput s.pair p v }
def State.hdrAt (s : State) (p : Nat) : PageHdr := sget {} s.hdr p
def State.setHdr (s : State) (p : Nat) (v : PageHdr) : State := { s with hdr := sput s.hdr p v }

def State.zpAt (s : State) (p : Nat) : Zp := sget {} s.zp p
def State.setZp (s : State) (p : Nat) (v : Zp) : State := { s with zp := sput s.zp p v }
def State.modZp (s : State) (p : Nat) (f : Zp → Zp) : State := s.setZp p (f (s.zpAt p))
def State.plAt (s : State) (j : Nat) : Pl := sget {} s.pl j
def State.setPl (s : State) (j : Nat) (v : Pl) : State := { s with pl := sput s.pl j v }
def State.modPl (s : State) (j : Nat) (f : Pl → Pl) : State := s.setPl j (f (s.plAt j))

def State.weAt (s : State) (e : Nat) : We := sget {} s.we e
def State.setWe (s : State) (e : Nat) (v : We) : State := { s with we := sput s.we e v }
def State.modWe (s : State) (e : Nat) (f : We → We) : State := s.setWe e (f (s.weAt e))
def State.ceAt (s : State) (c : Nat) : Ce := sget {} s.ce c
def State.setCe (s : State) (c : Nat) (v : Ce) : State := { s with ce := sput s.ce c v }
def State.modCe (s : State) (c : Nat) (f : Ce → Ce) : State := s.setCe c (f (s.ceAt c))
def State.pcAt (s : State) (n : Nat) : PcUnit := sget {} s.hmc.pcs n
def State.setPc (s : State) (n : Nat) (v : PcUnit) : State := { s with hmc := { s.hmc with pcs := sput s.hmc.pcs n v } }
def State.modPc (s : State) (n : Nat) (f : PcUnit → PcUnit) : State := s.setPc n (f (s.pcAt n))
def State.hportAt (s : State) (q : Nat) : HPort := sget {} s.hmc.ports q
def State.setHport (s : State) (q : Nat) (v : HPort) : State := { s with hmc := { s.hmc with ports := sput s.hmc.ports q v } }
def State.stackAt (s : State) (h : Nat) : HbmStack := sget {} s.hmc.hstacks h
def State.setStack (s : State) (h : Nat) (v : HbmStack) : State :=
  { s with hmc := { s.hmc with hstacks := sput s.hmc.hstacks h v } }

def State.msAt (s : State) (i : Nat) : Ms := sget {} s.ms i
def State.setMs (s : State) (i : Nat) (v : Ms) : State := { s with ms := sput s.ms i v }
def State.modMs (s : State) (i : Nat) (f : Ms → Ms) : State := s.setMs i (f (s.msAt i))
def State.ssAt (s : State) (i : Nat) : Ss := sget {} s.ss i
def State.setSs (s : State) (i : Nat) (v : Ss) : State := { s with ss := sput s.ss i v }
def State.modSs (s : State) (i : Nat) (f : Ss → Ss) : State := s.setSs i (f (s.ssAt i))
def State.timAt (s : State) (u : Nat) : Tim := sget {} s.tim u
def State.setTim (s : State) (u : Nat) (v : Tim) : State := { s with tim := sput s.tim u v }
def State.modTim (s : State) (u : Nat) (f : Tim → Tim) : State := s.setTim u (f (s.timAt u))

/-- Port numbers (R342). -/
def portNo : HbmPort → Nat
  | .vf => 0 | .msss => 1 | .cw => 2 | .bm => 3 | .sw => 4 | .we => 5 | .ha => 6 | .mt => 7

/-- A QUEUE_FULL answer of a port (R344, R346). -/
def State.portRefuses (s : State) (q : Nat) : State :=
  let v := s.hportAt q; s.setHport q { v with refused := sat32 (v.refused + 1) }

/-- Queue depth of a port, and the requests it holds (R342). -/
def portDepth (q : Nat) : Nat := [1024, 256, 512, 512, 256, 256, 256, 64].getD q 0
def State.portQueued (s : State) (q : Nat) : Nat := (s.hmc.reqs.filter (fun r => r.port = q ∧ ¬ r.issued)).length
/-- The queues together hold at most 4,096 requests. -/
def State.portFull (s : State) (q : Nat) : Bool := s.portQueued q ≥ portDepth q ∨ s.hmc.reqs.length ≥ 4096

/-- A list visited in order. -/
def foldState {α : Type} (l : List α) (f : α → State → State) (s : State) : State := l.foldl (fun s a => f a s) s

/-- A fresh free value of `w` bits: what the spec leaves open, and nothing more. -/
def State.fresh (s : State) (w : Nat) : BitVec w × State :=
  (Config.freeBits w s.freeCtr, { s with freeCtr := s.freeCtr + 1 })

/-- `n` free bytes. -/
def State.freshBytes (s : State) (n : Nat) : List Byte × State :=
  ((List.range n).map (fun i => Config.freeBits 8 (s.freeCtr + i)), { s with freeCtr := s.freeCtr + n })

/-! ### Messages to the host -/

/-- Send a message: over PCI Express while the link is up, else held in order (R382); other messages go out at once. -/
def State.send (s : State) (m : OutMsg) : State :=
  match m with
  | .msix _ | .host _ _ =>
    if s.pcie.up then { s with outbox := s.outbox ++ [m] } else { s with pcieHeld := s.pcieHeld ++ [m] }
  | _ => { s with outbox := s.outbox ++ [m] }

/-- Signal an MSI-X vector: a message, or the pending bit of a masked vector (R391). -/
def State.signal (s : State) (vector : Nat) : State :=
  if s.msixOn.getLsbD vector then s.send (.msix vector) else { s with msixPend := setBit s.msixPend vector }

/-! ### Frames to PE chips (R378) -/

/-- The IEEE 802.3 CRC-32 (R333): reflected, initial value and final XOR all ones. -/
def crcBit (c : Word32) : Word32 := if c.getLsbD 0 then (c >>> 1) ^^^ 0xEDB88320 else c >>> 1
def crcByte (c : Word32) (b : Byte) : Word32 :=
  crcBit (crcBit (crcBit (crcBit (crcBit (crcBit (crcBit (crcBit (c ^^^ b.zeroExtend 32))))))))
def crc32 (l : List Byte) : Word32 := l.foldl crcByte 0xFFFFFFFF ^^^ 0xFFFFFFFF

/-- Bytes of words in order, each little-endian. -/
def wordBytes (l : List Word32) : List Byte := l.flatMap (fun w => leBytes 4 w.toNat)

/-- The words of a frame: header, payload, CRC. -/
def frameWords (ftype seq : Nat) (l : List Word32) : List Word32 :=
  let h := BitVec.ofNat 32 (ftype * 2 ^ 28 + seq % 4096 * 2 ^ 16 + l.length * 2 ^ 8)
  h :: l ++ [crc32 (wordBytes (h :: l))]

/-- Send one frame on a PE link. -/
def State.peFrame (s : State) (j ftype : Nat) (l : List Word32) : State :=
  let v := s.plAt j
  (s.setPl j { v with txSeq := (v.txSeq + 1) % 4096 }).send (.pe j (frameWords ftype v.txSeq l))

/-- Send a CTRL frame; it waits for its CTRL_RESP. -/
def State.peCtrl (s : State) (j : Nat) (op : PeOp) : State :=
  let v := s.plAt j
  (s.setPl j { v with txSeq := (v.txSeq + 1) % 4096, ctrl := v.ctrl ++ [{ seq := v.txSeq, op := op, sentAt := s.now }] }).send
    (.peCtrl j v.txSeq op)

/-! ### Messages to Zheind partners -/

/-- Flits of a replay buffer (R369). -/
def replayBuffer : Nat := 2048

def Zp.isUp (v : Zp) : Bool := v.state = .up ∨ v.state = .upHalf

/-- Transmit one sequenced message: SEQ, credit, kept for replay (R369). -/
def State.zpTransmit (s : State) (p : Nat) (m : ZpMsg) : State :=
  let v := s.zpAt p
  (s.setZp p { v with txSeq := (v.txSeq + 1) % 4096, credMsg := v.credMsg - 1,
                      ackAt := if v.kept = [] then s.now else v.ackAt,
                      kept := v.kept ++ [{ seq := v.txSeq, msg := m }] }).send (.zp p m)

/-- A sequenced message may leave: port up, no sparing, a credit, room in the replay buffer. -/
def Zp.canSend (v : Zp) : Bool := v.isUp ∧ ¬ v.txSparing ∧ v.credMsg > 0 ∧ v.kept.length < replayBuffer

/-- Commit a sequenced message to the send queue of a port. -/
def State.zpSend (s : State) (p : Nat) (m : ZpMsg) : State :=
  let v := s.zpAt p
  if v.waiting = [] ∧ v.canSend then s.zpTransmit p m else s.setZp p { v with waiting := v.waiting ++ [m] }

/-- Waiting messages that may leave now, in order. -/
def State.zpDrain (s : State) (p : Nat) : Nat → State
  | 0 => s
  | n + 1 =>
    let v := s.zpAt p
    match v.waiting with
    | m :: l => if v.canSend then ((s.setZp p { v with waiting := l }).zpTransmit p m).zpDrain p n else s
    | [] => s

/-! ### Page headers -/

/-- READY (R386). -/
def PageHdr.ready (h : PageHdr) : Bool := h.up && !h.busy
def State.ready (s : State) (page : Nat) : Bool := (s.hdrAt page).ready && (s.hdrAt page).resetEdge != s.now + 1

/-- The page's SOFT_RESET committed in this cycle: another write of the cycle acts first, and the reset after it (R386). -/
def State.resetNow (s : State) (page : Nat) : Bool := (s.hdrAt page).up && (s.hdrAt page).resetEdge == s.now + 1
def State.redoReset (s : State) (page : Nat) : State :=
  if s.resetNow page then { s with redo := page :: s.redo.erase page } else s

/-- A write to an offset at 0x100 or above takes effect only while READY is 1, or in the cycle of the SOFT_RESET (R386). -/
def State.whenReady (s : State) (page : Nat) (f : State → State) : State :=
  if s.ready page then f s else if s.resetNow page then f (s.redoReset page) else s

/-- EVT_PEND and the page summary (R390). -/
def PageHdr.pend (h : PageHdr) : Word32 := h.evtRaw &&& ~~~ h.evtMask
def PageHdr.summary (h : PageHdr) : Bool := h.pend ≠ 0 ∧ h.enable

/-- Route entry of a source: enabled and vector (R390). -/
def State.route (s : State) (page : Nat) : Option Nat :=
  let w := s.regN pgChip (0x300 + 4 * (page / 2))
  let e := if page % 2 = 0 then w % 65536 else w / 65536
  if e ≥ 32768 then some (e % 2048) else none

/-- The summary of a source rises (R391). -/
def State.rise (s : State) (page : Nat) : State :=
  match s.route page with
  | some v => s.signal v
  | none => s

/-- Set event bits of a page; a rise of its summary sends the routed message (R390, R391). -/
def State.raiseEvt (s : State) (page : Nat) (bits : Word32) : State :=
  let h := s.hdrAt page
  let now := if h.evtEdge = s.now + 1 then h.evtNow ||| bits else bits
  let h' := { h with evtRaw := h.evtRaw ||| bits, evtEdge := s.now + 1, evtNow := now }
  let s' := s.setHdr page h'
  if h'.summary ∧ ¬ h.summary then s'.rise page else s'

/-- Record an error (R385): only while ERROR is 0; of two errors of one cycle the lower code stands. -/
def State.recordErr (s : State) (page : Nat) (code : BitVec 16) (info : Word32 := 0) : State :=
  let h := s.hdrAt page
  let cyc := match h.errCyc with
    | some (e, c, i) => if e = s.now ∧ c ≤ code then (e, c, i) else (s.now, code, info)
    | none => (s.now, code, info)
  if ¬ h.error ∨ h.errEdge = s.now + 1 then
    s.setHdr page { h with error := true, errCode := cyc.2.1, errInfo := cyc.2.2, errEdge := s.now + 1,
                           errCyc := some cyc }
  else s.setHdr page { h with errCyc := some cyc }

/-- A soft reset of a page ends: its header returns to its reset values, except EVT_MASK, and READY is set (R386). -/
def State.pageResetDone (s : State) (page : Nat) : State :=
  let h := s.hdrAt page
  s.setHdr page { up := h.up, evtMask := h.evtMask, resetEdge := h.resetEdge }

/-- Error codes used by several blocks (ERR_CODE table). -/
def errAssignBusy : BitVec 16 := 0x0001

/-! ### Time domains (R302, R309) -/

/-- Units of 2.5 ns / 2^40 in one second. -/
def unitsPerSec : Nat := 400000000 * 2 ^ 40

/-- Pair of a domain in redundant operation: PAIR_CFG.EN of the even page. -/
def State.pairEn (s : State) (d : Nat) : Bool := (s.reg (pgTime (d / 2 * 2)) 0x10C).getLsbD 31

/-- Active member of the pair of a domain, or the domain itself. -/
def State.activeMember (s : State) (d : Nat) : Nat :=
  if s.pairEn d then d / 2 * 2 + (if (s.pairAt (d / 2)).activeOdd then 1 else 0) else d

/-- Time of a domain as its consumers see it, in units of 2.5 ns / 2^40 (R309). -/
def State.time (s : State) (d : Nat) : Nat :=
  if s.pairEn d then (((s.tdAt (s.activeMember d)).t : Int) + (s.pairAt (d / 2)).ofs).toNat
  else (s.tdAt d).t

/-- Short timestamp of a time (R302): seconds and fraction, rounded to the fraction LSB. -/
def shortTs (t : Nat) : Word64 := BitVec.ofNat 64 ((t + 781250) / 1562500)

/-- Short timestamp of domain `d` now. -/
def State.stamp (s : State) (d : Nat) : Word64 := shortTs (s.time d)

/-- Advance of a domain per PFCLK edge. -/
def State.rateOf (s : State) (d : Nat) : Int := (s.tdAt (s.activeMember d)).rate

/-- Short timestamp of the instant `fine` (absolute fine steps) at the domain's current rate (R313). -/
def State.stampAt (s : State) (d : Nat) (fine : Nat) : Word64 :=
  let dt := ((fine : Int) - (s.now : Int) * 4096) * (2 ^ 40 + s.rateOf d) / 4096
  shortTs ((s.time d : Int) + dt).toNat

/-- A short-timestamp instant has passed (R303). -/
def tsPassed (n i : Word64) : Bool := (n - i).toNat < 2 ^ 63

/-- Five times the units of `n` nanoseconds, and of a time: exact comparison of an instant plus nanoseconds. -/
def nsUnits5 (n : Nat) : Nat := n * 2 ^ 41
def State.time5 (s : State) (d : Nat) : Nat := 5 * s.time d

/-! ### HBM (R339 to R341, R351) -/

/-- Partition entry `p` enabled, base, size, mask, grain and local offset (R339). -/
structure Part where
  en : Bool
  base : Nat
  size : Nat
  mask : Word64
  grain : Nat
  ofs : Nat
  deriving DecidableEq, Repr

def State.part (s : State) (p : Nat) : Part :=
  let cfg := s.reg pgHmc (0x210 + 0x20 * p)
  { en := cfg.getLsbD 31, base := s.regN pgHmc (0x200 + 0x20 * p) % 1024,
    size := s.regN pgHmc (0x204 + 0x20 * p) % 1024,
    mask := pair64 (s.reg pgHmc (0x208 + 0x20 * p)) (s.reg pgHmc (0x20C + 0x20 * p)),
    grain := 8 + fld cfg 24 4, ofs := fld cfg 0 10 }

/-- Bytes of one pseudo-channel. -/
def pcBytes : Nat := 768 * 2 ^ 20

/-- Where an address of an entry lies: pseudo-channel and local address (R340). -/
def Part.locate (e : Part) (a : Nat) : Option (Nat × Nat) :=
  let pcs := setBits e.mask
  let o := a - e.base * 2 ^ 26
  let g := o >>> e.grain
  match pcs[g % pcs.length]? with
  | some pc => some (pc, e.ofs * 2 ^ 20 + ((g / pcs.length) <<< e.grain) + o % 2 ^ e.grain)
  | none => none

/-- Pseudo-channel and local address of a device address; none: UNMAPPED (R341). -/
def State.locate (s : State) (a : Nat) : Option (Nat × Nat) :=
  match (List.range 16).find? (fun p =>
      let e := s.part p; e.en ∧ e.base * 2 ^ 26 ≤ a ∧ a < (e.base + e.size) * 2 ^ 26) with
  | some p => (s.part p).locate a
  | none => none

/-- Key of a byte in `State.hbm`. -/
def hbmKey (x : Nat × Nat) : Nat := x.1 * pcBytes + x.2

/-- What a byte that nothing has written reads as: zero (assumption 2), or a free value where the pseudo-channel has lost
its contents (R357, R403). -/
def State.hbmBlank (s : State) (k : Nat) : Byte :=
  match sget 0 s.hbmLost (k / pcBytes) with
  | 0 => blankByte
  | g + 1 => Config.lostByte g k

/-- The byte stored at a key. -/
def State.hbmGet (s : State) (k : Nat) : Byte := sget (s.hbmBlank k) s.hbm k

/-- One byte of HBM; none: unmapped. -/
def State.hbmByte (s : State) (a : Nat) : Option Byte := (s.locate a).map (fun x => s.hbmGet (hbmKey x))

/-- Store one byte at a key in canonical form. -/
def State.hbmSet (s : State) (k : Nat) (b : Byte) : State :=
  { s with hbm := if b = s.hbmBlank k then sdel s.hbm k else sput s.hbm k b }

/-- A pseudo-channel loses its contents. -/
def State.hbmLose (s : State) (pc : Nat) : State :=
  { s with hbm := s.hbm.filter (fun e => e.1 / pcBytes ≠ pc), hbmLost := sput s.hbmLost pc (sget 0 s.hbmLost pc + 1) }

/-- The canonical form of HBM: keys strictly rising, no entry equal to what an unlisted key reads as. -/
def State.hbmWf (s : State) : Bool := keysRise s.hbm && s.hbm.all (fun e => e.2 != s.hbmBlank e.1)

/-- The worse of two statuses: RESET, UNMAPPED, ECC, OK. -/
def worstOf : HbmStatus → HbmStatus → HbmStatus
  | .reset, _ | _, .reset => .reset
  | .unmapped, _ | _, .unmapped => .unmapped
  | .ecc, _ | _, .ecc => .ecc
  | .ok, .ok => .ok

/-- Status of one address from the stored state: unmapped, a pseudo-channel in reset or failed (R357, R358), or an
uncorrectable block (R351). -/
def State.addrStatus (s : State) (a : Nat) : HbmStatus :=
  match s.locate a with
  | none => .unmapped
  | some x =>
    if (s.pcAt x.1).state = .resetting ∨ (s.pcAt x.1).state = .failed then .reset
    else if s.hbmBad.contains (hbmKey x / 64) then .ecc else .ok

/-- Read `n` bytes. An unmapped byte reads 0 beside a status that says so. -/
def State.hbmRead (s : State) (a n : Nat) : List Byte :=
  (List.range n).map (fun i => ((s.hbmByte (a + i)).getD 0))

/-- Status of a read of `n` bytes from the stored state. -/
def State.readStatus (s : State) (a n : Nat) : HbmStatus :=
  (List.range n).foldl (fun r i => worstOf r (s.addrStatus (a + i))) .ok

def State.hbmNat (s : State) (a n : Nat) : Nat := leNat (s.hbmRead a n)

/-- Write one byte. -/
def State.hbmPut (s : State) (a : Nat) (b : Byte) : State :=
  match s.locate a with
  | some x => s.hbmSet (hbmKey x) b
  | none => s

/-- Write bytes from `a` upward. -/
def State.hbmWrite (s : State) (a : Nat) (l : List Byte) : State :=
  match l with
  | [] => s
  | b :: t => (s.hbmPut a b).hbmWrite (a + 1) t

/-- A write of a whole block clears its uncorrectable mark (R351). -/
def State.hbmHeal (s : State) (a n : Nat) : State :=
  let first := (a + 63) / 64 * 64
  { s with hbmBad := s.hbmBad.filter (fun k =>
      ¬ ((List.range (n / 64)).any (fun j => first + 64 * j + 64 ≤ a + n ∧
          (s.locate (first + 64 * j)).map (fun x => hbmKey x / 64) = some k))) }

/-- Write the bytes whose block takes a write: mapped, in service and not uncorrectable. -/
def State.hbmWriteSome (s : State) (a : Nat) (l : List Byte) : State :=
  match l with
  | [] => s
  | b :: t => (if s.addrStatus a = .ok then s.hbmPut a b else s).hbmWriteSome (a + 1) t

/-- A write request with the completion `res` the controller reports (assumption 110 where that is not OK). An uncorrectable
block that the write touches without covering is left unchanged, its other blocks are written, and it completes with ECC
(R351). -/
def State.hbmWriteReq (s : State) (a : Nat) (l : List Byte) (res : HbmStatus) : HbmStatus × State :=
  let s1 := s.hbmHeal a l.length
  let st := s1.readStatus a l.length
  match res with
  | .ok => if st = .ok then (.ok, s1.hbmWrite a l) else (st, s1.hbmWriteSome a l)
  | r => (worstOf r st, s)

/-! ### Trigger conditions and chip flags -/

/-- A condition true in cycle `e` (R210). -/
def State.cond (s : State) (e : Nat) (c : CondEv) : State :=
  { s with trg := { s.trg with conds := s.trg.conds ++ [(e, c)] } }

/-- Flags as committed before the current cycle, with the ops of an earlier cycle settled (R87, R88). -/
def Trg.settle (t : Trg) (now : Nat) : Trg :=
  if t.flagEdge < now then
    { t with flags := (t.flags &&& ~~~ t.flagClrs) ||| t.flagSets, flagEdge := now, flagSets := 0, flagClrs := 0 }
  else t

/-- Chip flags with every committed write: what a read after this cycle shows. A set wins over a clear (R88). -/
def Trg.flagsNow (t : Trg) : BitVec 8 := (t.flags &&& ~~~ t.flagClrs) ||| t.flagSets

/-- Set and clear chip flags in this cycle; `e` is the cycle in which a set counts as a condition (R210, R211). -/
def State.flagOps (s : State) (sets clrs : BitVec 8) (e : Nat) : State :=
  let t := s.trg.settle s.now
  let rises := (List.range 8).filter (fun i => sets.getLsbD i ∧ ¬ t.flags.getLsbD i ∧ ¬ t.flagSets.getLsbD i)
  let s' := { s with trg := { t with flagSets := t.flagSets ||| sets, flagClrs := t.flagClrs ||| clrs } }
  foldState rises (fun i s => s.cond e (.flag i)) s'

/-- Pulse TRIG_OUT lines after PFCLK edge `e` (R111, R212): the lines rise when that edge comes. -/
def State.pulse (s : State) (mask : BitVec 4) (e : Nat) : State :=
  { s with trg := { s.trg with outPend := s.trg.outPend ++ (setBits mask).map (fun i => (i, e)) } }

/-- The pulses of edge `now` or before begin: one that overlaps a running pulse merges with it, and the merged pulse ends
10 ns after the last of them began. -/
def State.trigTick (s : State) : State :=
  let due := s.trg.outPend.filter (fun x => x.2 ≤ s.now)
  let s := { s with trg := { s.trg with outPend := s.trg.outPend.filter (fun x => ¬ x.2 ≤ s.now) } }
  foldState due (fun x s =>
    let s1 := if s.trg.out.getLsbD x.1 then s else { s with outbox := s.outbox ++ [.trigOut x.1 x.2] }
    { s1 with trg := { s1.trg with out := setBit s1.trg.out x.1,
                                   outEnd := s1.trg.outEnd.set x.1 (max (s1.trg.outEnd.getD x.1 0) (x.2 + 4)) } }) s

/-- XT levels decoded before the current cycle. -/
def Trg.xtBefore (t : Trg) (now : Nat) : BitVec 8 := if t.xtEdge < now then t.xtNow else t.xtPrev

end Sys2Proof.Machine
end

