-- ==== Sys2Proof/Machine/Operands.lean ====
section
/-! DEFINITION. Operand forms: the 64-bit pattern instruction word and its operand fields, cast headers, segment table
entries, the fetch of instructions and payload records, and the channel-map entry. -/
namespace Sys2Proof.Machine

/-- Fields of a pattern instruction word (R75). -/
structure PatInstr where
  op : Nat
  pz : Bool
  rt : Bool
  tsm : Nat
  ts : Nat
  as : Bool
  run : Nat
  opd : Word32
  deriving DecidableEq, Repr

def PatInstr.ofWord (w : Word64) : PatInstr :=
  { op := fld w 58 6, pz := bit w 57, rt := bit w 56, tsm := fld w 54 2, ts := fld w 46 8, as := bit w 45,
    run := fld w 32 13, opd := w.extractLsb' 0 32 }

/-- Opcodes (table of R75). -/
def opEmit : Nat := 0x01
def opRpt : Nat := 0x02
def opLoop : Nat := 0x03
def opEndl : Nat := 0x04
def opCall : Nat := 0x05
def opRet : Nat := 0x06
def opJmp : Nat := 0x07
def opJif : Nat := 0x08
def opMatch : Nat := 0x09
def opWait : Nat := 0x0A
def opMark : Nat := 0x0B
def opTset : Nat := 0x0C
def opApg : Nat := 0x0D
def opSmask : Nat := 0x0E
def opAlign : Nat := 0x0F
def opStop : Nat := 0x10

/-- Operand fields. -/
def PatInstr.target (i : PatInstr) : Nat := fld i.opd 0 24
def PatInstr.jcond (i : PatInstr) : Nat := fld i.opd 24 8
def PatInstr.matchAny (i : PatInstr) : Bool := bit i.opd 31
def PatInstr.matchLimit (i : PatInstr) : Nat := fld i.opd 0 24
def PatInstr.waitTd (i : PatInstr) : Nat := fld i.opd 30 2
def PatInstr.waitNs (i : PatInstr) : Nat := fld i.opd 0 30
def PatInstr.markId (i : PatInstr) : Nat := fld i.opd 24 8
def PatInstr.markTrig (i : PatInstr) : BitVec 4 := i.opd.extractLsb' 20 4
def PatInstr.markStamp (i : PatInstr) : Bool := bit i.opd 19
def PatInstr.markSet (i : PatInstr) : BitVec 8 := i.opd.extractLsb' 8 8
def PatInstr.markClr (i : PatInstr) : BitVec 8 := i.opd.extractLsb' 0 8
def PatInstr.tsetList (i : PatInstr) : List Nat :=
  [i.ts, fld i.opd 8 8, fld i.opd 16 8, fld i.opd 24 8].take (fld i.opd 0 2 + 1)
def PatInstr.apgEach (i : PatInstr) : Bool := bit i.opd 31
def PatInstr.smaskAct (i : PatInstr) : Nat := fld i.opd 30 2
def PatInstr.smaskHalf (i : PatInstr) : Nat := fld i.opd 16 3
def PatInstr.smaskBits (i : PatInstr) : BitVec 16 := i.opd.extractLsb' 0 16

/-- Static vectors an instruction owns (R99). -/
def PatInstr.owned (i : PatInstr) : Nat := if i.op = opRpt then 1 else i.run + 1

/-- Reserved operand bits of each opcode that must be 0 (R75). -/
def PatInstr.reserved (i : PatInstr) : Bool :=
  let z := fun (m : Word32) => i.opd &&& m ≠ 0
  if i.op = opEmit ∨ i.op = opEndl ∨ i.op = opRet ∨ i.op = opAlign ∨ i.op = opStop then z 0xFFFFFFFF
  else if i.op = opCall ∨ i.op = opJmp then z 0xFF000000
  else if i.op = opMatch then z 0x7F000000
  else if i.op = opMark then z 0x00070000
  else if i.op = opTset then z 0x000000FC
  else if i.op = opSmask then z 0x3FF80000
  else false

/-- A condition byte of a JIF that the table lists (R86). -/
def jcondValid (c : Nat) : Bool :=
  let kind := c / 8 % 8
  let idx := c % 8
  (kind = 0 ∧ idx = 0) ∨ (kind = 1 ∧ idx = 0) ∨ (kind = 2 ∧ idx = 0) ∨ kind = 3 ∨ kind = 4

/-- An APG operation word with a reserved action code or a non-zero bit in [15:0] (R137). -/
def apgOpBad (w : Word32) : Bool :=
  fld w 0 16 ≠ 0 ∨ fld w 28 3 ≥ 6 ∨ fld w 25 3 ≥ 6 ∨ fld w 22 3 ≥ 6 ∨ fld w 19 3 ≥ 6 ∨ fld w 16 3 ≥ 6

/-- Operand faults that act before the instruction issues a vector (R75, R83, R89); in a version 2 cast RT must be 0
(R106). -/
def PatInstr.operandBad (i : PatInstr) (version : Nat) : Bool :=
  i.reserved ∨ i.tsm = 3 ∨ (i.rt ∧ (i.op ≠ opLoop ∨ version = 2)) ∨ (i.op = opRpt ∧ (i.run ≠ 0 ∨ i.opd = 0)) ∨
  (i.op = opLoop ∧ i.opd = 0) ∨ (i.op = opMatch ∧ i.matchLimit = 0) ∨ (i.op = opWait ∧ i.waitNs = 0) ∨
  (i.op = opSmask ∧ i.smaskAct = 3) ∨ (i.op = opJif ∧ jcondValid i.jcond = false) ∨
  (i.op = opApg ∧ apgOpBad i.opd)

/-- A legal opcode. -/
def PatInstr.legalOp (i : PatInstr) : Bool := 1 ≤ i.op ∧ i.op ≤ 0x10

/-! ### Cast headers (R104, R106) -/

def State.u32 (s : State) (a : Nat) : Nat := s.hbmNat a 4

/-- The header of a version 3 or version 2 cast; `map` is left empty. -/
def State.readHeader (s : State) (base : Nat) : CastInfo :=
  let v := s.hbmNat (base + 4) 2
  if v = 2 then
    { version := 2, base := base, instrCount := s.u32 (base + 8), segCount := 1, instrOff := s.hbmNat (base + 0x10) 8,
      f4Off := s.hbmNat (base + 0x18) 8, f4Bytes := s.hbmNat (base + 0x2A) 2, idleTs := s.hbmNat (base + 0x2C) 1,
      staticVectors := s.hbmNat (base + 0x30) 8 }
  else
    { version := v, base := base, instrCount := s.u32 (base + 8), segCount := s.u32 (base + 0xC),
      instrOff := s.hbmNat (base + 0x10) 8, segtabOff := s.hbmNat (base + 0x18) 8, f4Off := s.hbmNat (base + 0x20) 8,
      s8Off := s.hbmNat (base + 0x28) 8, f4Bytes := s.hbmNat (base + 0x3C) 2, s8Bytes := s.hbmNat (base + 0x3E) 2,
      idleTs := s.hbmNat (base + 0x4A) 1, retainBytes := s.hbmNat (base + 0x50) 8,
      staticVectors := s.hbmNat (base + 0x58) 8, jumpTgt := (List.range 4).map (fun j => s.u32 (base + 0x60 + 4 * j)) }

/-- CMAP_OFF and CMAP_COUNT with its limit and the byte offsets of the fields an arm checks (R437). -/
structure CmapHdr where
  off : Nat
  count : Nat
  limit : Nat
  countAt : Nat
  f4At : Nat
  s8At : Nat
  deriving DecidableEq, Repr

def State.cmapHdr (s : State) (base : Nat) : CmapHdr :=
  if s.hbmNat (base + 4) 2 = 2 then
    { off := s.hbmNat (base + 0x20) 8, count := s.hbmNat (base + 0x28) 2, limit := 256, countAt := 0x28, f4At := 0x2A,
      s8At := 0 }
  else
    { off := s.hbmNat (base + 0x30) 8, count := s.u32 (base + 0x38), limit := 512, countAt := 0x38, f4At := 0x3C,
      s8At := 0x3E }

/-- A channel-map entry (R98, R100): source, APG kind, fixed symbol, APG selection and bit, channel. -/
def mapSrc (e : Word32) : Nat := fld e 30 2
def mapKind (e : Word32) : Nat := fld e 28 2
def mapFixed (e : Word32) : Nat := fld e 24 4
def mapSel (e : Word32) : Nat := fld e 20 4
def mapBit (e : Word32) : Nat := fld e 14 6
def mapChan (e : Word32) : Nat := fld e 0 9

/-- The channel map with the override of R107 and the half of a version 2 cast (R106). -/
def State.readMap (s : State) (base ovr : Nat) (half : Bool) : List Word32 :=
  let h := s.cmapHdr base
  let v2 := s.hbmNat (base + 4) 2 = 2
  (List.range h.count).map (fun j =>
    let e := BitVec.ofNat 32 (s.u32 (base + h.off + 4 * j))
    let src := if ovr = 0 then e else BitVec.ofNat 32 (s.u32 (ovr + 4 * j))
    let ch := if v2 then fld src 0 8 + (if half then 256 else 0) else fld src 0 9
    BitVec.ofNat 32 (e.toNat / 512 * 512 + ch))

/-- Bytes of a record of `n` fields of `w` bits padded to 64 bits (R100). -/
def recordBytes (n w : Nat) : Nat := (n * w + 63) / 64 * 8

/-- Index of the first repeated channel of a map. -/
def repeatedAt (l : List Word32) : Option Nat :=
  (List.range l.length).find? (fun j => (l.take j).any (fun e => mapChan e = mapChan (l.getD j 0)))

/-- Channels of a sequencer's map. -/
def CastInfo.chans (c : CastInfo) : List Nat := c.map.map mapChan
def Seq.uses (q : Seq) (c : Nat) : Bool := q.cast.chans.contains c

/-! ### Segments (R108, R122) -/

/-- Entry `k` as the table in HBM holds it; a version 2 cast is one resident segment (R105). -/
def State.segEnt (s : State) (c : CastInfo) (k : Nat) : SegEnt :=
  if c.version = 2 then
    { first := 0, count := c.instrCount, vectors := 0, flags := 0, payloadFirst := 0, streamSeq := 0xFFFFFFFF,
      imageBytes := 0 }
  else
    let a := c.base + c.segtabOff + 32 * k
    { first := s.u32 a, count := s.u32 (a + 4), vectors := s.u32 (a + 8), flags := s.u32 (a + 12),
      payloadFirst := s.hbmNat (a + 16) 8, streamSeq := s.u32 (a + 24), imageBytes := s.u32 (a + 28) }

def SegEnt.streamed (e : SegEnt) : Bool := e.flags % 2 = 1
def SegEnt.calSafe (e : SegEnt) : Bool := e.flags / 2 % 2 = 1
def SegEnt.trigOut (e : SegEnt) : BitVec 4 := BitVec.ofNat 4 (e.flags / 16)

/-- Byte address of entry `k`. -/
def CastInfo.segAddr (c : CastInfo) (k : Nat) : Nat := c.base + c.segtabOff + 32 * k

/-- Entry `k` of the armed cast of `q`: as VFS has read it, or from the table (R108). -/
def State.seg (s : State) (q k : Nat) : SegEnt :=
  match (s.seqAt q).vfs.segs.find? (fun e => e.1 = k) with
  | some e => e.2
  | none => s.segEnt (s.seqAt q).cast k

/-- Entry `k` breaks R108. -/
def State.segBreaks (s : State) (q k : Nat) : Bool :=
  let c := (s.seqAt q).cast
  let e := s.seg q k
  let prevEnd := if k = 0 then 0 else (s.seg q (k - 1)).first + (s.seg q (k - 1)).count
  c.version ≠ 2 ∧ (k ≥ c.segCount ∨ e.first ≠ prevEnd ∨ e.count = 0 ∨ e.first + e.count > c.instrCount ∨
    e.vectors % 64 ≠ 0 ∨ e.vectors < 2048)

/-- Segment of instruction `i`, and whether its entry could not be read or breaks R108. Where no entry holds `i`, the
first entry that breaks the rules, or SEG_COUNT. A version 2 cast is one segment, left beyond INSTR_COUNT (assumption
84). -/
def State.segFind (s : State) (q i : Nat) : Nat × Bool :=
  let v := s.seqAt q
  if v.cast.version = 2 then (0, decide (v.cast.instrCount ≤ i))
  else match (List.range v.cast.segCount).find? (fun k => let e := s.seg q k; e.first ≤ i ∧ i < e.first + e.count) with
    | some k => (k, s.segBreaks q k || v.vfs.segBad.contains k)
    | none => (((List.range v.cast.segCount).find? (s.segBreaks q)).getD v.cast.segCount, true)

/-- A ring address of a stream window: base, size in bytes, byte count. -/
def ringAddr (base size b : Nat) : Nat := if size = 0 then base else base + b % size

def State.strmBase (s : State) (q : Nat) : Nat := s.reg64 (pgSeq q) 0x210
def State.strmBytes (s : State) (q : Nat) : Nat := s.regN (pgSeq q) 0x218 * 2 ^ 20

/-- Start byte count of the image of segment `k` in the window. -/
def Seq.imageAt (v : Seq) (k : Nat) : Nat := ((v.images.find? (fun e => e.1 = k)).map (·.2)).getD 0

/-- `n` bytes from byte `o` of the image of segment `k`. -/
def State.imageNat (s : State) (q k o n : Nat) : Nat :=
  leNat ((List.range n).map (fun j =>
    (s.hbmByte (ringAddr (s.strmBase q) (s.strmBytes q) ((s.seqAt q).imageAt k + o + j))).getD 0))

def pad64 (n : Nat) : Nat := (n + 63) / 64 * 64

/-- Instruction word `i` of segment `k`: from the cast image, or from the stream window (R122). -/
def State.fetchWord (s : State) (q k i : Nat) : Word64 :=
  let c := (s.seqAt q).cast
  let e := s.seg q k
  BitVec.ofNat 64 (if e.streamed then s.imageNat q k (64 + 8 * (i - e.first)) 8
                   else s.hbmNat (c.base + c.instrOff + 8 * i) 8)

def State.fetchInstr (s : State) (q k i : Nat) : PatInstr := PatInstr.ofWord (s.fetchWord q k i)

/-- Static vectors of the `n` instructions from `i` (R99, R103). -/
def State.staticSum (s : State) (q k i : Nat) : Nat → Nat
  | 0 => 0
  | n + 1 => (s.fetchInstr q k i).owned + s.staticSum q k (i + 1) n

/-- Where the F4 and the S8 record of static vector `o` of segment `k` lie: ring offset in the image of a streamed segment,
or byte address. -/
def State.f4At (s : State) (q k o : Nat) : Nat :=
  let c := (s.seqAt q).cast
  let e := s.seg q k
  if e.streamed then 64 + pad64 (8 * e.count) + c.f4Bytes * o else c.base + c.f4Off + c.f4Bytes * (e.payloadFirst + o)
def State.s8At (s : State) (q k o : Nat) : Nat :=
  let c := (s.seqAt q).cast
  let e := s.seg q k
  if e.streamed then 64 + pad64 (8 * e.count) + pad64 (c.f4Bytes * e.vectors) + c.s8Bytes * o
  else c.base + c.s8Off + c.s8Bytes * (e.payloadFirst + o)

/-- `n` bytes of segment `k` at such a place, and the worst stored status of them. -/
def State.segNat (s : State) (q k a n : Nat) : Nat :=
  if (s.seg q k).streamed then s.imageNat q k a n else s.hbmNat a n
def State.segStatus (s : State) (q k a n : Nat) : HbmStatus :=
  if (s.seg q k).streamed then
    (List.range n).foldl (fun r j => worstOf r (s.addrStatus
      (ringAddr (s.strmBase q) (s.strmBytes q) ((s.seqAt q).imageAt k + a + j)))) .ok
  else s.readStatus a n

/-- Worst stored status of the instruction word `i` and the records of static vector `o` of segment `k`. -/
def State.vecStatus (s : State) (q k i o : Nat) : HbmStatus :=
  let c := (s.seqAt q).cast
  let e := s.seg q k
  worstOf (s.segStatus q k (if e.streamed then 64 + 8 * (i - e.first) else c.base + c.instrOff + 8 * i) 8)
    (worstOf (s.segStatus q k (s.f4At q k o) c.f4Bytes) (s.segStatus q k (s.s8At q k o) c.s8Bytes))

end Sys2Proof.Machine
end

