-- ==== Sys2Proof/Machine/CalOps.lean ====
section
/-! DEFINITION. Use of channels and banks by sequencers, and the corrections of CAL: staging, entry into force, figures
(R317, R326 to R329). -/
namespace Sys2Proof.Machine

/-- In progress: ARMED, RUNNING, HOLD, or IDLE with ARMING (R36). -/
def Seq.inProgress (v : Seq) : Bool :=
  v.state = .armed ∨ v.state = .running ∨ v.state = .hold ∨ v.arming ≠ .none
/-- In progress after an accepted arm, so that its channel map is known. -/
def Seq.engaged (v : Seq) : Bool :=
  v.state = .armed ∨ v.state = .running ∨ v.state = .hold ∨ v.arming = .prefill

def State.inProgress (s : State) (q : Nat) : Bool := (s.seqAt q).inProgress

/-- The in-progress sequencer whose channel map holds channel `c` (R14). -/
def State.chanUser (s : State) (c : Nat) : Option Nat :=
  (List.range 64).find? (fun q => (s.seqAt q).engaged ∧ (s.seqAt q).uses c)
def State.chanInUse (s : State) (c : Nat) : Bool := (s.chanUser c).isSome

/-- An arm that uses channel `c` was accepted in this cycle, and no earlier (R185). -/
def State.chanArmedNow (s : State) (c : Nat) : Bool :=
  (s.chanUser c).any (fun q => (s.seqAt q).acceptEdge = s.now + 1)
/-- A burst that used channel `c` entered its final state in this cycle. -/
def State.chanFinalNow (s : State) (c : Nat) : Option Nat :=
  (List.range 64).find? (fun q => (s.seqAt q).finalEdge = s.now + 1 ∧ ¬ (s.seqAt q).inProgress ∧ (s.seqAt q).uses c)
/-- The arm of sequencer `q` was taken up in this cycle: a write of the same cycle takes effect first (R74, R135, R217). -/
def State.tookUp (s : State) (q : Nat) : Bool := (s.seqAt q).armEdge = s.now + 1 ∧ (s.seqAt q).arming = .header

/-- Sequencers that use bank `b` (R187). -/
def Seq.usesBank (v : Seq) (b : Nat) : Bool := v.cast.chans.any (fun c => c / 32 = b)
def State.bankUsers (s : State) (b : Nat) : List Nat :=
  (List.range 64).filter (fun q => (s.seqAt q).engaged ∧ (s.seqAt q).usesBank b)

/-! ### Trims and terms -/

/-- A trim item in force: from a record, or the factory fuses (R330, R334). -/
def State.trim (s : State) (i : Nat) : BitVec 16 :=
  let w := sget 0 s.fuse.words (i / 2)
  sget (if i % 2 = 0 then w.extractLsb' 0 16 else w.extractLsb' 16 16) s.fuse.items i

/-- Reference path delay of the bank of channel `c`: DAT, EN, CMP (items 16 to 271). -/
def State.bankRef (s : State) (c x : Nat) : Int := (s.trim (16 + 16 * (c / 32) + x)).toInt

def State.terms (s : State) (c : Nat) : ChanTerms := sget {} s.cal.terms c

/-- A saturated correction sum (R317). -/
def satCorr (v : Int) : BitVec 16 := BitVec.ofInt 16 (clampInt (-32768) 32767 v)

/-- Recompute the corrections of a channel from its terms (R317). -/
def State.recorr (s : State) (c : Nat) : State :=
  let t := s.terms c
  s.modChan c (fun v => { v with
    corrDat := satCorr (s.bankRef c 0 + t.onDat + t.extDat + t.sync),
    corrEn := satCorr (s.bankRef c 1 + t.onEn + t.extEn + t.sync),
    corrCmp := satCorr (s.bankRef c 2 + t.onCmp + t.extCmp + t.sync + t.align) })

def Term.apply (t : ChanTerms) : Term → ChanTerms
  | .deskew d e c => { t with onDat := d, onEn := e, onCmp := c }
  | .ext x v => if x = 0 then { t with extDat := v } else if x = 1 then { t with extEn := v } else { t with extCmp := v }
  | .sync v => { t with sync := v }
  | .align v => { t with align := v }
  | .serial v => { t with serial := v }
  | .lin d e => { t with linDrive := d, linStrobe := e }

/-- Calibration kind of a term; 0 for an external path correction. -/
def Term.kind : Term → Nat
  | .deskew .. => 1 | .lin .. => 2 | .align _ => 3 | .serial _ => 4 | .sync _ => 9 | .ext .. => 0

/-! ### Figures (R329) -/

def figKey (kind idx : Nat) : Nat := kind * 65536 + idx
def State.fig (s : State) (kind idx : Nat) : CalFig := sget {} s.cal.figs (figKey kind idx)
def State.setFig (s : State) (kind idx : Nat) (f : CalFig) : State :=
  { s with cal := { s.cal with figs := sput s.cal.figs (figKey kind idx) f } }
/-- A correction of a target enters force: count and time. -/
def State.figEnter (s : State) (kind idx : Nat) : State :=
  let f := s.fig kind idx
  s.setFig kind idx { f with count := sat32 (f.count + 1), time := s.stamp (fld (s.reg pgCal 0x100) 8 2) }

/-- BOOT_DONE: every bank that is ON has had one DESKEW enter force (R319). -/
def State.calBootDone (s : State) : Bool :=
  (List.range 16).all (fun b => (s.bankAt b).state ≠ .on ∨ (List.range 32).any (fun j => (s.fig 1 (32 * b + j)).count > 0))

/-! ### Staging and entry into force (R326, R327) -/

def State.stagedOf (s : State) (c : Nat) : List StagedTerm := sget [] s.cal.staged c
def State.setStaged (s : State) (c : Nat) (l : List StagedTerm) : State :=
  { s with cal := { s.cal with staged := if l = [] then sdel s.cal.staged c else sput s.cal.staged c l } }

/-- The staged terms of a channel that `p` selects enter force together. -/
def State.enterForce (s : State) (c : Nat) (p : StagedTerm → Bool) : State :=
  let l := s.stagedOf c
  let go := l.filter p
  if go = [] then s
  else
    let t := go.foldl (fun t x => x.term.apply t) (s.terms c)
    let s := { s with cal := { s.cal with terms := sput s.cal.terms c t } }
    let s := (s.setStaged c (l.filter (fun x => ¬ p x))).recorr c
    let s := foldState (go.filter (fun x => x.term.kind ≠ 0 ∧ x.term.kind ≠ 9)) (fun x s => s.figEnter x.term.kind c) s
    let s := { s with cal := { s.cal with bootDone := s.cal.bootDone ∨ s.calBootDone } }
    -- TIME.SYNC_CORR reads the new value once every channel carries it (R325)
    if s.cal.staged.any (fun e => e.2.any (fun x => x.term.kind = 9)) then s
    else if (go.any (fun x => x.term.kind = 9)) then ({ s with sync := { s.sync with corr := t.sync } }).figEnter 9 0
    else s

/-- Stage a term: it replaces a waiting correction of the same term. One staged in the cycle of an accepted arm counts as
staged at the arm; one staged in the cycle of a final state enters force in it (R327). -/
def State.stage (s : State) (c : Nat) (t : Term) : State :=
  let s := s.setStaged c ((s.stagedOf c).filter (fun x => ¬ x.term.same t) ++
    [{ term := t, edge := s.now, atArm := s.chanArmedNow c }])
  if ¬ s.chanInUse c ∧ (s.chanFinalNow c).isSome then s.enterForce c (fun _ => true) else s

/-- Corrections waiting on the channels of an accepted arm count as staged at the arm (R326, R327). -/
def State.stageAtArm (s : State) (chans : List Nat) : State :=
  foldState chans (fun c s => s.setStaged c ((s.stagedOf c).map (fun x => { x with atArm := true }))) s

/-- Entry into force at a calibration-safe boundary, and at a final state. -/
def State.calBoundary (s : State) (chans : List Nat) : State := foldState chans (fun c s => s.enterForce c (·.atArm)) s
def State.calFinal (s : State) (chans : List Nat) : State := foldState chans (fun c s => s.enterForce c (fun _ => true)) s

/-- Channels in no map take their corrections at the second PFCLK edge after staging. -/
def State.calSettle (s : State) : State :=
  foldState (s.cal.staged.map Prod.fst)
    (fun c s => if s.chanInUse c then s else s.enterForce c (fun x => decide (x.edge + 2 ≤ s.now))) s

end Sys2Proof.Machine
end

