-- ==== Sys2Proof/Machine/Apg.lean ====
section
/-! DEFINITION. The algorithmic pattern generator (R133 to R145): its operations, data words, scramble and background
tables, the symbols of its channels, and writes of its tables. -/
namespace Sys2Proof.Machine

/-- Width of an axis. -/
def axisWidth (i : Nat) : Nat := if i = 0 then 24 else if i = 1 then 16 else 8
/-- Register offset of an axis (X, Y, Z). -/
def axisOff (i : Nat) : Nat := 0x110 + 0x20 * i
def axisBase (s : State) (q i : Nat) : Nat := s.regN (pgApg q) (axisOff i + 8)
def axisStride (s : State) (q i : Nat) : Nat := s.regN (pgApg q) (axisOff i + 0xC)
def axisSpan (s : State) (q i : Nat) : Nat := s.regN (pgApg q) (axisOff i + 0x10)

/-- One step of an axis (R136): position up by one, back to the base with a carry at the end of the span. -/
def axisStep (w base stride span : Nat) (a : Axis) : Axis :=
  if a.pos + 1 = span + 1 then { a with cur := base, pos := 0, carry := true }
  else { a with cur := (a.cur + stride) % 2 ^ w, pos := a.pos + 1, carry := false }

/-- One axis action; `cin` is the carry of the next faster axis in this application (table of axis actions). -/
def axisAct (w base stride span code : Nat) (cin : Bool) (a : Axis) : Axis :=
  if code = 1 ∨ (code = 2 ∧ cin) then axisStep w base stride span a
  else if code = 3 then { a with cur := base, pos := 0, carry := false }
  else if code = 4 then { a with saveCur := a.cur, savePos := a.pos, carry := false }
  else if code = 5 then { a with cur := a.saveCur, pos := a.savePos, carry := false }
  else { a with carry := false }

/-- What STEP does to a data generator's word (R140). -/
def dgStep (mode rot : Nat) (poly c : Word64) : Word64 :=
  if mode = 1 then ~~~ c
  else if mode = 2 then c.rotateLeft rot
  else if mode = 3 then (if c.getLsbD 0 then (c >>> 1) ^^^ poly else c >>> 1)
  else c

/-- One data generator action. -/
def dgAct (mode rot : Nat) (poly seed : Word64) (code : Nat) (g : DataGen) : DataGen :=
  if code = 1 then { g with cur := dgStep mode rot poly g.cur }
  else if code = 2 then { g with inv := !g.inv }
  else if code = 3 then { g with cur := seed }
  else if code = 4 then { g with inv := true }
  else if code = 5 then { g with inv := false }
  else g

def dgOff (g : Nat) : Nat := 0x180 + 0x20 * g
def dgCfg (s : State) (q g : Nat) : Word32 := s.reg (pgApg q) (dgOff g)
def dgSeed (s : State) (q g : Nat) : Word64 := BitVec.ofNat 64 (s.reg64 (pgApg q) (dgOff g + 8))
def dgPoly (s : State) (q g : Nat) : Word64 := BitVec.ofNat 64 (s.reg64 (pgApg q) (dgOff g + 0x18))

/-- Axis order of CTRL.CHAIN, fastest first: 0 X, 1 Y, 2 Z (R138). -/
def chainOrder (chain : Nat) : List Nat :=
  if chain = 0 then [1, 0, 2] else if chain = 1 then [0, 1, 2] else if chain = 2 then [2, 1, 0] else [2, 0, 1]

def Apg.axis (a : Apg) (i : Nat) : Axis := if i = 0 then a.x else if i = 1 then a.y else a.z
def Apg.setAxis (a : Apg) (i : Nat) (v : Axis) : Apg :=
  if i = 0 then { a with x := v } else if i = 1 then { a with y := v } else { a with z := v }

/-- Action code of axis `i` in an operation word. -/
def opAxis (w : Word32) (i : Nat) : Nat := fld w (28 - 3 * i) 3
def opDg (w : Word32) (g : Nat) : Nat := fld w (19 - 3 * g) 3

/-- The axes in chain order, each seeing the carry of the one before (R138). -/
def applyAxes (s : State) (q : Nat) (w : Word32) : List Nat → Bool → Apg → Apg
  | [], _, a => a
  | i :: t, cin, a =>
    let v := axisAct (axisWidth i) (axisBase s q i) (axisStride s q i) (axisSpan s q i) (opAxis w i) cin (a.axis i)
    applyAxes s q w t v.carry (a.setAxis i v)

/-- One application of an operation (R138, R139). -/
def apgApply (s : State) (q : Nat) (w : Word32) (a : Apg) : Apg :=
  let a1 := applyAxes s q w (chainOrder (fld (s.reg (pgApg q) 0x100) 0 2)) false a
  let dg := fun g v => dgAct (fld (dgCfg s q g) 0 2) (fld (dgCfg s q g) 8 6) (dgPoly s q g) (dgSeed s q g) (opDg w g) v
  { a1 with dg0 := dg 0 a1.dg0, dg1 := dg 1 a1.dg1, opCount := a1.opCount + 1 }

/-- Apply an operation to APG `q`. -/
def State.apgOp (s : State) (q : Nat) (w : Word32) : State := s.setApg q (apgApply s q w (s.apgAt q))

/-- Load at an accepted arm (R134). -/
def apgLoad (s : State) (q : Nat) : State :=
  let ax := fun i => { cur := axisBase s q i, saveCur := axisBase s q i : Axis }
  s.setApg q { x := ax 0, y := ax 1, z := ax 2, dg0 := { cur := dgSeed s q 0 }, dg1 := { cur := dgSeed s q 1 } }

/-! ### Addresses and tables (R141 to R146) -/

/-- A word of APG `q`'s tables. -/
def State.apgWord (s : State) (q off : Nat) : Word32 := sget 0 s.apgTab (0x600000 + q * 0x4000 + off)

/-- Scramble table `t` acting on axis `i` of value `v` (R143). -/
def scramble (s : State) (q t i v : Nat) : Nat :=
  let cfg := s.reg (pgApg q) (0x170 + 4 * t)
  if cfg.getLsbD 0 ∧ fld cfg 16 2 = i then
    let m := fld (s.apgWord q (0x1000 * t + 4 * ((v >>> fld cfg 8 5) % 1024))) 0 24
    v ^^^ (m % 2 ^ axisWidth i)
  else v

/-- Physical value of an axis: ST0, then ST1. -/
def physAxis (s : State) (q i v : Nat) : Nat := scramble s q 1 i (scramble s q 0 i v)

/-- X in 23:0, Y in 39:24, Z in 47:40. -/
def packAddr (x y z : Nat) : Addr48 := BitVec.ofNat 48 (x + 2 ^ 24 * y + 2 ^ 40 * z)

def apgLogical (s : State) (q : Nat) : Addr48 :=
  let a := s.apgAt q; packAddr a.x.cur a.y.cur a.z.cur
def apgPhysical (s : State) (q : Nat) : Addr48 :=
  let a := s.apgAt q; packAddr (physAxis s q 0 a.x.cur) (physAxis s q 1 a.y.cur) (physAxis s q 2 a.z.cur)

/-- Background index from the physical address (R142). -/
def bgIndex (s : State) (q : Nat) : Nat :=
  let p := apgPhysical s q
  (List.range 8).foldl (fun r k =>
    let f := fld (s.reg (pgApg q) (0x178 + 4 * (k / 4))) (8 * (k % 4)) 8
    r + (if f ≥ 128 ∧ p.getLsbD (f % 64) then 2 ^ k else 0)) 0

def bgWord (s : State) (q : Nat) : Word64 :=
  let i := bgIndex s q
  pair64 (s.apgWord q (0x2000 + 8 * i)) (s.apgWord q (0x2004 + 8 * i))

/-- Data word a vector sees from generator `g` (R141). -/
def dataWord (s : State) (q g : Nat) : Word64 :=
  let d := if g = 0 then (s.apgAt q).dg0 else (s.apgAt q).dg1
  let bg := if (dgCfg s q g).getLsbD 16 then bgWord s q else 0
  d.cur ^^^ bg ^^^ (if d.inv then 0xFFFFFFFFFFFFFFFF else 0)

/-- Address delivered to CAP (R145). -/
def capAddr (s : State) (q : Nat) : Addr48 :=
  if (s.reg (pgApg q) 0x100).getLsbD 5 then apgPhysical s q else apgLogical s q

/-- Bit `b` of axis selection `sel` as A symbols see it; none beyond the axis (R144). -/
def addrBit (s : State) (q sel b : Nat) : Option Bool :=
  let a := if (s.reg (pgApg q) 0x100).getLsbD 4 then apgPhysical s q else apgLogical s q
  if sel < 3 ∧ b < axisWidth sel then
    some (a.getLsbD ((if sel = 0 then 0 else if sel = 1 then 24 else 40) + b))
  else none

/-- Bit `b` of data generator selection `sel` (3 or 4). -/
def dataBit (s : State) (q sel b : Nat) : Option Bool :=
  if (sel = 3 ∨ sel = 4) ∧ b < 64 then some ((dataWord s q (sel - 3)).getLsbD b) else none

/-- BAR2 offset of an APG table word: its APG, if it is not reserved (R146). -/
def apgTabOwner (off : Nat) : Option Nat :=
  if 0x600000 ≤ off ∧ off < 0x700000 ∧ (off - 0x600000) % 0x4000 < 0x2800 then some ((off - 0x600000) / 0x4000) else none

end Sys2Proof.Machine
end

