-- ==== Sys2Proof/Machine/Fetch.lean ====
section
/-! DEFINITION. The fetch unit and the decoder of a sequencer (R79, R82, R116 to R119, R129): the walk along the
instructions, what is held of each static vector, the decoded-instruction queue, jump targets and the merge buffer. -/
namespace Sys2Proof.Machine

/-- Kind of a failed fetch (R129). -/
def fetchKind (r : HbmStatus) : Nat := if r = .reset then 0x11 else 0x10
def kindReleased : Nat := 0x12
def kindStreamSeq : Nat := 0x13
def kindSegtab : Nat := 0x14
/-- Issue past INSTR_COUNT of a version 2 cast: the execution fault TARGET (assumption 84). -/
def kindPastEnd : Nat := 8

/-! ### The walk along the instructions -/

/-- Static index of static vector `o` of segment `k` (R103). -/
def State.staticIdx (s : State) (q k o : Nat) : Nat := ((List.range k).map (fun j => (s.seg q j).vectors)).sum + o

/-- A loop body of `n` static vectors replays from the loop cache (R117). -/
def replayable (n : Nat) : Bool := n ≤ 8192

/-- The walk behind instruction `i` at `idx`, whose first static vector is `at_` (R83, R85). `skip`: a repeat that replays
is passed over, as fetching does (R118). It ends at a STOP, at a JIF and where an instruction cannot go on. -/
def Walk.step (i : PatInstr) (idx at_ : Nat) (skip : Bool) (p : Walk) : Walk :=
  let push := { idx := idx, remaining := i.opd.toNat, depth := p.calls.length, start := at_ : LoopEnt }
  if i.op = opLoop then
    match p.loops with
    | l :: t =>
      if l.again then { p with pc := some (idx + 1), pos := 0, loops := { l with again := false } :: t }
      else { p with pc := some (idx + 1), pos := 0, loops := push :: p.loops }
    | [] => { p with pc := some (idx + 1), pos := 0, loops := [push] }
  else if i.op = opEndl then
    match p.loops with
    | l :: t =>
      if l.remaining > 1 ∧ ¬ (skip ∧ replayable (at_ + i.owned - l.start)) then
        { p with pc := some l.idx, pos := 0, loops := { l with remaining := l.remaining - 1, again := true } :: t }
      else { p with pc := some (idx + 1), pos := 0, loops := t }
    | [] => { p with pc := none }
  else if i.op = opCall then { p with pc := some i.target, pos := 0, calls := (idx + 1) :: p.calls }
  else if i.op = opRet then
    match p.calls with
    | r :: t => { p with pc := some r, pos := 0, calls := t }
    | [] => { p with pc := none }
  else if i.op = opJmp then { p with pc := some i.target, pos := 0 }
  else if i.op = opJif then { p with pc := none, jif := some idx }
  else if i.op = opStop ∨ ¬ i.legalOp then { p with pc := none }
  else { p with pc := some (idx + 1), pos := 0 }

/-! ### Fetch (R118) -/

/-- Static offset in its segment of the first vector of instruction `i`. -/
def State.offsetOf (s : State) (q k i : Nat) : Nat :=
  let e := s.seg q k
  s.staticSum q k e.first (i - e.first)

/-- Static vector `pos` of instruction `idx` of segment `k`, read with completion status `st`. -/
def State.readHeld (s : State) (q k idx pos : Nat) (st : HbmStatus) : Held :=
  let c := (s.seqAt q).cast
  let o := s.offsetOf q k idx + pos
  let r := worstOf st (s.vecStatus q k idx o)
  { seg := k, off := o, idx := idx, pos := pos, word := s.fetchWord q k idx, f4 := s.segNat q k (s.f4At q k o) c.f4Bytes,
    s8 := s.segNat q k (s.s8At q k o) c.s8Bytes, bad := if r = .ok then none else some (fetchKind r) }

/-- The next static vector of a walk, and the walk behind it; none: it has ended, or its bytes are not in the stream
window yet. A segment that cannot be had ends the walk with its fault. -/
def State.fetchOne (s : State) (q : Nat) (st : HbmStatus) (p : Walk) : Option (Held × Walk) :=
  match p.pc with
  | none => none
  | some idx =>
    let v := s.seqAt q
    let k := (s.segFind q idx).1
    let e := s.seg q k
    let stop := fun (kind : Nat) => some (({ seg := k, off := 0, idx := idx, bad := some kind } : Held), { p with pc := none })
    if (s.segFind q idx).2 then stop (if v.cast.version = 2 then kindPastEnd else kindSegtab)
    else if v.cast.version ≠ 2 ∧ ¬ v.vfs.segs.any (fun x => x.1 = k) ∧ s.readStatus (v.cast.segAddr k) 32 ≠ .ok then
      stop kindSegtab
    else if e.streamed ∧ v.imageBad.contains k then stop kindStreamSeq
    else if e.streamed ∧ ¬ v.images.any (fun x => x.1 = k) then none
    else if e.streamed ∧ v.imageAt k < v.strmRel then stop kindReleased
    else
      let h := s.readHeld q k idx p.pos st
      let i := PatInstr.ofWord h.word
      some (h, if p.pos + 1 < i.owned then { p with pos := p.pos + 1 }
        else p.step i idx (s.staticIdx q k (h.off - p.pos)) true)

/-- Up to `n` vectors more of a walk. -/
def State.fetchMore (s : State) (q : Nat) (st : HbmStatus) : Nat → FetchQ → FetchQ
  | 0, f => f
  | n + 1, f =>
    match s.fetchOne q st f.path with
    | none => f
    | some (h, p) => s.fetchMore q st n { vecs := f.vecs ++ [h], path := p }

/-- Vectors held ahead of issue (R118). Of the two paths of an undecided JIF the fall-through counts (assumption 85). -/
def Vfs.held (f : Vfs) : Nat := f.lead.vecs.length + (if f.lead.path.jif.isSome then f.fall.vecs.length else 0)

/-- First vectors of a JIF path or jump target that VFS fetches (R116, R118). -/
def headVectors : Nat := 512

/-- A fetch can go no further along a path. -/
def FetchQ.ended (f : FetchQ) : Bool := f.path.pc.isNone
def FetchQ.headDone (f : FetchQ) : Bool := f.ended ∨ f.vecs.length ≥ headVectors
/-- Nothing more can be fetched ahead of issue. -/
def Vfs.ended (f : Vfs) : Bool :=
  f.lead.ended ∧ (f.lead.path.jif.isNone ∨ (f.fall.headDone ∧ f.targ.headDone))

/-- Once the lead has reached a JIF, its two paths start behind it. -/
def Vfs.forkJif (f : Vfs) : Vfs :=
  match f.lead.path.jif, f.lead.vecs.getLast? with
  | some idx, some h =>
    { f with fall := { path := { f.lead.path with pc := some (idx + 1), pos := 0, jif := none } },
             targ := { path := { f.lead.path with pc := some (PatInstr.ofWord h.word).target, pos := 0, jif := none } } }
  | _, _ => f

/-- A JIF is decided: the lead goes on along the path it takes. -/
def Vfs.decideJif (f : Vfs) (taken : Bool) : Vfs :=
  if f.lead.path.jif.isNone then f
  else
    let g := if taken then f.targ else f.fall
    ({ f with lead := { vecs := f.lead.vecs ++ g.vecs, path := g.path }, fall := {}, targ := {} } : Vfs).forkJif

/-- What is held of a static vector outside the lead: from the loop cache. -/
def Vfs.cached (f : Vfs) (k o : Nat) : Option Held := f.cache.find? (fun h => h.seg = k ∧ h.off = o)

/-- The loop cache holds the 8,192 static vectors issued last (R117). -/
def Vfs.keep (f : Vfs) (h : Held) : Vfs :=
  { f with cache := (h :: f.cache.filter (fun x => ¬ (x.seg = h.seg ∧ x.off = h.off))).take 8192 }

/-! ### Decoder (R79, R82) -/

/-- A vector held of instruction `idx`, from which its word is known. -/
def Vfs.wordOf (f : Vfs) (idx : Nat) : Option Held :=
  (f.lead.vecs ++ f.cache).find? (fun h => h.idx = idx ∧ h.bad.isNone)

/-- First instruction of the segment a decided jump request leads to (R114). -/
def State.jumpDue (s : State) (q : Nat) : Option Nat :=
  match (s.seqAt q).jump with
  | some j => if j.decided then some (s.seg q ((s.seqAt q).cast.jumpTgt.getD j.slot 0)).first else none
  | none => none

/-- Instruction `idx` is the last of segment `k`. -/
def State.lastOf (s : State) (q k idx : Nat) : Bool :=
  (s.seqAt q).cast.version ≠ 2 ∧ idx + 1 = (s.seg q k).first + (s.seg q k).count

/-- The decoder passes one instruction; a jump that is due leaves at the end of its segment (R116). -/
def State.decStep (s : State) (q : Nat) (a : Option Nat × Walk) (d : Decoded) : Option Nat × Walk :=
  match a.1, s.lastOf q d.seg d.idx with
  | some t, true => (none, { pc := some t })
  | j, _ => (j, a.2.step (PatInstr.ofWord d.word) d.idx (s.staticIdx q d.seg d.off) false)

/-- The decoder behind the run in execution: an opened loop is on the stack already, and a JIF is followed once it is
evaluated. -/
def State.decRun (s : State) (q : Nat) (a : Option Nat × Walk) (r : Run) : Option Nat × Walk :=
  let i := PatInstr.ofWord r.word
  match a.1, s.lastOf q r.seg r.idx with
  | some t, true => (none, { pc := some t })
  | j, _ =>
    if i.op = opLoop then (j, { a.2 with pc := some (r.idx + 1) })
    else if i.op = opJif then
      (j, { a.2 with pc := (s.seqAt q).jifTaken.map (fun t => if t then i.target else r.idx + 1) })
    else (j, a.2.step i r.idx (s.staticIdx q r.seg r.off) false)

/-- Where the decoder stands: behind the run in execution and the queue. -/
def State.decPath (s : State) (q : Nat) : Walk :=
  let v := s.seqAt q
  let a : Option Nat × Walk := match s.jumpDue q with
    | some t => if v.atBoundary then (none, { pc := some t }) else (some t, { pc := some v.pc, loops := v.loops, calls := v.calls })
    | none => (none, { pc := some v.pc, loops := v.loops, calls := v.calls })
  let a := match v.run with | some r => s.decRun q a r | none => a
  (v.queue.foldl (s.decStep q) a).2

/-- An iteration that replays from the loop cache is in execution (R117). -/
def Seq.replays (v : Seq) : Bool := v.loops.any (fun l => l.replay)

/-- The instruction the decoder needs, where it is held. -/
def State.instrHeld (s : State) (q idx : Nat) : Option Held :=
  match (s.seqAt q).vfs.wordOf idx with
  | some h => some h
  | none => if (s.seqAt q).replays then some (s.readHeld q (s.segFind q idx).1 idx 0 .ok) else none

/-- The decoder waits for the fetch of the next instruction. -/
def State.decStarved (s : State) (q : Nat) : Bool :=
  match (s.decPath q).pc with
  | some idx => (s.instrHeld q idx).isNone
  | none => false

/-- One decode (R79): the next instruction enters the queue while it has room; a taken JMP, CALL or RET, and the boundary of
a jump, cost one further cycle. -/
def State.decode (s : State) (q : Nat) : State :=
  let v := s.seqAt q
  if v.queue.length < 8 ∧ v.decFrom ≤ s.now then
    match (s.decPath q).pc.bind (s.instrHeld q) with
    | none => s
    | some h =>
      let i := PatInstr.ofWord h.word
      let far := i.op = opJmp ∨ i.op = opCall ∨ i.op = opRet ∨ (s.lastOf q h.seg h.idx ∧ (s.jumpDue q).isSome)
      s.setSeq q { v with queue := v.queue ++ [{ idx := h.idx, word := h.word, seg := h.seg, off := h.off - h.pos, edge := s.now }],
                          decFrom := if far then s.now + 2 else v.decFrom }
  else s

/-- The queue is full, or holds every instruction up to the first JIF or STOP (R82). -/
def State.queueFull (s : State) (q : Nat) : Bool := (s.seqAt q).queue.length ≥ 8 ∨ (s.decPath q).pc.isNone

/-! ### Jumps (R114, R116) -/

/-- The vectors of a list up to the first that ends its segment; none where no segment ends in it. -/
def State.untilSegEnd (s : State) (q : Nat) : List Held → Option (List Held)
  | [] => none
  | h :: t => if h.off + 1 = (s.seg q h.seg).vectors then some [h] else (s.untilSegEnd q t).map (fun l => h :: l)

/-- Instructions of a queue up to the first that ends its segment. -/
def State.queueUntilEnd (s : State) (q : Nat) : List Decoded → List Decoded
  | [] => []
  | d :: t => if s.lastOf q d.seg d.idx then [d] else d :: s.queueUntilEnd q t

/-- The outermost open loop that replays. -/
def Seq.outerReplay (v : Seq) : Option LoopEnt := (v.loops.filter (fun l => l.replay)).getLast?

/-- Where fetching goes on when no jump leaves the present segment: behind the loop that replays, else behind the
segment. -/
def State.pathOn (s : State) (q : Nat) : Walk :=
  let v := s.seqAt q
  match v.outerReplay with
  | some l => { pc := some (l.lastIdx + 1), loops := v.loops.filter (fun x => x.start < l.start), calls := v.calls.drop (v.calls.length - l.depth) }
  | none =>
    let e := s.seg q v.segCur
    { pc := some (e.first + e.count), loops := v.loops, calls := v.calls }

/-- The decoder drops what it holds behind the segment's end and decodes on one cycle later (R116). -/
def State.redirectQueue (s : State) (q : Nat) : State :=
  s.modSeq q (fun v =>
    let inRun : Bool := v.run.any (fun r => s.lastOf q r.seg r.idx)
    { v with queue := if inRun then [] else s.queueUntilEnd q v.queue, decFrom := max v.decFrom (s.now + 2) })

/-- The fetch lead goes on at the target of a decided jump once it reaches the end of the segment: the head buffer holds its
first vectors (R116). -/
def State.redirectLead (s : State) (q : Nat) : State :=
  let v := s.seqAt q
  match v.jump with
  | some j =>
    let upTo : Option (List Held) := if v.outerReplay.isSome then some [] else s.untilSegEnd q v.vfs.lead.vecs
    match j.decided && !j.led, upTo with
    | true, some l =>
      let head := ((v.vfs.heads.find? (fun h => h.1 = j.slot)).map (·.2)).getD
        { path := { pc := some (s.seg q (v.cast.jumpTgt.getD j.slot 0)).first } }
      s.setSeq q { v with
        jump := some { j with led := true }
        vfs := ({ v.vfs with lead := { vecs := l ++ head.vecs, path := head.path } } : Vfs).forkJif }
    | _, _ => s
  | none => s

/-- A jump that was due no longer is: decoder and lead go on behind the segment. -/
def State.undirect (s : State) (q : Nat) : State :=
  let s := s.redirectQueue q
  let v := s.seqAt q
  if v.jump.any (fun j => j.led) then
    let upTo := if v.outerReplay.isSome then [] else (s.untilSegEnd q v.vfs.lead.vecs).getD []
    s.setSeq q { v with vfs := { v.vfs with lead := { vecs := upTo, path := s.pathOn q } } }
  else s

/-! ### Merge buffer (R119) -/

/-- Bytes of the merge buffer. -/
def mergeBuffer : Nat := 16 * 2 ^ 20

/-- Static index of the last vector issued. -/
def State.issuePos (s : State) (q : Nat) : Nat :=
  let v := s.seqAt q
  match v.last with | some l => s.staticIdx q v.segCur l.pos | none => 0

/-- Image or window that the blocks of segment `k` belong to. -/
def State.blockKey (s : State) (q k : Nat) : Bool × Nat × Nat :=
  if (s.seg q k).streamed then (true, s.strmBase q, s.strmBytes q) else (false, (s.seqAt q).cast.base, 0)

def MergeBlk.is (b : MergeBlk) (key : Bool × Nat × Nat) (k g : Nat) : Bool :=
  b.streamed = key.1 ∧ b.base = key.2.1 ∧ b.size = key.2.2 ∧ b.seg = k ∧ b.gran = g

/-- A sequencer may take a kept block: its issue position is behind the block, and within 4,096 static vectors of the most
advanced sequencer that has taken it. -/
def State.mayTake (s : State) (q : Nat) (b : MergeBlk) : Bool :=
  let top := (b.takers.map s.issuePos).foldl max 0
  s.issuePos q ≤ s.staticIdx q b.seg (64 * b.gran) ∧ top ≤ s.issuePos q + 4096

/-- Blocks that some sequencer can still take, the oldest dropped while they exceed the buffer. -/
def dropOldest (l : List MergeBlk) : List MergeBlk :=
  (l.reverse.foldl (fun (a : Nat × List MergeBlk) b =>
    if a.1 + b.bytes ≤ mergeBuffer then (a.1 + b.bytes, b :: a.2) else (mergeBuffer + 1, a.2)) (0, [])).2

def State.mergeTrim (s : State) (live : Nat → Bool) : State :=
  { s with merge := dropOldest (s.merge.filter (fun b =>
      (List.range 64).any (fun n => live n ∧ ¬ b.takers.contains n ∧ b.is (s.blockKey n b.seg) b.seg b.gran ∧
        s.issuePos n ≤ s.staticIdx n b.seg (64 * b.gran)))) }

/-- One block of newly fetched vectors: taken from the merge buffer, or read from HBM and kept there. -/
def State.mergeOne (s : State) (q k g : Nat) (vecs : List Held) : State :=
  let key := s.blockKey q k
  match s.merge.find? (fun b => b.is key k g ∧ s.mayTake q b) with
  | some b =>
    { s.modSeq q (fun v => { v with fetchMerged := sat32 (v.fetchMerged + 1) }) with
      merge := s.merge.map (fun x => if x = b then { b with takers := b.takers ++ [q] } else x) }
  | none =>
    let c := (s.seqAt q).cast
    let blk : MergeBlk := { streamed := key.1, base := key.2.1, size := key.2.2, seg := k, gran := g, vecs := vecs,
                            bytes := 64 * (c.f4Bytes + c.s8Bytes) + 8 * ((vecs.map (·.idx)).eraseDups).length, takers := [q] }
    { s.modSeq q (fun v => { v with fetchHbm := sat32 (v.fetchHbm + 1) }) with
      merge := s.merge.filter (fun b => ¬ b.is key k g) ++ (if vecs.any (fun h => h.bad.isSome) then [] else [blk]) }

/-- The merge buffer counts the blocks of newly fetched vectors: a block begins where segment or granule changes. -/
def State.mergeAll (s : State) (q : Nat) : List Held → State
  | [] => s
  | h :: t =>
    let key := (h.seg, h.off / 64)
    let s := if (s.seqAt q).vfs.gran = some key then s
      else (s.mergeOne q key.1 key.2 ((h :: t).takeWhile (fun x => (x.seg, x.off / 64) = key))).modSeq q
        (fun v => { v with vfs := { v.vfs with gran := some key } })
    s.mergeAll q t

/-- A vector whose block is taken from the merge buffer comes as it is kept there. -/
def State.fromMerge (s : State) (q : Nat) (h : Held) : Held :=
  match s.merge.find? (fun b => b.is (s.blockKey q h.seg) h.seg (h.off / 64) ∧ s.mayTake q b) with
  | some b => (b.vecs.find? (fun x => x.idx = h.idx ∧ x.off = h.off)).getD h
  | none => h

end Sys2Proof.Machine
end

