-- ==== Sys2Proof/Machine/Place.lean ====
section
/-! DEFINITION. Timing-set entries, the symbols of the channels of a vector (R96 to R101), and the placement of drive
edges and strobe events on the three streams of each channel (R151 to R163). Positions are nominal fine steps; what leaves
for the ports carries the correction in force. -/
namespace Sys2Proof.Machine

/-- Fine steps of the fixed latencies: 120 ns pattern to port, 40 ns port to commit. -/
def portLatency : Nat := 48 * 4096
def commitLatency : Nat := 16 * 4096

/-- Entry (t, c) and header (t, n) in force (R147). -/
def State.tssEntry (s : State) (t c : Nat) : BitVec 256 := sget 0 s.tss.entries (512 * t + c)
def State.tssHeader (s : State) (t n : Nat) : Word64 := sget 0 s.tss.headers (64 * t + n)

/-- Fields of a TSS entry (table of R150). -/
def entFormat (e : BitVec 256) : Nat := fld e 28 4
def entStrobe (e : BitVec 256) : Nat := fld e 25 3
def entFalling (e : BitVec 256) : Bool := bit e 24
def entSsRef (e : BitVec 256) : Nat := fld e 16 7
def entSpill (e : BitVec 256) (i : Nat) : Bool := bit e (8 + i)
def entEn (e : BitVec 256) (i : Nat) : Bool := bit e i
def entPos (e : BitVec 256) (i : Nat) : Nat := fld e (32 * (1 + i)) 24
def entUiOfs (e : BitVec 256) : Int := signedOf 6 (fld e 224 6)
/-- Edge numbers of C0 and C1. -/
def edgeC0 : Nat := 4
def edgeC1 : Nat := 5

/-- Fields of a period header. -/
def hdrPeriod (h : Word64) : Nat := fld h 0 41
def hdrKind (h : Word64) : Nat := fld h 41 2
def periodLegal (p : Nat) : Bool := 1024 ≤ p ∧ p ≤ 2 ^ 40

/-- Bits that an entry and a header hold: reserved ones are ignored and read 0 (R10, R150). -/
def entryMask : BitVec 256 := 0x0000003F_00FFFFFF_00FFFFFF_00FFFFFF_00FFFFFF_00FFFFFF_00FFFFFF_FF7F3F3F
def headerMask : Word64 := 0x000007FF_FFFFFFFF

/-- Serial unit interval and the odd-UI offset in force (R157, R158). -/
def uiLen (p : Nat) : Nat := p / 8
def uiOfsBad (e : BitVec 256) (p : Nat) : Bool :=
  ((uiLen p : Int) + entUiOfs e < 128) ∨ ((uiLen p : Int) - entUiOfs e < 128)
def uiOfs (e : BitVec 256) (p : Nat) : Int := if uiOfsBad e p then 0 else entUiOfs e
/-- Start of UI `u` after the start of UI 0. -/
def uiAt (e : BitVec 256) (p u : Nat) : Int := (u * uiLen p : Nat) + (if u % 2 = 1 then uiOfs e p else 0)

/-! ### Symbols -/

/-- A channel's symbol in a vector: the code after R96 and R98, the APG bit per UI, and the S8 word. -/
structure ChSym where
  sym : Nat
  bits : List (Option Bool) := []
  s8 : Option (BitVec 16) := none
  deriving DecidableEq, Repr

def symX : Nat := 4

/-- The APG bits of an entry for symbol A (8), D (9) or E (10), UI 0 first (R96, R97). -/
def apgBits (s : State) (q : Nat) (e : Word32) (sym : Nat) : List (Option Bool) :=
  (List.range 8).map (fun u =>
    if sym = 8 then addrBit s q (mapSel e) (mapBit e + 8 * u) else dataBit s q (mapSel e) (mapBit e + 8 * u))

/-- A symbol code with its APG bits; reserved codes, and A, D, E without a matching selection, are X (R96). -/
def mkSym (s : State) (q : Nat) (e : Word32) (sym : Nat) : ChSym :=
  if sym ≥ 12 then { sym := symX }
  else if 8 ≤ sym ∧ sym ≤ 10 then
    let b := apgBits s q e sym
    if (b.getD 0 none).isNone then { sym := symX } else { sym := sym, bits := b }
  else { sym := sym }

/-- Symbol of an APG channel by cycle kind: 1 READ, 2 WRITE, else IDLE (R98). -/
def apgKindSym (kind cyc : Nat) : Nat :=
  if kind = 0 then (if cyc = 1 ∨ cyc = 2 then 8 else 7)
  else if kind = 1 then (if cyc = 2 then 9 else if cyc = 1 then 10 else symX)
  else if kind = 2 then (if cyc = 2 then 11 else symX)
  else symX

/-- Number of entries of source `src` before entry `j` of the map (R100). -/
def srcRank (l : List Word32) (src j : Nat) : Nat := ((l.take j).filter (fun e => mapSrc e = src)).length

/-- The symbol of map entry `j` in a vector with the records `f4` and `s8` under timing set `ts` (R97 to R101). -/
def resolveSym (s : State) (q f4 s8 j ts : Nat) : ChSym :=
  let c := (s.seqAt q).cast
  let e := c.map.getD j 0
  if mapSrc e = 0 then
    mkSym s q e (f4 / 16 ^ srcRank c.map 0 j % 16)
  else if mapSrc e = 1 then
    if c.version = 2 then { sym := symX }
    else
      let w := BitVec.ofNat 16 (s8 / 65536 ^ srcRank c.map 1 j)
      if entFormat (s.tssEntry ts (mapChan e)) = 6 then { sym := symX, s8 := some w } else mkSym s q e (fld w 0 4)
  else if mapSrc e = 2 then mkSym s q e (apgKindSym (mapKind e) (hdrKind (s.tssHeader ts q)))
  else mkSym s q e (mapFixed e)

/-- A fill vector repeats drive symbols, N as K, and judges nothing (R81). -/
def ChSym.forFill (c : ChSym) : ChSym :=
  match c.s8 with
  | some _ => c
  | none => if c.sym = 6 then { sym := 7 } else if c.sym = 2 ∨ c.sym = 3 ∨ c.sym = 5 ∨ c.sym = 10 then { sym := symX } else c

/-! ### What a vector does to a channel -/

/-- Class of a vector on a channel (R154). -/
inductive VecClass where | drive | nonDrive | keep | none
  deriving DecidableEq, Repr

/-- Drive value of symbols 0, 1, N, A and D (R153). -/
def driveValue (prev : Bool) (c : ChSym) : Option Bool :=
  if c.sym = 0 then some false else if c.sym = 1 then some true else if c.sym = 6 then some (!prev)
  else if c.sym = 8 ∨ c.sym = 9 then c.bits.getD 0 none else none

def vecClass (fmt : Nat) (c : ChSym) : VecClass :=
  if fmt ≥ 7 then .none
  else match c.s8 with
    | some w => if (List.range 8).any (fun u => !bit w u) then .drive else .nonDrive
    | none =>
      if c.sym = 7 then .keep
      else if fmt = 5 then .drive
      else if c.sym = 0 ∨ c.sym = 1 ∨ c.sym = 6 ∨ c.sym = 8 ∨ c.sym = 9 ∨ c.sym = 11 then .drive
      else .nonDrive

/-- DAT transitions of a format: edge and level, in edge order (R153). -/
def datEdges (fmt : Nat) (prev : Bool) (c : ChSym) : List (Nat × Bool) :=
  let isC := c.sym = 11
  let v := driveValue prev c
  if fmt = 0 then (if isC then [(1, true), (2, false)] else match v with | some b => [(1, b)] | none => [])
  else if fmt = 1 then
    (if isC ∨ v = some true then [(1, true), (2, false)] else if v = some false then [(1, false)] else [])
  else if fmt = 2 then
    (if isC ∨ v = some false then [(1, false), (2, true)] else if v = some true then [(1, true)] else [])
  else if fmt = 3 then
    (let w := if isC then some true else v
     match w with | some b => [(0, !b), (1, b), (2, !b)] | none => [])
  else if fmt = 4 then
    (if isC then [(1, true), (2, false)]
     else if v = some true then [(1, true)] else if v = some false then [(2, false)] else [])
  else if fmt = 5 then
    (if c.sym = 0 then [(1, false)] else if c.sym = 7 then [] else [(1, true), (2, false)])
  else []

/-- Values DAT carries in the eight UIs of a SER drive vector; an X bit keeps the UI before it (R97, R101, R157). -/
def serLevels (prev : Bool) (c : ChSym) : List Bool :=
  match c.s8 with
  | some w => (List.range 8).map (fun u => bit w (8 + u))
  | none =>
    if c.sym = 11 then [true, false, true, false, true, false, true, false]
    else if c.sym = 8 ∨ c.sym = 9 then
      (c.bits.foldl (fun (acc : List Bool × Bool) b => let v := b.getD acc.2; (acc.1 ++ [v], v)) ([], prev)).1
    else List.replicate 8 ((driveValue prev c).getD false)

/-- Previous level after a vector (R154). -/
def nextPrev (e : BitVec 256) (prev : Bool) (c : ChSym) : Bool :=
  let fmt := entFormat e
  if vecClass fmt c ≠ .drive then prev
  else if fmt = 6 then (serLevels prev c).getLastD prev
  else match driveValue prev c with
    | some v => v
    | none => match ((datEdges fmt prev c).filter (fun x => entEn e x.1)).getLast? with
      | some x => x.2
      | none => prev

/-! ### Streams (R152, R163) -/

def Stream.level (st : Stream) : Bool := match st.items.getLast? with | some i => i.lvl | none => st.lvl
/-- Last placed formatted transition, or last placed event, and end of the last placed span. -/
def Stream.prevT (st : Stream) : Option Nat :=
  match (st.items.filter (fun i => !i.span)).getLast? with | some i => some i.t | none => st.lastT
def Stream.prevEnd (st : Stream) : Option Nat :=
  match (st.items.filter (fun i => i.span)).getLast? with | some i => some i.e | none => st.lastEnd

/-- Room for a formatted transition or a span at `t` (R163). -/
def Stream.room (st : Stream) (t : Nat) : Bool :=
  (match st.prevT with | some p => decide (p + 256 ≤ t) | none => true) &&
  (match st.prevEnd with | some p => decide (p ≤ t) | none => true)

/-- One item settles: it stays placed for good. -/
def Stream.settleItem (st : Stream) (i : Item) : Stream :=
  if i.span then { st with lvl := i.lvl, lastEnd := some i.e } else { st with lvl := i.lvl, lastT := some i.t }

/-- At the cycle start `at` of vector `k` the items of vector `k - 4` and before are dropped when `key` lies at or after
it, and settle otherwise (R152). Answers the stream and the dropped items. -/
def Stream.cycle (st : Stream) (k at_ : Nat) (key : Item → Nat) : Stream × List Item :=
  let old := st.items.filter (fun i => i.ord + 4 ≤ k)
  let keep := old.filter (fun i => key i < at_)
  let base := keep.foldl Stream.settleItem { st with items := [] }
  ({ base with items := st.items.filter (fun i => ¬ i.ord + 4 ≤ k) }, old.filter (fun i => ¬ key i < at_))

/-- Every item that `p` admits settles; the others are gone. -/
def Stream.settleAll (st : Stream) (p : Item → Bool) : Stream :=
  (st.items.filter p).foldl Stream.settleItem { st with items := [] }

/-- Count of a 32-bit saturating counter. -/
def Chan.collide (c : Chan) : Chan := { c with edgeCollide := sat32 (c.edgeCollide + 1) }
def Chan.range (c : Chan) (n : Nat) : Chan := { c with edgeRange := sat32 (c.edgeRange + n) }

/-! ### Ports (R151, R174 to R176, R186) -/

/-- Put a transition in its place among those on their way. -/
def addTrans (x : Trans) (l : List Trans) : List Trans :=
  l.takeWhile (fun y => y.at_ ≤ x.at_) ++ x :: l.dropWhile (fun y => y.at_ ≤ x.at_)

/-- A correction moves an edge by its fine steps (R151, R174, R175). -/
def corrected (t : Nat) (d : BitVec 16) : Nat := ((t : Int) + d.toInt).toNat

/-- A placed transition leaves for the port with the correction in force; in a maquette run nothing does (R69). The channel
leaves the plinth state at the first item placed (R186). -/
def Chan.drive (c : Chan) (live en : Bool) (ord t at_ : Nat) (lvl : Bool) : Chan :=
  if live then
    { c with plinth := false, plinthAt := none,
             sched := addTrans { en := en, at_ := corrected at_ (if en then c.corrEn else c.corrDat), lvl := lvl, ord := ord, t := t } c.sched }
  else c

/-- What is placed on a channel for one vector: ordinal, cycle start at the port, period, whether it reaches the port,
DAT inverted at the port (R176). -/
structure PlaceCtx where
  ord : Nat
  st : Nat
  p : Nat
  live : Bool := true
  inv : Bool := false

/-- Place a formatted transition of edge `i` on DAT or EN (R163): none where the level already holds. -/
def placeDat (x : PlaceCtx) (i t : Nat) (lvl : Bool) (c : Chan) : Chan :=
  if c.dat.level = lvl then c
  else if c.dat.room t then
    ({ c with dat := { c.dat with items := c.dat.items ++ [{ ord := x.ord, edge := i, t := t, e := t, lvl := lvl }] }
      } : Chan).drive x.live false x.ord t t (xor lvl x.inv)
  else c.collide

def placeEn (x : PlaceCtx) (i t : Nat) (lvl : Bool) (c : Chan) : Chan :=
  if c.en.level = lvl then c
  else if c.en.room t then
    ({ c with en := { c.en with items := c.en.items ++ [{ ord := x.ord, edge := i, t := t, e := t, lvl := lvl }] }
      } : Chan).drive x.live true x.ord t t lvl
  else c.collide

/-- Place a serial span: DAT carries each level from its unit interval's start on (R157). `ofs` is the start of interval
`u` after the span's start. -/
def placeSpan (x : PlaceCtx) (t e : Nat) (ofs : Nat → Int) (lvls : List Bool) (c : Chan) : Chan :=
  if c.dat.room t then
    let c : Chan := { c with dat := { c.dat with items := c.dat.items ++
      [{ ord := x.ord, edge := 1, t := t, e := e, lvl := lvls.getLastD c.dat.level, span := true }] } }
    (List.range lvls.length).foldl (fun c u =>
      c.drive x.live false x.ord t ((t : Int) + ofs u).toNat (xor (lvls.getD u false) x.inv)) c
  else c.collide

/-- One nanosecond in fine steps. -/
def fine1ns : Nat := 1638

/-- A channel enters the plinth state at instant `t` (R186): EN deasserts then, DAT 1 ns later; what falls at or after `t`
never reaches the port. -/
def enterPlinth (now t : Nat) (c : Chan) : Chan :=
  let cut := fun (d : BitVec 16) (i : Item) => decide (corrected i.t d < t)
  { c with
    plinth := c.plinth || decide (t ≤ now * 4096), plinthAt := if t ≤ now * 4096 then none else some t,
    sched := c.sched.filter (fun x => x.at_ < t) ++
      (if c.plinth then [] else [{ en := true, at_ := t, lvl := false }, { en := false, at_ := t + fine1ns, lvl := false }]),
    dat := { c.dat.settleAll (cut c.corrDat) with lvl := false }, en := { c.en.settleAll (cut c.corrEn) with lvl := false } }

/-- The end of what is on its way to the port of a channel. -/
def Chan.lastAt (c : Chan) : Nat := c.sched.foldl (fun m x => max m (x.at_ + 1)) 0

/-- An enabled edge keeps within its limit (R152). -/
def edgeInRange (e : BitVec 256) (p i : Nat) : Bool := entPos e i < (if entSpill e i then 4 * p else p)

/-- Enabled edges of an entry that break their limit: each counts in EDGE_RANGE whatever the symbol (R152, assumption 86).
C0 of a SRCSYNC member has its own rule (R161); a fill vector makes no strobe event (R81). -/
def rangeBad (e : BitVec 256) (p : Nat) (fill : Bool) : List Nat :=
  (List.range 6).filter (fun i => entEn e i ∧ ¬ edgeInRange e p i ∧ ¬ (fill ∧ i ≥ 4) ∧ ¬ (i = edgeC0 ∧ entStrobe e = 3))

/-- Place the drive items of one vector on a channel, in the order D0 to D3 (R153, R154, R163). With DRV_DIS EN stays
deasserted (R176). -/
def placeDrive (e : BitVec 256) (x : PlaceCtx) (drvDis : Bool) (y : ChSym) (c : Chan) : Chan :=
  let fmt := entFormat e
  let prev := c.prev
  let cls := vecClass fmt y
  let ok := fun i => entEn e i ∧ edgeInRange e x.p i
  let en := fun i lvl (c : Chan) => if ok i ∧ ¬ drvDis then placeEn x i (x.st + entPos e i) lvl c else c
  let c :=
    if cls = .drive then
      let onEdge := if entEn e 0 then 0 else 1
      let dats := if fmt = 6 then [] else datEdges fmt prev y
      let c := en onEdge true c
      let c := dats.foldl (fun c (d : Nat × Bool) => if ok d.1 then placeDat x d.1 (x.st + entPos e d.1) d.2 c else c) c
      let c :=
        if fmt = 6 ∧ ok 1 then
          placeSpan x (x.st + entPos e 1) (x.st + entPos e 1 + 8 * uiLen x.p) (uiAt e x.p) (serLevels prev y) c
        else c
      if fmt = 5 then c else en 3 false c
    else if cls = .nonDrive then
      (if entEn e 0 then en 0 false c else if drvDis then c else placeEn x 6 x.st false c)
    else c
  { c with prev := nextPrev e prev y }

/-! ### Strobe events -/

/-- Expected levels of the judged UIs of a vector on a channel (R180, R182). -/
def expects (ser : Bool) (y : ChSym) : List (Nat × Expect) :=
  let n := if ser then 8 else 1
  match y.s8 with
  | some w => ((List.range 8).filter (fun u => bit w u)).map (fun u => (u, if bit w (8 + u) then .high else .low))
  | none =>
    if y.sym = 2 then (List.range n).map (fun u => (u, .low))
    else if y.sym = 3 then (List.range n).map (fun u => (u, .high))
    else if y.sym = 5 then (List.range n).map (fun u => (u, .mid))
    else if y.sym = 10 then
      (List.range n).filterMap (fun u => (y.bits.getD u none).map (fun b => (u, if b then Expect.high else Expect.low)))
    else []

/-- The reference channel a SRCSYNC entry names (R159). -/
def refOf (e : BitVec 256) (ch : Nat) : Nat := ch / 128 * 128 + entSsRef e

/-- Reference instant r of a member: the reference's C1 position, or 0 (R159). -/
def refInstant (s : State) (q ts ref : Nat) : Nat :=
  let r := s.tssEntry ts ref
  if (s.seqAt q).uses ref ∧ entStrobe r = 4 ∧ entEn r edgeC1 then entPos r edgeC1 else 0

/-- A reference that searches in this vector (R160). -/
def refSearches (s : State) (q ts ref : Nat) : Bool :=
  let r := s.tssEntry ts ref
  (s.seqAt q).uses ref ∧ entStrobe r = 4 ∧ entEn r edgeC0 ∧ entEn r edgeC1

/-- The compare or search of one channel in one vector: the event, its nominal interval relative to the cycle start, and
whether its edges keep their range (R155 to R161). -/
structure EvPlan where
  ev : StrobeEv
  a : Nat
  b : Nat
  inRange : Bool
  /-- The compare is not made for its range (a SRCSYNC member, R161). -/
  notMade : Bool := false
  deriving DecidableEq, Repr

/-- Sample offsets of the unit intervals of a compare whose first sample lies at `c0` (R157, R158). -/
def sampleOfs (e : BitVec 256) (p c0 : Nat) (ser : Bool) : List Int :=
  if ser then (List.range 8).map (fun u => (c0 : Int) + uiAt e p u) else [(c0 : Int)]

/-- A WINDOW whose C0 keeps its range and whose C1 does not is dropped whole (assumption 87). -/
def planStrobe (s : State) (q ts ch p : Nat) (y : ChSym) : Option EvPlan :=
  let e := s.tssEntry ts ch
  let fmt := entFormat e
  let ser : Bool := fmt = 6
  let mode := entStrobe e
  let ex := expects ser y
  let c0 := entPos e edgeC0
  let c1 := entPos e edgeC1
  let smp := sampleOfs e p c0 ser
  let last := (smp.getLastD 0).toNat
  let ok : Bool := edgeInRange e p edgeC0
  if mode = 4 then
    if entEn e edgeC0 ∧ entEn e edgeC1 then
      some { ev := { chan := ch, mode := 4, samples := [(c0 : Int), (c1 : Int)],
                     gridN := if c0 ≤ c1 then (c1 - c0) / 8 + 1 else 0, rising := !entFalling e },
             a := c0, b := c1, inRange := ok ∧ edgeInRange e p edgeC1 }
    else none
  else if ex = [] ∨ ¬ entEn e edgeC0 ∨ fmt = 5 ∨ fmt ≥ 7 then none
  else if mode = 1 ∨ (mode = 2 ∧ (ser ∨ ¬ entEn e edgeC1)) then
    some { ev := { chan := ch, mode := 1, ser := ser, exps := ex, samples := smp }, a := c0, b := last, inRange := ok }
  else if mode = 2 then
    some { ev := { chan := ch, mode := 2, exps := ex, samples := [(c0 : Int), (c1 : Int)] }, a := c0, b := c1,
           inRange := ok ∧ edgeInRange e p edgeC1 }
  else if mode = 3 then
    let ref := refOf e ch
    let r := refInstant s q ts ref
    some { ev := { chan := ch, mode := 3, ser := ser, exps := ex, samples := smp, ref := some ref,
                   missed := !refSearches s q ts ref },
           a := r + c0, b := r + last, inRange := r + last < 4 * p, notMade := ¬ r + last < 4 * p }
  else none

/-- Place a strobe event (R163): the event as recorded, dropped or not, and the channel. Its samples move with the
correction in force (R151). -/
def placeStrobe (pl : EvPlan) (x : PlaceCtx) (c : Chan) : StrobeEv × Chan :=
  let ev := { pl.ev with base := (x.st : Int) + c.corrCmp.toInt }
  if ¬ pl.inRange then ({ ev with dropped := true }, if pl.notMade then c.range 1 else c)
  else
    let a := x.st + pl.a
    let ok := match c.stb.prevT with | some t => decide (t + 256 ≤ a) | none => true
    if ok then
      (ev, { c with stb := { c.stb with items := c.stb.items ++ [{ ord := x.ord, edge := 4, t := x.st + pl.b, e := x.st + pl.b }] },
                    plinth := if x.live then false else c.plinth, plinthAt := if x.live then none else c.plinthAt })
    else ({ ev with dropped := true }, c.collide)

/-- The rules of R162 other than Period on one channel. The edges a format uses and the use of C1 are read as assumption 88
says. -/
def entryIllegal (s : State) (q ts ch p : Nat) : Bool :=
  let e := s.tssEntry ts ch
  let fmt := entFormat e
  let uses := fun i => if fmt = 0 then i ∈ [0, 1, 2, 3] else if fmt = 3 then i ∈ [0, 1, 2, 3]
    else if fmt = 6 then i ∈ [0, 1, 3] else if fmt = 5 then i ∈ [0, 1, 2] else i ∈ [0, 1, 2, 3]
  let pos := ((List.range 4).filter (fun i => entEn e i ∧ uses i)).map (entPos e)
  let ordered := (pos.zip (pos.drop 1)).all (fun x => x.1 ≤ x.2)
  let c1Used := entStrobe e = 4 ∨ (entStrobe e = 2 ∧ fmt ≠ 6)
  let member := entStrobe e = 3
  let ref := refOf e ch
  let lastS := refInstant s q ts ref + entPos e edgeC0 + (if fmt = 6 then (uiAt e p 7).toNat else 0)
  (List.range 6).any (fun i => entEn e i ∧ ¬ (member ∧ i = 4) ∧ ¬ edgeInRange e p i) ∨
  (member ∧ entEn e edgeC0 ∧ ¬ lastS < 4 * p) ∨ ¬ ordered ∨
  (c1Used ∧ entEn e edgeC0 ∧ entEn e edgeC1 ∧ ¬ entPos e edgeC0 < entPos e edgeC1) ∨
  fmt > 6 ∨ entStrobe e > 4 ∨ (fmt = 6 ∧ (p % 8 ≠ 0 ∨ uiOfsBad e p)) ∨
  (member ∧ ¬ ((s.seqAt q).uses ref ∧ entStrobe (s.tssEntry ts ref) = 4))

end Sys2Proof.Machine
end

