-- ==== Sys2Proof/Machine/Bank.lean ====
section
/-! DEFINITION. Bank power states and the plinth state of channels (R186 to R189). 20 µs are 8,000 PFCLK edges. -/
namespace Sys2Proof.Machine

/-- Channels enter the plinth state in this cycle (R186). -/
def State.plinthAll (s : State) (l : List Nat) : State :=
  foldState l (fun c s => s.modChan c (enterPlinth s.now (s.now * 4096))) s
/-- Channels enter it at the end of the last cycle issued, which ends at the port at `e`, and of their spilled edges. -/
def State.plinthAfter (s : State) (e : Nat) (l : List Nat) : State :=
  foldState l (fun c s => s.modChan c (fun v => enterPlinth s.now (max (s.now * 4096) (max e v.lastAt)) v)) s

/-- Edges of 20 µs and 2 µs. -/
def edges20us : Nat := 8000
def edges2us : Nat := 800

/-- ERR_CODE BANK_CMD. -/
def bankErr (s : State) (b : Nat) : State := s.recordErr (pgBank b) 0x0041

/-- Queue a start in order of commit, then bank number (R188). -/
def queueStart (l : List (Nat × Nat)) (e b : Nat) : List (Nat × Nat) :=
  l.filter (fun x => x.1 < e ∨ (x.1 = e ∧ x.2 < b)) ++ [(e, b)] ++ l.filter (fun x => ¬ (x.1 < e ∨ (x.1 = e ∧ x.2 < b)))

def State.enqueueBank (s : State) (b : Nat) : State :=
  if s.bankQueue.any (fun x => x.2 = b) then s else { s with bankQueue := queueStart s.bankQueue s.now b }
def State.dequeueBank (s : State) (b : Nat) : State :=
  { s with bankQueue := s.bankQueue.filter (fun x => x.2 ≠ b) }

/-- CAL measures on the bank: it is to release it (R18, R189). -/
def State.wantBank (s : State) (b : Nat) : State :=
  if (s.bankAt b).calBusy then { s with cal := { s.cal with wanted := true } } else s

/-- A bank command commits (R187). -/
def bankCommand (b : Nat) (cmd : BankCmd) (s : State) : State :=
  let v := s.bankAt b
  match v.state, cmd with
  | _, .none => s
  | .on, .wake => bankErr s b
  | .on, c =>
    (s.setBank b { v with state := .pendingOff, target := c, entering := s.bankUsers b = [], due := s.now + edges2us,
                          reqEdge := s.now + 1 }).wantBank b
  | .pendingOff, .wake => s.setBank b { v with state := .on, target := .none, entering := false }
  | .pendingOff, c => s.setBank b { v with target := c }
  | .sleep, .wake => (s.setBank b { v with queued := true }).enqueueBank b
  | .sleep, .sleep => if v.queued then (s.setBank b { v with queued := false }).dequeueBank b else bankErr s b
  | .sleep, .off => (s.setBank b { v with state := .off, queued := false, target := .none }).dequeueBank b
  | .waking, .wake => s.setBank b { v with target := .none }
  | .waking, c => s.setBank b { v with target := c }
  | .off, .wake =>
    if v.powering then s.setBank b { v with target := .wake }
    else (s.setBank b { v with queued := true, target := .none }).enqueueBank b
  | .off, .sleep =>
    if v.powering then s.setBank b { v with target := .none }
    else if v.queued ∧ v.target = .sleep then bankErr s b
    else (s.setBank b { v with queued := true, target := .sleep }).enqueueBank b
  | .off, .off =>
    if v.powering then s.setBank b { v with target := .off }
    else if v.queued then (s.setBank b { v with queued := false, target := .none }).dequeueBank b
    else bankErr s b

/-- A recorded command acts as if written in this cycle (R187). -/
def bankRecorded (b : Nat) (s : State) : State :=
  let v := s.bankAt b
  bankCommand b v.target (s.setBank b { v with target := .none })

/-- A bank that lets an arm pass: ON, or a sleep or power-down request of this very cycle, which waits (R17). -/
def State.bankArmable (s : State) (b : Nat) : Bool :=
  let v := s.bankAt b
  v.state = .on ∨ (v.state = .pendingOff ∧ v.reqEdge = s.now + 1)

/-- The last user of a PENDING_OFF bank leaves: its entry starts (R16, R187). -/
def State.bankRelease (s : State) : State :=
  foldState (List.range 16) (fun b s =>
    let v := s.bankAt b
    if v.state = .pendingOff ∧ ¬ v.entering ∧ s.bankUsers b = [] then
      s.setBank b { v with entering := true, due := s.now + edges2us }
    else s) s

/-- A write of BANK.CTRL.CMD on a page that accepts writes. -/
def bankWrite (b : Fin 16) (cmd : BankCmd) (s : State) : State := s.whenReady (pgBank b) (bankCommand b cmd)

/-- WAKE (R187). -/
def execBankWake (b : Fin 16) (s : State) : Res := .next (bankWrite b .wake s)
/-- SLEEP (R187). -/
def execBankSleep (b : Fin 16) (s : State) : Res := .next (bankWrite b .sleep s)
/-- OFF (R187). -/
def execBankOff (b : Fin 16) (s : State) : Res := .next (bankWrite b .off s)

/-- The first queued start may begin: 20 µs after the previous start of any bank (R188). -/
def State.startDue (s : State) (b : Nat) : Bool :=
  (match s.bankQueue with | (_, h) :: _ => decide (h = b) | [] => false) &&
  (match s.bankLastStart with | some e => decide (e + edges20us ≤ s.now) | none => true)

def bankStart (b : Nat) (s : State) : State :=
  let v := s.bankAt b
  let s := { s.dequeueBank b with bankLastStart := some s.now }
  if v.state = .off ∧ v.target = .sleep then
    s.setBank b { v with powering := true, queued := false, target := .none, due := s.now + edges20us }
  else
    s.setBank b { v with state := .waking, queued := false, target := .none,
                         due := s.now + (if v.state = .off then 2 * edges20us else edges20us) }

/-- BANK_START (R188). -/
def execBankStart (b : Fin 16) (s : State) : Res := .next (if s.startDue b then bankStart b s else s)

/-- BANK_WAKE_DONE (R187). -/
def execBankWakeDone (b : Fin 16) (s : State) : Res :=
  let v := s.bankAt b
  .next (if v.state = .waking ∧ v.due ≤ s.now then
    bankRecorded b (s.setBank b { v with state := .on, wakeCount := sat32 (v.wakeCount + 1) }) else s)

/-- BANK_POWER_UP_DONE (R187): the bank enters SLEEP and its channels the plinth state (R186). -/
def execBankPowerUpDone (b : Fin 16) (s : State) : Res :=
  let v := s.bankAt b
  .next (if v.powering ∧ v.due ≤ s.now then
    bankRecorded b ((s.setBank b { v with state := .sleep, powering := false }).plinthAll
      ((List.range 32).map (fun j => 32 * b.val + j))) else s)

/-- BANK_ENTRY_END (R187): the bank enters the TARGET state in force. -/
def execBankEntryEnd (b : Fin 16) (s : State) : Res :=
  let v := s.bankAt b
  .next (if v.state = .pendingOff ∧ v.entering ∧ v.due ≤ s.now ∧ ¬ v.calBusy then
    (s.setBank b { v with state := if v.target = .off then .off else .sleep, target := .none, entering := false
      }).plinthAll ((List.range 32).map (fun j => 32 * b.val + j)) else s)

end Sys2Proof.Machine
end

