-- ==== Sys2Proof/Machine/SchOps.lean ====
section
/-! DEFINITION. Operations of the task scheduler (R238 to R255) that its commands, bursts and executors share. -/
namespace Sys2Proof.Machine

def State.taskAt (s : State) (i : Nat) : Task := sget {} s.sch.tasks i
def State.setTask (s : State) (i : Nat) (t : Task) : State :=
  { s with sch := { s.sch with tasks := sput s.sch.tasks i t } }
def State.execAt (s : State) (x : Nat) : ExecSlots := sget {} s.sch.execs x
def State.setExec (s : State) (x : Nat) (v : ExecSlots) : State :=
  { s with sch := { s.sch with execs := sput s.sch.execs x v } }
def State.portAt (s : State) (p : Nat) : SubPort := sget {} s.sch.ports p
def State.setPort (s : State) (p : Nat) (v : SubPort) : State :=
  { s with sch := { s.sch with ports := sput s.sch.ports p v } }

/-- Entries of the table (R238). -/
def tableSize : Nat := 16384

/-- Fields of a descriptor's CFG (table of R238). -/
def cfgKind (c : Nat) : Nat := c % 4
def cfgPrio (c : Nat) : Nat := c / 16 % 16
def cfgRing (c : Nat) : Nat := c / 256 % 4
def cfgNorec (c : Nat) : Bool := c.testBit 10
def cfgProceed (c : Nat) : Bool := c.testBit 11
def cfgRelease (c : Nat) : Bool := c.testBit 12
def cfgTd (c : Nat) : Nat := c / 2 ^ 13 % 4
def cfgEvent (c : Nat) : Bool := c.testBit 15
def cfgEvSeq (c : Nat) : Nat := c / 2 ^ 16 % 64
def cfgEvStates (c : Nat) : Nat := c / 2 ^ 22 % 8
/-- Reserved CFG bits are zero. -/
def cfgClean (c : Nat) : Bool := (c &&& 0xFE00000C) = 0

/-- Task identity (R238). -/
def taskId (i : Nat) (t : Task) : Nat := i + 2 ^ 14 * t.gen
def idIndex (id : Nat) : Nat := id % 2 ^ 14

/-- The entry an identity names, with its current generation. -/
def State.named (s : State) (id : Nat) : Option Nat :=
  let i := idIndex id
  if id ≠ 0 ∧ (s.taskAt i).state ≠ .free ∧ taskId i (s.taskAt i) = id then some i else none

def State.freeEntries (s : State) : Nat :=
  tableSize - (s.sch.tasks.filter (fun e => e.2.state ≠ .free)).length

/-- Lowest free INDEX. -/
def State.freeIndex (s : State) : Option Nat := (List.range tableSize).find? (fun i => (s.taskAt i).state = .free)

/-- A context of the burst of sequencer `q` does not read DRAINED yet (R209). -/
def State.undrained (s : State) (q : Nat) : Bool :=
  (setBits (s.seqAt q).owned).any (fun i => ¬ (s.capAt i).drained)

/-- Contexts of the burst of sequencer `q`, each with the number of its arm. -/
def State.contexts (s : State) (q : Nat) : List (Nat × Nat) :=
  (setBits (s.seqAt q).owned).map (fun i => (i, (s.capAt i).arms))

/-- A context of a burst is drained: it reads DRAINED, or, armed again since, holds nothing from before (R209). -/
def State.ctxDrained (s : State) (c : Nat × Nat) : Bool :=
  let v := s.capAt c.1
  if v.arms = c.2 then v.drained else v.before = 0 ∧ v.old = []

/-- A context of the burst a task is bound to is not drained; one whose event has not come looks at the sequencer (R243). -/
def State.ctxWaits (s : State) (t : Task) : Bool :=
  if t.evDone then t.ctxs.any (fun c => ¬ s.ctxDrained c) else s.undrained (cfgEvSeq t.cfg)

/-- STAT.OFFLINE of a worker engine: idle and out of service. -/
def State.weIdleOff (s : State) (e : Nat) : Bool := (s.weAt e).offline ∧ (s.execAt e).running.isNone

/-- A requester is reset (R359): its requests not issued complete with RESET, the others' replies are stale. -/
def State.dropRequests (s : State) (page : Nat) : State :=
  { s with hmc := { s.hmc with reqs := s.hmc.reqs.map (fun r =>
    if r.owner ≠ page then r
    else if r.issued then { r with stale := true } else { r with forced := some (.reset, s.now) }) } }

/-- RELEASE_TIME of a task has passed. -/
def State.released (s : State) (t : Task) : Bool := tsPassed (s.stamp (cfgTd t.cfg)) t.release

/-- Executor code of each eligible executor of a task, lowest first. -/
def execCodes (t : Task) : List Nat :=
  if cfgKind t.cfg = 2 then ((List.range 8).filter (fun i => t.execMask.testBit i)).map (· + 0x20)
  else (List.range 24).filter (fun i => t.execMask.testBit i)

/-- The next state of a task whose counter is 0 or that leaves DELAYED or HELD (R243, R247), and the completion it reaches
at once, if any. The release time is looked at when the counter reaches 0. -/
def State.advance (s : State) (i : Nat) : Option TaskStatus × State :=
  let t := s.taskAt i
  if t.state = .waiting ∧ cfgRelease t.cfg ∧ ¬ s.released t then
    (none, s.setTask i { t with state := .delayed, entered := s.now + 1 })
  else
    let before := shortTs (s.time (cfgTd t.cfg) - 400 * 2 ^ 40)
    let late := t.state = .waiting ∧ cfgRelease t.cfg ∧ s.time (cfgTd t.cfg) ≥ 400 * 2 ^ 40 ∧
      tsPassed before t.release ∧ t.release ≠ before
    let s := if late then { s with sch := { s.sch with lateRelease := sat32 (s.sch.lateRelease + 1) } } else s
    if cfgEvent t.cfg ∧ s.ctxWaits t then (none, s.setTask i { t with state := .held })
    else if cfgKind t.cfg = 0 then (some .complete, s)
    else if (execCodes t).all (fun x => (s.execAt x).retired) then (some .noExecutor, s)
    else (none, s.setTask i { t with state := .ready, entered := s.now + 1, head := 0 })

/-- The completion of one task: its record is filled in, or its entry freed with NOREC (R244, R254). -/
def State.recordEnd (s : State) (i : Nat) (st : TaskStatus) : State :=
  let t := s.taskAt i
  let t' := { t with state := if cfgNorec t.cfg then .free else .completing, status := st,
                     ts := s.stamp (fld (s.reg pgSch 0x100) 16 2) }
  s.setTask i t'

/-- One successor sees its predecessor complete (R244, R245): decremented, cascaded in the next cycle, or a decrement that is
due is discarded and counted. Answers a completion it reaches at once. -/
def State.depOn (s : State) (j : Nat) (ok : Bool) : Option (Nat × TaskStatus) × State :=
  let t := s.taskAt j
  if ok ∨ cfgProceed t.cfg then
    if t.state ≠ .waiting ∨ t.dep = 0 then
      (none, { s with sch := { s.sch with depUnderflow := sat32 (s.sch.depUnderflow + 1) } })
    else
      let s := s.setTask j { t with dep := t.dep - 1 }
      if t.dep = 1 then
        match s.advance j with
        | (some st, s) => (some (j, st), s)
        | (none, s) => (none, s)
      else (none, s)
  else if t.state = .waiting then
    (none, { s with sch := { s.sch with cascades := s.sch.cascades ++ [(s.now + 1, taskId j t)] } })
  else (none, s)

/-- All successors of a completed task; the completions they reach are appended to the work list. A successor whose entry
another task has taken since has left WAITING; its policy is no longer known, and it counts as CASCADE (assumption 99). -/
def State.depAll (s : State) (ok : Bool) : List Nat → List (Nat × TaskStatus) × State
  | [] => ([], s)
  | id :: l =>
    if taskId (idIndex id) (s.taskAt (idIndex id)) = id then
      match s.depOn (idIndex id) ok with
      | (some x, s') => let r := s'.depAll ok l; (x :: r.1, r.2)
      | (none, s') => s'.depAll ok l
    else { s with sch := { s.sch with depUnderflow := sat32 (s.sch.depUnderflow + b2n ok) } }.depAll ok l

/-- Completions in one cycle, with all they bring about in it. Each removes a task from the table's earlier states, so
the table size bounds the work. -/
def State.completeAll : Nat → List (Nat × TaskStatus) → State → State
  | 0, _, s => s
  | _, [], s => s
  | n + 1, (i, st) :: l, s =>
    let succs := (s.taskAt i).succs
    let r := (s.recordEnd i st).depAll (st = .complete) succs
    State.completeAll n (l ++ r.1) r.2

/-- A task reaches its completion point with a status. -/
def State.completeTask (s : State) (i : Nat) (st : TaskStatus) : State := State.completeAll (tableSize + 1) [(i, st)] s

/-- Advance a task whose counter is 0 and complete it if it completes at once. -/
def State.advanceTask (s : State) (i : Nat) : State :=
  match s.advance i with
  | (some st, s) => s.completeTask i st
  | (none, s) => s

/-- The event of a burst's final state at one bound task (R246): it acts as a predecessor. -/
def State.eventAt (s : State) (i : Nat) (x : Final) : State :=
  let t := s.taskAt i
  let s := s.setTask i { t with evDone := true, ctxs := x.ctxs }
  match s.depOn i (cfgEvStates t.cfg |>.testBit (x.code - 4)) with
  | (some (j, st), s) => s.completeTask j st
  | (none, s) => s

/-- Sequencer `q` enters final state `code` (4 to 6): every task bound to it since an earlier cycle sees the event
(R246), and pending submissions note it. -/
def State.postFinal (s : State) (q code : Nat) : State :=
  let x : Final := { seq := q, code := code, ctxs := s.contexts q }
  let s := foldState (List.range 8) (fun p s =>
    let v := s.portAt p
    if v.pending ∧ v.edge < s.now then s.setPort p { v with finals := v.finals ++ [x] } else s) s
  let bound := (s.sch.tasks.filter (fun e =>
    e.2.state ≠ .free ∧ cfgEvent e.2.cfg ∧ cfgEvSeq e.2.cfg = q ∧ ¬ e.2.evDone ∧ e.2.subEdge < s.now)).map Prod.fst
  foldState bound (fun i s => s.eventAt i x) s

end Sys2Proof.Machine
end

