-- ==== Sys2Proof/Machine/Burst.lean ====
section
/-! DEFINITION. How a burst starts and ends (R41, R42, R66, R67), align groups (R57 to R65), lockstep sets (R71) and the
application of staged timing sets (R166 to R171): operations shared by sequencer commands, capture, triggers and links. -/
namespace Sys2Proof.Machine

/-! ### Staged timing sets -/

/-- Write one staged item into the store (R166). -/
def applyItem (i : StgItem) (t : Tss) : Tss :=
  if i.header then { t with headers := sput t.headers (64 * i.ts + i.index) (i.data.extractLsb' 0 64 &&& headerMask) }
  else { t with entries := sput t.entries (512 * i.ts + i.index) (i.data &&& entryMask) }

/-- Add a record to the apply log of 64 entries (R171). -/
def logApply (r : ApplyRec) (t : Tss) : Tss :=
  if t.log.length < 64 then { t with log := t.log ++ [r] } else { t with applyOvf := sat32 (t.applyOvf + 1) }

/-- Identity word of a record (table of APPLY_ID). -/
def applyIdWord (imm : Bool) (q : Nat) (atEnd atStart : Bool) (batch : Nat) : Word32 :=
  BitVec.ofNat 32 (2 ^ 31 + (if imm then 2 ^ 30 else 2 ^ 24 * q) + (if atEnd then 2 ^ 23 else 0) +
    (if atStart then 2 ^ 22 else 0) + batch)

def State.applyPart (s : State) (p : BatchPart) (r : ApplyRec) : State :=
  { s with tss := logApply r (p.items.foldl (fun t i => applyItem i t) s.tss) }

/-- Every part pending for sequencer `q` that `p` admits applies, in close order (R168). -/
def State.applyFor (s : State) (q : Nat) (p : BatchPart → Bool) (atEnd atStart : Bool) (vec : Nat) (seg : Word32) : State :=
  let sel := fun (x : BatchPart) => x.seq = some q ∧ p x
  let s := foldState (s.tss.parts.filter (fun x => sel x))
    (fun x s => s.applyPart x { id := applyIdWord false q atEnd atStart x.batch, vec := BitVec.ofNat 64 vec, seg := seg }) s
  { s with tss := { s.tss with parts := s.tss.parts.filter (fun x => ¬ sel x) } }

/-- Unassigned items apply at the second PFCLK edge after their close (R167). -/
def State.tssSettle (s : State) : State :=
  let sel := fun (x : BatchPart) => x.seq = none ∧ x.edge + 2 ≤ s.now
  let s' := foldState (s.tss.parts.filter (fun x => sel x))
    (fun x s => s.applyPart x { id := applyIdWord true 0 false false x.batch, vec := 0, seg := 0xFFFFFFFF }) s
  { s' with tss := { s'.tss with parts := s'.tss.parts.filter (fun x => ¬ sel x) } }

/-- An item that belongs to sequencer `q` with these channels (R167, R169). -/
def StgItem.forSeq (i : StgItem) (q : Nat) (chans : List Nat) : Bool :=
  if i.header then i.index = q else chans.contains i.index

/-- Parts of one batch for one sequencer become one part: one record (R171). -/
def mergeParts : List BatchPart → List BatchPart
  | [] => []
  | p :: t =>
    let same := fun (x : BatchPart) => decide (x.batch = p.batch ∧ x.seq = p.seq)
    { p with items := p.items ++ (t.filter same).flatMap (·.items) } :: (mergeParts t).filter (fun x => ¬ same x)

/-- Unassigned items that an accepted arm of `q` takes over (R169). -/
def State.tssAtArm (s : State) (q : Nat) (chans : List Nat) : State :=
  let split := fun (x : BatchPart) =>
    if x.seq = none then
      [{ x with seq := some q, items := x.items.filter (·.forSeq q chans) },
       { x with items := x.items.filter (fun i => ¬ i.forSeq q chans) }].filter (fun y => y.items ≠ [])
    else [x]
  let s := { s with tss := { s.tss with parts := mergeParts (s.tss.parts.flatMap split) } }
  s.applyFor q (fun _ => true) false true 0 0xFFFFFFFF

/-! ### Lockstep sets -/

/-- Members of the lockstep set of a compatibility sequencer that are in progress (R71); else itself. -/
def State.lockstep (s : State) (q : Nat) : List Nat :=
  let cfg := fun n => s.reg (pgSeq n) 0x12C
  if (s.seqAt q).compat ∧ (cfg q).getLsbD 7 then
    (List.range 64).filter (fun n => n = q ∨ ((s.seqAt n).compat ∧ (s.seqAt n).engaged ∧ (cfg n).getLsbD 7 ∧
      fld (cfg n) 0 6 = fld (cfg q) 0 6))
  else [q]

/-! ### Align groups -/

/-- ALIGN_CFG of a sequencer: since its arm while it is in progress (R74). -/
def alignCfg (s : State) (q : Nat) : Word32 := if (s.seqAt q).engaged then (s.seqAt q).alignCfg else s.reg (pgSeq q) 0x120
/-- Sequencer `q` is a member of an align group; its number. -/
def State.groupOf (s : State) (q : Nat) : Option Nat :=
  if (alignCfg s q).getLsbD 31 then some (fld (alignCfg s q) 0 8) else none
/-- Local members of group `g`. -/
def State.members (s : State) (g : Nat) : List Nat := (List.range 64).filter (fun q => s.groupOf q = some g)
/-- The lowest-numbered local member, whose registers give the parameters (R59). -/
def State.leader (s : State) (g : Nat) : Nat := (s.members g).headD 0
/-- A member in progress, which keeps the parameters of its arm (R74). -/
def State.keeper (s : State) (g : Nat) : Option Seq :=
  ((s.members g).find? (fun q => (s.seqAt q).engaged)).map s.seqAt
def State.groupCfg (s : State) (g : Nat) : Word32 :=
  match s.keeper g with | some v => v.alignPar | none => alignCfg s (s.leader g)
def State.groupX (s : State) (g : Nat) : Bool := (s.groupCfg g).getLsbD 30
def State.groupMaster (s : State) (g : Nat) : Bool := fld (s.groupCfg g) 28 2 = 1
def State.groupPorts (s : State) (g : Nat) : BitVec 6 := (s.groupCfg g).extractLsb' 16 6
def State.groupTd (s : State) (g : Nat) : Nat := fld (s.groupCfg g) 12 2
def State.groupTimeout (s : State) (g : Nat) : Nat :=
  match s.keeper g with | some v => v.alignTo | none => s.regN (pgSeq (s.leader g)) 0x124
def State.groupLead (s : State) (g : Nat) : Nat :=
  match s.keeper g with | some v => v.alignLead | none => s.regN (pgSeq (s.leader g)) 0x128
/-- Waiting members: arrived at the open barrier and still to be released. -/
def State.waiting (s : State) (g : Nat) : List Nat := (s.alignAt g).arrived

/-- Send one message on each port of a set. -/
def State.sendPorts (s : State) (ports : BitVec 6) (m : ZpMsg) : State :=
  foldState (setBits ports) (fun p s => s.zpSend p m) s
/-- The lowest port of a set: how a member reaches its master (R59). -/
def lowestPort (ports : BitVec 6) : BitVec 6 :=
  match setBits ports with | p :: _ => BitVec.twoPow 6 p | [] => 0

/-! ### Ending causes -/

/-- An ending cause commits at a sequencer (R42, R67): of several in one cycle the lowest code stands. `e` is the cycle in
which the SEQ_END condition counts at the earliest (R210). An ABORT of the cycle of the completion point is late (R66). -/
def State.markEnding (s : State) (q : Nat) (c : EndCause) (e : Nat) : State :=
  let v := s.seqAt q
  if ¬ v.engaged then s
  else match v.ending with
    | none => s.setSeq q { v with ending := some (c, s.now), endCond := e, endVaddr := v.pc }
    | some (c0, e0) =>
      if e0 = s.now ∧ c.code < c0.code then
        let late : Bool := c = .stop ∧ c0 = .hostAbort
        s.setSeq q { v with ending := some (c, e0), endCond := max e v.endCond, abortLate := v.abortLate || late,
                            cmdStat := if late then BitVec.ofNat 32 (31 * 256 + 1) else v.cmdStat }
      else s

/-- Causes from outside the instruction flow: vectors of the same cycle still issue before they act (R67). -/
def EndCause.outside : EndCause → Bool
  | .none | .stop | .allRetired | .underrun | .fetchFault | .execFault => false
  | _ => true

/-- No ending cause stands against the vectors of cycle `now`. -/
def Seq.unended (v : Seq) (now : Nat) : Bool :=
  match v.ending with
  | none => true
  | some (c, e) => c.outside && e == now && v.state == .running

/-- DRAINED sets for the contexts of a burst whose queues are empty after its final state (R209). -/
def State.setDrained (s : State) (i : Nat) : State :=
  let v := s.capAt i
  if v.queue = [] ∧ v.old = [] ∧ ¬ v.drained then (s.setCap i { v with drained := true }).raiseEvt (pgCap i) 0x40 else s

/-- The soft reset of a SEQ page completes: RW fields return to their reset values (R43). -/
def seqPageReset (q : Nat) (s : State) : State :=
  let s := (s.resetRegs (pgSeq q)).pageResetDone (pgSeq q)
  s.modSeq q (fun v => { v with resetPend := false, wasReset := true, strmWr := 0, strmOld := 0 })

/-- A group stays closed until every local member has left the in-progress states (R64). -/
def State.reopen (s : State) : State :=
  { s with align := s.align.map (fun e =>
      if e.2.closed ∧ (s.members e.1).all (fun q => ¬ s.inProgress q) then (e.1, {}) else e) }

/-- The channels of an ending burst go to the plinth state when the last issued cycle and the spilled edges end (R42). -/
def State.park (s : State) (q : Nat) : State :=
  let v := s.seqAt q
  if v.parked then s else (s.setSeq q { v with parked := true }).plinthAfter v.portEnd v.cast.chans

/-- Sequencer `q` enters the final state of its ending cause (R42): what takes effect in that cycle. The spec gives no value
for APPLY_VEC of parts applied there; the log holds VEC_COUNT, and 0 for unassigned parts (assumption 89). -/
def State.enterFinal (s : State) (q : Nat) : State :=
  let v := s.seqAt q
  let cause := match v.ending with | some (c, _) => c | none => v.endCause
  let chans := v.cast.chans
  let s := s.park q
  let v := s.seqAt q
  let s := s.setSeq q { v with
    state := cause.final, endCause := cause, arming := .none, waitAlign := false, retireReq := [],
    capRetire := 0, pzWait := false,
    jumpLapsed := v.jumpLapsed || v.jump.isSome, jump := none, pausePend := false, pauseHold := false,
    starvePend := false, starveHold := false, stalled := false, matchRun := none, waitUntil := none, ending := none,
    finalEdge := s.now + 1, atBoundary := false, inflight := [], run := none, queue := [], vfs := {}, jifTaken := none, jifEdge := 0 }
  let s := s.applyFor q (fun _ => true) true false v.vecCount 0xFFFFFFFF
  let s := s.calFinal chans
  let s := foldState (setBits v.owned) (fun i s => s.setDrained i) s
  let s := s.bankRelease
  let s := if v.maquette then s else s.cond (max s.now v.endCond) (.seqEnd q)
  let s := s.postFinal q cause.final.code
  let s := if v.resetPend then seqPageReset q s else s
  s.reopen

/-- A sequencer whose ending cause has committed and whose issued vectors are all committed enters its final state. One
that is RUNNING does so when the cycle of the cause is over, since vectors of that cycle may still issue. -/
def State.finishIf (s : State) (q : Nat) : State :=
  let v := s.seqAt q
  match v.ending with
  | some (_, e) => if v.inflight = [] ∧ (v.state ≠ .running ∨ e < s.now) then s.enterFinal q else s
  | none => s

/-- The cycle is over: sequencers with nothing in flight whose cause committed in it enter their final states. -/
def State.finishCycle (s : State) : State :=
  foldState (s.seq.map Prod.fst) (fun q s =>
    if (s.seqAt q).ending.isSome ∧ (s.seqAt q).inflight = [] then s.enterFinal q else s) s

/-- The release of a group is due in this cycle or before (R58, R59). -/
def State.releaseDue (s : State) (g : Nat) : Bool :=
  let a := s.alignAt g
  (match a.releaseEdge with | some e => decide (e ≤ s.now) | none => false) ||
  (match a.releaseT with | some t => tsPassed (s.stamp (s.groupTd g)) (BitVec.ofNat 64 t) | none => false)

/-- Cancellation or failure of a barrier with cause `c` (R60 to R64): CANCEL goes to the master, or from the master to every
expected port but the one it came from or that is lost; the waiting members and their lockstep sets (R71) end, the group closes, and barriers that the
set's members leave open are cancelled in turn, up to `n` of them. -/
def State.cancelChain : Nat → Nat → EndCause → Option Nat → Nat → State → State
  | 0, _, _, _, _, s => s
  | n + 1, g, c, except, e, s =>
    if ¬ (s.alignAt g).opened then s
    else
      let ports := s.groupPorts g
      let ports := if s.groupMaster g then ports else if except.isSome then 0 else lowestPort ports
      let ports := match except with | some p => ports &&& ~~~ BitVec.twoPow 6 p | none => ports
      let s := if s.groupX g then s.sendPorts ports (.cancel (BitVec.ofNat 8 g)) else s
      let l := ((s.waiting g).flatMap s.lockstep).eraseDups
      let s := foldState l (fun q s => s.markEnding q c e) s
      let s := s.setAlign g { closed := true }
      let s := foldState l (fun q s =>
        match s.groupOf q with
        | some h => if (s.alignAt h).opened ∧ ¬ s.releaseDue h then s.cancelChain n h .alignCancelled none e else s
        | none => s) s
      (foldState l (fun q s => s.finishIf q) s).reopen

/-- Number of align groups. -/
def alignGroups : Nat := 256

/-- Cancellation of an open barrier (R62). -/
def State.cancelGroup (s : State) (g : Nat) (c : EndCause) (except : Option Nat) (e : Nat) : State :=
  s.cancelChain alignGroups g c except e

/-- A member ends while its barrier is open: the barrier is cancelled (R62), unless it was released in this cycle
(R65). -/
def State.memberEnds (s : State) (q e : Nat) : State :=
  match s.groupOf q with
  | some g => if (s.alignAt g).opened ∧ ¬ s.releaseDue g then s.cancelGroup g .alignCancelled none e else s
  | none => s

/-- An ending cause commits at a sequencer and at its lockstep set (R71); barriers are cancelled; a sequencer with nothing
in flight enters its final state. -/
def State.endBurst (s : State) (q : Nat) (c : EndCause) (e : Nat) : State :=
  let l := s.lockstep q
  let s := foldState l (fun n s => s.markEnding n c e) s
  let s := foldState l (fun n s => if (s.seqAt n).ending.isSome then s.memberEnds n e else s) s
  foldState l (fun n s => s.finishIf n) s

/-! ### Start -/

/-- The start of one ARMED sequencer commits: the first vector may issue 4 PFCLK cycles later (R23). Retirements written
before it are due at the first occasion (R52). -/
def State.startOne (s : State) (q : Nat) : State :=
  let v := s.seqAt q
  if v.state = .armed then
    s.setSeq q { v with state := .running, issueFrom := s.now + 4, genBase := (s.now + 4) * 4096, genNext := 0,
                        rotation := [v.cast.idleTs], rotPos := 0, markDue := true,
                        retireReq := v.retireReq.map (fun x => (0, x.2)) }
  else s

/-- A start commits (R48, R49); a lockstep set starts with its lowest-numbered member (R71). -/
def State.startCommit (s : State) (q : Nat) : State :=
  let l := s.lockstep q
  if (s.seqAt q).state = .armed ∧ l.head? = some q then foldState l (fun n s => s.startOne n) s else s

/-- A sequencer goes on after a barrier or a HOLD: the next vector issues 10 ns later and the period generator restarts
(R39, R57, R128). -/
def Seq.goOn (v : Seq) (now : Nat) : Seq := { v with issueFrom := now + 4, genBase := (now + 4) * 4096, genNext := 0 }

/-- Pins of the idle timing set: channels whose entry enables no drive edge (R68). -/
def State.idlePins (s : State) (q : Nat) : List Nat :=
  let c := (s.seqAt q).cast
  c.chans.filter (fun ch => fld (s.tssEntry c.idleTs ch) 0 4 = 0)

/-- A pausable point: a pending PAUSE or starve HOLD takes effect (R102, R68, R127). -/
def State.holdIf (s : State) (q : Nat) (pz : Bool) : State :=
  let v := s.seqAt q
  if pz ∧ v.state = .running ∧ v.ending.isNone ∧ (v.pausePend ∨ v.starvePend) then
    (s.setSeq q { v with state := .hold, pauseHold := v.pausePend, starveHold := v.starvePend, pausePend := false,
                         starvePend := false }).plinthAfter v.portEnd (s.idlePins q)
  else s

/-- Arrival of a member at its barrier (R57 to R59, R64). -/
def State.arriveAt (s : State) (q : Nat) : State :=
  match s.groupOf q with
  | none => s
  | some g =>
    let a := s.alignAt g
    if a.closed then s.endBurst q .alignCancelled s.now
    else
      let a := { a with opened := true, openEdge := if a.opened then a.openEdge else s.now,
                        arrived := a.arrived ++ [q], lastEdge := s.now }
      let s := s.setAlign g a
      let all := (s.members g).all (fun n => a.arrived.contains n)
      if ¬ s.groupX g then
        if all then s.setAlign g { a with releaseEdge := some (s.now + 4) } else s
      else if ¬ s.groupMaster g then
        if all ∧ ¬ a.sentArrive then
          (s.setAlign g { a with sentArrive := true }).sendPorts (lowestPort (s.groupPorts g)) (.arrive (BitVec.ofNat 8 g))
        else s
      else s

/-- The master fixes the release instant once its local members and every expected port have arrived (R59). -/
def State.masterRelease (s : State) (g : Nat) : State :=
  let a := s.alignAt g
  let ports := s.groupPorts g
  if s.groupX g ∧ s.groupMaster g ∧ a.opened ∧ a.releaseT.isNone ∧
      (s.members g).all (fun n => a.arrived.contains n) ∧ a.ports &&& ports = ports then
    let t5 := s.time5 (s.groupTd g) + nsUnits5 (s.groupLead g)
    let t := shortTs (t5 / 5)
    (s.setAlign g { a with releaseT := some t.toNat }).sendPorts ports (.release (BitVec.ofNat 8 g) t)
  else s

/-- A release edge: every waiting member goes on, or starts where ALIGN is its start source (R48, R57). A member that
ends in this cycle does not (R65). -/
def State.releaseGroup (s : State) (g : Nat) : State :=
  let w := s.waiting g
  let s := s.setAlign g {}
  foldState w (fun q s =>
    let v := s.seqAt q
    if v.ending.isSome then s
    else if v.state = .armed then s.startCommit q
    else if v.waitAlign then
      (s.setSeq q { v.goOn s.now with waitAlign := false, pzWait := false }).holdIf q v.pzWait
    else s) s

end Sys2Proof.Machine
end

