-- ==== Sys2Proof/Machine/Issue.lean ====
section
/-! DEFINITION. The issue of one vector (R75 to R81, R96 to R116, R125 to R130): segment boundaries and retirements before
it, the fetch lead and starvation, execution faults, and what the vector does to its channels. -/
namespace Sys2Proof.Machine

/-- ERR_CODEs of a SEQ page. -/
def errUnderrun : BitVec 16 := 0x0030
def errFetchFault : BitVec 16 := 0x0031
def errExecFault : BitVec 16 := 0x0032

/-- Kinds of execution faults. -/
def xIllegal : Nat := 1
def xOperand : Nat := 2
def xLoopDepth : Nat := 3
def xLoopEmpty : Nat := 4
def xLoopOpen : Nat := 5
def xCallDepth : Nat := 6
def xRetEmpty : Nat := 7
def xTarget : Nat := 8
def xPeriod : Nat := 9

/-- An execution fault ends the burst FAULTED; ERR_INFO holds the kind and the timing set of PERIOD. -/
def State.execFault (s : State) (q kind ts : Nat) : State :=
  (s.recordErr (pgSeq q) errExecFault (BitVec.ofNat 32 (2 ^ 24 * kind + ts))).endBurst q .execFault s.now

/-- A fetch fault ends the burst ABORTED; ERR_INFO holds the kind and an index (R129). -/
def State.fetchFault (s : State) (q kind idx : Nat) : State :=
  (s.recordErr (pgSeq q) errFetchFault (BitVec.ofNat 32 (2 ^ 24 * kind + idx % 2 ^ 24))).endBurst q .fetchFault s.now

/-- Issue or prefill meets a vector whose fetch ended with a fault: SEGTAB names the segment, the others the instruction. -/
def State.heldFault (s : State) (q : Nat) (h : Held) : State :=
  match h.bad with
  | some k =>
    if k = kindPastEnd then s.execFault q xTarget 0
    else s.fetchFault q k (if k = kindSegtab then h.seg else h.idx)
  | none => s

/-! ### Retirement (R51 to R53) -/

/-- Cycle start at the port of the next slot. -/
def Seq.slotPort (v : Seq) : Nat := v.genBase + v.genNext + portLatency

/-- Channels private to site `i` in the map of `q`. -/
def State.privateChans (s : State) (q i : Nat) : List Nat :=
  (s.seqAt q).cast.chans.filter (fun c =>
    let a := s.reg (pgCh c) 0x100; fld a 30 2 = 1 ∧ fld a 0 7 = i)

/-- Retire sites before the next vector: their private channels go to the plinth state at its cycle start at the port (R186);
with END_ON_EMPTY the last one ends the burst. A maquette run writes no capture context (R69). -/
def State.retire (s : State) (q : Nat) (mask : BitVec 128) : State :=
  let v := s.seqAt q
  let gone := mask &&& v.active
  if gone = 0 then s
  else
    let s := s.setSeq q { v with active := v.active &&& ~~~ gone }
    let s := foldState (setBits gone) (fun i s =>
      let s := if v.maquette then s else s.modCap i (fun c => { c with retireVec := v.vecCount, retired := true })
      foldState (s.privateChans q i) (fun c s => s.modChan c (enterPlinth s.now v.slotPort)) s) s
    if v.active &&& ~~~ gone = 0 ∧ (s.reg (pgSeq q) 0x100).getLsbD 8 then s.endBurst q .allRetired s.now else s

/-! ### Segment boundary (R110) -/

/-- Sites of a list of retirements. -/
def orMasks (l : List (Nat × BitVec 128)) : BitVec 128 := l.foldl (fun m x => m ||| x.2) 0

/-- Host retirements mature at this boundary: those that committed in an earlier cycle (R52). -/
def State.boundaryRetire (s : State) (q : Nat) : State :=
  let v := s.seqAt q
  (s.setSeq q { v with retireReq := v.retireReq.filter (fun x => ¬ x.1 < s.now) }).retire q
    (orMasks (v.retireReq.filter (fun x => x.1 < s.now)))

/-- The bytes of streamed segments that have ended are released, unless a retained loop holds them (R123). -/
def Seq.release (v : Seq) : Seq :=
  { v with strmRel := max v.strmRel ((v.loops.filterMap (fun l => l.holdRel)).foldl min v.strmDone) }

/-- A jump request whose decision point has issued takes effect (R114, R116): open loops and calls are discarded, and what
retained loops held is released. -/
def State.boundaryJump (s0 : State) (q : Nat) : State :=
  let v0 := s0.seqAt q
  match v0.jump with
  | some j =>
    if j.decided ∧ v0.unended s0.now then
      let s := if j.led then s0
        else (s0.setSeq q { v0 with vfs := { v0.vfs with lead := {} } }).redirectLead q
      let v := s.seqAt q
      s.setSeq q (Seq.release { v with
        jump := none, jumpTaken := true, jumpBoundary := j.seg ≠ v.segCur, jumpSlot := j.slot, jumpSeg := v.segCur,
        jumpVec := v.vecCount, pc := (s.seg q (v.cast.jumpTgt.getD j.slot 0)).first, runPos := 0, loops := [],
        calls := [], matchRun := none })
    else s0
  | none => s0

/-- The actions of a segment boundary, in order, before the next vector issues (R110). -/
def State.boundary (s : State) (q : Nat) : State :=
  let v := s.seqAt q
  let s := s.applyFor q (fun p => decide (p.edge < s.now)) false false v.vecCount (BitVec.ofNat 32 v.segCur)
  let s := if (s.seg q v.segCur).calSafe then s.calBoundary v.cast.chans else s
  let s := s.boundaryRetire q
  (s.boundaryJump q).modSeq q (fun v => { v with atBoundary := false })

/-- What is due before the next vector: staged parts before the first vector, boundary actions, host retirements of a
compatibility burst, retirements ordered by CAP (R168, R52, R110). -/
def State.beforeVector (s : State) (q : Nat) : State :=
  let v := s.seqAt q
  let s := if v.ord = 0 then s.applyFor q (fun _ => true) false true 0 0xFFFFFFFF else s
  let s := if v.atBoundary then s.boundary q else s
  let v := s.seqAt q
  let due := fun (x : Nat × BitVec 128) => v.compat ∧ x.1 + 2 ≤ s.now
  let mask := v.capRetire ||| orMasks (v.retireReq.filter (fun x => due x))
  if mask = 0 then s
  else (s.setSeq q { v with capRetire := 0, retireReq := v.retireReq.filter (fun x => ¬ due x) }).retire q mask

/-! ### Fetch lead (R125 to R130) -/

/-- Vector `pos` of the run comes out of the fetch lead: not one that is replayed or repeated. -/
def Seq.needs (v : Seq) (i : PatInstr) (pos : Nat) : Bool :=
  !v.replays && (i.op ≠ opRpt || pos = 0) && (v.matchRun.all (fun m => m.reps = 0))

/-- UNDERRUN is raised: recorded and counted (R125). UNDR_VEC counts the vector at whose issue it is raised (assumption
90). -/
def State.noteUnderrun (s : State) (q idx : Nat) : State :=
  let v := s.seqAt q
  let s := s.setSeq q { v with underrunFlag := true, belowGuard := true, undrCount := sat32 (v.undrCount + 1),
                               undrInstr := if v.undrCount = 0 then idx else v.undrInstr,
                               undrVec := if v.undrCount = 0 then v.vecCount else v.undrVec }
  (s.recordErr (pgSeq q) errUnderrun (BitVec.ofNat 32 idx)).raiseEvt (pgSeq q) 1

/-- UNDERRUN with its starve action (R125 to R127). -/
def State.raiseUnderrun (s : State) (q idx : Nat) : State :=
  let s := s.noteUnderrun q idx
  if (s.reg (pgSeq q) 0x200).getLsbD 26 then s.modSeq q (fun v => { v with starvePend := true })
  else s.endBurst q .underrun s.now

/-- Issue stalls until refill catches up: compatibility sets, and maquette runs, which count the event (R69, R71). -/
def State.stallIssue (s : State) (q idx : Nat) : State :=
  let v := s.seqAt q
  if v.maquette then
    let s := if v.maqUnderrun = 0 then s.recordErr (pgSeq q) errUnderrun (BitVec.ofNat 32 idx) else s
    s.modSeq q (fun v => { v with stalled := true, maqUnderrun := sat32 (v.maqUnderrun + 1) })
  else s.setSeq q { v with stalled := true }

/-- Issue needs a vector that the lead does not hold: a stall, or the starve action becomes ABORT (R127). -/
def State.starve (s : State) (q idx : Nat) : State :=
  let v := s.seqAt q
  if v.compat ∨ v.maquette then s.stallIssue q idx
  else (if v.belowGuard then s else s.noteUnderrun q idx).endBurst q .underrun s.now

/-- A lockstep member cannot issue its next vector. -/
def State.lacks (s : State) (q : Nat) : Bool :=
  let v := s.seqAt q
  match v.run with
  | some r => v.needs (PatInstr.ofWord r.word) v.runPos ∧ v.vfs.lead.vecs = []
  | none => v.state = .running ∧ ¬ v.waitAlign ∧ v.waitUntil.isNone ∧ v.queue = [] ∧ s.decStarved q

/-- A member of the lockstep set is stalled, or would be at this vector boundary: issue stops on all of them (R71). -/
def State.setStalled (s : State) (q : Nat) : Bool := (s.lockstep q).any (fun n => (s.seqAt n).stalled)
def State.setLacks (s : State) (q : Nat) : Option Nat :=
  if (s.seqAt q).compat then (s.lockstep q).find? (fun n => s.lacks n ∧ (s.seqAt n).ord ≤ (s.seqAt q).ord) else none

/-- Outcome of asking for the next vector. -/
inductive LeadAns where
  /-- The vector, the lead behind it, and whether it has fallen below GUARD. -/
  | issue (h : Held) (f : Vfs) (under : Bool)
  /-- No vector: the state after the stall, fault or underrun. -/
  | stop (s : State)

/-- The lead or the loop cache gives one vector, or issue starves (R117, R125, R127, R129). A lead that ends with the last
vectors the burst can need does not fall below GUARD. -/
def State.askLead (s : State) (q : Nat) (r : Run) (off pos : Nat) (need : Bool) : LeadAns :=
  let v := s.seqAt q
  if ¬ need then .issue ((v.vfs.cached r.seg off).getD (s.readHeld q r.seg r.idx pos .ok)) v.vfs v.belowGuard
  else match v.vfs.lead.vecs with
    | [] => .stop (s.starve q r.idx)
    | h :: t =>
      if h.bad.isSome then .stop (s.heldFault q h)
      else
        let f : Vfs := { v.vfs with lead := { v.vfs.lead with vecs := t } }
        let under : Bool := f.held < 64 * v.guardCfg ∧ ¬ (f.lead.ended ∧ f.lead.path.jif.isNone) ∧ ¬ v.compat
        if under ∧ v.maquette ∧ ¬ v.belowGuard then
          .stop ((s.stallIssue q r.idx).modSeq q (fun v => { v with belowGuard := true }))
        else .issue h f under

/-! ### One vector -/

/-- Settle the items of older vectors on a channel at this cycle start (R152): each dropped edge counts once, and what it
sent towards the port is withdrawn. Answers the channel and the vectors whose strobe event is dropped. -/
def cycleChan (ord st : Nat) (c : Chan) : Chan × List Nat :=
  let d := c.dat.cycle ord st (·.t)
  let e := c.en.cycle ord st (·.t)
  let b := c.stb.cycle ord st (·.e)
  let gone := fun (x : Trans) => (if x.en then e.2 else d.2).any (fun i => i.ord = x.ord ∧ i.t = x.t)
  let edges := ((d.2 ++ e.2).map (fun i => (i.ord, i.edge))).eraseDups
  (({ c with dat := d.1, en := e.1, stb := b.1, sched := c.sched.filter (fun x => ¬ gone x) } : Chan).range
    (edges.length + b.2.length), b.2.map (·.ord))

/-- Mark the strobe events of channel `c` in the vectors `ords` dropped. -/
def dropEvents (ords : List Nat) (c : Nat) (l : List VecRec) : List VecRec :=
  if ords = [] then l
  else l.map (fun r => if ords.contains r.ord then
    { r with events := r.events.map (fun e => if e.chan = c then { e with dropped := true } else e) } else r)

/-- All a vector carries to its channels. -/
structure VecCtx where
  q : Nat
  instr : Nat
  seg : Nat
  off : Nat
  ts : Nat
  f4 : Nat := 0
  s8 : Nat := 0
  fill : Bool := false
  rep : Option Nat := none
  repEnd : Bool := false

/-- Map entry `j` in one vector: its channel advances, and its strobe event is planned and placed. Answers the window
end relative to the cycle start. -/
def vecChannel (x : VecCtx) (ord st p j : Nat) (a : List StrobeEv × Nat × State) : List StrobeEv × Nat × State :=
  let s := a.2.2
  let v := s.seqAt x.q
  let ch := mapChan (v.cast.map.getD j 0)
  let r := cycleChan ord st (s.chanAt ch)
  let s := (s.setChan ch r.1).modSeq x.q (fun v => { v with inflight := dropEvents r.2 ch v.inflight })
  let asg := s.reg (pgCh ch) 0x100
  let gone := fld asg 30 2 = 1 ∧ v.owned.getLsbD (fld asg 0 7) ∧ ¬ v.active.getLsbD (fld asg 0 7)
  if gone then (a.1, a.2.1, s)
  else
    let y0 := resolveSym s x.q x.f4 x.s8 j x.ts
    let y := if x.fill then y0.forFill else y0
    let e := s.tssEntry x.ts ch
    let cfg := s.reg (pgCh ch) 0x104
    let pc : PlaceCtx := { ord := ord, st := st, p := p, live := !v.maquette, inv := cfg.getLsbD 1 }
    let c := placeDrive e pc (cfg.getLsbD 0) y ((s.chanAt ch).range (rangeBad e p x.fill).length)
    if x.fill then (a.1, a.2.1, s.setChan ch c)
    else
      match planStrobe s x.q x.ts ch p y with
      | none =>
        -- a reference that cannot search counts one miss per vector (R161)
        let c := if entStrobe e = 4 then { c with strobeMiss := sat32 (c.strobeMiss + 1) } else c
        (a.1, a.2.1, s.setChan ch c)
      | some pl =>
        let r := placeStrobe pl pc c
        let s := s.setChan ch r.2
        if pl.notMade then (a.1, a.2.1, s) else (a.1 ++ [r.1], max a.2.1 pl.b, s)

/-- Channels that members name though they are no usable reference: one miss each in this vector (R161). -/
def missedRefs (s : State) (x : VecCtx) (evs : List StrobeEv) : List Nat :=
  ((evs.filterMap (fun e => e.ref)).filter (fun r =>
    ¬ ((s.seqAt x.q).uses r ∧ entStrobe (s.tssEntry x.ts r) = 4))).eraseDups

/-- Sum of EDGE_COLLIDE over the channels of a map (R164). -/
def State.collides (s : State) (chans : List Nat) : Nat := (chans.map (fun c => (s.chanAt c).edgeCollide)).sum

/-- Vectors a sequencer has issued in cycle `now`. -/
def Seq.issuedIn (v : Seq) (now : Nat) : Nat := if v.cycEdge = now + 1 then v.cycVecs else 0

/-- A request that commits in the cycle of the first vector issued in it belongs to that vector's segment (R114). -/
def JumpReq.inCycle (j : JumpReq) (now seg : Nat) : JumpReq := if j.edge = now then { j with seg := seg } else j

/-- The sequencer behind one issued vector. -/
def Seq.issued (v : Seq) (x : VecCtx) (p now : Nat) (addr : Addr48) (r : VecRec) : Seq :=
  let first : Bool := v.issuedIn now = 0
  { v with
    ord := v.ord + 1, vecCount := if x.fill then v.vecCount else v.vecCount + 1, cycleTime := v.genNext,
    genNext := v.genNext + p, portEnd := r.start + p, inflight := v.inflight ++ [r],
    segCur := if x.fill then v.segCur else x.seg,
    cycEdge := now + 1, cycVecs := v.issuedIn now + 1,
    cycSeg := if first then (if x.fill then v.segCur else x.seg) else v.cycSeg,
    jump := if first ∧ ¬ x.fill then v.jump.map (·.inCycle now x.seg) else v.jump,
    last := some { ts := x.ts, instr := x.instr, pos := x.off, f4 := x.f4, s8 := x.s8, addr := addr } }

/-- Issue one vector at the sequencer's next slot (R39, R151, R156, R24). -/
def issueVector (x : VecCtx) (s : State) : State :=
  let v := s.seqAt x.q
  let p := hdrPeriod (s.tssHeader x.ts x.q)
  let st := v.slotPort
  let before := if v.maquette then s.collides v.cast.chans else 0
  let addr := capAddr s x.q
  let r := (List.range v.cast.map.length).foldl (fun a j => vecChannel x v.ord st p j a) ([], 0, s)
  let s := r.2.2
  let s := foldState (missedRefs s x r.1)
    (fun c s => s.modChan c (fun v => { v with strobeMiss := sat32 (v.strobeMiss + 1) })) s
  let wend := if r.1 = [] then p else r.2.1
  let illegal := v.maquette ∧ ¬ x.fill ∧ v.cast.chans.any (fun c => entryIllegal s x.q x.ts c p)
  let rec_ : VecRec :=
    { ord := v.ord, vc := v.vecCount, fill := x.fill, rep := x.rep, repEnd := x.repEnd,
      matchId := (v.matchRun.map (·.id)).getD 0, instr := x.instr, seg := x.seg,
      addr := addr, start := st, sites := v.active &&& ~~~ v.smask, commitAt := (st + wend + commitLatency + 4095) / 4096,
      serChans := v.cast.chans.filter (fun c => entFormat (s.tssEntry x.ts c) = 6), events := r.1 }
  s.modSeq x.q (fun v => { v.issued x p s.now addr rec_ with
    maqCollide := if v.maquette then sat32 (v.maqCollide + (s.collides v.cast.chans - before)) else v.maqCollide,
    maqTsIllegal := if illegal then sat32 (v.maqTsIllegal + 1) else v.maqTsIllegal })

/-- TRIG_OUT pulses of a vector whose cycle start at the port is `st` (R111). -/
def State.pulseAt (s : State) (q : Nat) (mask : BitVec 4) (st : Nat) : State :=
  if (s.seqAt q).maquette ∨ mask = 0 then s else s.pulse mask ((st + 4095) / 4096)

/-- The decision point of a segment issues: a pending jump leaves at this segment's end (R109, R114). -/
def State.decisionPoint (s : State) (q : Nat) : State :=
  let v := s.seqAt q
  let s := s.setSeq q { v with decEdge := s.now + 1, jump := v.jump.map (fun j => { j with decided := true }) }
  if v.jump.isSome then (s.redirectQueue q).redirectLead q else s

/-- One vector of a run: the lead gives it, its period is legal, it issues, and the decision point and UNDERRUN that fall
on it take effect. Unchanged but for the stop where it cannot issue. -/
def runVector (x : VecCtx) (r : Run) (pos : Nat) (need : Bool) (s : State) : State :=
  let v := s.seqAt x.q
  match s.askLead x.q r x.off pos need with
  | .stop s => s
  | .issue h f under =>
    if ¬ periodLegal (hdrPeriod (s.tssHeader x.ts x.q)) then s.execFault x.q xPeriod x.ts
    else
      let e := s.seg x.q x.seg
      let s := if v.markDue ∧ x.off = 0 then s.pulseAt x.q e.trigOut v.slotPort else s
      let f := if v.loops ≠ [] ∨ v.matchRun.isSome ∨ (PatInstr.ofWord r.word).op = opRpt then f.keep h else { f with cache := [] }
      let s := (issueVector { x with f4 := h.f4, s8 := h.s8 } s).modSeq x.q (fun w => { w with
        vfs := f, runPos := w.runPos + 1, markDue := false,
        maqMinLead := if ¬ w.maquette then w.maqMinLead else if v.ord = 0 then f.held else min w.maqMinLead f.held,
        belowGuard := w.belowGuard && under })
      let s := if v.cast.version ≠ 2 ∧ x.off + 512 = e.vectors then s.decisionPoint x.q else s
      if under ∧ need ∧ ¬ v.belowGuard ∧ ¬ v.maquette then s.raiseUnderrun x.q x.instr else s

end Sys2Proof.Machine
end

