-- ==== Sys2Proof/Machine/Flags.lean ====
section
/-! DEFINITION. Flag computations: the conditions of JIF on the sequencer's and the chip's flags (R86 to R88), and the
flags of worker arithmetic (R224). -/
namespace Sys2Proof.Machine

/-- Fields of a condition byte: NEG, CLR, KIND, INDEX. -/
def jcNeg (c : Nat) : Bool := c.testBit 7
def jcClr (c : Nat) : Bool := c.testBit 6
def jcKind (c : Nat) : Nat := c / 8 % 8
def jcIdx (c : Nat) : Nat := c % 8

/-- Level of an XT line or a chip flag as before cycle `s.now` (R87). -/
def jifBefore (s : State) (c : Nat) : Bool :=
  if jcKind c = 3 then (s.trg.xtBefore s.now).getLsbD (jcIdx c) else (s.trg.settle s.now).flags.getLsbD (jcIdx c)

/-- The condition at evaluation: FAIL and TRIG with every commit of the cycle of the first vector, XT and flags as taken
before it (R86, R87). In a maquette run FAIL reads clear (R69). -/
def jifTrue (v : Seq) (c : Nat) : Bool :=
  let k := jcKind c
  xor (if k = 0 then v.failFlag && !v.maquette else if k = 1 then v.matched else if k = 2 then v.trigFlag else v.jifLvl) (jcNeg c)

/-- CLR clears the tested FAIL or TRIG flag at the end of the cycle, after the evaluation (R88). -/
def jifClear (c : Nat) (v : Seq) : Seq :=
  if ¬ jcClr c then v
  else if jcKind c = 0 then { v with failFlag := false }
  else if jcKind c = 2 then { v with trigFlag := false }
  else v

/-- CLR of a chip flag commits in the cycle of the first vector: a set of the same cycle wins (R88). -/
def jifClearFlag (c : Nat) (s : State) : State :=
  if jcClr c ∧ jcKind c = 4 then s.flagOps 0 (BitVec.twoPow 8 (jcIdx c)) s.now else s

/-- A fail or trigger commit sets the sequencer's flag (R87). -/
def State.setFailFlag (s : State) (q : Nat) : State := s.modSeq q (fun v => { v with failFlag := true })
def State.setTrigFlag (s : State) (q : Nat) : State := s.modSeq q (fun v => { v with trigFlag := true })

/-- Z and N of a result, C cleared (R224). -/
def WeFlags.alu (f : WeFlags) (r : Word64) : WeFlags := { f with z := decide (r = 0), n := r.getLsbD 63, c := false }
/-- Flags of RA + B: carry out. -/
def WeFlags.add (f : WeFlags) (a b : Word64) : WeFlags := { f.alu (a + b) with c := decide (2 ^ 64 ≤ a.toNat + b.toNat) }
/-- Flags of RA - B: no borrow out. -/
def WeFlags.sub (f : WeFlags) (a b : Word64) : WeFlags := { f.alu (a - b) with c := decide (b.toNat ≤ a.toNat) }

/-- A branch condition (table of R224); none: reserved. -/
def WeFlags.holds (f : WeFlags) (c : Nat) : Option Bool :=
  if c = 0 then some true else if c = 1 then some f.z else if c = 2 then some (!f.z) else if c = 3 then some f.n
  else if c = 4 then some (!f.n) else if c = 5 then some f.c else if c = 6 then some (!f.c) else if c = 7 then some f.q
  else if c = 8 then some (!f.q) else none

end Sys2Proof.Machine
end

