-- ==== Sys2Proof/Machine/Str.lean ====
section
/-! DEFINITION. What measure and source streams share (R256 to R261, R279): binding, starts, the converter grid,
corrections at frame boundaries, ends; the cross-fade requests of R275; and what a MARK does to streams. -/
namespace Sys2Proof.Machine

/-- Page and calibration number of a stream. -/
def pgStr : StreamId → Nat
  | .ms i => pgMsf i
  | .ss i => pgSsg i
def strNo : StreamId → Nat
  | .ms i => i
  | .ss i => 64 + i

def State.runAt (s : State) : StreamId → StrRun
  | .ms i => (s.msAt i).run
  | .ss i => (s.ssAt i).run
def State.setRun (s : State) (m : StreamId) (r : StrRun) : State :=
  match m with
  | .ms i => s.setMs i { s.msAt i with run := r }
  | .ss i => s.setSs i { s.ssAt i with run := r }

/-- In progress: ARMED or RUNNING (R256). -/
def StrRun.inProgress (r : StrRun) : Bool := r.state = .armed ∨ r.state = .running

/-- All streams. -/
def allStreams : List StreamId := (List.finRange 64).map .ms ++ (List.finRange 64).map .ss

/-- The link and converter a stream is bound to (R256). -/
def State.strPl (s : State) (m : StreamId) : Nat := fld (s.reg (pgStr m) 0x110) 16 5
def State.strConv (s : State) (m : StreamId) : Nat := fld (s.reg (pgStr m) 0x110) 0 2

/-- Measure and source converters are different converters. -/
def sameKind : StreamId → StreamId → Bool
  | .ms _, .ms _ | .ss _, .ss _ => true
  | _, _ => false

/-- Another stream in progress is bound to a converter. -/
def State.convBusy (s : State) (m : StreamId) (conv : Nat) : Bool :=
  allStreams.any (fun n => n ≠ m ∧ sameKind n m ∧ (s.runAt n).inProgress ∧ s.strPl n = s.strPl m ∧ s.strConv n = conv)

/-- Any stream is in progress. -/
def State.anyStream (s : State) : Bool := allStreams.any (fun m => (s.runAt m).inProgress)

/-- Outcome of a command. -/
def State.strCmd (s : State) (m : StreamId) (code : Nat) : State := s.setRun m { s.runAt m with cmd := code }

/-! ### Grid and starts (R259, R260) -/

/-- Grid period in fine steps: 50 ns times DIV. -/
def State.strT (s : State) (m : StreamId) : Nat := 81920 * (fld (s.reg (pgStr m) 0x10C) 0 12 + 1)

/-- Instant of grid index `n`. -/
def State.gridAt (s : State) (m : StreamId) (n : Nat) : Nat := (s.runAt m).grid + n * s.strT m

/-- First grid index at or after an instant. -/
def State.gridFrom (s : State) (m : StreamId) (t : Nat) : Nat := (t - (s.runAt m).grid + s.strT m - 1) / s.strT m

def State.strSrc (s : State) (m : StreamId) : Nat := fld (s.reg (pgStr m) 0x114) 0 2
def State.strTd (s : State) (m : StreamId) : Nat := fld (s.reg (pgStr m) 0x114) 4 2
def State.strStartTime (s : State) (m : StreamId) : Word64 := BitVec.ofNat 64 (s.reg64 (pgStr m) 0x118)

/-- The start commits at instant `t` (R259): RUNNING, the first grid index and its timestamp; a measure stream takes a
synchronising reset (R264). -/
def State.strStart (s : State) (m : StreamId) (t : Nat) (late : Bool) : State :=
  let n := s.gridFrom m t
  let r := { s.runAt m with state := .running, startAt := some t, next := n, startLate := late,
                            firstTs := s.stampAt (s.strTd m) (s.gridAt m n) }
  match m with
  | .ms i => s.setMs i { s.msAt i with run := r, resets := [t] }
  | .ss i => s.setSs i { s.ssAt i with run := r }

/-- The instant, in fine steps, at which a domain read the short timestamp `t` that has passed. -/
def State.fineOf (s : State) (d : Nat) (t : Word64) : Nat :=
  ((s.now : Int) * 4096 - ((s.stamp d - t).toNat : Int) * 1562500 * 4096 / (2 ^ 40 + s.rateOf d)).toNat

/-- A start by a time compare that has fired: START_TIME, or the first edge in ARMED where it had passed before. -/
def State.strTimeStart (s : State) (m : StreamId) : State :=
  let r := s.runAt m
  if r.state = .armed ∧ s.strSrc m = 1 ∧ tsPassed (s.stamp (s.strTd m)) (s.strStartTime m) then
    if r.lateStart then s.strStart m (r.armedAt * 4096) true
    else s.strStart m (s.fineOf (s.strTd m) (s.strStartTime m)) false
  else s

/-! ### Corrections and holds at frame boundaries (R279, R326, R327) -/

/-- A staged gain and offset enter force with output or sample index `k`, if staged before cycle `e`. -/
def State.convEnter (s : State) (m : StreamId) (e k : Nat) : State :=
  match s.cal.stagedConv.find? (fun x => x.1 = strNo m) with
  | some (_, edge, gain, ofs) =>
    if edge < e then
      let s := { s with cal := { s.cal with stagedConv := sdel s.cal.stagedConv (strNo m) } }
      let s := s.setRun m { s.runAt m with corrGain := gain, corrOfs := ofs, corrOut := k }
      s.figEnter (if strNo m < 64 then 5 else 6) (strNo m % 64)
    else s
  | none => s

/-- Frame length in outputs or samples. -/
def State.frameLen (s : State) (m : StreamId) : Nat :=
  2 ^ (match m with | .ms _ => s.regN (pgStr m) 0x12C | .ss _ => s.regN (pgStr m) 0x14C)

/-- A frame boundary before output or sample `k`: corrections enter, and CAL takes or returns the converter. Answers
whether it was returned. -/
def State.frameBoundary (s : State) (m : StreamId) (k : Nat) : Bool × State :=
  if k % s.frameLen m = 0 then
    let s := s.convEnter m s.now k
    let r := s.runAt m
    match r.holdNext with
    | some h => (r.held && !h, s.setRun m { r with held := h, holdNext := none })
    | none => (false, s)
  else (false, s)

/-! ### Frames to the PE and ends (R277, R278) -/

/-- One source sample in a stream block. -/
def State.sendSample (s : State) (m : StreamId) (idx : Nat) (v : Int) (stale : Bool) : State :=
  let h := BitVec.ofNat 32 (0x22 * 2 ^ 24 + s.strConv m * 2 ^ 22 + idx % 65536)
  let w := BitVec.ofNat 32 (b2n stale * 2 ^ 30 + (BitVec.ofInt 18 v).toNat)
  s.peFrame (s.strPl m) 5 [h, w]

/-- A stream ends (R257); a source stream sends END_VALUE except after an underrun or a lost link. -/
def State.strEnd (s : State) (m : StreamId) (st : StrState) (c : StrCause) : State :=
  let r := s.runAt m
  let was := r.inProgress
  let s := s.setRun m { r with state := st, cause := c, arming := false, holdNext := none,
                               doneEdge := if c = .complete then s.now + 1 else r.doneEdge }
  match m with
  | .ms _ => s
  | .ss i =>
    if was ∧ c ≠ .underrun ∧ c ≠ .peLinkLost then
      s.sendSample m r.next ((s.reg (pgSsg i) 0x10C).extractLsb' 16 16).toInt false
    else s

/-- The streams bound to converters of a lost PE link go FAULTED (R257, R379). -/
def State.strLinkLost (s : State) (j : Nat) : State :=
  foldState allStreams (fun m s =>
    if (s.runAt m).inProgress ∧ s.strPl m = j then s.strEnd m .faulted .peLinkLost else s) s

/-! ### Cross-fade requests (R275) -/

def Fade.decide (f : Fade) (t : Bool) (l : Nat) : Fade :=
  if t = f.active then { f with noop := true } else { f with fade := some (t, 0, l) }

def Fade.request (f : Fade) (t : Bool) (l : Nat) : Fade :=
  if f.fade.isNone then f.decide t l
  else { f with waiting := some (t, l), superseded := sat32 (f.superseded + b2n f.waiting.isSome) }

/-- An output of the fade is done. -/
def Fade.advance (f : Fade) : Fade :=
  match f.fade with
  | some (t, i, l) =>
    if i + 1 < l then { f with fade := some (t, i + 1, l) }
    else
      let g := { f with active := t, fade := none, waiting := none }
      match f.waiting with
      | some (t', l') => g.decide t' l'
      | none => g
  | none => f

/-- A mark orders a swap; a host request of the same cycle counts as superseded. -/
def Ss.markSwap (v : Ss) (now t l : Nat) : Ss :=
  let f := match v.fadeOld with
    | some (e, f) => if e = now + 1 then { f with superseded := sat32 (f.superseded + 1) } else v.fade
    | none => v.fade
  { v with fade := f, fadeOld := none, markEdge := now + 1, swaps := v.swaps ++ [(t, l)] }

/-! ### Marks (R92, R259, R264, R275) -/

/-- A START_CFG whose source is the MARK `id` of sequencer `q`. -/
def startByMark (c : Word32) (q id : Nat) : Bool := fld c 0 2 = 2 ∧ fld c 8 6 = q ∧ fld c 16 8 = id

/-- A MARK of sequencer `q` reaches the streams; its first vector's cycle starts at the port at `t`. -/
def State.markStreams (s : State) (q id t : Nat) : State :=
  let s := foldState allStreams (fun m s =>
    if (s.runAt m).state = .armed ∧ startByMark (s.reg (pgStr m) 0x114) q id then s.strStart m t false else s) s
  let s := foldState (List.range 64) (fun i s =>
    let v := s.msAt i
    let c := s.reg (pgMsf i) 0x120
    if v.run.state = .running ∧ bit c 31 ∧ fld c 8 6 = q ∧ fld c 16 8 = id then s.setMs i { v with resets := v.resets ++ [t] }
    else s) s
  foldState (List.range 64) (fun i s =>
    let v := s.ssAt i
    let c := s.reg (pgSsg i) 0x120
    if v.run.state = .running ∧ bit c 31 ∧ fld c 24 6 = q ∧ fld c 16 8 = id then
      s.setSs i (v.markSwap s.now t (fld c 0 16 + 1)) else s) s

end Sys2Proof.Machine
end

