-- ==== Sys2Proof/Machine/Port.lean ====
section
/-! DEFINITION. The ports of a channel: high-impedance or driven (R178), compare termination (R179), loopback (R190, R191),
the levels CHI_NOW and CLO_NOW show (R193), and the transitions that reach a drive port as PFCLK edges pass (R151,
R186). -/
namespace Sys2Proof.Machine

/-! ### Loopback -/

/-- Loopback modes (R190). -/
inductive LoopMode where | none | int | pair | port
  deriving DecidableEq, Repr

/-- LOOP.MODE; the reserved codes act as NONE. -/
def loopModeOf (m : Nat) : LoopMode := if m = 1 then .int else if m = 2 then .pair else if m = 3 then .port else .none

/-- The loopback that acts on channel `c`: its bank is ON and no in-progress map holds it (R191). -/
def State.loopMode (s : State) (c : Nat) : LoopMode :=
  if (s.bankAt (c / 32)).state = .on ∧ ¬ s.chanInUse c then loopModeOf (fld (s.reg (pgCh c) 0x10C) 0 3) else .none
/-- CH.STAT.LOOP_ACTIVE. -/
def State.loopActs (s : State) (c : Nat) : Bool := s.loopMode c ≠ .none

/-- What the compare sampler of a channel sees (R190): its balls, the edge generator of a channel, or its own DAT output
stage at the pad. -/
inductive CmpSource where
  | balls
  | edges (chan : Nat)
  | datStage
  deriving DecidableEq, Repr

/-- Channel n XOR 1. -/
def pairMate (c : Nat) : Nat := if c % 2 = 0 then c + 1 else c - 1

def State.cmpSource (s : State) (c : Nat) : CmpSource :=
  if s.loopMode c = .int then .edges c
  else if s.loopMode (pairMate c) = .pair then .edges (pairMate c)
  else if s.loopMode c = .port then .datStage
  else .balls

/-! ### Levels -/

/-- What a channel puts on its two drive pairs (R176, R178). -/
inductive PortLevel where
  | hiZ
  | driven (dat en : Bool)
  deriving DecidableEq, Repr

/-- High-impedance while the bank is OFF, as after reset; in a PORT loopback DAT is driven and EN deasserted (R178, R190). -/
def State.portLevel (s : State) (c : Nat) : PortLevel :=
  let v := s.chanAt c
  if (s.bankAt (c / 32)).state = .off then .hiZ
  else if s.loopMode c = .port then .driven v.datOut false
  else .driven v.datOut v.enOut

/-- The compare termination is on (R179). -/
def State.termOn (s : State) (c : Nat) : Bool :=
  let b := (s.bankAt (c / 32)).state
  (b = .sleep ∨ b = .waking ∨ b = .on) ∧ ¬ (s.reg (pgCh c) 0x104).getLsbD 3

/-- CH.STAT.PLINTH (R186): the plinth state, except where a PORT loopback drives the port, and an OFF bank. -/
def State.plinthBit (s : State) (c : Nat) : Bool :=
  (s.bankAt (c / 32)).state = .off ∨ ((s.chanAt c).plinth ∧ s.loopMode c ≠ .port)

/-- CHI and CLO of a sampler fed from inside the chip: a high level shows CHI, a low level CLO (assumption 95). -/
def levelPair (b : Bool) : Bool × Bool := (b, !b)

/-- CHI and CLO of a channel sampled now, after CMP_SWAP (R179, R193): from the balls they are what the world puts there. -/
def State.cmpNow (s : State) (c : Nat) : Bool × Bool :=
  let x := match s.cmpSource c with
    | .balls => ((Config.comparePins s.now c).getLsbD 0, (Config.comparePins s.now c).getLsbD 1)
    | .edges n => levelPair (s.chanAt n).dat.level
    | .datStage => levelPair (s.chanAt c).datOut
  if (s.reg (pgCh c) 0x104).getLsbD 2 then (x.2, x.1) else x

/-! ### Transitions -/

/-- A transition reaches the port of channel `c`. -/
def Chan.reach (v : Chan) (x : Trans) : Chan := if x.en then { v with enOut := x.lvl } else { v with datOut := x.lvl }
def Chan.holds (v : Chan) (x : Trans) : Bool := if x.en then v.enOut = x.lvl else v.datOut = x.lvl

def State.emit (s : State) (c : Nat) (x : Trans) : State :=
  if (s.chanAt c).holds x then s
  else { s.modChan c (fun v => v.reach x) with outbox := s.outbox ++ [.port c x.en x.lvl x.at_] }

/-- The transitions of channel `c` that fall in the cycle that begins, and an entry into the plinth state (R186). -/
def State.chanTick (s : State) (c : Nat) : State :=
  let v := s.chanAt c
  let due := v.sched.filter (fun x => x.at_ < (s.now + 1) * 4096)
  let s := s.setChan c { v with
    sched := v.sched.filter (fun x => ¬ x.at_ < (s.now + 1) * 4096),
    plinth := v.plinth || v.plinthAt.any (fun t => t < (s.now + 1) * 4096),
    plinthAt := v.plinthAt.filter (fun t => ¬ t < (s.now + 1) * 4096) }
  foldState due (fun x s => s.emit c x) s

def State.portTick (s : State) : State :=
  foldState ((s.chan.filter (fun e => e.2.sched ≠ [] ∨ e.2.plinthAt.isSome)).map Prod.fst) (fun c s => s.chanTick c) s

/-- A DRV tap delivers an edge only where such a transition has been placed at the port by then (R192, R283; assumption
96). `tick`: the ECLK tick that follows the edge. -/
def State.drvMade (s : State) (c : Nat) (en rising : Bool) (tick : Nat) : Bool :=
  s.outbox.any (fun m => match m with
    | .port n e l t => decide (n = c ∧ e = en ∧ l = rising ∧ t ≤ 512 * tick)
    | _ => false) ∨
  (s.chanAt c).sched.any (fun x => decide (x.en = en ∧ x.lvl = rising ∧ x.at_ ≤ 512 * tick))

end Sys2Proof.Machine
end

