-- ==== Sys2Proof/Machine/Tim.lean ====
section
/-! DEFINITION. Interval measurement units (R283 to R297). Instants of edges are in units of 0.5 ps, 5,000 to a PFCLK
cycle; a PFCLK edge holds 4,096 fine steps. -/
namespace Sys2Proof.Machine

/-! ### Configuration -/

/-- Registers of a unit. -/
def State.timReg (s : State) (u off : Nat) : Nat := s.regN (pgTim u) off
/-- MODE is FREQ. -/
def State.timFreq (s : State) (u : Nat) : Bool := bit (s.reg (pgTim u) 0x10C) 31
def State.timSkip (s : State) (u : Nat) : Nat := fld (s.reg (pgTim u) 0x10C) 0 8
def State.timTd (s : State) (u : Nat) : Nat := fld (s.reg (pgTim u) 0x128) 4 2
def State.timSrc (s : State) (u : Nat) : Nat := fld (s.reg (pgTim u) 0x128) 0 2
def State.timStartTime (s : State) (u : Nat) : Word64 := BitVec.ofNat 64 (s.reg64 (pgTim u) 0x130)

/-- A source selector whose edge code is reserved, or whose index its kind does not have (R283). -/
def selBad (w : Word32) : Bool :=
  fld w 26 2 = 3 ∨ (fld w 28 4 = 5 ∧ fld w 16 9 > 3) ∨ (fld w 28 4 = 6 ∧ fld w 16 9 ≠ 0) ∨ (fld w 28 4 = 7 ∧ fld w 16 9 > 15)

/-- A register out of range (R293). -/
def State.timCfgBad (s : State) (u : Nat) : Bool :=
  s.timReg u 0x11C = 0 ∨ s.timReg u 0x11C > 1000000 ∨ s.timReg u 0x124 = 0 ∨ s.timReg u 0x124 > 10000000 ∨
  s.timReg u 0x118 = 0 ∨ s.timSrc u = 3 ∨ selBad (s.reg (pgTim u) 0x110) ∨ selBad (s.reg (pgTim u) 0x114)

/-- Crystal error estimate in units of 0.01 ppb (R314). -/
def State.xoEst (s : State) : Int :=
  (s.trim 2 ++ s.trim 1).toInt + ((s.reg (pgTime 0) 0x220).extractLsb' 0 16).toInt * s.regN (pgTime 0) 0x224

def Tim.inProgress (v : Tim) : Bool := v.state = .armed ∨ v.state = .running
def State.anyTim (s : State) : Bool := (List.range 32).any (fun u => (s.timAt u).inProgress)

/-- CAL measures on the unit (R296): kinds 7 and 8. -/
def State.timCalBusy (s : State) (u : Nat) : Bool := s.cal.running = some (7, u) ∨ s.cal.running = some (8, u)

/-! ### Arm and start (R293, R294, R284) -/

/-- Staged corrections of a unit enter force. -/
def State.timEnter (s : State) (u : Nat) : State :=
  match s.cal.stagedTim.find? (fun x => x.1 = u) with
  | some (_, g) =>
    let v := s.timAt u
    let s := s.setTim u { v with tab := g.tab.getD v.tab, taps := g.taps.getD v.taps, sync := g.sync.getD v.sync }
    let s := { s with cal := { s.cal with stagedTim := sdel s.cal.stagedTim u } }
    let s := if g.tab.isSome then s.figEnter 7 u else s
    if g.taps.isSome then s.figEnter 8 u else s
  | none => s

/-- The unit enters ARMED. -/
def State.timArmed (s : State) (u : Nat) : State :=
  let s := s.timEnter u
  let v := s.timAt u
  let late := s.timSrc u = 1 ∧ tsPassed (s.stamp (s.timTd u)) (s.timStartTime u)
  s.setTim u { state := .armed, cmd := v.cmd, armedAt := s.now, lateStart := late, doneEdge := v.doneEdge,
               tab := v.tab, taps := v.taps, sync := v.sync }

def timArm (u : Nat) (s : State) : State :=
  let v := s.timAt u
  if v.inProgress then (s.setTim u { v with cmd := 4 }).recordErr (pgTim u) 0x0023
  else if s.timCfgBad u then (s.setTim u { v with cmd := 0x12 }).recordErr (pgTim u) 0x0022
  else if s.timCalBusy u then
    s.setTim u { state := v.state, cause := v.cause, arming := true, doneEdge := v.doneEdge, tab := v.tab, taps := v.taps, sync := v.sync }
  else (s.setTim u { v with cmd := 0 }).timArmed u
/-- TIM_ARM: a unit that CAL measures enters ARMED when CAL releases it. -/
def execTimArm (u : Fin 32) (s : State) : Res := .next (s.whenReady (pgTim u) (timArm u))

/-- The start commits at `t`, in fine steps; in frequency mode the gate opens. -/
def State.timStart (s : State) (u t : Nat) (late : Bool) : State :=
  let v := s.timAt u
  let ts := if s.timFreq u then s.stampAt (s.timTd u) t else v.firstTs
  s.setTim u { v with state := .running, startAt := some t, startLate := late, est := s.xoEst, firstTs := ts }

/-- TIM_START: a host START. -/
def execTimStart (u : Fin 32) (s : State) : Res :=
  .next (s.whenReady (pgTim u) (fun s =>
    let v := s.timAt u
    if v.state = .armed then (s.setTim u { v with cmd := 0 }).timStart u (s.now * 4096) false
    else s.setTim u { v with cmd := 3 }))

/-- A start by a MARK (R294); `t` in fine steps. -/
def State.markTim (s : State) (q id t : Nat) : State :=
  foldState (List.range 32) (fun u s =>
    let c := s.reg (pgTim u) 0x128
    if (s.timAt u).state = .armed ∧ fld c 0 2 = 2 ∧ fld c 8 6 = q ∧ fld c 16 8 = id then s.timStart u t false else s) s

/-! ### Results (R289, R291) -/

/-- The largest `r` with `r * r ≤ x`, for `x` below 2 ^ (2 n). -/
def isqrt (x : Nat) : Nat → Nat → Nat
  | 0, r => r
  | n + 1, r => isqrt x n (if (r + 2 ^ n) * (r + 2 ^ n) ≤ x then r + 2 ^ n else r)

/-- Rounded quotient, half up. -/
def roundNat (n d : Nat) : Nat := (2 * n + d) / (2 * d)

/-- SDEV in 0.01 ps: half up of 50 times the sample deviation. -/
def sampleDev (k s1 s2 : Nat) : Nat :=
  if k < 2 then 0 else (isqrt (10000 * (k * s2 - s1 * s1) / (k * (k - 1))) 96 0 + 1) / 2

/-- FREQ in µHz over a span in units of 0.5 ps of the reference: a REFCLK period holds 20,000 of them, a crystal
period 50,000; `est` is the crystal estimate in 0.01 ppb. -/
def freqOf (xtal : Bool) (est : Int) (n span : Nat) : Nat :=
  if xtal then (roundDiv (10 ^ 6 * ((n : Int) - 1) * (40000000 * (10 ^ 11 + est)) * 50000) (10 ^ 11 * (span : Int))).toNat
  else roundNat (10 ^ 6 * (n - 1) * 100000000 * 20000) span

/-- Write the results of the shots or edges taken. A span of 0 leaves FREQ open. -/
def State.timResults (s : State) (u : Nat) : State :=
  let v := s.timAt u
  if s.timFreq u then
    let span := (v.last - v.first).toNat
    if v.edges < 2 then s.setTim u { v with freq := 0 }
    else if span = 0 then let f := s.fresh 64; f.2.setTim u { v with freq := f.1.toNat }
    else s.setTim u { v with freq := freqOf (bit (s.reg (pgTim u) 0x10C) 30) v.est v.edges span }
  else if v.shots = 0 then s.setTim u { v with mean := 0, sdev := 0, minR := 0, maxR := 0 }
  else s.setTim u { v with mean := roundNat (50 * v.s1) v.shots, sdev := sampleDev v.shots v.s1 v.s2,
                           minR := v.minX, maxR := v.maxX }

/-- The measurement ends with its results. -/
def State.timEnd (s : State) (u : Nat) (st : TimState) (c : TimCause) (part : Bool) : State :=
  (s.timResults u).modTim u (fun v => { v with
    state := st, cause := c, partialRes := part, shot := none, doneAt := none,
    doneEdge := if c = .hostAbort ∨ c = .reset then v.doneEdge else s.now + 1 })

/-- The completion point has come (R290). -/
def State.timDue (s : State) (u : Nat) : Bool :=
  match (s.timAt u).doneAt with
  | some e => (s.timAt u).state = .running ∧ e ≤ s.now
  | none => false

/-- TIM_COMPLETE. -/
def execTimComplete (u : Fin 32) (s : State) : Res :=
  .next (if s.timDue u then s.timEnd u .done .complete false else s)

def timAbort (u : Nat) (s : State) : State :=
  let v := s.timAt u
  if s.timDue u then (s.timEnd u .done .complete false).modTim u (fun v => { v with cmd := 1 })
  else if v.inProgress then (s.timEnd u .aborted .hostAbort true).modTim u (fun v => { v with cmd := 0 })
  else s.setTim u { v with cmd := if v.doneEdge = s.now + 1 then 1 else 2 }
/-- TIM_ABORT (R295). -/
def execTimAbort (u : Fin 32) (s : State) : Res := .next (s.whenReady (pgTim u) (timAbort u))

/-- TIM_CLEAR (R293): a final state returns to IDLE. -/
def execTimClear (u : Fin 32) (s : State) : Res :=
  .next (s.whenReady (pgTim u) (fun s =>
    let v := s.timAt u
    if v.state = .done ∨ v.state = .aborted then s.setTim u { v with state := .idle, cause := .none, cmd := 0 } else s))

/-- A soft reset of a TIM page. -/
def timReset (u : Nat) (s : State) : State :=
  let v := s.timAt u
  if v.state = .idle then s.setTim u { v with arming := false }
  else s.setTim u { v with state := .aborted, cause := .reset, arming := false, shot := none, doneAt := none }

/-! ### Edges (R283 to R288, R291) -/

/-- A selector names the source and direction of an edge. -/
def selMatch (w : Word32) (kind index : Nat) (rising : Bool) : Bool :=
  1 ≤ kind ∧ kind ≤ 7 ∧ fld w 28 4 = kind ∧ fld w 16 9 = index ∧
    (fld w 26 2 = 2 ∨ fld w 26 2 = (if rising then 0 else 1))

/-- Start and stop name one source (R285). -/
def State.oneSource (s : State) (u : Nat) : Bool := s.timReg u 0x110 / 2 ^ 16 = s.timReg u 0x114 / 2 ^ 16

/-- A tap delivers edges: a channel's bank is ON, and a drive tap follows the transitions placed at the port (R192). -/
def State.tapLive (s : State) (kind index : Nat) (rising : Bool) (tick : Nat) : Bool :=
  ¬ (1 ≤ kind ∧ kind ≤ 4) ∨
  ((s.bankAt (index / 32)).state = .on ∧ (kind ≤ 2 ∨ s.drvMade index (decide (kind = 4)) rising tick))

/-- The tap that an edge of a compare receiver's CHI (1) or CLO (2) output arrives on: CMP_SWAP exchanges the two (R179). -/
def State.tapKind (s : State) (kind index : Nat) : Nat :=
  if (kind = 1 ∨ kind = 2) ∧ (s.reg (pgCh index) 0x104).getLsbD 2 then 3 - kind else kind

/-- Instant of an edge as it arrives, and referred to its ball with the linearised reading. -/
def edgeRaw (tick vern : Nat) : Int := 625 * (tick : Int) - vern
def Tim.edgeAt (v : Tim) (kind tick vern : Nat) : Int :=
  625 * (tick : Int) - v.tab.getD vern vern - (if 1 ≤ kind ∧ kind ≤ 4 then v.taps.getD (kind - 1) 0 else 0) -
    roundDiv (v.sync * 625) 512

/-- The hold-off slot `k` has ended at `t`; an accepted edge starts it for `n` ticks. -/
def Tim.holdOver (v : Tim) (k : Nat) (t : Int) : Bool :=
  match v.hold.getD k none with | some h => h ≤ t | none => true
def Tim.startHold (v : Tim) (k : Nat) (t : Int) (n : Nat) : Tim := { v with hold := v.hold.set k (some (t + 625 * n)) }

/-- Instant `x` (0.5 ps) is at or after `t` (fine steps). -/
def atOrAfter (x : Int) (t : Nat) : Bool := (t : Int) * 5000 ≤ x * 4096

/-- One interval is measured. -/
def Tim.takeShot (v : Tim) (x n : Nat) (raw : Int) : Tim :=
  { v with shot := none, shots := v.shots + 1, s1 := v.s1 + x, s2 := v.s2 + x * x,
           minX := if v.shots = 0 then x else min v.minX x, maxX := max v.maxX x, readyAt := some (raw + 512000),
           doneAt := if v.shots + 1 = n then some ((raw + 600000 + 4999) / 5000).toNat else none }

/-- A start edge. -/
def State.timStartEdge (s : State) (u : Nat) (raw x : Int) (t : Nat) : State :=
  let v := s.timAt u
  let ready : Bool := match v.readyAt with | some r => decide (r ≤ raw) | none => true
  if v.shot.isNone ∧ v.doneAt.isNone ∧ ready ∧ v.holdOver 0 raw ∧ atOrAfter x t then
    let v := v.startHold 0 raw (s.timReg u 0x110 % 65536)
    let v := if v.gotFirst then v
      else { v with gotFirst := true, firstTs := s.stampAt (s.timTd u) (x * 4096 / 5000).toNat }
    s.setTim u { v with shot := some (x, raw), stops := 0, readyAt := none }
  else s

/-- A stop edge, on hold-off slot `k`. Within 20 ps after the start edge its acceptance is open (R286). -/
def State.timStopEdge (s : State) (u k : Nat) (raw x : Int) : State :=
  let v := s.timAt u
  match v.shot with
  | some (x0, raw0) =>
    if raw < raw0 ∨ ¬ v.holdOver k raw then s
    else
      let f := if raw < raw0 + 40 then s.fresh 1 else (1, s)
      if f.1 = 0 then f.2
      else
        let v := v.startHold k raw (s.timReg u (if k = 0 then 0x110 else 0x114) % 65536)
        if v.stops < s.timSkip u then f.2.setTim u { v with stops := v.stops + 1 }
        else f.2.setTim u (v.takeShot (x - x0).toNat (s.timReg u 0x118) raw)
  | none => s

/-- An edge in interval mode. An edge that opens a shot is no stop edge of its own source. -/
def State.timInterval (s : State) (u kind index : Nat) (rising : Bool) (raw x : Int) (t : Nat) : State :=
  let a := selMatch (s.reg (pgTim u) 0x110) kind index rising
  let b := selMatch (s.reg (pgTim u) 0x114) kind index rising
  if s.oneSource u then
    if ¬ a then s
    else if (s.timAt u).shot.isSome then s.timStopEdge u 0 raw x
    else s.timStartEdge u raw x t
  else
    let s := if a then s.timStartEdge u raw x t else s
    if b then s.timStopEdge u 1 raw x else s

/-- End of the gate, in units of 0.5 ps times 4096 (R291). -/
def State.gateEnd (s : State) (u t : Nat) : Int := (t : Int) * 5000 + (s.timReg u 0x124 : Int) * 2000000 * 4096

/-- An edge in frequency mode: less than 625 ps after the previous one it may be missed (R291). -/
def State.timCount (s : State) (u kind index : Nat) (rising : Bool) (raw x : Int) (t : Nat) : State :=
  let v := s.timAt u
  if ¬ selMatch (s.reg (pgTim u) 0x110) kind index rising then s
  else
    let close : Bool := match v.prev with | some p => decide (raw < p + 1250) | none => false
    let f := if close then s.fresh 1 else (1, s)
    let v' := { v with prev := some raw }
    if f.1 = 0 ∨ ¬ v.holdOver 0 raw ∨ ¬ atOrAfter x t ∨ s.gateEnd u t ≤ x * 4096 ∨ v.gateClosed then f.2.setTim u v'
    else f.2.setTim u { v'.startHold 0 raw (s.timReg u 0x110 % 65536) with
      edges := v.edges + 1, first := if v.edges = 0 then x else v.first, last := x }

/-- TIM_EDGE: an edge whose following ECLK tick is `tick` (counted from PFCLK edge 0) with vernier reading `vern`; with
REF = XTAL in frequency mode both are read against the crystal, 80 ticks to its period (R288, R291). -/
def execTimEdge (u : Fin 32) (kind : Fin 16) (index : Fin 512) (rising : Bool) (tick : Nat) (vern : Fin 625) (s : State) : Res :=
  let v := s.timAt u
  match v.startAt with
  | some t =>
    let kind := s.tapKind kind index
    if v.state = .running ∧ s.tapLive kind index rising tick then
      let raw := edgeRaw tick vern
      let x := v.edgeAt kind tick vern
      .next (if s.timFreq u then s.timCount u kind index rising raw x t else s.timInterval u kind index rising raw x t)
    else .next s
  | none => .next s

/-- TIM_HOLDOFF_END (R285). -/
def execTimHoldoffEnd (u : Fin 32) (src : Fin 2) (s : State) : Res :=
  let v := s.timAt u
  .next (match v.hold.getD src none with
    | some h => if h ≤ (s.now : Int) * 5000 then s.setTim u { v with hold := v.hold.set src none } else s
    | none => s)

/-- TIM_READY (R286). -/
def execTimReady (u : Fin 32) (s : State) : Res :=
  let v := s.timAt u
  .next (match v.readyAt with
    | some r => if r ≤ (s.now : Int) * 5000 then s.setTim u { v with readyAt := none } else s
    | none => s)

/-- SHOT_TIMEOUT µs have passed since the start edge (R287): the shot is discarded; MISS_LIMIT ends the measurement over the
shots taken. -/
def State.shotTimeout (s : State) (u : Nat) : State :=
  let v := s.timAt u
  match v.shot with
  | some (_, raw) =>
    if v.state = .running ∧ raw + (s.timReg u 0x11C : Int) * 2000000 ≤ (s.now : Int) * 5000 then
      let s := s.setTim u { v with shot := none, missed := sat32 (v.missed + 1), readyAt := none }
      if s.timReg u 0x120 > 0 ∧ sat32 (v.missed + 1) ≥ s.timReg u 0x120 then s.timEnd u .done .missLimit true else s
    else s
  | none => s
/-- SHOT_TIMEOUT. -/
def execShotTimeout (u : Fin 32) (s : State) : Res := .next (s.shotTimeout u)

/-- The gate has closed (R290, R291). -/
def State.gateClose (s : State) (u : Nat) : State :=
  let v := s.timAt u
  match v.startAt with
  | some t =>
    let e := s.gateEnd u t
    if v.state = .running ∧ s.timFreq u ∧ ¬ v.gateClosed ∧ e ≤ (s.now : Int) * 5000 * 4096 then
      s.setTim u { v with gateClosed := true, doneAt := some ((e + 600000 * 4096 + 5000 * 4096 - 1) / (5000 * 4096)).toNat }
    else s
  | none => s
/-- GATE_CLOSE. -/
def execGateClose (u : Fin 32) (s : State) : Res := .next (s.gateClose u)

/-- Timeouts, gates and completion points that no command has brought act before their cycle is over. -/
def State.timTick (s : State) : State :=
  foldState (s.tim.map Prod.fst) (fun u s =>
    let s := (s.shotTimeout u).gateClose u
    if s.timDue u then s.timEnd u .done .complete false else s) s

end Sys2Proof.Machine
end

