-- ==== Sys2Proof/Machine/Seq.lean ====
section
/-! DEFINITION. The pattern instructions (R75 to R95). A command begins the run of the decoded instruction at the front of
the queue in its first slot; the vectors that are due in later cycles issue as those cycles come (`State.edge`), and the
control action falls in the cycle of the last one. -/
namespace Sys2Proof.Machine

/-- Vectors a sequencer can issue in one PFCLK cycle. -/
def vectorsPerCycle : Nat := 4

/-- The next slot has come, and nothing holds the sequencer back (R23, R57). -/
def Seq.slotOpen (v : Seq) (now : Nat) : Bool :=
  v.state = .running ∧ ¬ v.waitAlign ∧ ¬ v.stalled ∧ v.issueFrom ≤ now ∧ (v.genBase + v.genNext) / 4096 ≤ now ∧
  v.issuedIn now < vectorsPerCycle ∧ v.unended now

/-- The LOOP at the current index is reached by the repeat of its own ENDL: its entry is already on the stack (R83). -/
def Seq.repeats (v : Seq) : Bool :=
  match v.loops with
  | l :: _ => l.again
  | [] => false

/-- Kind of the execution fault an instruction meets when issue reaches it, lowest code first (R75 to R85). -/
def faultKind (c : CastInfo) (v : Seq) (i : PatInstr) : Option Nat :=
  let depth := v.calls.length
  if ¬ i.legalOp then some xIllegal
  else if i.operandBad c.version then some xOperand
  else if i.op = opLoop ∧ v.loops.length ≥ 16 ∧ ¬ v.repeats
  then some xLoopDepth
  else if i.op = opEndl ∧ ¬ v.loops.head?.any (fun l => l.depth = depth) then some xLoopEmpty
  else if i.op = opRet ∧ v.loops.head?.any (fun l => l.depth = depth) then some xLoopOpen
  else if i.op = opCall ∧ depth ≥ 16 then some xCallDepth
  else if i.op = opRet ∧ v.calls = [] then some xRetEmpty
  else if (i.op = opCall ∨ i.op = opJmp ∨ i.op = opJif) ∧ i.target ≥ c.instrCount then some xTarget
  else none

/-- Timing set of the next vector of an instruction (R77). -/
def vectorTs (v : Seq) (i : PatInstr) : Nat := if i.tsm = 0 then v.rotation.getD v.rotPos 0 else i.ts

/-- The rotation after a vector took its timing set (R77). -/
def Seq.rotate (v : Seq) (i : PatInstr) : Seq :=
  if i.tsm = 0 then { v with rotPos := (v.rotPos + 1) % max 1 v.rotation.length } else v

/-- Override and make current: the rotation becomes the single entry TS before the run (R77). -/
def Seq.preRun (v : Seq) (i : PatInstr) : Seq :=
  if i.tsm = 2 then { v with rotation := [i.ts], rotPos := 0 } else v

/-- A LOOP reached in sequence pushes its entry; a retained one holds STRM_REL from its first vector on (R83, R123). -/
def State.loopPush (s : State) (q : Nat) (i : PatInstr) (r : Run) (v : Seq) : Seq :=
  if v.repeats then { v with loops := v.loops.map (fun l => { l with again := false }) }
  else { v with loops :=
    { idx := r.idx, remaining := i.opd.toNat, depth := v.calls.length, start := s.staticIdx q r.seg r.off,
      holdRel := if i.rt then some (v.imageAt r.seg) else none } :: v.loops }

/-- The run of a decoded instruction. -/
def Decoded.run (d : Decoded) : Run :=
  let i := PatInstr.ofWord d.word
  { idx := d.idx, word := d.word, seg := d.seg, off := d.off, n := if i.op = opRpt then i.opd.toNat else i.run + 1 }

/-- The run of the decoded instruction `d` begins: it leaves the queue. -/
def State.startRun (s : State) (q : Nat) (d : Decoded) (rest : List Decoded) : State :=
  let i := PatInstr.ofWord d.word
  s.modSeq q (fun v =>
    let v := { v with pc := d.idx, queue := rest, run := some d.run, runPos := 0, jifTaken := none }
    let v := v.preRun i
    let v := if i.op = opLoop then s.loopPush q i d.run v else v
    if i.op = opMatch then { v with matchRun := some { id := v.matchIds }, matchIds := v.matchIds + 1 } else v)

/-- Issue reaches the next instruction under opcode `op` (R75, R79, R81, R108): its run begins, or its fault acts. An illegal
word faults under whichever command reaches it; a command of another opcode begins nothing. Where the decoder waits for the
fetch, issue starves. -/
def beginRun (q op : Nat) (s0 : State) : State :=
  let v0 := s0.seqAt q
  if ¬ v0.slotOpen s0.now ∨ v0.run.isSome ∨ v0.waitUntil.isSome ∨ s0.setStalled q then s0
  else match v0.queue with
    | [] =>
      if ¬ s0.decStarved q then s0
      else
        let s := s0.beforeVector q
        let v := s.seqAt q
        if ¬ v.slotOpen s.now then s
        else match v.vfs.lead.vecs with
          | h :: _ => s.heldFault q h
          | [] => s.starve q v.pc
    | d :: rest =>
      let i := PatInstr.ofWord d.word
      if s0.now ≤ d.edge ∨ (i.op ≠ op ∧ i.legalOp) then s0
      else
        let s := s0.beforeVector q
        let v := s.seqAt q
        if ¬ v.slotOpen s.now then s
        else match faultKind v.cast { v with pc := d.idx } i with
          | some kind => (s.modSeq q (fun v => { v with pc := d.idx })).execFault q kind 0
          | none => s.startRun q d rest

/-! ### What the opcodes do -/

/-- Continue at an index; a pausable point may hold the sequencer there (R102). -/
def State.goTo (s : State) (q idx : Nat) (pz : Bool) : State :=
  (s.modSeq q (fun v => { v with pc := idx, run := none, runPos := 0 })).holdIf q pz

/-- Continue after the instruction. -/
def nextInstr (q : Nat) (i : PatInstr) (s : State) : State := s.goTo q ((s.seqAt q).pc + 1) i.pz

/-- ENDL (R83, R85, R117, R123): repeat the top loop, or close it. -/
def endlAct (q : Nat) (i : PatInstr) (r : Run) (s : State) : State :=
  let v := s.seqAt q
  match v.loops with
  | [] => s
  | l :: rest =>
    if l.remaining > 1 then
      (s.setSeq q { v with loops :=
        { l with remaining := l.remaining - 1, lastIdx := v.pc, again := true,
                 replay := replayable (s.staticIdx q r.seg r.off + i.owned - l.start) } :: rest }).goTo q l.idx i.pz
    else (s.setSeq q (Seq.release { v with loops := rest })).goTo q (v.pc + 1) i.pz

/-- CALL (R85). -/
def callAct (q : Nat) (i : PatInstr) (s : State) : State :=
  (s.modSeq q (fun v => { v with calls := (v.pc + 1) :: v.calls })).goTo q i.target i.pz

/-- RET (R85). -/
def retAct (q : Nat) (i : PatInstr) (s : State) : State :=
  match (s.seqAt q).calls with
  | [] => s
  | r :: rest => (s.modSeq q (fun v => { v with calls := rest })).goTo q r i.pz

/-- JMP (R85). -/
def jmpAct (q : Nat) (i : PatInstr) (s : State) : State := s.goTo q i.target i.pz

/-- JIF in the cycle e of its first vector: what is taken before the cycle, and the clear of a chip flag (R80, R87, R88). -/
def jifFirst (q : Nat) (i : PatInstr) (s : State) : State :=
  jifClearFlag i.jcond (s.modSeq q (fun v => { v with jifEdge := s.now + 1, jifLvl := jifBefore s i.jcond }))

/-- JIF after its run, once evaluated (R86). -/
def jifAct (q : Nat) (i : PatInstr) (s : State) : State :=
  let v := s.seqAt q
  match v.jifTaken with
  | some t => (s.setSeq q { v with jifTaken := none }).goTo q (if t then i.target else v.pc + 1) i.pz
  | none => s

/-- The instant of fine step `f` in a domain, five times in units (R90). -/
def State.fineTime5 (s : State) (d f : Nat) : Int :=
  5 * ((s.time d : Int) + ((f : Int) - (s.now : Int) * 4096) * (2 ^ 40 + s.rateOf d) / 4096)
/-- The next slot's instant. -/
def State.slotTime5 (s : State) (q d : Nat) : Int := s.fineTime5 d ((s.seqAt q).genBase + (s.seqAt q).genNext)

/-- WAIT (R90): the delay counts from t0, the instant of its first vector's slot `f`. -/
def waitFirst (q : Nat) (i : PatInstr) (f : Nat) (s : State) : State :=
  s.modSeq q (fun v => { v with
    waitUntil := some (Fin.ofNat 4 i.waitTd, (s.fineTime5 i.waitTd f + nsUnits5 i.waitNs).toNat) })
def waitAct (q : Nat) (i : PatInstr) (s : State) : State :=
  s.modSeq q (fun v => { v with pc := v.pc + 1, run := none, runPos := 0, pzWait := i.pz })

/-- MARK (R92, R111, R112): identity, flags, TRIG_OUT and stamp, in the cycle of its first vector. -/
def State.pushMark (s : State) (q : Nat) (m : Mark) : State :=
  s.modSeq q (fun v => if v.marks.length < 64 then { v with marks := v.marks ++ [m] }
    else { v with markOvf := sat32 (v.markOvf + 1) })

/-- A mark identity reaches the streams and the TIM units with its vector's cycle start at the port (R92). -/
def State.deliverMark (s : State) (q id t : Nat) : State := (s.markStreams q id t).markTim q id t

/-- What MARK does in the cycle of its first vector, whose cycle start at the port is `st`. -/
def markFirst (q : Nat) (i : PatInstr) (st : Nat) (s : State) : State :=
  let v := s.seqAt q
  let s := if v.maquette then s else (s.cond s.now (.mark q i.markId)).deliverMark q i.markId st
  let s := s.flagOps i.markSet i.markClr s.now
  let s := s.pulseAt q i.markTrig st
  if i.markStamp then
    s.pushMark q { id := BitVec.ofNat 8 i.markId, ts := s.stampAt (fld (s.reg (pgSeq q) 0x25C) 0 2) st }
  else s

/-- TSET (R78): after its run the rotation is its list, at position 0. -/
def tsetAct (q : Nat) (i : PatInstr) (s : State) : State :=
  nextInstr q i (s.modSeq q (fun v => { v with rotation := i.tsetList, rotPos := 0 }))

/-- APG (R94): its operation once after the run, or after every vector with EACH. -/
def apgOwn (q : Nat) (i : PatInstr) (s : State) : State := if i.apgEach then s else s.apgOp q (i.opd &&& 0x7FFFFFFF)
def apgEachAct (q : Nat) (i : PatInstr) (s : State) : State := if i.apgEach then s.apgOp q (i.opd &&& 0x7FFFFFFF) else s

/-- SMASK (R93, R50): the mask state of 16 sites, for the vectors after the run. -/
def smaskNew (i : PatInstr) (own old : BitVec 128) : BitVec 128 :=
  let sh := 16 * i.smaskHalf
  let bits : BitVec 128 := i.smaskBits.zeroExtend 128 <<< sh
  let win : BitVec 128 := ((0xFFFF : BitVec 128) <<< sh) &&& own
  if i.smaskAct = 0 then (old &&& ~~~ win) ||| (bits &&& own)
  else if i.smaskAct = 1 then old ||| (bits &&& own)
  else old &&& ~~~ (bits &&& own)
def smaskAct (q : Nat) (i : PatInstr) (s : State) : State :=
  nextInstr q i (s.modSeq q (fun v => { v with smask := smaskNew i (v.owned &&& v.active) v.smask }))

/-- ALIGN (R57, R91): the sequencer arrives at its barrier; without a group it acts as EMIT. -/
def alignAct (q : Nat) (i : PatInstr) (s : State) : State :=
  match s.groupOf q with
  | none => nextInstr q i s
  | some g =>
    ((s.modSeq q (fun v => { v with pc := v.pc + 1, run := none, runPos := 0, waitAlign := true, pzWait := i.pz })).arriveAt q
      ).masterRelease g

/-- STOP (R66, R95): its last vector is the completion point. -/
def stopAct (q : Nat) (s : State) : State :=
  (s.modSeq q (fun v => { v with run := none, runPos := 0 })).endBurst q .stop s.now

/-- The AS operation after the run (R94, R137). -/
def applyAs (q : Nat) (i : PatInstr) (s : State) : State :=
  if ¬ i.as then s
  else
    let w := s.reg (pgApg q) 0x108
    if apgOpBad (w &&& 0x7FFFFFFF) then s.execFault q xOperand 0 else s.apgOp q (w &&& 0x7FFFFFFF)

/-- Leave a MATCH with its outcome: AS once, then the next instruction (R55, R89). -/
def matchExit (q : Nat) (i : PatInstr) (met : Bool) (s : State) : State :=
  let s := s.modSeq q (fun v => { v with matchRun := none, matched := met, run := none, runPos := 0 })
  let s := applyAs q i s
  if (s.seqAt q).unended s.now then s.goTo q ((s.seqAt q).pc + 1) i.pz else s

/-! ### Vectors and runs -/

/-- The last static vector of a segment has issued: a boundary follows, or the segment breaks R108 (R109, R110, R122). -/
def segmentEnd (q : Nat) (r : Run) (owned : Nat) (s : State) : State :=
  let v := s.seqAt q
  let e := s.seg q r.seg
  if ¬ s.lastOf q r.seg r.idx then s
  else if r.off + owned ≠ e.vectors then
    (s.modSeq q (fun v => { v with jumpLapsed := v.jumpLapsed || v.jump.isSome, jump := none })).fetchFault q kindSegtab r.seg
  else
    let done := if e.streamed then max v.strmDone (v.imageAt r.seg + e.imageBytes) else v.strmDone
    s.setSeq q (Seq.release { v with strmDone := done, atBoundary := true, markDue := true })

/-- What an instruction does in the cycle of its first vector. -/
def opFirst (q : Nat) (i : PatInstr) (slot : Nat) (s : State) : State :=
  if i.op = opMark then markFirst q i (slot + portLatency) s
  else if i.op = opWait then waitFirst q i slot s
  else if i.op = opJif then jifFirst q i s
  else s

/-- The control action of an instruction after its run. -/
def opAct (q : Nat) (i : PatInstr) (r : Run) (s : State) : State :=
  if i.op = opEndl then endlAct q i r s
  else if i.op = opCall then callAct q i s
  else if i.op = opRet then retAct q i s
  else if i.op = opJmp then jmpAct q i s
  else if i.op = opJif then jifAct q i s
  else if i.op = opWait then waitAct q i s
  else if i.op = opTset then tsetAct q i s
  else if i.op = opSmask then smaskAct q i s
  else if i.op = opAlign then alignAct q i s
  else nextInstr q i s

/-- What follows the last vector of a run before the control action: its own operation and AS, then the segment's end. -/
def runEnd (q : Nat) (i : PatInstr) (r : Run) (s : State) : State :=
  segmentEnd q r i.owned (applyAs q i (if i.op = opApg then apgOwn q i s else s))

/-- The run is complete. A cause of this same cycle from outside does not keep the instruction from its action; STOP completes
against every cause of its cycle (R67). -/
def finishRun (q : Nat) (i : PatInstr) (r : Run) (s : State) : State :=
  let s := runEnd q i r s
  if i.op = opStop then stopAct q s
  else if ¬ (s.seqAt q).unended s.now then s.modSeq q (fun v => { v with run := none, runPos := 0 })
  else opAct q i r s

/-- A repetition of a MATCH is complete: the segment's end behind the last one, or the next repetition (R55, R89). -/
def finishRep (q : Nat) (i : PatInstr) (r : Run) (s : State) : State :=
  match (s.seqAt q).matchRun with
  | none => s
  | some m =>
    match m.decided with
    | some met => matchExit q i met (segmentEnd q r i.owned s)
    | none => s.modSeq q (fun v => { v with runPos := 0, matchRun := some { m with reps := m.reps + 1 } })

/-- Timing set of vector `pos`: the repetitions of a MATCH after the first replay its timing sets (R89). -/
def Seq.nextTs (v : Seq) (i : PatInstr) (pos : Nat) : Nat :=
  match v.matchRun with
  | some m => if m.reps = 0 then vectorTs v i else m.tss.getD pos 0
  | none => vectorTs v i

/-- The rotation advances behind a vector, not in the repetitions of a MATCH after the first. -/
def Seq.afterVector (v : Seq) (i : PatInstr) (ts : Nat) : Seq :=
  match v.matchRun with
  | some m => if m.reps = 0 then { v.rotate i with matchRun := some { m with tss := m.tss ++ [ts] } } else v
  | none => v.rotate i

/-- Vector `runPos` of run `r` with what falls on it; it has issued if `runPos` has moved on. -/
def slotVector (q : Nat) (r : Run) (s : State) : State :=
  let i := PatInstr.ofWord r.word
  let v := s.seqAt q
  let pos := v.runPos
  let ts := v.nextTs i pos
  let x : VecCtx := { q := q, instr := r.idx, seg := r.seg, off := if i.op = opRpt then r.off else r.off + pos, ts := ts,
                      rep := v.matchRun.map (·.reps), repEnd := decide (i.op = opMatch ∧ pos + 1 = r.n) }
  let s := runVector x r pos (v.needs i pos) s
  if (s.seqAt q).runPos = pos then s
  else
    let s := s.modSeq q (fun v => v.afterVector i ts)
    let s := if i.op = opApg then apgEachAct q i s else s
    if pos = 0 then opFirst q i (v.genBase + v.genNext) s else s

/-- What follows vector `pos` of run `r`. The control action of a JIF waits for its evaluation. -/
def slotEnd (q : Nat) (r : Run) (pos : Nat) (s : State) : State :=
  let i := PatInstr.ofWord r.word
  if pos + 1 ≠ r.n then s
  else if i.op = opMatch then finishRep q i r s
  else if i.op = opJif ∧ (s.seqAt q).jifTaken.isNone then runEnd q i r s
  else finishRun q i r s

/-- The next vector of the run in progress. -/
def slotStep (q : Nat) (s0 : State) : State :=
  match (s0.seqAt q).run with
  | none => s0
  | some r =>
    let s := s0.beforeVector q
    let v := s.seqAt q
    if ¬ v.slotOpen s.now then s
    else match s.setLacks q with
      | some n => s.stallIssue n r.idx
      | none =>
        let s1 := slotVector q r s
        if (s1.seqAt q).runPos = v.runPos then s1 else slotEnd q r v.runPos s1

/-- A vector of the run in progress is due in this cycle. -/
def State.slotDue (s : State) (q : Nat) : Bool :=
  let v := s.seqAt q
  v.slotOpen s.now && v.run.any (fun r => v.runPos < r.n) && !s.setStalled q

/-- Up to `n` vectors that are due. -/
def issueSlots (q : Nat) : Nat → State → State
  | 0, s => s
  | n + 1, s => if s.slotDue q then issueSlots q n (slotStep q s) else s

/-- A JIF is evaluated when the cycle of its first vector is over (R80, R86 to R88). -/
def State.jifEval (s : State) (q : Nat) : State :=
  let v := s.seqAt q
  match v.run with
  | some r =>
    if v.jifEdge = 0 ∨ s.now < v.jifEdge then s
    else
      let i := PatInstr.ofWord r.word
      let t := jifTrue v i.jcond
      let s := s.setSeq q { jifClear i.jcond v with
        jifEdge := 0, jifTaken := some t, vfs := if v.vfs.lead.path.jif = some r.idx ∧ ¬ v.replays then v.vfs.decideJif t else v.vfs }
      if v.runPos = r.n ∧ v.unended s.now then jifAct q i s else s
  | none => s

/-- One PFCLK cycle of a sequencer: evaluation, decode, and the vectors of the run in progress that are due (R79, R80). -/
def State.seqCycle (s : State) (q : Nat) : State :=
  if ¬ (s.seqAt q).engaged then s
  else issueSlots q vectorsPerCycle ((s.jifEval q).decode q)

/-! ### The commands -/

/-- A pattern instruction: its run begins, and its vectors that are due issue. -/
def runInstr (q op : Nat) (s : State) : State := issueSlots q vectorsPerCycle (beginRun q op s)

/-- EMIT (R75). -/
def execEmit (q : Fin 64) (s : State) : Res := .next (runInstr q opEmit s)
/-- RPT (R75): its one vector, OPD times. -/
def execRpt (q : Fin 64) (s : State) : Res := .next (runInstr q opRpt s)
/-- LOOP (R83, R123). -/
def execLoop (q : Fin 64) (s : State) : Res := .next (runInstr q opLoop s)
/-- ENDL (R83). -/
def execEndl (q : Fin 64) (s : State) : Res := .next (runInstr q opEndl s)
/-- CALL (R85). -/
def execCall (q : Fin 64) (s : State) : Res := .next (runInstr q opCall s)
/-- RET (R85). -/
def execRet (q : Fin 64) (s : State) : Res := .next (runInstr q opRet s)
/-- JMP (R85). -/
def execJmp (q : Fin 64) (s : State) : Res := .next (runInstr q opJmp s)
/-- JIF (R80, R86). -/
def execJif (q : Fin 64) (s : State) : Res := .next (runInstr q opJif s)
/-- WAIT (R90). -/
def execWaitRun (q : Fin 64) (s : State) : Res := .next (runInstr q opWait s)
/-- MARK (R92). -/
def execMarkRun (q : Fin 64) (s : State) : Res := .next (runInstr q opMark s)
/-- TSET (R78). -/
def execTset (q : Fin 64) (s : State) : Res := .next (runInstr q opTset s)
/-- APG (R94). -/
def execApg (q : Fin 64) (s : State) : Res := .next (runInstr q opApg s)
/-- SMASK (R93). -/
def execSmask (q : Fin 64) (s : State) : Res := .next (runInstr q opSmask s)
/-- ALIGN (R91). -/
def execAlign (q : Fin 64) (s : State) : Res := .next (runInstr q opAlign s)
/-- STOP (R95). -/
def execStop (q : Fin 64) (s : State) : Res := .next (runInstr q opStop s)
/-- MATCH (R89): its repetitions follow back to back until the decision. -/
def execMatchRun (q : Fin 64) (s : State) : Res := .next (runInstr q opMatch s)

/-- WAIT_END (R90): the first slot at or after t0 + D has come; the successor issues in it. -/
def execWaitEnd (q : Fin 64) (s : State) : Res :=
  let v := s.seqAt q
  match v.waitUntil with
  | some (d, u) =>
    if v.slotOpen s.now ∧ v.run.isNone ∧ (u : Int) ≤ s.slotTime5 q d then
      .next ((s.setSeq q { v with waitUntil := none, pzWait := false }).holdIf q v.pzWait)
    else .next s
  | none => .next s

/-- The issue side needs a vector and has none: a WAIT goes on, or the queue holds no instruction decoded in an earlier cycle
and the decoder is not waiting for the fetch (R80, R81, R90). -/
def State.fillDue (s : State) (q : Nat) : Bool :=
  let v := s.seqAt q
  v.slotOpen s.now && !s.setStalled q && v.run.all (fun r => v.runPos = r.n) &&
  (match v.waitUntil with
   | some (d, u) => decide (s.slotTime5 q d < u)
   | none => v.queue.head?.all (fun d => s.now ≤ d.edge) && !(v.queue.isEmpty && s.decStarved q))

/-- FILL_VECTOR (R81): the last issued vector again, judging nothing, stepping nothing. Its period is checked like every
vector's (R40). -/
def execFillVector (q : Fin 64) (s : State) : Res :=
  match (s.seqAt q).last with
  | none => .next s
  | some l =>
    if s.fillDue q then
      let s := s.beforeVector q
      if ¬ (s.seqAt q).slotOpen s.now then .next s
      else if ¬ periodLegal (hdrPeriod (s.tssHeader l.ts q)) then .next (s.execFault q xPeriod l.ts)
      else .next (issueVector { q := q, instr := l.instr, seg := (s.seqAt q).segCur, off := l.pos, ts := l.ts, f4 := l.f4,
                                s8 := l.s8, fill := true } s)
    else .next s

end Sys2Proof.Machine
end

