-- ==== Sys2Proof/Machine/Undef.lean ====
section
/-! DEFINITION. Undefined behaviour of R396 that lies in HBM: the bytes a sequencer, a task or a stream in progress relies
on, and whether a write touches them. -/
namespace Sys2Proof.Machine

/-- Two spans, as start and length, share a byte. -/
def spansMeet (a n b m : Nat) : Bool := a < b + m ∧ b < a + n

/-- Static vectors whose payload is resident. -/
def State.residentVectors (s : State) (c : CastInfo) : Nat :=
  if c.version = 2 then c.staticVectors
  else (List.range c.segCount).foldl (fun m k =>
    let e := s.segEnt c k
    if e.streamed then m else max m (e.payloadFirst + e.vectors)) 0

/-- Sequencers that share the stream window of `q`: accepted with the same cast, base and size. -/
def State.sharers (s : State) (q : Nat) : List Nat :=
  (List.range 64).filter (fun n =>
    n = q ∨ ((s.seqAt n).engaged ∧ (s.seqAt q).engaged ∧ (s.seqAt n).cast.base = (s.seqAt q).cast.base ∧
      s.strmBase n = s.strmBase q ∧ s.strmBytes n = s.strmBytes q))

/-- STRM_REL as every sharer sees it: the smallest release count of those in progress. -/
def State.strmRelOf (s : State) (q : Nat) : Nat :=
  ((s.sharers q).map (fun n => (s.seqAt n).strmRel)).foldl min (s.seqAt q).strmRel

/-- STRM_WR as every sharer reads it: written on the page of the lowest-numbered one. -/
def State.strmWrOf (s : State) (q : Nat) : Nat := (s.seqAt ((s.sharers q).headD q)).strmWr

/-- Bytes an in-progress sequencer relies on: start, length, item of R396 (6 channel map, 7 cast, 11 stream window). -/
def State.burstBytes (s : State) (q : Nat) : List (Nat × Nat × Nat) :=
  let v := s.seqAt q
  if ¬ v.engaged then []
  else
    let c := v.cast
    let h := s.cmapHdr c.base
    let ovr := s.reg64 (pgSeq q) 0x208
    let n := s.residentVectors c
    let size := s.strmBytes q
    let rel := s.strmRelOf q
    let o := rel % size
    let len := s.strmWrOf q - rel
    [(c.base, 128, 7), (c.base + h.off, 4 * h.count, 6), (ovr, if ovr = 0 then 0 else 4 * h.count, 6),
     (c.base + c.segtabOff, if c.version = 2 then 0 else 32 * c.segCount, 7), (c.base + c.instrOff, 8 * c.instrCount, 7),
     (c.base + c.f4Off, c.f4Bytes * n, 7), (c.base + c.s8Off, c.s8Bytes * n, 7),
     (s.strmBase q + o, if size = 0 then 0 else min len (size - o), 11),
     (s.strmBase q, if size = 0 then 0 else o + len - size, 11)]

/-- Bytes the tasks, engines and source streams in progress rely on (item 13). -/
def State.taskBytes (s : State) : List (Nat × Nat × Nat) :=
  (s.sch.tasks.filter (fun e => e.2.state ≠ .free ∧ e.2.state ≠ .completing ∧ cfgKind e.2.cfg ≠ 0)).map
    (fun e => (e.2.block, 64, 13)) ++
  (s.sch.ports.filter (fun e => e.2.pending)).map (fun e => (e.2.addr, 64, 13)) ++
  ((s.we.filter (fun e => (s.execAt e.1).running.isSome ∧ e.2.started)).map (fun e => (e.2.progBase, 8 * e.2.progLen, 13))) ++
  ((s.ss.filter (fun e => e.2.run.state = .armed ∨ e.2.run.state = .running)).map (fun e =>
    (s.reg64 (pgSsg e.1) 0x138 + 16 * e.2.desc, 16, 13)))

/-- The item of R396 that a write of `n` bytes at `a` breaks. -/
def State.writeBreaks (s : State) (a n : Nat) : Option Nat :=
  ((((List.range 64).flatMap s.burstBytes) ++ s.taskBytes).find? (fun x => 0 < n ∧ 0 < x.2.1 ∧ spansMeet a n x.1 x.2.1)).map
    (fun x => x.2.2)

/-- A write by host software, a copy or a worker: undefined behaviour where it breaks an item. -/
def State.guardWrite (s : State) (a n : Nat) (r : Res) : Res :=
  match s.writeBreaks a n with
  | some k => .fault (.undefinedBehaviour k)
  | none => r

/-- A write of a capture context or of an output ring: its array overlaps a cast, work block or program in use (item 12). -/
def State.guardArray (s : State) (a n : Nat) (r : Res) : Res :=
  match s.writeBreaks a n with
  | some _ => .fault (.undefinedBehaviour 12)
  | none => r

end Sys2Proof.Machine
end

