-- ==== Sys2Proof/Machine/SeqHost.lean ====
section
/-! DEFINITION. The host's commands to a sequencer and what its fetches bring: arming (R44 to R46, R437), start (R47 to
R49), abort, pause, retirement, jump requests, stream window, mark FIFO, fetch completions (R117 to R130). A command
stands for the edge at which the write commits. -/
namespace Sys2Proof.Machine

/-- CMD_STAT: command bit and code. -/
def cmdStatus (bit code : Nat) : Word32 := BitVec.ofNat 32 (256 * bit + code)
def State.setCmd (s : State) (q bit code : Nat) : State := s.modSeq q (fun v => { v with cmdStat := cmdStatus bit code })

/-! ### Arm -/

/-- ARM taken up (R44, R437): IDLE with ARMING while the cast header is read. -/
def armTake (q : Nat) (s : State) : State :=
  let v := s.seqAt q
  if v.inProgress then s.setCmd q 29 4
  else s.setSeq q { v with state := .idle, arming := .header, preState := v.state, cmdStat := cmdStatus 29 0,
                           armEdge := s.now + 1 }

/-- ARM (R44). -/
def execArm (q : Fin 64) (s : State) : Res := .next (s.whenReady (pgSeq q) (armTake q))

/-- A refused arm (R45). -/
def refuseArm (q : Nat) (code : Nat) (info : Word32) (s : State) : State :=
  let s := s.modSeq q (fun v => { v with state := v.preState, arming := .none, cmdStat := cmdStatus 29 code })
  (s.recordErr (pgSeq q) (BitVec.ofNat 16 code) info).reopen

/-- Sites that belong to a sequencer (R33). -/
def State.ownedSites (s : State) (q : Nat) : List Nat :=
  (List.range 128).filter (fun i =>
    let w := s.reg (pgCap i) 0x100; w.getLsbD 31 ∧ fld w 0 6 = q)

def siteMask (l : List Nat) : BitVec 128 := l.foldl (fun m i => setBit m i) 0

/-- A channel of the map of `q` serves site `i` (R34, R35). -/
def State.serves (s : State) (q i c : Nat) : Bool :=
  let a := s.reg (pgCh c) 0x100
  (fld a 30 2 = 1 ∧ fld a 0 7 = i) ∨
  (fld a 30 2 = 2 ∧ (s.reg (pgSeq q) (0x160 + 0x10 * fld a 8 2 + 4 * (i / 32))).getLsbD (i % 32))

/-- Channel list of site `i`, ascending (R194). -/
def State.siteChans (s : State) (q i : Nat) (chans : List Nat) : List Nat :=
  (List.range 512).filter (fun c => chans.contains c ∧ s.serves q i c)

/-- Bytes of a raw record of `n` channels (R203). -/
def rawBytes (n : Nat) : Nat := (32 + 8 * ((n + 3) / 4) + 8 * ((n + 63) / 64) + 31) / 32 * 32

/-- MODE and RAW_CFG of a context: raw capture in WRAP mode. -/
def State.rawWrap (s : State) (i : Nat) : Bool :=
  (s.reg (pgCap i) 0x104).getLsbD 3 ∧ ¬ (s.reg (pgCap i) 0x184).getLsbD 31

/-- Records the ring of a context holds. -/
def State.rawCap (s : State) (i rb : Nat) : Nat := s.regN (pgCap i) 0x190 * 2 ^ 20 / rb

/-- Post count in force and POST_CLAMPED; none: the arm is refused (R205). -/
def State.postCheck (s : State) (i rb : Nat) : Option (Nat × Bool) :=
  if ¬ s.rawWrap i then some (0, false)
  else
    let pre := s.regN (pgCap i) 0x198
    let post := s.regN (pgCap i) 0x19C
    let n := s.rawCap i rb
    if pre + post ≤ n then some (post, false)
    else if pre ≤ n ∧ (s.reg (pgCap i) 0x108).getLsbD 0 then some (n - pre, true)
    else none

/-- Outcome of the header checks: a refusal (code and detail) or the cast. -/
inductive ArmCheck where
  | refused (code : Nat) (info : Word32)
  | ok (c : CastInfo)

/-- R437 and R44, in order. `res` is the completion status of the reads. -/
def armCheck (q : Nat) (res : HbmStatus) (s : State) : ArmCheck :=
  let base := s.reg64 (pgSeq q) 0x118
  let ovr := s.reg64 (pgSeq q) 0x208
  let v2 : Bool := s.hbmNat (base + 4) 2 = 2
  let c := s.readHeader base
  let h := s.cmapHdr base
  let map := s.readMap base ovr ((s.reg (pgSeq q) 0x12C).getLsbD 8)
  let chans := map.map mapChan
  let n := fun src => (map.filter (fun e => mapSrc e = src)).length
  let failed : Bool := res ≠ .ok ∨ s.readStatus base (if v2 then 128 else 256) ≠ .ok
  if failed then .refused 0x14 0xFFFFFFFF
  else if c.version ≠ 2 ∧ c.version ≠ 3 then .refused 0x10 0
  else if h.count = 0 ∨ h.count > h.limit then .refused 0x14 (BitVec.ofNat 32 h.countAt)
  else if s.readStatus (base + h.off) (4 * h.count) ≠ .ok ∨ (ovr ≠ 0 ∧ s.readStatus ovr (4 * h.count) ≠ .ok) then
    .refused 0x14 0xFFFFFFFF
  else match repeatedAt map with
  | some j => .refused 0x14 (BitVec.ofNat 32 (2 ^ 31 + j))
  | none =>
    if c.f4Bytes < recordBytes (n 0) 4 then .refused 0x14 (BitVec.ofNat 32 h.f4At)
    else if ¬ v2 ∧ c.s8Bytes < recordBytes (n 1) 16 then .refused 0x14 (BitVec.ofNat 32 h.s8At)
    else if ¬ v2 ∧ c.retainBytes > s.strmBytes q then .refused 0x11 0
    else match (List.range 16).find? (fun b => chans.any (fun ch => ch / 32 = b) ∧ ¬ s.bankArmable b) with
    | some b => .refused 0x12 (BitVec.ofNat 32 b)
    | none =>
      match (s.ownedSites q).find? (fun i => (s.postCheck i (rawBytes (s.siteChans q i chans).length)).isNone) with
      | some i => .refused 0x13 (BitVec.ofNat 32 i)
      | none => .ok { c with map := map }

/-- What an accepted arm does to one capture context (R217, R194, R203, R205). What is still on its way to HBM stays. -/
def armCap (q : Nat) (chans : List Nat) (i : Nat) (s : State) : State :=
  let l := s.siteChans q i chans
  let rb := rawBytes l.length
  let p := (s.postCheck i rb).getD (0, false)
  let s := (s.setReg (pgCap i) 0x1B0 0).setReg (pgCap i) 0x1B4 0
  s.modCap i (fun v => { chans := l, stale := v.stale, queue := v.queue, old := v.old, arms := v.arms + 1, before := v.queue.length,
                         recBytes := rb, postEff := p.1, postClamped := p.2 })

/-- What an accepted arm does to one channel (R96, R164, R191, R193): the previous level is low, and the streams hold
nothing that an earlier burst could still drop. -/
def armChan (c : Nat) (s : State) : State :=
  let m := s.reg (pgCh c) 0x10C
  let s := if fld m 0 3 ≠ 0 then (s.setReg (pgCh c) 0x10C (m &&& ~~~ 7)).modChan c (fun v => { v with lapsed := true }) else s
  s.modChan c (fun v => { v with
    prev := false, dat := v.dat.settleAll (fun _ => true), en := v.en.settleAll (fun _ => true),
    stb := v.stb.settleAll (fun _ => true), edgeCollide := 0, edgeRange := 0, strobeMiss := 0, cmpMade := 0, cmpInvalid := 0 })

/-- The sequencer of an accepted arm (R46, R73, R74, R87, R93, R112, R115, R120, R131, R132). -/
def armSeq (q : Nat) (c : CastInfo) (s : State) (v : Seq) : Seq :=
  let cfg := s.reg (pgSeq q) 0x200
  let lead := min 128 (max 16 (fld cfg 8 8))
  let ctrl := s.reg (pgSeq q) 0x100
  let own := siteMask (s.ownedSites q)
  let acfg := s.reg (pgSeq q) 0x120
  let first := s.leader (fld acfg 0 8)
  { arming := .prefill, preState := v.preState, armEdge := v.armEdge, acceptEdge := s.now + 1, alignCfg := acfg,
    alignPar := alignCfg s first, alignTo := s.regN (pgSeq first) 0x124, alignLead := s.regN (pgSeq first) 0x128,
    compat := decide (c.version = 2), maquette := ctrl.getLsbD 0,
    maqMatch := ctrl.getLsbD 4, matched := v.matched, matchSites := v.matchSites, cmdStat := v.cmdStat, cast := c,
    leadCfg := lead, guardCfg := min (min 32 (max 1 (fld cfg 16 8))) (lead - 8), owned := own, active := own,
    stale := v.stale, resetPend := v.resetPend, rotation := [c.idleTs] }

/-- An accepted arm (R46): prefill starts. -/
def acceptArm (q : Nat) (c : CastInfo) (s : State) : State :=
  let chans := c.chans
  let s := s.setReg (pgSeq q) 0x224 0
  let s := s.setSeq q (armSeq q c s (s.seqAt q))
  let s := foldState (List.range 16) (fun b s =>
    let v := s.bankAt b
    if ¬ chans.any (fun ch => ch / 32 = b) then s
    else (if v.state = .pendingOff then s.setBank b { v with entering := false } else s).wantBank b) s
  let s := foldState chans armChan s
  let s := foldState (s.ownedSites q) (armCap q chans) s
  let s := apgLoad s q
  let s := s.stageAtArm chans
  s.tssAtArm q chans

/-- CAST_HEADER_READ_DONE (R437, R44, R45, R46). A channel held in the map of another sequencer in progress is undefined
behaviour (R396 item 8). The reads complete in a later cycle than the arm's own (assumption 97). -/
def execCastHeaderReadDone (q : Fin 64) (res : HbmStatus) (s : State) : Res :=
  if (s.seqAt q).arming = .header ∧ (s.seqAt q).armEdge ≤ s.now then
    match armCheck q res s with
    | .refused code info => .next (refuseArm q code info s)
    | .ok c => if c.chans.any (fun ch => s.chanInUse ch) then .fault (.undefinedBehaviour 8) else .next (acceptArm q c s)
  else .next s

/-- The lead holds LEAD vectors, or all that can be fetched ahead of issue (R118). -/
def Seq.leadFull (v : Seq) : Bool := v.vfs.held ≥ 64 * v.leadCfg ∨ v.vfs.ended

/-- A jump target that a request may name: its entry can be used (R113). -/
def State.jumpUsable (s : State) (q slot : Nat) : Bool :=
  let v := s.seqAt q
  match v.cast.jumpTgt[slot]? with
  | some k => k ≠ 0xFFFFFFFF ∧ k < v.cast.segCount ∧ ¬ v.vfs.segBad.contains k ∧ ¬ (s.seg q k).streamed
  | none => false

/-- The head buffer of slot `n`, and whether it holds the first vectors of its target (R116, R118). -/
def State.headOf (s : State) (q n : Nat) : FetchQ :=
  let v := s.seqAt q
  ((v.vfs.heads.find? (fun h => h.1 = n)).map (·.2)).getD { path := { pc := some (s.seg q (v.cast.jumpTgt.getD n 0)).first } }
def State.headsFull (s : State) (q : Nat) : Bool :=
  (List.range 4).all (fun n => !s.jumpUsable q n || (s.headOf q n).headDone)

/-- A used channel's PE link is not UP (R379). -/
def State.peDown (s : State) (q : Nat) : Bool :=
  (s.seqAt q).cast.chans.any (fun c => (s.plAt (c / 16)).state ≠ .up)

/-- Start source of an armed sequencer and its fields (R48). -/
def startSrc (s : State) (q : Nat) : Nat := fld (s.reg (pgSeq q) 0x10C) 0 4
def startTd (s : State) (q : Nat) : Nat := fld (s.reg (pgSeq q) 0x10C) 8 2
def startFalling (s : State) (q : Nat) : Bool := (s.reg (pgSeq q) 0x10C).getLsbD 12
def startTime (s : State) (q : Nat) : Word64 := BitVec.ofNat 64 (s.reg64 (pgSeq q) 0x110)

/-- The three conditions of R118: lead, head buffer and decoded-instruction queue (R82). -/
def State.prefilled (s : State) (q : Nat) : Bool := (s.seqAt q).leadFull && s.headsFull q && s.queueFull q

/-- PREFILL_COMPLETE (R46, R47, R118, R379): ARMED, once CAL has left the banks (R18). -/
def execPrefillComplete (q : Fin 64) (s : State) : Res :=
  let v := s.seqAt q
  let calBusy := (List.range 16).any (fun b => v.usesBank b ∧ (s.bankAt b).calBusy)
  if v.arming = .prefill ∧ s.prefilled q ∧ ¬ calBusy ∧ v.ending.isNone then
    let late := startSrc s q = 6 ∧ tsPassed (s.stamp (startTd s q)) (startTime s q)
    let s := s.setSeq q { v with state := .armed, arming := .none, lateStart := late }
    if s.peDown q then .next (s.endBurst q .peLinkLost s.now)
    else if startSrc s q = 7 then
      match s.groupOf q with
      | some g => .next ((s.arriveAt q).masterRelease g)
      | none => .next s
    else .next s
  else .next s

/-! ### Start, abort, pause -/

/-- START (R47 to R49). -/
def execStart (q : Fin 64) (s : State) : Res :=
  .next (s.whenReady (pgSeq q) (fun s =>
    if (s.seqAt q).state = .armed then (s.setCmd q 30 0).startCommit q else s.setCmd q 30 3))

/-- ABORT (R66). -/
def abortSeq (q : Nat) (s : State) : State :=
  let v := s.seqAt q
  if v.state = .armed ∨ v.state = .running ∨ v.state = .hold then
    if v.ending.any (fun e => e.1 = .stop) then s.setSeq q { v with abortLate := true, cmdStat := cmdStatus 31 1 }
    else (s.setCmd q 31 0).endBurst q .hostAbort s.now
  else s.setCmd q 31 2
def execAbort (q : Fin 64) (s : State) : Res := .next (s.whenReady (pgSeq q) (abortSeq q))

/-- CLEAR (R41): a final state returns to IDLE. -/
def execClear (q : Fin 64) (s : State) : Res :=
  .next (s.whenReady (pgSeq q) (fun s =>
    let v := s.seqAt q
    if v.state = .done ∨ v.state = .aborted ∨ v.state = .faulted then
      s.setSeq q { v with state := .idle, endCause := .none, cmdStat := cmdStatus 28 0 }
    else s))

/-- PAUSE (R68, R128): pending until a pausable point; in a starvation HOLD it is in force at once. -/
def execPause (q : Fin 64) (s : State) : Res :=
  .next (s.whenReady (pgSeq q) (fun s =>
    let v := s.seqAt q
    if v.state = .hold then s.setSeq q { v with pauseHold := true, cmdStat := cmdStatus 27 0 }
    else if v.engaged then s.setSeq q { v with pausePend := true, cmdStat := cmdStatus 27 0 }
    else s))

/-- Leave HOLD (R39, R128). -/
def resumeSeq (q : Nat) (s : State) : State :=
  let v := s.seqAt q
  s.setSeq q { v.goOn s.now with state := .running, pauseHold := false, starveHold := false }

/-- RESUME (R68, R128). -/
def execResume (q : Fin 64) (s : State) : Res :=
  .next (s.whenReady (pgSeq q) (fun s =>
    if (s.seqAt q).state = .hold ∧ (s.seqAt q).ending.isNone then resumeSeq q (s.setCmd q 26 0) else s))

/-- AUTO_RESUME (R128). -/
def execAutoResume (q : Fin 64) (s : State) : Res :=
  let v := s.seqAt q
  if v.state = .hold ∧ v.starveHold ∧ ¬ v.pauseHold ∧ ¬ v.pausePend ∧ v.ending.isNone ∧
      (s.reg (pgSeq q) 0x200).getLsbD 28 ∧ v.leadFull then .next (resumeSeq q s)
  else .next s

/-! ### Retirement, jump, marks -/

/-- SITE_RETIRE (R52): word `w`, bits of sites 32w to 32w + 31 of the sequencer. -/
def execSiteRetire (q : Fin 64) (w : Fin 4) (bits : Word32) (s : State) : Res :=
  .next (s.whenReady (pgSeq q) (fun s =>
    let v := s.seqAt q
    let m := (bits.zeroExtend 128 <<< (32 * w.val)) &&& v.owned
    if v.engaged ∧ m ≠ 0 then s.setSeq q { v with retireReq := v.retireReq ++ [(s.now, m)] } else s))

/-- A request stands: decoder and fetch lead follow it once its decision point has issued (R116). -/
def State.putJump (s : State) (q : Nat) (j : JumpReq) (old : Bool) : State :=
  let s := if old then s.undirect q else s
  let s := s.modSeq q (fun v => { v with jump := some j, jumpSuperseded := v.jumpSuperseded || old })
  if j.decided then (s.redirectQueue q).redirectLead q else s

/-- A jump request commits (R113 to R115). `src`: trigger unit, or 16 for the host. Its segment is that of the first vector
issued in the cycle, else of the last vector before it. -/
def State.jumpRequest (s : State) (q slot src : Nat) : State :=
  let v := s.seqAt q
  if ¬ (v.state = .running ∨ v.state = .hold) then s
  else if ¬ s.jumpUsable q slot then s.setSeq q { v with jumpNoTarget := true }
  else
    let j : JumpReq := { slot := slot, seg := if v.cycEdge = s.now + 1 then v.cycSeg else v.segCur,
                         decided := decide (v.decEdge = s.now + 1), src := src, edge := s.now }
    match v.jump with
    | none => s.putJump q j false
    | some o =>
      if o.edge = s.now ∧ o.src < src then s.setSeq q { v with jumpSuperseded := true }
      else s.putJump q j true

/-- JUMP_REQ (R113). -/
def execJumpReq (q : Fin 64) (slot : Fin 4) (s : State) : Res :=
  .next (s.whenReady (pgSeq q) (fun s => (s.setReg (pgSeq q) 0x238 (BitVec.ofNat 32 slot)).jumpRequest q slot 16))

/-- MARK_ID_READ (R112, R387): the head entry, or 0. -/
def execMarkIdRead (q : Fin 64) (_path : Path) (s : State) : Res :=
  let v := s.seqAt q
  match v.marks with
  | m :: l =>
    .next { s.setSeq q { v with marks := l, markTs := m.ts } with hostOut := BitVec.ofNat 64 (2 ^ 31 + m.id.toNat) }
  | [] => .next { s with hostOut := 0 }

/-! ### Stream window (R120, R121) -/

/-- STRM_WR (R120, R389): a write of the low word commits the pair. -/
def execStrmWr (q : Fin 64) (lo : Word32) (hi : Option Word32) (s : State) : Res :=
  .next (s.whenReady (pgSeq q) (fun s =>
    let s := match hi with | some h => s.setReg (pgSeq q) 0x224 h | none => s
    let n := lo.toNat + 2 ^ 32 * s.regN (pgSeq q) 0x224
    if n < s.strmWrOf q ∨ n > s.strmRelOf q + s.strmBytes q then s.recordErr (pgSeq q) 0x0040
    else s.modSeq q (fun v =>
      { v with strmWr := n, strmEdge := s.now + 1, strmOld := if v.strmEdge = s.now + 1 then v.strmOld else v.strmWr })))

/-! ### Fetch completions -/

/-- Bytes available to VFS of the window that `q` shares. -/
def State.strmAvail (s : State) (q : Nat) : Nat :=
  let v := s.seqAt ((s.sharers q).headD q)
  if v.strmEdge = s.now + 1 then v.strmOld else v.strmWr

/-- Issue resumes after a stall (R69, R71): the timeline moves on by the stalled cycles, alike on every member of the
lockstep set. -/
def State.unstall (s : State) (q : Nat) : State :=
  let v := s.seqAt q
  let ready : Bool := v.stalled ∧ (if v.maquette then v.leadFull else v.vfs.lead.vecs ≠ [])
  if ¬ ready then s
  else
    let s := s.setSeq q { v with stalled := false, belowGuard := false }
    if s.setStalled q then s
    else
      let l := s.lockstep q
      let slot := (l.map (fun n => (s.seqAt n).genBase + (s.seqAt n).genNext)).foldl min (v.genBase + v.genNext)
      let d := ((s.now + 1) * 4096 - slot + 4095) / 4096 * 4096
      foldState l (fun n s => s.modSeq n (fun v => { v with genBase := v.genBase + d, issueFrom := max v.issueFrom (s.now + 1) })) s

/-- The record header of an image agrees with the segment table entry (R122). -/
def State.imageAgrees (s : State) (q k at_ : Nat) : Bool :=
  let e := s.seg q k
  let rd := fun o n => leNat ((List.range n).map (fun j =>
    (s.hbmByte (ringAddr (s.strmBase q) (s.strmBytes q) (at_ + o + j))).getD 0))
  rd 0 4 = k ∧ rd 4 4 = e.streamSeq ∧ rd 8 4 = e.imageBytes

/-- The image of a streamed segment is fetched once its bytes are available; STRM_RD moves by whole images (assumption
91). -/
def imageFetched (q k : Nat) (res : HbmStatus) (s : State) : State :=
  let v := s.seqAt q
  let e := s.seg q k
  if ¬ e.streamed ∨ v.strmRd + e.imageBytes > s.strmAvail q then s
  else
    let st := worstOf res ((List.range 12).foldl (fun r j =>
      worstOf r (s.addrStatus (ringAddr (s.strmBase q) (s.strmBytes q) (v.strmRd + j)))) .ok)
    let bad : Bool := st = .ok ∧ ¬ s.imageAgrees q k v.strmRd
    let s1 := s.setSeq q { v with
      images := v.images.filter (fun x => x.1 ≠ k) ++ [(k, v.strmRd)], strmRd := v.strmRd + e.imageBytes,
      imageBad := if bad ∨ st ≠ .ok then v.imageBad ++ [k] else v.imageBad.filter (fun x => x ≠ k) }
    if v.arming = .prefill ∧ st ≠ .ok then s1.fetchFault q (fetchKind st) e.first
    else if v.arming = .prefill ∧ bad then s1.fetchFault q kindStreamSeq e.first
    else s1

/-- A read of segment table entry `k` completes (R108, R113, R129): VFS keeps it. During prefill an entry that cannot be read
or breaks R108 ends the arm, unless it only names a jump target. -/
def segFetched (q k : Nat) (res : HbmStatus) (s : State) : State :=
  let v := s.seqAt q
  let st := worstOf res (s.readStatus (v.cast.segAddr k) 32)
  let s := s.setSeq q { v with vfs := if st = .ok
    then { v.vfs with segs := v.vfs.segs.filter (fun e => e.1 ≠ k) ++ [(k, s.segEnt v.cast k)] }
    else { v.vfs with segBad := v.vfs.segBad ++ [k] } }
  if v.arming = .prefill ∧ (st ≠ .ok ∨ s.segBreaks q k) ∧ (k = 0 ∨ ¬ v.cast.jumpTgt.contains k) then s.fetchFault q kindSegtab k
  else s

/-- Segment table entries that the walk has used are kept. -/
def State.keepSegs (s : State) (q : Nat) (l : List Held) : State :=
  foldState ((l.filter (fun h => h.bad.isNone)).map (·.seg)).eraseDups (fun k s => s.modSeq q (fun v =>
    if v.cast.version = 2 ∨ v.vfs.segs.any (fun e => e.1 = k) then v
    else { v with vfs := { v.vfs with segs := v.vfs.segs ++ [(k, s.segEnt v.cast k)] } })) s

/-- A path grows by up to `n` vectors, out of the merge buffer or HBM; answers the path and the state with the traffic
counted. -/
def State.grow (s : State) (q : Nat) (res : HbmStatus) (n : Nat) (f : FetchQ) : FetchQ × State :=
  let g := s.fetchMore q res n f
  let new := (g.vecs.drop f.vecs.length).map (s.fromMerge q)
  let s := (s.keepSegs q new).mergeAll q new
  ({ g with vecs := f.vecs ++ new }, s.mergeTrim (fun m => (s.seqAt m).engaged))

/-- Vectors of the fetch lead (R118): up to LEAD of them, and past a JIF the first of its fall-through path. -/
def leadFetched (q n : Nat) (res : HbmStatus) (s : State) : State :=
  let v := s.seqAt q
  if v.vfs.lead.path.jif.isSome then
    let r := s.grow q res (min n (headVectors - v.vfs.fall.vecs.length)) v.vfs.fall
    r.2.modSeq q (fun v => { v with vfs := { v.vfs with fall := r.1 } })
  else
    let r := s.grow q res (min n (64 * v.leadCfg - v.vfs.held)) v.vfs.lead
    let s := (r.2.modSeq q (fun v => { v with
      vfs := ({ v.vfs with lead := r.1 } : Vfs).forkJif,
      belowGuard := v.belowGuard && decide (r.1.vecs.length < 64 * v.guardCfg) })).redirectLead q
    match (r.1.vecs.drop v.vfs.lead.vecs.length).find? (fun h => h.bad.isSome) with
    | some h => if v.arming = .prefill then s.heldFault q h else s
    | none => s

/-- FETCH_COMPLETE (R32, R118, R119, R122, R129): `n` vectors of the lead, of the taken path of a JIF or of a jump target,
segment table entry `n`, or the stream image of segment `n`. A reply to a reset sequencer is discarded and counted; one to a burst that has
ended otherwise is discarded. -/
def execFetchComplete (q : Fin 64) (what : FetchWhat) (res : HbmStatus) (n : Nat) (s : State) : Res :=
  let v := s.seqAt q
  if v.resetPend ∨ (¬ v.engaged ∧ v.wasReset) then .next (s.setSeq q { v with stale := sat32 (v.stale + 1) })
  else if ¬ v.engaged then .next s
  else match what with
  | .vectors => .next ((leadFetched q n res s).unstall q)
  | .target =>
    if v.vfs.lead.path.jif.isSome then
      let r := s.grow q res (min n (headVectors - v.vfs.targ.vecs.length)) v.vfs.targ
      .next (r.2.modSeq q (fun v => { v with vfs := { v.vfs with targ := r.1 } }))
    else .next s
  | .head slot =>
    if s.jumpUsable q slot then
      let f := s.headOf q slot
      let r := s.grow q res (min n (headVectors - f.vecs.length)) f
      .next (r.2.modSeq q (fun v => { v with
        vfs := { v.vfs with heads := v.vfs.heads.filter (fun h => h.1 ≠ slot.val) ++ [(slot.val, r.1)] } }))
    else .next s
  | .segEntry => .next (segFetched q n res s)
  | .image => .next (imageFetched q n res s)

end Sys2Proof.Machine
end

