-- ==== Sys2Proof/Machine/Align.lean ====
section
/-! DEFINITION. Align barriers as their events reach the chip (R57 to R65), and edges of the TRIG_IN balls (R48, R210). -/
namespace Sys2Proof.Machine

/-- ALIGN_RELEASE (R58, R59): the release edge is reached. -/
def execAlignRelease (g : BitVec 8) (s : State) : Res :=
  let n := g.toNat
  .next (if (s.alignAt n).opened ∧ s.releaseDue n then s.releaseGroup n else s)

/-- Edges of one microsecond. -/
def edgesUs : Nat := 400

/-- ALIGN_TIMEOUT (R61): ALIGN_TIMEOUT microseconds after the barrier opened, before its release. -/
def execAlignTimeout (g : BitVec 8) (s : State) : Res :=
  let n := g.toNat
  let t := s.groupTimeout n
  .next (if (s.alignAt n).opened ∧ ¬ s.releaseDue n ∧ t ≠ 0 ∧ (s.alignAt n).openEdge + t * edgesUs ≤ s.now then
    s.cancelGroup n .alignTimeout none s.now else s)

/-- ARRIVE (R59): a port of the master reports that its chip's members have arrived. -/
def execArrive (port : Fin 6) (g : BitVec 8) (s : State) : Res :=
  let n := g.toNat
  let a := s.alignAt n
  if s.members n ≠ [] ∧ s.groupX n ∧ s.groupMaster n ∧ (s.groupPorts n).getLsbD port ∧ ¬ a.closed then
    .next ((s.setAlign n { a with opened := true, openEdge := if a.opened then a.openEdge else s.now,
                                  ports := setBit a.ports port, lastEdge := s.now }).masterRelease n)
  else .next s

/-- The instant has passed: strictly before now. -/
def tsBefore (n i : Word64) : Bool := tsPassed n i ∧ n ≠ i

/-- RELEASE (R59, R60): the release instant, or ALIGN_LATE. -/
def execRelease (port : Fin 6) (g : BitVec 8) (t : Word64) (s : State) : Res :=
  let n := g.toNat
  let a := s.alignAt n
  if a.opened ∧ s.groupX n ∧ ¬ s.groupMaster n ∧ (lowestPort (s.groupPorts n)).getLsbD port ∧ a.releaseT.isNone then
    if tsBefore (s.stamp (s.groupTd n)) t then .next (s.cancelGroup n .alignLate none s.now)
    else .next (s.setAlign n { a with releaseT := some t.toNat })
  else .next s

/-- CANCEL (R62): the barrier is cancelled; the master forwards it on its other ports. -/
def execCancel (port : Fin 6) (g : BitVec 8) (s : State) : Res :=
  let n := g.toNat
  .next (if (s.alignAt n).opened ∧ s.groupX n ∧ (s.groupPorts n).getLsbD port ∧ ¬ s.releaseDue n then
    s.cancelGroup n .alignCancelled (some port) s.now else s)

/-- Armed sequencers that a trigger line starts (R48). -/
def lineStarts (src : Nat) (rising : Bool) (extra : Nat → Bool) (s : State) : State :=
  foldState (List.range 64) (fun q s =>
    if (s.seqAt q).state = .armed ∧ startSrc s q = src ∧ startFalling s q = (!rising) ∧ extra q then s.startCommit q else s) s

/-- TRIG_IN_EDGE (R48, R210). -/
def execTrigInEdge (line : Fin 4) (rising : Bool) (s : State) : Res :=
  let t := s.trg
  let s := { s with trg := { t with trigIn := if rising then setBit t.trigIn line else clrBit t.trigIn line } }
  .next (lineStarts (line + 1) rising (fun _ => true) (s.cond s.now (.trigIn line rising)))

/-- An edge of an XT line at its consumers (R48, R210): the start of sequencers whose source it is. -/
def xtStarts (line : Nat) (rising : Bool) (s : State) : State :=
  lineStarts 5 rising (fun q => fld (s.reg (pgSeq q) 0x10C) 4 3 = line) s

end Sys2Proof.Machine
end

