-- ==== Sys2Proof/Machine/Cap.lean ====
section
/-! DEFINITION. Capture (R180 to R184, R194 to R209): the judging of an issued vector against what its channels showed,
the records of each site, stop-on-fail, MATCH decisions, the strobe alignment counts (R322), and the drain to HBM. -/
namespace Sys2Proof.Machine

/-! ### What a channel showed -/

/-- The observation of a channel after CMP_SWAP (R179). -/
def State.observed (s : State) (c : Nat) (obs : List ChanObs) : ChanObs :=
  let o : ChanObs := (obs.find? (fun o => o.chan.val = c)).getD { chan := Fin.ofNat 512 c }
  if (s.reg (pgCh c) 0x104).getLsbD 2 then
    { o with
      chi := o.clo, clo := o.chi
      seen := BitVec.ofNat 4 (b2n (o.seen.getLsbD 0) + 2 * b2n (o.seen.getLsbD 2) + 4 * b2n (o.seen.getLsbD 1) +
        8 * b2n (o.seen.getLsbD 3))
      grid := o.grid.map (fun g => BitVec.ofNat 2 (b2n (g.getLsbD 1) + 2 * b2n (g.getLsbD 0))) }
  else o

/-- The search of R160 over the grid samples: the first point that shows the new level behind the old one, counted from
`j`. `last` is the latest level shown. -/
def srefAt (rising : Bool) : Nat → Option Bool → List (BitVec 2) → Option Nat
  | _, _, [] => none
  | j, last, g :: t =>
    let lvl := if g = 2 then some true else if g = 1 then some false else none
    match lvl with
    | none => srefAt rising (j + 1) last t
    | some b => if b = rising ∧ last = some (!rising) then some j else srefAt rising (j + 1) (some b) t

/-- The strobe instant t_s of a search event after the cycle start (R160): the grid point g_j = C0 + 8j. -/
def strobeInstant (e : StrobeEv) (grid : List (BitVec 2)) : Option Int :=
  (srefAt e.rising 0 none (grid.take e.gridN)).map (fun j => e.samples.headD 0 + 8 * (j : Int))

/-- Instants at which a compare samples its port, in fine steps: a SRCSYNC member's count from t_s (R157, R161). -/
def StrobeEv.instants (e : StrobeEv) (ts : Option Int) : List Int :=
  e.samples.map (fun x => e.base + x + (if e.mode = 3 then ts.getD 0 else 0))

/-- The pass condition of a sampled pair (R180). -/
def passes (e : Expect) (chi clo : Bool) : Bool :=
  match e with
  | .low => clo && !chi
  | .high => chi && !clo
  | .mid => !chi && !clo

/-- Judged unit intervals that fail (R180 to R182). -/
def failUis (ev : StrobeEv) (o : ChanObs) (miss : Bool) : List Nat :=
  if miss then ev.exps.map Prod.fst
  else if ev.mode = 2 then
    (ev.exps.filter (fun x => (List.range 4).any (fun p =>
      o.seen.getLsbD p ∧ ¬ passes x.2 (decide (p ≥ 2)) (decide (p % 2 = 1))))).map Prod.fst
  else (ev.exps.filter (fun x => ¬ passes x.2 (o.chi.getLsbD x.1) (o.clo.getLsbD x.1))).map Prod.fst

/-- Both pairs asserted at a sample (R180, R181). -/
def invalidSeen (ev : StrobeEv) (o : ChanObs) : Bool :=
  if ev.mode = 2 then o.seen.getLsbD 3 else ev.exps.any (fun x => o.chi.getLsbD x.1 ∧ o.clo.getLsbD x.1)

/-- Raw bits of a compare, two per unit interval (R183). -/
def rawBits (ev : StrobeEv) (o : ChanObs) : BitVec 16 :=
  if ev.mode = 2 then
    BitVec.ofNat 16 (b2n (o.seen.getLsbD 2 || o.seen.getLsbD 3) + 2 * b2n (o.seen.getLsbD 1 || o.seen.getLsbD 3))
  else BitVec.ofNat 16 (((List.range (if ev.ser then 8 else 1)).map (fun u =>
    4 ^ u * (b2n (o.chi.getLsbD u) + 2 * b2n (o.clo.getLsbD u)))).sum)

/-- One made and placed compare as CAP receives it. -/
structure Judged where
  chan : Nat
  ser : Bool
  /-- Statically masked (R184). -/
  masked : Bool
  fails : List Nat
  raw : BitVec 16
  /-- Instants of its samples at the port. -/
  at_ : List Int
  deriving DecidableEq, Repr

/-- The references whose search found t_s in this vector, with t_s. -/
def foundRefs (s : State) (r : VecRec) (obs : List ChanObs) : List (Nat × Int) :=
  (r.events.filter (fun e => e.mode = 4 ∧ ¬ e.dropped)).filterMap (fun e =>
    (strobeInstant e (s.observed e.chan obs).grid).map (fun t => (e.chan, t)))

/-- t_s of the group of a member (R161). -/
def StrobeEv.groupTs (e : StrobeEv) (found : List (Nat × Int)) : Option Int :=
  e.ref.bind (fun x => (found.find? (fun y => y.1 = x)).map (·.2))

def judgeEvent (s : State) (found : List (Nat × Int)) (obs : List ChanObs) (maq : Bool) (e : StrobeEv) : Judged :=
  let o := s.observed e.chan obs
  let ts := e.groupTs found
  let miss : Bool := e.mode = 3 ∧ (e.missed ∨ ts.isNone)
  { chan := e.chan, ser := e.ser, masked := (s.reg (pgCh e.chan) 0x108).getLsbD 0,
    fails := if maq then [] else failUis e o miss, raw := rawBits e o, at_ := e.instants (if miss then none else ts) }

/-! ### Strobe alignment counts (R322) -/

def bumpAt (l : List Nat) (i n : Nat) : List Nat := (List.range 64).map (fun j => l.getD j 0 + if j = i then n else 0)

/-- The nearest offset index with at least half the largest rate, among `l`. -/
def edgeIdx (made diff : List Nat) (top : Nat × Nat) (l : List Nat) : Option Nat :=
  l.find? (fun j => 2 * diff.getD j 0 * top.2 ≥ top.1 * made.getD j 0)

/-- An edge offset, or a free value where no offset of that sign qualifies: the spec states no result there. -/
def State.edgeOfs (s : State) (j : Option Nat) : Int × State :=
  match j with
  | some j => (8 * (j : Int) - 256, s)
  | none => let r := s.fresh 9; (r.1.toInt, r.2)

/-- A result is due: new ALIGN_CMP, staged or reported. -/
def alignResult (c : Nat) (a : AlignCnt) (s : State) : State :=
  let js := List.range 64
  let top := js.foldl (fun (b : Nat × Nat) j =>
    if a.diff.getD j 0 * b.2 > b.1 * a.made.getD j 0 then (a.diff.getD j 0, a.made.getD j 0) else b) (0, 1)
  let l := s.edgeOfs (edgeIdx a.made a.diff top (List.range 32).reverse)
  let r := l.2.edgeOfs (edgeIdx a.made a.diff top ((List.range 31).map (· + 33)))
  let s := r.2
  let ctr := (l.1 + r.1) / 2
  let cfg := s.reg pgCal 0x118
  let s := { s with cal := { s.cal with alignCnt := sput s.cal.alignCnt c { j := a.j, u := a.u } } }
  if ctr.natAbs > fld cfg 0 8 then
    let v := (s.terms c).align + clampInt (-64) 64 ctr
    let auto := (s.reg pgCal 0x100).getLsbD 7
    let f := s.fig 3 c
    let s := s.setFig 3 c { f with result := v }
    if auto then s.stage c (.align v) else s
  else s

/-- One compare acts on the monitor of its channel. -/
def alignCount (e : StrobeEv) (diff : Bool) (s : State) : State :=
  let c := e.chan
  if (s.reg pgCal 0x100).getLsbD 6 ∧ (s.reg pgCal (0x120 + 4 * (c / 32))).getLsbD (c % 32) ∧ e.mode ≠ 2 ∧ e.mode ≠ 4 then
    let a : AlignCnt := sget {} s.cal.alignCnt c
    let a' := { a with made := bumpAt a.made a.j 1, diff := bumpAt a.diff a.j (b2n diff), j := (a.j + 1) % 64,
                       u := if e.ser ∧ a.j = 63 then (a.u + 1) % 8 else a.u }
    if a'.diff.sum ≥ fld (s.reg pgCal 0x118) 16 16 ∧ a'.made.all (fun n => n ≥ 64) then alignResult c a' s
    else { s with cal := { s.cal with alignCnt := sput s.cal.alignCnt c a' } }
  else s

/-! ### Items and their loss (R207) -/

def CapItem.bytes : CapItem → Nat
  | .cw _ d _ => d.length
  | .bm _ => Config.bitmapItemBytes

/-- Bytes of the capture write buffer, and those in use over all contexts. -/
def captureBuffer : Nat := 4 * 2 ^ 20
def State.bufferUsed (s : State) : Nat := (s.cap.map (fun e => ((e.2.old ++ e.2.queue).map CapItem.bytes).sum)).sum

/-- An item is lost. -/
def State.loseItem (s : State) (i vc : Nat) : State :=
  let s := s.modCap i (fun v => { v with lostCount := sat32 (v.lostCount + 1), lost := true,
                                         lostVec := if v.lostCount = 0 then vc else v.lostVec })
  (s.raiseEvt (pgCap i) 8).cond s.now (.capLost i)

/-- Queue an item of context `i`, or lose it; answers whether it was queued. -/
def State.pushItem (s : State) (i vc : Nat) (it : CapItem) : Bool × State :=
  if s.bufferUsed + it.bytes > captureBuffer then (false, s.loseItem i vc)
  else (true, s.modCap i (fun v => { v with queue := v.queue ++ [it] }))

/-! ### Records -/

def w32 (n : Nat) : List Byte := leBytes 4 n
def w64 (n : Nat) : List Byte := leBytes 8 n

/-- Words 0 to 2 of a log entry and of a raw record header. -/
def recWords (r : VecRec) : List Byte :=
  w32 r.vc ++ w32 (2 ^ 16 * fld r.addr 24 16 + r.vc / 2 ^ 32 % 2 ^ 16) ++ w32 (2 ^ 24 * fld r.addr 40 8 + fld r.addr 0 24)

/-- The judged compares of site `i`: list position, compare, failing (R195). -/
def siteJudged (s : State) (i : Nat) (js : List Judged) : List (Nat × Judged) :=
  let l := (s.capAt i).chans
  (List.range l.length).filterMap (fun p =>
    let c := l.getD p 0
    match js.find? (fun j => j.chan = c) with
    | some j =>
      if j.masked ∨ (s.reg (pgCap i) (0x200 + 4 * (c / 32))).getLsbD (c % 32) then none else some (p, j)
    | none => none)

def State.capTs (s : State) (i : Nat) (r : VecRec) : Word64 := s.stampAt (fld (s.reg (pgCap i) 0x108) 8 2) r.start

/-- Counts of R196. -/
def capCounts (i : Nat) (r : VecRec) (bad : List (Nat × Judged)) (s : State) : State :=
  let first : Bool := (s.capAt i).failVec = 0
  let ts := s.capTs i r
  let fc := (s.reg (pgCap i) 0x104).getLsbD 0
  let s := s.modCap i (fun v => { v with
    failVec := v.failVec + 1, failCmp := v.failCmp + bad.length,
    firstVec := if first then r.vc else v.firstVec, firstTs := if first then ts else v.firstTs,
    fcount := if fc then bad.foldl (fun m x => sput m x.2.chan (sat32 (sget 0 m x.2.chan + 1))) v.fcount else v.fcount })
  if first then s.raiseEvt (pgCap i) 1 else s

/-- STOP_THRESH reached at this commit (R197). -/
def crosses (s : State) (i nb : Nat) : Bool :=
  let t := s.regN (pgCap i) 0x110
  let v := s.capAt i
  let byCmp := (s.reg (pgCap i) 0x108).getLsbD 3
  let after := if byCmp then v.failCmp else v.failVec
  let before := if byCmp then v.failCmp - nb else v.failVec - 1
  t > 0 ∧ before < t ∧ t ≤ after

/-- The crossing: status, event, condition, and RETIRE; STOP is taken after all sites (R197). -/
def capCross (q i nb : Nat) (s : State) : State :=
  if crosses s i nb then
    let s := s.modCap i (fun v => { v with thresh := true })
    let s := (s.raiseEvt (pgCap i) 2).cond s.now (.siteThresh i)
    if fld (s.reg (pgCap i) 0x108) 4 2 = 2 then s.modSeq q (fun v => { v with capRetire := setBit v.capRetire i }) else s
  else s

/-- First-fail log (R198). -/
def capLog (i : Nat) (r : VecRec) (bad : List (Nat × Judged)) (s : State) : State :=
  if ¬ (s.reg (pgCap i) 0x104).getLsbD 1 then s
  else
    let groups := (List.range 8).filter (fun g => bad.any (fun x => x.1 / 64 = g))
    let base := s.reg64 (pgCap i) 0x150
    let ts := (s.capTs i r).toNat
    foldState groups (fun g s =>
      let mine := bad.filter (fun x => x.1 / 64 = g)
      let mask := (mine.map (fun x => 2 ^ (x.1 % 64))).sum
      let w3 := (if groups.getLast? = some g then 0 else 2 ^ 28) + (if mine.any (fun x => x.2.ser) then 2 ^ 27 else 0) +
        2 ^ 24 * g + r.instr % 2 ^ 24
      let n := (s.capAt i).flogCount
      let s := s.modCap i (fun v => { v with flogCount := sat32 (v.flogCount + 1) })
      let s := if n < 1024 then (s.pushItem i r.vc (.cw (base + 32 * n) (recWords r ++ w32 w3 ++ w64 mask ++ w64 ts) r.vc)).2 else s
      if n = 1023 then (s.modCap i (fun v => { v with flogFull := true })).raiseEvt (pgCap i) 4 else s) s

/-- Bitmap geometry. -/
def bmWb (cfg : Word32) : Nat := min 6 (fld cfg 25 3)
def bmPerUi (cfg : Word32) : Bool := bit cfg 31 ∧ fld cfg 25 3 ≤ 3

/-- The word F of a failing vector (R199). -/
def bmWord (cfg : Word32) (bad : List (Nat × Judged)) : Word64 :=
  let w := 2 ^ bmWb cfg
  bad.foldl (fun m x =>
    let k := x.1 - fld cfg 16 9
    if fld cfg 16 9 ≤ x.1 ∧ k < w then
      if bmPerUi cfg ∧ x.2.ser then x.2.fails.foldl (fun m u => setBit m (k + w * u)) m else setBit m k
    else m) 0

/-- Fail bitmap (R199, R200). -/
def capBitmap (i : Nat) (r : VecRec) (bad : List (Nat × Judged)) (s : State) : State :=
  let cfg := s.reg (pgCap i) 0x170
  let f := bmWord cfg bad
  if ¬ (s.reg (pgCap i) 0x104).getLsbD 2 ∨ f = 0 then s
  else
    let x := fld r.addr 0 24
    let y := fld r.addr 24 16
    let z := fld r.addr 40 8
    let xb := fld cfg 0 5
    let yb := fld cfg 5 5
    let zb := fld cfg 10 4
    let lim := s.reg (pgCap i) 0x174
    let z0 := fld lim 24 8
    if x ≥ 2 ^ xb ∨ y ≥ 2 ^ yb ∨ z < z0 ∨ z - z0 ≥ 2 ^ zb then s.modCap i (fun v => { v with bmOutside := sat32 (v.bmOutside + 1) })
    else
      let idx := (z - z0) * 2 ^ (xb + yb) + x * 2 ^ yb + y
      (s.pushItem i r.vc (.bm { addr := s.reg64 (pgCap i) 0x158 + 8 * idx, f := f, x := x, y := y, zi := z - z0, vc := r.vc,
                                cfg := cfg, lim := lim, rowBase := s.reg64 (pgCap i) 0x160,
                                colBase := s.reg64 (pgCap i) 0x168 })).2

/-- Bytes of a raw record (R203): header, a halfword per position, the MADE mask, padding. SER is set where any channel of
the list has a SER entry in the vector (assumption 92). -/
def rawRecord (s : State) (i : Nat) (r : VecRec) (js : List Judged) (bad : List (Nat × Judged)) (trig : Bool) : List Byte :=
  let v := s.capAt i
  let w3 := r.instr % 2 ^ 24 + (if bad = [] then 0 else 2 ^ 24) + (if trig then 2 ^ 25 else 0) +
    (if r.serChans.any (fun c => v.chans.contains c) then 2 ^ 26 else 0)
  let half := v.chans.flatMap (fun c => leBytes 2 (((js.find? (fun j => j.chan = c)).map (·.raw.toNat)).getD 0))
  let n := v.chans.length
  let made := (List.range ((n + 63) / 64)).flatMap (fun k =>
    w64 (((List.range 64).map (fun b =>
      if js.any (fun j => some j.chan = v.chans[64 * k + b]?) then 2 ^ b else 0)).sum))
  let body := recWords r ++ w32 w3 ++ w64 (s.capTs i r).toNat ++ w32 bad.length ++ w32 0 ++ half ++
    List.replicate (8 * ((n + 3) / 4) - 2 * n) 0 ++ made
  body ++ List.replicate (v.recBytes - body.length) 0

/-- A raw record is written to its ring. -/
def rawStore (i : Nat) (r : VecRec) (data : List Byte) (s : State) : Bool × State :=
  let v := s.capAt i
  let ring := s.rawCap i v.recBytes * v.recBytes
  let drain := (s.reg (pgCap i) 0x184).getLsbD 31
  if drain ∧ v.rawWr + v.recBytes > s.reg64 (pgCap i) 0x1B0 + ring then (false, s.loseItem i r.vc)
  else
    match s.pushItem i r.vc (.cw (s.reg64 (pgCap i) 0x188 + v.rawWr % ring) data r.vc) with
    | (true, s) => (true, s.modCap i (fun v => { v with
        rawWr := v.rawWr + v.recBytes, recEdge := s.now,
        recs := (if v.recEdge = s.now then v.recs else []) ++ [(v.rawWr, r.vc)] }))
    | x => x

/-- Raw capture (R204, R206). A record that is lost does not spend the trigger: the first record stored is the trigger
record (assumption 93). -/
def capRaw (i : Nat) (r : VecRec) (js : List Judged) (judged bad : List (Nat × Judged)) (s : State) : State :=
  let v := s.capAt i
  let cfg := s.reg (pgCap i) 0x184
  let want : Bool := if cfg.getLsbD 30 then bad ≠ [] else judged ≠ []
  if ¬ (s.reg (pgCap i) 0x104).getLsbD 3 ∨ ¬ want ∨ v.rawDone then s
  else
    let ofs := v.rawWr % (s.rawCap i v.recBytes * v.recBytes)
    match rawStore i r (rawRecord s i r js bad v.trigPend) s with
    | (false, s) => s
    | (true, s) =>
      let s := if v.trigPend then
        (s.modCap i (fun w => { w with trigPend := false, rawTriggered := true, trigVec := r.vc, trigOfs := ofs, posts := 1 })
          ).raiseEvt (pgCap i) 0x10
        else if v.rawTriggered then s.modCap i (fun w => { w with posts := w.posts + 1 }) else s
      let w := s.capAt i
      if w.rawTriggered ∧ w.posts ≥ w.postEff then
        (s.modCap i (fun w => { w with rawDone := true })).raiseEvt (pgCap i) 0x20
      else s

/-- One site at one commit (R195 to R206). -/
def capSite (q : Nat) (r : VecRec) (js : List Judged) (i : Nat) (s : State) : State :=
  if ¬ r.sites.getLsbD i then s
  else
    let judged := siteJudged s i js
    let bad := judged.filter (fun x => x.2.fails ≠ [])
    let s := if bad = [] then s
      else
        let s := capCounts i r bad s
        let s := s.cond s.now (.siteFail i)
        let s := capCross q i bad.length s
        let s := capLog i r bad s
        capBitmap i r bad s
    capRaw i r js judged bad s

/-- Sites with a failing judged compare in a vector. -/
def failSites (s : State) (r : VecRec) (js : List Judged) : BitVec 128 :=
  siteMask ((setBits r.sites).filter (fun i => (siteJudged s i js).any (fun x => x.2.fails ≠ [])))

/-! ### MATCH results (R54, R55) -/

/-- The result of a repetition is usable. -/
def matchResult (q : Nat) (r : VecRec) (failed : BitVec 128) (s : State) : State :=
  let v := s.seqAt q
  match r.rep, v.matchRun, v.run with
  | some k, some m, some x =>
    if r.matchId ≠ m.id then s
    else
      let old := ((m.failed.find? (fun e => e.1 = k)).map (·.2)).getD 0
      let now := old ||| failed
      let m := { m with failed := m.failed.filter (fun e => e.1 ≠ k) ++ [(k, now)] }
      if ¬ r.repEnd ∨ m.decided.isSome then s.setSeq q { v with matchRun := some m }
      else
        let i := PatInstr.ofWord x.word
        let hit := r.sites &&& ~~~ now
        let met : Bool := if v.maquette then !v.maqMatch else if i.matchAny then hit ≠ 0 else hit = r.sites
        if ¬ met ∧ k + 1 < i.matchLimit then
          s.setSeq q { v with matchRun := some { m with failed := m.failed.filter (fun e => e.1 ≠ k) } }
        else
          let s := s.setSeq q { v with matchSites := if met then hit else 0, matchRun := some { m with decided := some met } }
          -- a repetition whose first vector fell in this cycle or before is still issued
          if v.runPos ≠ 0 then s else matchExit q i met (segmentEnd q x i.owned s)
  | _, _, _ => s

/-! ### CAP_COMMIT -/

/-- Channel counters of one made and placed compare (R180, R183). -/
def chanCounts (obs : List ChanObs) (e : StrobeEv) (s : State) : State :=
  let inv := invalidSeen e (s.observed e.chan obs)
  s.modChan e.chan (fun c => { c with cmpMade := sat32 (c.cmpMade + 1), cmpInvalid := sat32 (c.cmpInvalid + b2n inv) })

/-- A compare of this channel belongs to no context (R35). -/
def State.unowned (s : State) (v : Seq) (c : Nat) : Bool :=
  let a := s.reg (pgCh c) 0x100
  let k := fld a 30 2
  k = 0 ∨ k = 3 ∨ (k = 1 ∧ ¬ v.owned.getLsbD (fld a 0 7))

/-- The results of the oldest issued vector of a sequencer commit. -/
def commitVector (q : Nat) (r : VecRec) (obs : List ChanObs) (s : State) : State :=
  let v := s.seqAt q
  let s := s.setSeq q { v with inflight := v.inflight.drop 1 }
  let found := foundRefs s r obs
  let lostRefs := (r.events.filter (fun e => e.mode = 4 ∧ ¬ found.any (fun x => x.1 = e.chan))).map (·.chan)
  let s := foldState lostRefs (fun c s => s.modChan c (fun v => { v with strobeMiss := sat32 (v.strobeMiss + 1) })) s
  let evs := r.events.filter (fun e => e.mode ≠ 4 ∧ ¬ e.dropped)
  let js := evs.map (judgeEvent s found obs v.maquette)
  -- in a maquette run no strobe reaches a port: nothing is compared (R69)
  let s := if v.maquette then s
    else foldState evs (fun e s => alignCount e (s.observed e.chan obs).monDiff s) (foldState evs (chanCounts obs) s)
  let un := (js.filter (fun j => ¬ j.masked ∧ s.unowned v j.chan)).length
  let s := s.modSeq q (fun v => { v with unownedCmp := sat32 (v.unownedCmp + un) })
  if r.rep.isSome then matchResult q r (failSites s r js) s
  else if v.maquette then s
  else
    let fails := failSites s r js
    let crossers := (setBits r.sites).filter (fun i => fld (s.reg (pgCap i) 0x108) 4 2 = 1)
    let was := crossers.filter (fun i => (s.capAt i).thresh)
    let s := foldState (setBits v.owned) (capSite q r js) s
    let s := if fails ≠ 0 then (s.setFailFlag q).cond s.now (.seqFail q) else s
    if crossers.any (fun i => (s.capAt i).thresh ∧ ¬ was.contains i) then s.endBurst q .failStop s.now else s

/-- CAP_COMMIT (R24, R42, R195): the oldest issued vector, once its commit cycle has come. -/
def execCapCommit (q : Fin 64) (obs : List ChanObs) (s : State) : Res :=
  match (s.seqAt q).inflight with
  | r :: _ => .next (if r.commitAt ≤ s.now then (commitVector q r obs s).finishIf q else s)
  | [] => .next s

/-! ### Drain to HBM (R208, R209) -/

/-- DRAINED once the queue is empty and no burst that owns the site is in progress. -/
def State.drainCheck (s : State) (i : Nat) : State :=
  if (List.range 64).any (fun q => (s.seqAt q).engaged ∧ (s.seqAt q).owned.getLsbD i) then s else s.setDrained i

/-- Take the first item that `p` admits out of a list. -/
def takeFirst {α : Type} (p : α → Bool) : List α → Option (α × List α)
  | [] => none
  | a :: t => if p a then some (a, t) else (takeFirst p t).map (fun x => (x.1, a :: x.2))

/-- An item whose requests have all been made. -/
def CapItem.complete : CapItem → Bool
  | .cw .. => true
  | .bm b => b.ored ∧ b.ctrs = []

/-- OR64 (R348): the old word, the status and the state. -/
def State.or64 (s : State) (a : Nat) (m : Word64) (res : HbmStatus) : Word64 × HbmStatus × State :=
  let old := BitVec.ofNat 64 (s.hbmNat a 8)
  (old, s.hbmWriteReq a (leBytes 8 (old ||| m).toNat) res)

/-- A request made before a reset of the page completes (R32, R359): one that had not been issued ends with RESET and its
item is lost; of one that had, the write lands, the reply is stale, and a bitmap update goes no further. -/
def State.oldComplete (s : State) (i : Nat) (it : CapItem) (res : HbmStatus) : State :=
  if res = .reset then (match it with | .cw _ _ vc => s.loseItem i vc | .bm b => s.loseItem i b.vc)
  else
    let s := s.modCap i (fun v => { v with stale := sat32 (v.stale + 1) })
    match it with
    | .cw a d _ => (s.hbmWriteReq a d res).2
    | .bm b => (if b.ored then s else (s.or64 b.addr b.f res).2.2).loseItem i b.vc

/-- The queue without one item: what earlier bursts left of it stands first. -/
def Cap.without (v : Cap) (p : CapItem → Bool) (rest : List CapItem) : Cap :=
  { v with queue := rest, before := if v.queue.findIdx p < v.before then v.before - 1 else v.before }

/-- CAPTURE_WRITE_COMPLETE (R208). -/
def execCaptureWriteComplete (site : Fin 128) (res : HbmStatus) (s : State) : Res :=
  let v := s.capAt site
  match v.old with
  | it :: rest => .next (((s.setCap site { v with old := rest }).oldComplete site it res).drainCheck site)
  | [] => match takeFirst CapItem.complete v.queue with
  | some (.cw a d vc, rest) =>
    let s := s.setCap site (v.without CapItem.complete rest)
    let r := s.hbmWriteReq a d res
    s.guardArray a d.length (.next ((if r.1 = .ok then r.2 else s.loseItem site vc).drainCheck site))
  | some (.bm b, rest) =>
    let s := s.setCap site (v.without CapItem.complete rest)
    .next ((if b.bad ∨ res ≠ .ok then s.loseItem site b.vc else s).drainCheck site)
  | none => .next s

/-- Replace the first bitmap update that `p` admits. -/
def setFirstBm (p : BmItem → Bool) (b' : BmItem) : List CapItem → List CapItem
  | [] => []
  | .bm b :: t => if p b then .bm b' :: t else .bm b :: setFirstBm p b' t
  | x :: t => x :: setFirstBm p b' t

def firstBm (p : BmItem → Bool) : List CapItem → Option BmItem
  | [] => none
  | .bm b :: t => if p b then some b else firstBm p t
  | _ :: t => firstBm p t

/-- One increment more of a counter: one request adds all that fall on it (R208, R348). -/
def addCtr (l : List LineCtr) (c : LineCtr) : List LineCtr :=
  if l.any (fun x => x.addr = c.addr ∧ x.row = c.row) then
    l.map (fun x => if x.addr = c.addr ∧ x.row = c.row then { x with n := x.n + c.n } else x)
  else l ++ [c]

/-- Line counters of the newly set bits of a word (R201). -/
def lineCtrs (b : BmItem) (new : Word64) : List LineCtr :=
  if ¬ bit b.cfg 30 then []
  else
    let ub := if bmPerUi b.cfg then 3 else 0
    let wb := bmWb b.cfg
    ((setBits new).flatMap (fun n =>
      let u := if bmPerUi b.cfg then n / 2 ^ wb else 0
      let k := n % 2 ^ wb
      [({ addr := b.rowBase + 2 * (b.zi * 2 ^ fld b.cfg 0 5 + b.x), thr := fld b.lim 0 8, row := true } : LineCtr),
       { addr := b.colBase + 2 * (b.zi * 2 ^ (fld b.cfg 5 5 + ub + wb) + b.y * 2 ^ (ub + wb) + u * 2 ^ wb + k),
         thr := fld b.lim 8 8, row := false }])).foldl addCtr []

/-- OR64 (R200, R208, R348): the first bitmap update that waits for it. -/
def execOr64 (site : Fin 128) (res : HbmStatus) (s : State) : Res :=
  let v := s.capAt site
  match firstBm (fun b => !b.ored) v.queue with
  | none => .next s
  | some b =>
    let r := s.or64 b.addr b.f res
    let b' := if r.2.1 = .ok then { b with ored := true, ctrs := lineCtrs b (b.f &&& ~~~ r.1) }
              else { b with ored := true, bad := true }
    s.guardArray b.addr 8 (.next (r.2.2.modCap site (fun v => { v with queue := setFirstBm (fun b => !b.ored) b' v.queue })))

/-- ADDSAT15 on a halfword with its threshold (R201, R348): the new halfword. -/
def addSat15 (h n thr : Nat) : Nat :=
  let c := min 0x7FFF (h % 0x8000 + n)
  c + (if h ≥ 0x8000 ∨ (thr ≠ 0 ∧ c > thr) then 0x8000 else 0)

/-- ADDSAT15 (R201, R208): the next line counter of a bitmap update. -/
def execAddsat15 (site : Fin 128) (res : HbmStatus) (s : State) : Res :=
  let v := s.capAt site
  let sel := fun (b : BmItem) => b.ored && !b.ctrs.isEmpty
  match firstBm sel v.queue with
  | none => .next s
  | some b =>
    match b.ctrs with
    | [] => .next s
    | c :: rest =>
      let old := s.hbmNat c.addr 2
      let new := addSat15 old c.n c.thr
      let r := s.hbmWriteReq c.addr (leBytes 2 new) res
      let set : Bool := r.1 = .ok ∧ old < 0x8000 ∧ new ≥ 0x8000
      let b' := { b with ctrs := rest, bad := b.bad || r.1 ≠ .ok }
      s.guardArray c.addr 2 (.next (r.2.modCap site (fun v => { v with
        queue := setFirstBm sel b' v.queue,
        mustRows := if set ∧ c.row then sat32 (v.mustRows + 1) else v.mustRows,
        mustCols := if set ∧ ¬ c.row then sat32 (v.mustCols + 1) else v.mustCols })))

end Sys2Proof.Machine
end

