-- ==== Sys2Proof/Machine/Trg.lean ====
section
/-! DEFINITION. The trigger matrix (R210 to R218): sampling, firing and its actions, hold-off, arming, flags and the
lines it drives. One TRIGGER_FIRE is one sample of one unit in the current cycle. -/
namespace Sys2Proof.Machine

/-- What unit `u` was before the writes of this cycle, where there were any (R215). -/
def State.unitWas (s : State) (u : Nat) : Option UnitWas := s.trg.was.find? (fun x => x.u = u ∧ x.edge = s.now)

/-- Word `k` of a unit's configuration as a sample of this cycle sees it. -/
def unitWord (s : State) (u k : Nat) : Word32 :=
  match s.unitWas u with
  | some x => x.cfg.getD k 0
  | none => s.reg pgTrg (0x400 + 0x40 * u + 4 * k)
def uctrlAt (s : State) (u : Nat) : Word32 := unitWord s u 0
def uparamAt (s : State) (u : Nat) : Word32 := unitWord s u 1
def uoutAt (s : State) (u : Nat) : Word32 := unitWord s u 2
def condAt (s : State) (u j : Nat) : Word32 := unitWord s u (4 + j)

/-- Before the first write to unit `u` in a cycle: keep what the sample of this cycle sees. -/
def State.keepUnit (s : State) (u : Nat) : State :=
  if (s.unitWas u).isSome then s
  else
    let w : UnitWas := { edge := s.now, u := u, unit := s.unitAt u,
                         cfg := (List.range 8).map (fun k => s.reg pgTrg (0x400 + 0x40 * u + 4 * k)) }
    { s with trg := { s.trg with was := s.trg.was.filter (fun x => x.edge = s.now) ++ [w] } }

/-- An event makes a condition of unit `u` true (R210). -/
def condHit (u : Nat) (w : Word32) (e : CondEv) : Bool :=
  let kind := fld w 24 4
  let idx := fld w 16 8
  let rising := !bit w 30
  match e with
  | .trigIn l r => kind = 1 ∧ l = idx ∧ r = rising
  | .xt l r => kind = 2 ∧ l = idx ∧ r = rising
  | .siteFail i => kind = 3 ∧ i = idx
  | .seqFail q => kind = 4 ∧ q = idx
  | .siteThresh i => kind = 5 ∧ i = idx
  | .mark q id => kind = 6 ∧ q = fld w 16 6 ∧ id = fld w 8 8
  | .flag i => kind = 7 ∧ i = idx
  | .seqEnd q => kind = 8 ∧ q = idx
  | .unit n => kind = 9 ∧ n = idx
  | .capLost i => kind = 10 ∧ i = idx
  | .host n => kind = 11 ∧ n = u

/-- The mask M of true enabled conditions in the current cycle (R211). -/
def condMask (u : Nat) (s : State) : BitVec 4 :=
  (List.range 4).foldl (fun m j =>
    let w := condAt s u j
    if bit w 31 ∧ s.trg.conds.any (fun c => c.1 = s.now ∧ condHit u w c.2) then setBit m j else m) 0

/-! ### XT lines out -/

/-- Transmit the XT levels on every port that is up (R375). -/
def State.sendXt (s : State) : State :=
  foldState (List.range 6) (fun p s =>
    if (s.zpAt p).isUp then
      s.send (.zp p (.xt (s.trg.xtOut &&& (s.reg (pgZp p) 0x124).extractLsb' 8 8)))
    else s) s

def State.assertXt (s : State) (mask : BitVec 8) : State :=
  let t := s.trg
  ({ s with trg := { t with
      xtOut := t.xtOut ||| mask,
      xtEnd := (setBits mask).foldl (fun l i => l.set i (max (l.getD i 0) (s.now + 4))) t.xtEnd } }).sendXt

/-! ### Capture trigger (R206) -/

/-- CAPTURE acts on one context: the records of this cycle from the first on are post records. -/
def captureTrigger (i : Nat) (s : State) : State :=
  let v := s.capAt i
  let ring := s.rawCap i v.recBytes * v.recBytes
  let here := if v.recEdge = s.now then v.recs else []
  let cut := here.drop v.postEff
  let base := s.reg64 (pgCap i) 0x188
  let isRec := fun (x : Nat × Nat) (it : CapItem) =>
    match it with | .cw a _ vc => decide (a = base + x.1 % ring ∧ vc = x.2) | .bm _ => false
  let queue := v.queue.filter (fun it => ¬ cut.any (fun x => isRec x it))
  let first := here.headD (v.rawWr, 0)
  let mark := fun (it : CapItem) => match it with
    | .cw a d vc => if here ≠ [] ∧ isRec first it then
        CapItem.cw a (d.set 15 ((d.getD 15 0) ||| 2)) vc else it
    | x => x
  let placed : Bool := v.postEff > 0 ∧ here ≠ []
  let done : Bool := here.length ≥ v.postEff
  let s := s.setCap i { v with
    queue := queue.map mark, rawWr := (cut.headD (v.rawWr, 0)).1, trigPend := !placed && !done,
    trigOfs := if placed ∨ v.postEff = 0 then first.1 % ring else v.trigOfs, trigVec := if placed then first.2 else v.trigVec,
    rawTriggered := placed, posts := min here.length v.postEff, rawDone := done }
  let s := if placed then s.raiseEvt (pgCap i) 0x10 else s
  if done then s.raiseEvt (pgCap i) 0x20 else s

/-- Contexts whose ring unit `u` triggers: in a live burst, WRAP mode, not triggered since the arm. -/
def capturedBy (u : Nat) (s : State) : List Nat :=
  (List.range 128).filter (fun i =>
    let cfg := s.reg (pgCap i) 0x184
    let v := s.capAt i
    s.rawWrap i ∧ cfg.getLsbD 4 ∧ fld cfg 0 4 = u ∧ ¬ v.trigPend ∧ ¬ v.rawTriggered ∧ ¬ v.rawDone ∧
    (List.range 64).any (fun q => (s.seqAt q).engaged ∧ (s.seqAt q).owned.getLsbD i ∧ ¬ (s.seqAt q).maquette))

/-! ### Firing (R211, R212) -/

/-- The effects of an action mask, in the firing cycle; conditions they bring about count in the next. -/
def fireActions (u : Nat) (a : BitVec 8) (s : State) : State :=
  let p := uparamAt s u
  let q := fld p 0 6
  let out := uoutAt s u
  let s := if a.getLsbD 0 ∧ ((s.seqAt q).state = .running ∨ (s.seqAt q).state = .hold) then
    s.endBurst q .trigStop (s.now + 1) else s
  let s := if a.getLsbD 1 then s.jumpRequest q (fld p 8 2) u else s
  let s := if a.getLsbD 2 ∧ s.inProgress q then s.setTrigFlag q else s
  let s := if a.getLsbD 3 then foldState (capturedBy u s) captureTrigger s else s
  let s := if a.getLsbD 4 then s.pulse (out.extractLsb' 0 4) (s.now + 1) else s
  let s := if a.getLsbD 5 then s.assertXt (out.extractLsb' 8 8) else s
  if a.getLsbD 6 then s.flagOps (BitVec.twoPow 8 (fld p 16 3)) 0 (s.now + 1) else s

/-- Domain of a unit's TIME hold-off, its mode and length (R213). -/
def hoTd (s : State) (u : Nat) : Nat := fld (uctrlAt s u) 16 2
def hoEvents (s : State) (u : Nat) : Bool := bit (uctrlAt s u) 24
def hoLen (s : State) (u : Nat) : Nat := (unitWord s u 3).toNat + 1

/-- An armed unit outside hold-off fires. FIRE_VEC of a sequencer that has issued no vector is 0 (assumption 94). -/
def fireUnit (u : Nat) (m : BitVec 4) (s : State) : State :=
  let w := uctrlAt s u
  let v := s.unitAt u
  let act := (condAt s u ((setBits m).headD 0)).extractLsb' 0 8
  let ho := bit w 0
  let v := { v with
    causeMask := m, causeAction := act, fireCount := sat32 (v.fireCount + 1),
    fireTs := s.stamp (fld (s.reg pgTrg 0x110) 0 2), fireVec := (s.seqAt (fld (uparamAt s u) 0 6)).vecCount - 1,
    armed := v.armed && !bit w 25, inHoldoff := ho, sampled := s.now + 1,
    hoEnd := s.time5 (hoTd s u) + nsUnits5 (hoLen s u), hoLeft := hoLen s u }
  fireActions u act ((s.setUnit u v).cond (s.now + 1) (.unit u))

/-- Hold-off is over: an ARM that waited takes effect (R214). -/
def TrgUnit.endHoldoff (v : TrgUnit) : TrgUnit := { v with inHoldoff := false, armed := v.armed || v.armPend, armPend := false }

/-- A TIME hold-off whose instant has come. -/
def holdoffOver (u : Nat) (s : State) : Bool :=
  (s.unitAt u).inHoldoff ∧ ¬ hoEvents s u ∧ (s.unitAt u).hoEnd ≤ s.time5 (hoTd s u)

/-- A unit whose EN or ARM is written (R214, R218): EN from 0 to 1 arms it and clears its record, EN to 0 disarms it and ends
hold-off. ARM with EN = 0 is ignored, and waits out a hold-off. -/
def UnitAct.act (a : UnitAct) (v : TrgUnit) : TrgUnit :=
  match a with
  | .enable true => { enabled := true, armed := true, sampled := v.sampled }
  | .enable false => { v with enabled := false, armed := false, armPend := false, inHoldoff := false }
  | .arm => if ¬ v.enabled then v else if v.inHoldoff then { v with armPend := true } else { v with armed := true }

/-- A write to a unit's own state, which a sample of this cycle does not see (R215). -/
def State.unitDo (s : State) (u : Nat) (a : UnitAct) : State :=
  let s := s.keepUnit u
  let s := s.setUnit u (a.act (s.unitAt u))
  { s with trg := { s.trg with was := s.trg.was.map (fun x => if x.u = u then { x with acts := x.acts ++ [a] } else x) } }

/-- One sample of one unit whose state stands as before this cycle's writes. -/
def sampleHere (u : Nat) (s : State) : State :=
  let s := if holdoffOver u s then s.setUnit u (s.unitAt u).endHoldoff else s
  let v := s.unitAt u
  let m := condMask u s
  if ¬ bit (uctrlAt s u) 31 ∨ v.sampled = s.now + 1 ∨ m = 0 then s
  else if v.inHoldoff then
    let v := { v with suppressed := sat32 (v.suppressed + 1), sampled := s.now + 1 }
    if hoEvents s u then
      s.setUnit u (if v.hoLeft ≤ 1 then { v with hoLeft := 0 }.endHoldoff else { v with hoLeft := v.hoLeft - 1 })
    else s.setUnit u v
  else if v.armed then fireUnit u m s
  else s

/-- One sample of one unit: writes of this cycle take effect after it (R215). -/
def sampleUnit (u : Nat) (s : State) : State :=
  match s.unitWas u with
  | none => sampleHere u s
  | some x =>
    if (s.unitAt u).sampled = s.now + 1 then s
    else
      let s := sampleHere u (s.setUnit u x.unit)
      s.setUnit u (x.acts.foldl (fun v a => a.act v) (s.unitAt u))

/-- TRIGGER_FIRE (R211). -/
def execTriggerFire (u : Fin 16) (s : State) : Res := .next (sampleUnit u s)

/-- PULSE_END (R111, R212): 10 ns after the line rose, or after the last pulse merged into it. -/
def execPulseEnd (line : Fin 4) (s : State) : Res :=
  let t := s.trg
  .next (if t.out.getLsbD line ∧ t.outEnd.getD line 0 ≤ s.now then { s with trg := { t with out := clrBit t.out line } } else s)

/-- XT_ASSERT_END (R212). -/
def execXtAssertEnd (line : Fin 8) (s : State) : Res :=
  let t := s.trg
  .next (if t.xtOut.getLsbD line ∧ t.xtEnd.getD line 0 ≤ s.now then
    ({ s with trg := { t with xtOut := clrBit t.xtOut line } }).sendXt else s)

/-- HOLDOFF_END (R213, R214). -/
def execHoldoffEnd (u : Fin 16) (s : State) : Res :=
  .next (if holdoffOver u s then s.setUnit u (s.unitAt u).endHoldoff else s)

/-- UNIT_ARM (R214). -/
def execUnitArm (u : Fin 16) (s : State) : Res := .next (s.whenReady pgTrg (fun s => s.unitDo u .arm))

/-- EN written (R214, R218). -/
def unitEnable (u : Nat) (on : Bool) (s : State) : State :=
  let s := s.keepUnit u
  let s := s.setReg pgTrg (0x400 + 0x40 * u) (if on then setBit (s.reg pgTrg (0x400 + 0x40 * u)) 31
    else clrBit (s.reg pgTrg (0x400 + 0x40 * u)) 31)
  if on = (s.unitAt u).enabled then s else s.unitDo u (.enable on)

/-- UNIT_ENABLE (R214, R218). -/
def execUnitEnable (u : Fin 16) (s : State) : Res := .next (s.whenReady pgTrg (unitEnable u true))

/-- FORCE (R210): the HOST condition of each unit named. -/
def execForce (units : BitVec 16) (s : State) : Res :=
  .next (s.whenReady pgTrg (foldState (setBits units) (fun u s => s.cond s.now (.host u))))

/-- FLAG_SET and FLAG_CLEAR (R88). -/
def execFlagSet (flags : BitVec 8) (s : State) : Res := .next (s.whenReady pgTrg (fun s => s.flagOps flags 0 s.now))
def execFlagClear (flags : BitVec 8) (s : State) : Res := .next (s.whenReady pgTrg (fun s => s.flagOps 0 flags s.now))

/-- A soft reset of the TRG page (R218). -/
def trgReset (s : State) : State :=
  { s.resetRegs pgTrg with trg := { s.trg with units := [], was := [], flags := 0, flagSets := 0, flagClrs := 0 } }

end Sys2Proof.Machine
end

