-- ==== Sys2Proof/Machine/TssOps.lean ====
section
/-! DEFINITION. Commands on the timing set store and its staged commit path (R147 to R171), and writes of the APG tables
(R135, R146). -/
namespace Sys2Proof.Machine

/-- Slots of the staged commit buffer, and those free. -/
def tssSlots : Nat := 4096
def Tss.free (t : Tss) : Nat := tssSlots - (t.openItems.length + (t.parts.map (fun p => p.items.length)).sum)

/-- Replace 32-bit word `k` of a wide value. -/
def setWord {w : Nat} (x : BitVec w) (k : Nat) (v : Word32) : BitVec w :=
  (x &&& ~~~ ((0xFFFFFFFF : BitVec 32).zeroExtend w <<< (32 * k))) ||| (v.zeroExtend w <<< (32 * k))

/-- BAR2 access form (R388): 32-bit aligned to 4, 64-bit aligned to 8 bytes. -/
def bar2Aligned (off : Nat) (hi : Option Word32) : Bool := if hi.isSome then off % 8 = 0 else off % 4 = 0

/-- One word of an entry or header, by BAR2 offset; in use it is undefined behaviour (R150, R396 item 4). In the
cycle of the arm itself the write takes effect first. -/
def tssWord (off : Nat) (v : Word32) (s : State) : Except Fault State :=
  if off < 0x400000 then
    let n := off / 32
    if s.chanInUse (n % 512) ∧ ¬ s.chanArmedNow (n % 512) then .error (.undefinedBehaviour 4)
    else .ok { s with tss := { s.tss with entries := sput s.tss.entries n (setWord (sget 0 s.tss.entries n) (off % 32 / 4) v &&& entryMask) } }
  else if off < 0x420000 then
    let n := (off - 0x400000) / 8
    if s.inProgress (n % 64) ∧ ¬ s.tookUp (n % 64) then .error (.undefinedBehaviour 4)
    else .ok { s with tss := { s.tss with headers := sput s.tss.headers n (setWord (sget 0 s.tss.headers n) (off % 8 / 4) v &&& headerMask) } }
  else .error (.undefinedBehaviour 1)

/-- Answer of a table access. -/
def toRes (r : Except Fault State) : Res :=
  match r with | .ok s => .next s | .error f => .fault f

/-- One word, or both words of a 64-bit write, through `f`. -/
def bothWords (off : Nat) (lo : Word32) (hi : Option Word32) (f : Nat → Word32 → State → Except Fault State) (s : State) :
    Except Fault State :=
  if ¬ bar2Aligned off hi then .error (.undefinedBehaviour 3)
  else match f off lo s with
    | .error e => .error e
    | .ok s => match hi with
      | none => .ok s
      | some h => f (off + 4) h s

/-- TSS_TABLE_WRITE (R148, R150). -/
def execTssTableWrite (off : BitVec 23) (lo : Word32) (hi : Option Word32) (s : State) : Res :=
  toRes (bothWords off.toNat lo hi tssWord s)

/-- Bits of a table word: an address table entry holds 24 bits, its reserved bits read 0 (R10, R146). -/
def apgTabMask (off : Nat) : Word32 := if (off - 0x600000) % 0x4000 < 0x2000 then 0x00FFFFFF else 0xFFFFFFFF

/-- One word of the APG tables: ignored with ASSIGN_BUSY while the sequencer is in progress (R135). -/
def apgTabWord (off : Nat) (v : Word32) (s : State) : Except Fault State :=
  match apgTabOwner off with
  | none => .error (.undefinedBehaviour 1)
  | some q =>
    if s.inProgress q ∧ ¬ s.tookUp q then .ok (s.recordErr (pgApg q) errAssignBusy)
    else .ok { s with apgTab := sput s.apgTab off (v &&& apgTabMask off) }

/-- APG_TABLE_WRITE (R135, R146). -/
def execApgTableWrite (off : BitVec 23) (lo : Word32) (hi : Option Word32) (s : State) : Res :=
  toRes (bothWords off.toNat lo hi apgTabWord s)

def State.setTss (s : State) (f : Tss → Tss) : State := { s with tss := f s.tss }

/-- The staged item of STG_TARGET and STG_DATA. -/
def stagedItem (s : State) : StgItem :=
  let t := s.reg pgTss 0x104
  { header := bit t 31, ts := fld t 16 8, index := fld t 0 9,
    data := BitVec.ofNat 256 (((List.range 8).map (fun w => s.regN pgTss (0x108 + 4 * w) * 2 ^ (32 * w))).sum) }

/-- PUSH (R166): the target is checked first, then the space. -/
def execPush (s : State) : Res :=
  .next (s.whenReady pgTss (fun s =>
    let i := stagedItem s
    if i.header ∧ i.index > 63 then s.setTss (fun t => { t with refused := sat32 (t.refused + 1), cmd := 2 })
    else if s.tss.free = 0 then s.setTss (fun t => { t with refused := sat32 (t.refused + 1), cmd := 1 })
    else s.setTss (fun t => { t with openItems := t.openItems ++ [i], cmd := 0 })))

/-- Sequencer an item goes to at a close (R167, R169): one that is in progress, or that entered its final state in this
cycle; none: unassigned. -/
def itemOwner (s : State) (i : StgItem) : Option Nat :=
  if i.header then
    (if s.inProgress i.index ∨ (s.seqAt i.index).finalEdge = s.now + 1 then some i.index else none)
  else (s.chanUser i.index) <|> (s.chanFinalNow i.index)

/-- The parts a batch closes into: one per sequencer, and its unassigned items. -/
def closeParts (s : State) (batch : Nat) (items : List StgItem) : List BatchPart :=
  let owners := (items.map (itemOwner s)).eraseDups
  owners.map (fun o => { batch := batch, seq := o, items := items.filter (fun i => itemOwner s i = o), edge := s.now })

/-- A close in the cycle of an accepted arm or of a final state: the part applies at once (R169). -/
def State.closeNow (s : State) (q : Nat) : State :=
  let v := s.seqAt q
  if v.acceptEdge = s.now + 1 then s.applyFor q (fun _ => true) false true 0 0xFFFFFFFF
  else if v.finalEdge = s.now + 1 ∧ ¬ v.inProgress then s.applyFor q (fun _ => true) true false v.vecCount 0xFFFFFFFF
  else s

/-- CLOSE (R167, R169). -/
def execCloseBatch (s : State) : Res :=
  .next (s.whenReady pgTss (fun s =>
    if s.tss.openItems = [] then s.setTss (fun t => { t with cmd := 3 })
    else
      let n := s.tss.nextBatch
      let parts := closeParts s n s.tss.openItems
      let s := s.setTss (fun t => { t with openItems := [], parts := t.parts ++ parts, lastBatch := n,
                                           nextBatch := if n = 65535 then 1 else n + 1, cmd := 0 })
      foldState (parts.filterMap (·.seq)) (fun q s => s.closeNow q) s))

/-- DISCARD (R170). -/
def execDiscard (s : State) : Res := .next (s.whenReady pgTss (fun s => s.setTss (fun t => { t with openItems := [], cmd := 0 })))

/-- APPLY_ID_READ (R171, R387): the head record, or 0. -/
def execApplyIdRead (_path : Path) (s : State) : Res :=
  match s.tss.log with
  | r :: l =>
    .next { s.setTss (fun t => { t with log := l, applyVec := r.vec, applySeg := r.seg }) with
            hostOut := r.id.zeroExtend 64 }
  | [] => .next { s with hostOut := 0 }

end Sys2Proof.Machine
end

