-- ==== Sys2Proof/Machine/Sch.lean ====
section
/-! DEFINITION. Commands of the task scheduler (R238 to R255): submission, release, dispatch, cancel, completion, records. -/
namespace Sys2Proof.Machine

/-! ### Submission (R239 to R242, R246) -/

/-- A task descriptor as its 64 bytes. -/
structure Desc where
  cfg : Nat
  dep : Nat
  block : Nat
  execMask : Nat
  release : Word64
  tag : Nat
  succs : List Nat
  /-- A reserved byte is not zero. -/
  dirty : Bool
  deriving DecidableEq, Repr

def field (b : List Byte) (o n : Nat) : Nat := leNat ((b.drop o).take n)

def Desc.ofBytes (b : List Byte) : Desc :=
  { cfg := field b 0 4, dep := field b 4 2, block := field b 8 8, execMask := field b 0x10 4,
    release := BitVec.ofNat 64 (field b 0x18 8), tag := field b 0x20 8,
    succs := (List.range 4).map (fun i => field b (0x28 + 4 * i) 4),
    dirty := field b 6 2 ≠ 0 ∨ field b 0x14 4 ≠ 0 ∨ field b 0x3C 4 ≠ 0 }

/-- Descriptor faults (R239). -/
def Desc.bad (d : Desc) : Bool :=
  let k := cfgKind d.cfg
  k = 3 ∨ ¬ cfgClean d.cfg ∨ d.dirty ∨
  (k = 1 ∧ (d.execMask = 0 ∨ d.execMask ≥ 2 ^ 24)) ∨ (k = 2 ∧ (d.execMask = 0 ∨ d.execMask ≥ 2 ^ 8)) ∨
  (k ≠ 0 ∧ d.block % 64 ≠ 0) ∨ (cfgEvent d.cfg ∧ (d.dep = 0 ∨ cfgEvStates d.cfg = 0))

/-- The successor identities that name a WAITING task; the others are counted (R239). -/
def State.goodSuccs (s : State) (l : List Nat) : List Nat :=
  l.filter (fun id => match s.named id with | some j => (s.taskAt j).state = .waiting | none => false)

/-- The first final state of the bound sequencer entered since the commit. -/
def firstFinal (d : Desc) (finals : List Final) : Option Final :=
  if cfgEvent d.cfg then finals.find? (fun x => x.seq = cfgEvSeq d.cfg) else none

/-- Take the entry `i` for a descriptor; answers its identity. -/
def takeEntry (i : Nat) (d : Desc) (edge : Nat) (finals : List Final) (posted : Bool) (s : State) : Nat × State :=
  let old := s.taskAt i
  let good := s.goodSuccs d.succs
  let badN := (d.succs.filter (fun id => id ≠ 0)).length - good.length
  let t : Task := { state := .waiting, gen := if old.gen ≥ 65535 then 1 else old.gen + 1, cfg := d.cfg, dep := d.dep,
                    subEdge := edge, block := d.block, execMask := d.execMask, release := d.release, tag := d.tag,
                    succs := good.eraseDups, posted := posted }
  let s := s.setTask i t
  let s := { s with sch := { s.sch with badSucc := sat32 (s.sch.badSucc + badN), submitted := s.sch.submitted + 1 } }
  let id := taskId i t
  if d.bad then (id, s.completeTask i .badDesc)
  else if d.dep = 0 then (id, s.advanceTask i)
  else match firstFinal d finals with
    | some x => (id, s.eventAt i x)
    | none => (id, s)

/-- Soft reset of the SCH page in progress (R253). -/
def State.schResetting (s : State) : Bool := (s.hdrAt pgSch).busy

/-- SUBMIT (R240, R389): a write of SUBPp_ADDR_LO commits. -/
def execSubmit (p : Fin 8) (lo : Word32) (hi : Option Word32) (s : State) : Res :=
  let off := 0x200 + 0x10 * p.val
  if s.schResetting then .next (s.setPort p { s.portAt p with code := 3 })
  else .next (s.whenReady pgSch (fun s =>
    if (s.portAt p).pending then s.recordErr pgSch 0x0043
    else
      let s := match hi with | some h => s.setReg pgSch (off + 4) h | none => s
      let s := s.setReg pgSch off lo
      s.setPort p { s.portAt p with pending := true, addr := s.reg64 pgSch off, edge := s.now, finals := [] }))

/-- RESERVE (R241). -/
def State.reserve (s : State) : Nat := min 4096 (fld (s.reg pgSch 0x100) 0 15)

def State.refuseFull (s : State) : State := { s with sch := { s.sch with tableFull := sat32 (s.sch.tableFull + 1) } }

/-- DESCRIPTOR_READ_DONE (R240, R241). -/
def execDescriptorReadDone (p : Fin 8) (res : HbmStatus) (s : State) : Res :=
  let v := s.portAt p
  if ¬ v.pending then .next s
  else
    let done := fun code id (s : State) => s.setPort p { v with pending := false, code := code, id := id, finals := [] }
    if worstOf res (s.readStatus v.addr 64) ≠ .ok then .next (done 2 v.id s)
    else if s.schResetting then .next (done 3 v.id s)
    else if s.freeEntries ≤ s.reserve then .next (done 1 v.id s.refuseFull)
    else match s.freeIndex with
      | none => .next (done 1 v.id s.refuseFull)
      | some i =>
        let r := takeEntry i (Desc.ofBytes (s.hbmRead v.addr 64)) v.edge v.finals false s
        .next (done 0 r.1 r.2)

/-! ### Release -/

/-- Insertion into a list sorted by a key. -/
def insertBy {α : Type} (lt : α → α → Bool) (a : α) : List α → List α
  | [] => [a]
  | b :: t => if lt b a then b :: insertBy lt a t else a :: b :: t
def sortBy {α : Type} (lt : α → α → Bool) (l : List α) : List α := l.foldr (insertBy lt) []

/-- Order on the delay list: release time, entry order, INDEX (R247). -/
def delayBefore (s : State) (i j : Nat) : Bool :=
  let a := s.taskAt i
  let b := s.taskAt j
  a.release < b.release ∨ (a.release = b.release ∧ (a.entered < b.entered ∨ (a.entered = b.entered ∧ i < j)))

/-- Whole microseconds of a domain. -/
def State.micros (s : State) (d : Nat) : Nat := s.time d / (400 * 2 ^ 40)

/-- DELAY_RELEASE (R247): the domain has passed a whole microsecond. -/
def execDelayRelease (td : Fin 4) (s : State) : Res :=
  let u := s.micros td
  if u ≤ s.sch.ticks.getD td 0 then .next s
  else
    let s := { s with sch := { s.sch with ticks := s.sch.ticks.set td u } }
    let instant := shortTs (u * 400 * 2 ^ 40)
    let due := (s.sch.tasks.filter (fun e =>
      e.2.state = .delayed ∧ cfgTd e.2.cfg = td.val ∧ tsPassed instant e.2.release)).map Prod.fst
    .next (foldState (sortBy (delayBefore s) due) (fun i s => s.advanceTask i) s)

/-- HELD_RELEASE (R209, R243): every context of the bound burst reads DRAINED. -/
def execHeldRelease (t : Fin 16384) (s : State) : Res :=
  let v := s.taskAt t
  .next (if v.state = .held ∧ ¬ s.ctxWaits v then s.advanceTask t else s)

/-! ### Dispatch (R248) -/

/-- An executor takes tasks: not offline, retired or reloading. -/
def State.eligible (s : State) (x : Nat) : Bool :=
  let v := s.execAt x
  ¬ v.offline ∧ ¬ v.retired ∧ (x ≥ 0x20 ∨ ((s.weAt x).csValid ∧ ¬ (s.weAt x).reloading))

/-- The slot a task goes to: executor and whether it is the running slot. A running slot that a prefetched task enters in
the next cycle (R249) is not free. -/
def State.slotFor (s : State) (t : Task) : Option (Nat × Bool) :=
  let l := (execCodes t).filter (fun x => s.eligible x)
  match l.find? (fun x => (s.execAt x).running.isNone ∧ (s.execAt x).prefetch.isNone) with
  | some x => some (x, true)
  | none => (l.find? (fun x => (s.execAt x).running.isSome ∧ (s.execAt x).prefetch.isNone)).map (fun x => (x, false))

/-- Order of ready tasks (R248): priority; within a level the returned ones, the last to return first, then by cycle of entry
and INDEX. -/
def readyBefore (s : State) (i j : Nat) : Bool :=
  let a := s.taskAt i
  let b := s.taskAt j
  let ka := cfgPrio a.cfg
  let kb := cfgPrio b.cfg
  ka < kb ∨ (ka = kb ∧ (b.head < a.head ∨ (a.head = b.head ∧
    (a.entered < b.entered ∨ (a.entered = b.entered ∧ i < j)))))

/-- A task enters the running slot of an executor: the engine begins to read its block. A copy engine accepts the copy there
and then, with the block as it stands and the engines that are offline (R235). -/
def State.startRunning (s : State) (x i edge : Nat) : State :=
  let t := s.taskAt i
  let s := s.setTask i { t with state := .running, executor := x }
  let s := s.setExec x { s.execAt x with running := some i, startAt := edge, abort := none, ended := none }
  if x < 0x20 then
    s.modWe x (fun w => { w with started := false, boundary := edge, ending := none, limitHit := false, transfers := [] })
  else s.setCe (x - 0x20) { s.ceAt (x - 0x20) with
    busy := true, taskId := taskId i t, bytes := 0, startAt := edge, block := s.hbmRead t.block 64,
    blockStatus := s.readStatus t.block 64, offMask := (List.range 24).foldl (fun m e => if s.weIdleOff e then setBit m e else m) 0 }

/-- Ready tasks in dispatch order. -/
def State.readyList (s : State) : List Nat :=
  sortBy (readyBefore s) ((s.sch.tasks.filter (fun e => e.2.state = .ready)).map Prod.fst)

/-- A dispatch is made in this PFCLK cycle, which is two fabric cycles long. -/
def State.noteDispatch (s : State) : State :=
  { s with sch := { s.sch with dispEdge := s.now, dispCount := if s.sch.dispEdge = s.now then s.sch.dispCount + 1 else 1 } }

/-- DISPATCH (R248): one task to one slot, once per fabric cycle. -/
def execDispatch (s : State) : Res :=
  if s.schResetting ∨ (s.sch.dispEdge = s.now ∧ s.sch.dispCount ≥ 2) then .next s
  else match s.readyList.find? (fun i => (s.slotFor (s.taskAt i)).isSome) with
  | none => .next s
  | some i =>
    match s.slotFor (s.taskAt i) with
    | some (x, true) => .next (s.noteDispatch.startRunning x i s.now)
    | some (x, false) =>
      .next ((s.noteDispatch.setTask i { s.taskAt i with state := .prefetched, executor := x }).setExec x
        { s.execAt x with prefetch := some i })
    | none => .next s

/-- A task goes back to the head of its priority level (R233, R248). In a soft reset of the scheduler it ends with RESET as
the other early ones do (R253), and one whose executors are all retired with NO_EXECUTOR (R249). -/
def State.returnTask (s : State) (i : Nat) (again : Bool) : State :=
  let t := s.taskAt i
  let n := s.sch.returns + 1
  let s := { s with sch := { s.sch with returns := n } }
  let s := s.setTask i { t with state := .ready, entered := s.now + 1, head := n, executor := 0xFF,
                                redispatched := t.redispatched || again }
  if s.schResetting then s.recordEnd i .reset else s

/-- The prefetched task of an executor goes back to its level. -/
def State.returnPrefetch (s : State) (x : Nat) : State :=
  match (s.execAt x).prefetch with
  | some i => (s.setExec x { s.execAt x with prefetch := none }).returnTask i false
  | none => s

/-- READY tasks whose executors are all retired complete (R249). -/
def State.dropNoExecutor (s : State) : State :=
  foldState s.readyList (fun i s =>
    if (s.taskAt i).state = .ready ∧ (execCodes (s.taskAt i)).all (fun x => (s.execAt x).retired) then
      s.completeTask i .noExecutor else s) s

/-- The running slot empties. -/
def State.clearRunning (s : State) (x : Nat) : State :=
  let s := s.setExec x { s.execAt x with running := none, abort := none, ended := none }
  if x < 0x20 then s.modWe x (fun w => { w with started := false, ending := none, limitHit := false })
  else s.setCe (x - 0x20) { s.ceAt (x - 0x20) with busy := false, retries := [] }

/-- A prefetched task starts in the running slot in the cycle after the one in which that slot became free (R249). -/
def State.promote (s : State) (x : Nat) : State :=
  let v := s.execAt x
  match v.running, v.prefetch with
  | none, some j => (s.setExec x { v with prefetch := none }).startRunning x j s.now
  | _, _ => s

/-- The abort of a cancelled task has an outcome (R250). -/
def State.cancelOutcome (s : State) (id : Nat) (aborted : Bool) : State :=
  if s.sch.cancelPending = some id then
    { s with sch := { s.sch with cancelPending := none, cancelCode := if aborted then 2 else 3 } }
  else s

/-- Completion point of the running task `i` of an executor (R244, R231, R236, R250). -/
def State.runEnds (s : State) (x i : Nat) (st : TaskStatus) (prog result : Nat) : State :=
  let t := s.taskAt i
  let late : Bool := (s.execAt x).abort.isSome ∧ st ≠ .aborted
  let s := s.setTask i { t with prog := prog, result := result, abortLate := t.abortLate || late }
  let s := if (s.execAt x).abort.isSome then s.cancelOutcome (taskId i t) (decide (st = .aborted)) else s
  let s := { s with sch := { s.sch with ends := s.sch.ends ++ [(s.now, taskId i t)] } }
  (s.clearRunning x).completeTask i st

/-- An executor reports the end its running task has reached; a report of a task that a reset took from it is stale (R252). -/
def State.execEnds (s : State) (x : Nat) (st : TaskStatus) (prog result : Nat) : State :=
  match (s.execAt x).running with
  | none => { s with sch := { s.sch with stale := sat32 (s.sch.stale + 1) } }
  | some i => s.runEnds x i st prog result

/-- What a reset of an executor does to its running task (R232, R234, R236, R252): it completes with RESET, or goes back to
the head of its level, where an abort on its way reaches it no more (assumption 100). A report on its way becomes stale. -/
def State.runReset (s : State) (x : Nat) (again : Bool) : State :=
  let v := s.execAt x
  match v.running with
  | none => s
  | some i =>
    let s := if v.ended.isSome then s.setExec x { v with lost := v.lost + 1 } else s
    if again then
      let s := if v.abort.isSome then s.cancelOutcome (taskId i (s.taskAt i)) false else s
      (s.clearRunning x).returnTask i true
    else s.runEnds x i .reset 0 0

/-- A soft reset of an executor ends its prefetched task with RESET too (R234). -/
def State.prefetchReset (s : State) (x : Nat) : State :=
  match (s.execAt x).prefetch with
  | some j => (s.setExec x { s.execAt x with prefetch := none }).completeTask j .reset
  | none => s

/-- Executor code of a name. -/
def execCode : ExecId → Nat
  | .we e => e
  | .ce c => 0x20 + c

/-- TASK_COMPLETE (R244, R249, R252): the end the executor has reached takes effect. -/
def execTaskComplete (x : ExecId) (s : State) : Res :=
  let c := execCode x
  let v := s.execAt c
  if v.lost ≠ 0 then
    let s := s.setExec c { v with lost := v.lost - 1 }
    .next { s with sch := { s.sch with stale := sat32 (s.sch.stale + 1) } }
  else match v.ended with
  | some (st, prog, result) => .next (s.execEnds c st prog result)
  | none => .next s

/-! ### Cancel (R250, R251) -/

def State.setCancel (s : State) (code : Nat) : State := { s with sch := { s.sch with cancelCode := code, cancelPending := none } }

/-- A cancelled task leaves its slot: the prefetch slot, or the running slot it entered in this very cycle. -/
def State.dropSlot (s : State) (i : Nat) : State :=
  let x := (s.taskAt i).executor
  let s := if (s.execAt x).prefetch = some i then s.setExec x { s.execAt x with prefetch := none } else s
  if (s.execAt x).running = some i then s.clearRunning x else s

/-- TASK_CANCEL: a write of CANCEL.GO. The state a task had before it moved toward running in this cycle decides, and a
completion point in this cycle wins (R251). -/
def cancelTask (s : State) : State :=
  let id := s.regN pgSch 0x108
  if s.sch.ends.contains (s.now, id) then
    let s := match s.named id with
      | some i => s.setTask i { s.taskAt i with abortLate := true }
      | none => s
    s.setCancel 3
  else
  match s.named id with
  | none => s.setCancel 4
  | some i =>
    let t := s.taskAt i
    match t.state with
    | .free | .completing => s.setCancel 4
    | .running =>
      let x := s.execAt t.executor
      if x.startAt = s.now then ((s.dropSlot i).completeTask i .cancelled).setCancel 0
      else if x.ended.isSome then (s.setTask i { t with abortLate := true }).setCancel 3
      else
        let s := s.setExec t.executor { x with abort := if x.abort.isSome then x.abort else some s.now }
        { s with sch := { s.sch with cancelCode := 1, cancelPending := some id } }
    | _ => ((s.dropSlot i).completeTask i .cancelled).setCancel 0
def execTaskCancel (s : State) : Res := .next (s.whenReady pgSch cancelTask)

/-! ### Completion records (R254, R255, R392) -/

/-- The 32 bytes of a record. -/
def recordBytesOf (i : Nat) (t : Task) : List Byte :=
  leBytes 4 (taskId i t) ++ leBytes 1 t.status.code ++ leBytes 1 t.prog ++ leBytes 1 t.executor ++
  leBytes 1 (b2n t.abortLate + 2 * b2n t.redispatched + 4 * b2n t.posted) ++ leBytes 8 t.result ++ leBytes 8 t.tag ++
  leBytes 8 t.ts.toNat

def ringOff (r : Nat) : Nat := 0x300 + 0x20 * r
def State.ringOpen (s : State) (r : Nat) : Bool :=
  (s.reg pgSch (ringOff r + 0xC)).getLsbD 31 ∧
    (s.sch.tails.getD r 0 + 1 + 2 ^ 32 - s.regN pgSch (ringOff r + 0x10)) % 2 ^ 32 ≤ s.regN pgSch (ringOff r + 8)

/-- EVT_RAW.RINGr rises: its own vector is signalled when it is not masked (R392). -/
def State.raiseRing (s : State) (r : Nat) : State :=
  let h := s.hdrAt pgSch
  let was := h.evtRaw.getLsbD r
  let s := s.setHdr pgSch { h with evtRaw := setBit h.evtRaw r, evtEdge := s.now + 1,
                                   evtNow := setBit (if h.evtEdge = s.now + 1 then h.evtNow else 0) r }
  if ¬ was ∧ ¬ h.evtMask.getLsbD r then s.signal (fld (s.reg pgSch (ringOff r + 0xC)) 0 11) else s

/-- COMPLETION_RECORD_WRITE: the record, then the tail, then the event; the entry is free again. -/
def execCompletionRecordWrite (t : Fin 16384) (s : State) : Res :=
  let v := s.taskAt t
  let r := cfgRing v.cfg
  if v.state = .completing ∧ s.ringOpen r then
    let tail := s.sch.tails.getD r 0
    let a := s.reg64 pgSch (ringOff r) + 32 * (tail % s.regN pgSch (ringOff r + 8))
    let s := s.send (.host a (recordBytesOf t v))
    let s := { s with sch := { s.sch with tails := s.sch.tails.set r ((tail + 1) % 2 ^ 32) } }
    .next ((s.raiseRing r).setTask t { v with state := .free })
  else .next s

/-- Soft reset of the SCH page (R253): what takes effect when it commits. -/
def schReset (s : State) : State :=
  let s := foldState (s.sch.execs.map Prod.fst) (fun x s =>
    match (s.execAt x).running with
    | some _ => s.setExec x { s.execAt x with abort := if (s.execAt x).abort.isSome then (s.execAt x).abort else some s.now }
    | none => s) s
  let early := (s.sch.tasks.filter (fun e =>
    e.2.state ≠ .free ∧ e.2.state ≠ .completing ∧ e.2.state ≠ .running)).map Prod.fst
  foldState early (fun i s => (s.dropSlot i).recordEnd i .reset) s

/-- The soft reset of the SCH page is over: every task has its record. -/
def State.schIdle (s : State) : Bool := s.sch.tasks.all (fun e => e.2.state = .free)

end Sys2Proof.Machine
end

