-- ==== Sys2Proof/Machine/WeOps.lean ====
section
/-! DEFINITION. Worker engines, what their instructions and their microcode share (R220 to R226, R229 to R231): registers,
local memory, the instruction word, transfers, posts and instruction boundaries. -/
namespace Sys2Proof.Machine

/-! ### Registers and local memory -/

/-- G0 reads 0 and discards writes (R224). -/
def We.reg (w : We) (r : Nat) : Word64 := if r = 0 then 0 else sget 0 w.regs r
def We.setReg (w : We) (r : Nat) (v : Word64) : We := if r = 0 then w else { w with regs := sput w.regs r v }

/-- Local memory, its program region and the work block copy (R220). -/
def lmBytes : Nat := 0x80000
def lmProgram : Nat := 0x10000
def lmBlock : Nat := 0x10000

/-- Fault kinds (table of FAULT_INFO). -/
inductive WeFault where
  | illegalOp | operand | badCond | progRange | lmRange | lmAlign | tagBusy | microLong | microOp
  deriving DecidableEq, Repr
def WeFault.code : WeFault → Nat
  | .illegalOp => 1 | .operand => 2 | .badCond => 3 | .progRange => 4 | .lmRange => 5 | .lmAlign => 6 | .tagBusy => 7
  | .microLong => 8 | .microOp => 9

/-- Fault of a local access of `n` bytes at `a` with alignment `al`; a store may not touch the program region. Of an access
both out of range and misaligned the range fault stands (assumption 101). -/
def lmCheck (a n al : Nat) (store : Bool) : Option WeFault :=
  if a + n > lmBytes ∨ (store ∧ a < lmProgram) then some .lmRange
  else if a % al ≠ 0 then some .lmAlign
  else none

def We.load (w : We) (a n : Nat) : Word64 := BitVec.ofNat 64 (mreadLe w.lm a n)
def We.store (w : We) (a n : Nat) (v : Word64) : We := { w with lm := mwrite w.lm a (leBytes n v.toNat) }

/-! ### The instruction word -/

/-- Fields of a worker instruction. -/
structure WInstr where
  op : Nat
  rd : Nat
  ra : Nat
  rb : Nat
  cond : Nat
  useImm : Bool
  /-- Reserved bits [35:32]. -/
  res : Nat
  imm : Word32
  deriving DecidableEq, Repr

def WInstr.ofWord (w : Word64) : WInstr :=
  { op := fld w 56 8, rd := fld w 51 5, ra := fld w 46 5, rb := fld w 41 5, cond := fld w 37 4, useImm := bit w 36,
    res := fld w 32 4, imm := w.extractLsb' 0 32 }

/-- IMM sign-extended, its jump target and operand B. -/
def WInstr.immX (i : WInstr) : Word64 := i.imm.signExtend 64
def WInstr.target (i : WInstr) : Nat := fld i.imm 0 13
def We.opB (w : We) (i : WInstr) : Word64 := if i.useImm then i.immX else w.reg i.rb

/-- Opcodes the table of R225 lists. -/
def weOpcodes : List Nat :=
  [0x01, 0x02, 0x03, 0x04, 0x05, 0x06, 0x07, 0x08, 0x09, 0x0A, 0x0B, 0x0C, 0x0D, 0x0E, 0x0F, 0x10, 0x11, 0x20, 0x21, 0x22,
   0x23, 0x30, 0x31, 0x32, 0x33, 0x40, 0x41, 0x42, 0x50, 0x51, 0x52, 0x60, 0x61, 0x62]

/-- The instruction at the engine's index. -/
def We.fetch (w : We) : WInstr := WInstr.ofWord (w.load (8 * w.idx) 8)

/-- Outcome of one instruction: continue at an index, attempt again (R226), fault, or end the task. -/
inductive WeOut where
  | go (idx : Nat) (s : State)
  | again (s : State)
  | fault (k : WeFault) (s : State)
  | finish (e : WeEnd) (s : State)

/-- Number of 1 bits, trailing zeros (64 of a zero), and the shift amount B[5:0] (R225). -/
def popCount (a : Word64) : Word64 := BitVec.ofNat 64 (setBits a).length
def trailing (a : Word64) : Word64 := BitVec.ofNat 64 ((setBits a).headD 64)
def shAmt (b : Word64) : Nat := fld b 0 6


/-! ### Transfers and posts (R221 to R223) -/

/-- Submit a transfer (R221): a fault, or whether the controller refused it. Of several faults OPERAND stands before
LM_RANGE and LM_RANGE before TAG_BUSY (assumption 101). -/
def submitCore (e : Nat) (write : Bool) (lm hbm len tag : Nat) (s : State) : Except WeFault (Bool × State) :=
  let w := s.weAt e
  if len < 64 ∨ len > 65536 ∨ len % 64 ≠ 0 ∨ lm % 64 ≠ 0 ∨ hbm % 64 ≠ 0 then .error .operand
  else if lm + len > lmBytes ∨ (¬ write ∧ lm < lmProgram) then .error .lmRange
  else if w.transfers.any (fun t => t.tag = tag) then .error .tagBusy
  else if s.portFull 5 then
    .ok (true, (s.setWe e { w with hbmRefused := sat32 (w.hbmRefused + 1) }).portRefuses 5)
  else .ok (false, s.setWe e { w with
    transfers := w.transfers ++ [{ tag := tag, write := write, lm := lm, hbm := hbm, len := len }] })

def State.setQ (s : State) (e : Nat) (q : Bool) : State := s.modWe e (fun w => { w with flags := { w.flags with q := q } })

/-- HRD and HWR: Q tells whether the transfer was refused. -/
def submitTransfer (e : Nat) (write : Bool) (lm hbm len tag : Nat) (w : We) (s : State) : WeOut :=
  match submitCore e write lm hbm len tag s with
  | .error k => .fault k s
  | .ok (q, s) => .go (w.idx + 1) (s.setQ e q)

/-- Post the descriptor at local address `a` (R223, R241, R242): refused where no entry is free, and in a soft reset of the
scheduler, whose BUSY the POST has no code for (assumption 103). -/
def postCore (e a : Nat) (s : State) : Except WeFault (Bool × State) :=
  match lmCheck a 64 1 true with
  | some k => .error k
  | none =>
    if s.schResetting then .ok (true, s)
    else match s.freeIndex with
    | none => .ok (true, s.refuseFull)
    | some i =>
      let r := takeEntry i (Desc.ofBytes (mread (s.weAt e).lm a 64)) s.now [] true s
      .ok (false, r.2.modWe e (fun w => w.store (a + 0x38) 4 (BitVec.ofNat 64 r.1)))

def postTask (e a : Nat) (w : We) (s : State) : WeOut :=
  match postCore e a s with
  | .error k => .fault k s
  | .ok (q, s) => .go (w.idx + 1) (s.setQ e q)

/-! ### Boundaries (R229 to R231) -/

/-- A task ends once its outstanding transfers are complete (R230). -/
def State.weFinish (s : State) (e : Nat) : State :=
  let w := s.weAt e
  match w.ending with
  | some x =>
    if w.transfers = [] then
      let r := match x with
        | .done p v => (TaskStatus.complete, p.toNat, v.toNat)
        | .aborted => (TaskStatus.aborted, 0, 0)
        | .timeout => (TaskStatus.timeout, 0, 0)
        | .fault => (TaskStatus.workerFault, 0, 0)
      s.setExec e { s.execAt e with ended := some r }
    else s
  | none => s

def State.weEnd (s : State) (e : Nat) (x : WeEnd) : State := (s.modWe e (fun w => { w with ending := some x })).weFinish e

/-- An abort that committed before this cycle. -/
def State.abortDue (s : State) (e : Nat) : Bool := match (s.execAt e).abort with | some c => c < s.now | none => false

/-- The instruction boundary: a fault ends the task, then an abort, then the time limit. A DONE that completes stands against
a time limit expired at the same boundary (assumption 102). -/
def State.weBoundary (s : State) (e : Nat) (o : WeOut) : State :=
  let close := fun (s : State) (idx : Nat) =>
    s.modWe e (fun w => { w with idx := idx, pc := idx, instrCount := w.instrCount + 1, boundary := s.now })
  let check := fun (s : State) =>
    if s.abortDue e then s.weEnd e .aborted else if (s.weAt e).limitHit then s.weEnd e .timeout else s
  let idx := (s.weAt e).idx
  match o with
  | .go n s => check (close s n)
  | .again s => check (close s idx)
  | .fault k s =>
    (close (s.modWe e (fun w => { w with faultInfo := BitVec.ofNat 32 (2 ^ 24 * k.code + idx % 8192) })) idx).weEnd e .fault
  | .finish x s => (close s idx).weEnd e (if s.abortDue e then .aborted else x)

/-- The engine is between instructions of a running task. -/
def State.weRuns (s : State) (e : Nat) : Bool :=
  let w := s.weAt e
  w.started ∧ w.ending.isNone ∧ ¬ w.reloading ∧ (s.execAt e).running.isSome

end Sys2Proof.Machine
end

