-- ==== Sys2Proof/Machine/Micro.lean ====
section
/-! DEFINITION. The microcode engine of a worker engine (R228, R229): the control store, its microwords and their
micro-operations. It runs the instructions whose routines CS_DATA may have changed; with the bundle's own routine an
instruction does what the table of R225 says. -/
namespace Sys2Proof.Machine

/-! ### The control store -/

/-- Fields of a microword. -/
structure MWord where
  mop : Nat
  d : Nat
  a : Nat
  b : Nat
  uc : Nat
  lit : Nat
  deriving DecidableEq, Repr

def MWord.ofBits (w : BitVec 40) : MWord :=
  { mop := fld w 35 5, d := fld w 29 6, a := fld w 23 6, b := fld w 17 6, uc := fld w 14 3, lit := fld w 0 14 }

/-- The bundle's words that the spec gives: dispatch map words of illegal opcodes, and the BITX routine at 0x0400. The others
are not in the spec. -/
def vendorWord (a : Nat) : BitVec 40 :=
  if a < 256 ∧ ¬ weOpcodes.contains a then 0
  else if a = 0x0F then 0x0400
  else ([0x64186C0000, 0x5E506C0000, 0x1430660001, 0x1E10420000, 0x86D06C0000, 0xFEDB6C0000] : List (BitVec 40)).getD
    (if a < 0x400 then 6 else a - 0x400) (Config.vendorMicroword a)

/-- The microword at a control store address: the last one written, else the bundle's. -/
def We.csWord (w : We) (a : Nat) : BitVec 40 := ((w.cs.find? (fun e => e.1 = a)).map Prod.snd).getD (vendorWord a)

/-- Address of an opcode's first microword, where it has a dispatch entry. -/
def We.entry (w : We) (op : Nat) : Option Nat :=
  if w.cs.any (fun e => e.1 = op) then
    if fld (w.csWord op) 0 14 = 0 then none else some (fld (w.csWord op) 0 14)
  else if weOpcodes.contains op then some (fld (vendorWord op) 0 14) else none

/-- Nothing that may belong to an opcode's routine has been written: no word outside the dispatch map and not its map word. -/
def We.ownRoutine (w : We) (op : Nat) : Bool := weOpcodes.contains op && w.cs.all (fun e => e.1 < 256 && e.1 != op)

/-! ### Selectors -/

/-- One instruction's run: scratch registers, address of the next microword, the index SYS has set, an attempt that must be
made again, and the end of the task. -/
structure MRun where
  t : Sparse Word64
  upc : Nat
  setIdx : Option Nat := none
  again : Bool := false
  fin : Option WeEnd := none

/-- The register a selector names: G0 to G31 as 0 to 31, T0 to T15 as 32 to 47. -/
def selReg (i : WInstr) (sel : Nat) : Option Nat :=
  if sel < 0x30 then some sel
  else if sel = 0x30 then some i.ra else if sel = 0x31 then some i.rb else if sel = 0x32 then some i.rd else none

/-- A source operand. A product that is not readable yet reads as a free value (assumption 104). -/
def selRead (e : Nat) (i : WInstr) (m : MRun) (lit sel : Nat) (s : State) : Word64 × State :=
  let w := s.weAt e
  match selReg i sel with
  | some r =>
    if w.micro.late.any (fun x => x.1 = r) then s.fresh 64
    else (if r < 32 then w.reg r else sget 0 m.t r, s)
  | none =>
    (if sel = 0x33 then BitVec.ofNat 64 lit else if sel = 0x34 then i.immX else if sel = 0x35 then w.micro.lmData
     else if sel = 0x37 then w.opB i else 0, s)

/-- A destination: registers; any other selector takes nothing (assumption 104). The register is readable at once. -/
def selWrite (e : Nat) (i : WInstr) (sel : Nat) (v : Word64) (m : MRun) (s : State) : MRun × State :=
  match selReg i sel with
  | some r =>
    let s := s.modWe e (fun w => { w with micro := { w.micro with late := w.micro.late.filter (fun x => x.1 ≠ r) } })
    if r < 32 then (m, s.modWe e (fun w => w.setReg r v)) else ({ m with t := sput m.t r v }, s)
  | none => (m, s)

/-! ### Micro-operations -/

/-- Outcome of one microword. -/
inductive MOut where
  | cont (m : MRun) (s : State)
  | stop (o : WeOut)

/-- Results of the ALU micro-operations; none for the others. -/
def microAlu (mop : Nat) (a b : Word64) : Option Word64 :=
  match mop with
  | 0x01 => some (a + b) | 0x02 => some (a - b) | 0x03 => some (a &&& b) | 0x04 => some (a ||| b) | 0x05 => some (a ^^^ b)
  | 0x06 => some (a <<< shAmt b) | 0x07 => some (a >>> shAmt b) | 0x08 => some (a.sshiftRight (shAmt b))
  | 0x09 => some (a * b) | 0x0A => some (popCount a) | 0x0B => some (trailing a)
  | _ => none

/-- Bytes of an LMRD or LMWR. -/
def lmSize (lit : Nat) : Option Nat := match lit % 4 with | 0 => some 8 | 1 => some 2 | 2 => some 4 | _ => none

/-- Reserved selectors and micro-operations, and codes no line of the tables gives: size 3, micro-condition 7. -/
def MWord.bad (w : MWord) : Bool :=
  w.d ≥ 0x38 ∨ w.a ≥ 0x38 ∨ w.b ≥ 0x38 ∨ (0x13 ≤ w.mop ∧ w.mop ≠ 0x1F) ∨
  ((w.mop = 0x0D ∨ w.mop = 0x0E) ∧ w.lit % 4 = 3) ∨ (w.mop = 0x0F ∧ w.uc = 7)

/-- JMPU's condition; none where the instruction's COND is reserved. -/
def microCond (w : We) (i : WInstr) (uc : Nat) (a : Word64) : Option Bool :=
  match uc with
  | 0 => some true | 1 => some (a = 0) | 2 => some (a ≠ 0) | 3 => some w.micro.uz | 4 => some (!w.micro.uz)
  | 5 => w.flags.holds i.cond
  | _ => some w.micro.refused

/-- SYS. The spec names five services and gives neither their LIT codes nor their operands: the codes are open
(Config.sysFunction), the operands the model's (assumption 104). -/
def microSys (e : Nat) (i : WInstr) (mw : MWord) (a b : Word64) (m : MRun) (s : State) : MOut :=
  match Config.sysFunction mw.lit with
  | none => .stop (.fault .microOp s)
  | some 0 => .cont { m with setIdx := some (fld a 0 13) } s
  | some 1 => match postCore e a.toNat s with
    | .error k => .stop (.fault k s)
    | .ok (q, s) => .cont m (s.setQ e q)
  | some 2 => let r := selWrite e i mw.d (s.stamp (fld a 0 2)) m s; .cont r.1 r.2
  | some 3 => if (s.weAt e).transfers ≠ [] then .cont { m with again := true } s
    else .cont { m with fin := some (.done (b.extractLsb' 0 8) a) } s
  | some _ => .cont m (s.setQ e (s.weAt e).micro.refused)

/-- A microword has passed: products come one microword nearer. -/
def lateAge (l : List (Nat × Nat)) : List (Nat × Nat) := (l.map (fun x => (x.1, x.2 - 1))).filter (fun x => x.2 ≠ 0)

/-- One microword other than NEXT, its operands read. -/
def microOp (e : Nat) (i : WInstr) (mw : MWord) (a b : Word64) (m : MRun) (s : State) : MOut :=
  let w := s.weAt e
  match microAlu mw.mop a b with
  | some v =>
    let s := s.modWe e (fun w => { w with micro := { w.micro with uz := v = 0 } })
    let r := selWrite e i mw.d v m s
    match selReg i mw.d with
    | some d => if mw.mop = 0x09 ∧ d ≠ 0 then
        .cont r.1 (r.2.modWe e (fun w => { w with micro := { w.micro with late := w.micro.late ++ [(d, 2)] } }))
      else .cont r.1 r.2
    | none => .cont r.1 r.2
  | none =>
    match mw.mop with
    | 0x0C => let r := selWrite e i mw.d a m s; .cont r.1 r.2
    | 0x0D =>
      let n := (lmSize mw.lit).getD 8
      match lmCheck (a + b).toNat n n false with
      | some k => .stop (.fault k s)
      | none => .cont m (s.setWe e { w with micro := { w.micro with lmData := w.load (a + b).toNat n } })
    | 0x0E =>
      let n := (lmSize mw.lit).getD 8
      match lmCheck a.toNat n n true with
      | some k => .stop (.fault k s)
      | none => .cont m (s.setWe e (w.store a.toNat n b))
    | 0x0F => match microCond w i mw.uc a with
      | none => .stop (.fault .badCond s)
      | some t => .cont (if t then { m with upc := mw.lit } else m) s
    | 0x10 => .cont m (s.setWe e { w with flags := { w.flags with z := a = 0, n := a.getLsbD 63, c := b.getLsbD 0 } })
    | 0x11 => match submitCore e (mw.lit.testBit 4) a.toNat b.toNat (sget 0 m.t 46).toNat (mw.lit % 16) s with
      | .error k => .stop (.fault k s)
      | .ok (q, s) => .cont m (s.modWe e (fun w => { w with micro := { w.micro with refused := q } }))
    | 0x12 => microSys e i mw a b m s
    | _ => .cont m s

/-- How an instruction ends at NEXT: without an index from SYS it continues at index + 1 (R228). -/
def MRun.next (m : MRun) (idx : Nat) (s : State) : WeOut :=
  if m.again then .again s
  else match m.fin with
    | some x => .finish x s
    | none => .go (m.setIdx.getD (idx + 1)) s

/-- One microword. -/
def microStep (e : Nat) (i : WInstr) (m : MRun) (s : State) : MOut :=
  let w := s.weAt e
  let mw := MWord.ofBits (w.csWord m.upc)
  if mw.bad then .stop (.fault .microOp s)
  else
    let a := selRead e i m mw.lit mw.a s
    let b := selRead e i m mw.lit mw.b a.2
    let s := b.2.modWe e (fun w => { w with micro := { w.micro with late := lateAge w.micro.late } })
    if mw.mop = 0x1F then .stop (m.next w.idx s)
    else microOp e i mw a.1 b.1 { m with upc := (m.upc + 1) % 0x4000 } s

/-- Up to `n` microwords; the one after them faults with MICRO_LONG and ends the instruction (R228). -/
def microLoop (e : Nat) (i : WInstr) : Nat → MRun → State → WeOut
  | 0, _, s => .fault .microLong s
  | n + 1, m, s =>
    match microStep e i m s with
    | .stop o => o
    | .cont m s => microLoop e i n m s

/-- Run an instruction's routine from its first microword. The scratch registers hold free values at its start. -/
def microRun (e : Nat) (i : WInstr) (entry : Nat) (s : State) : WeOut :=
  microLoop e i 64 { t := (List.range 16).map (fun k => (32 + k, Config.freeBits 64 (s.freeCtr + k))), upc := entry }
    { s with freeCtr := s.freeCtr + 16 }

end Sys2Proof.Machine
end

