-- ==== Sys2Proof/Machine/We.lean ====
section
/-! DEFINITION. Worker engines (R219 to R234): one meaning per worker instruction (R225), start of a task, transfers,
watchdog and resets. -/
namespace Sys2Proof.Machine

/-! ### Execution -/

/-- What an instruction does: the table of R225 (`f`) while its routine is the bundle's, else its microwords (R228). -/
def weRun (e entry : Nat) (f : WInstr → We → State → WeOut) (i : WInstr) (s : State) : WeOut :=
  let w := s.weAt e
  if w.cs = [] then f i w s
  else if w.ownRoutine i.op then
    let w := { w with micro := { w.micro with late := [] } }
    f i w (s.setWe e w)
  else microRun e i entry s

/-- Execute the instruction at the engine's index where its opcode is `code` (R225). An index or word no instruction stands
for faults, and an opcode that only CS_DATA has given a routine runs it, under whichever command reaches it; a command of
another opcode of the table executes nothing. -/
def weExec (code : Nat) (e : Nat) (f : WInstr → We → State → WeOut) (s : State) : Res :=
  let w := s.weAt e
  if ¬ s.weRuns e then .next s
  else if w.idx ≥ w.progLen then .next (s.weBoundary e (.fault .progRange s))
  else
    let i := w.fetch
    match w.entry i.op with
    | none => .next (s.weBoundary e (.fault .illegalOp s))
    | some a =>
      if weOpcodes.contains i.op ∧ i.op ≠ code then .next s
      else if i.res ≠ 0 then .next (s.weBoundary e (.fault .operand s))
      else .next (s.weBoundary e (weRun e a f i s))

/-! ### Arithmetic -/

/-- An ALU instruction: RD and flags. -/
def aluOp (e : Nat) (g : Word64 → Word64 → Word64) (fl : WeFlags → Word64 → Word64 → WeFlags) (i : WInstr) (w : We)
    (s : State) : WeOut :=
  let a := w.reg i.ra
  let b := w.opB i
  .go (w.idx + 1) (s.setWe e { (w.setReg i.rd (g a b)) with flags := fl w.flags a b })

def plainFlags (g : Word64 → Word64 → Word64) (f : WeFlags) (a b : Word64) : WeFlags := f.alu (g a b)

def alu (code : Nat) (e : Nat) (g : Word64 → Word64 → Word64) (s : State) : Res := weExec code e (aluOp e g (plainFlags g)) s

/-- ADD, SUB (R225, R224). -/
def execAdd (e : Fin 24) (s : State) : Res := weExec 0x01 e (aluOp e (· + ·) WeFlags.add) s
def execSub (e : Fin 24) (s : State) : Res := weExec 0x02 e (aluOp e (· - ·) WeFlags.sub) s
/-- AND, OR, XOR. -/
def execAndOp (e : Fin 24) (s : State) : Res := alu 0x03 e (· &&& ·) s
def execOrOp (e : Fin 24) (s : State) : Res := alu 0x04 e (· ||| ·) s
def execXorOp (e : Fin 24) (s : State) : Res := alu 0x05 e (· ^^^ ·) s
/-- SHL, SHR, SAR: shifts by B[5:0]. -/
def execShl (e : Fin 24) (s : State) : Res := alu 0x06 e (fun a b => a <<< shAmt b) s
def execShr (e : Fin 24) (s : State) : Res := alu 0x07 e (fun a b => a >>> shAmt b) s
def execSar (e : Fin 24) (s : State) : Res := alu 0x08 e (fun a b => a.sshiftRight (shAmt b)) s
/-- MUL: the low 64 bits. -/
def execMul (e : Fin 24) (s : State) : Res := alu 0x09 e (· * ·) s
/-- MIN, MAX: unsigned. -/
def execMinOp (e : Fin 24) (s : State) : Res := alu 0x0A e (fun a b => if a.toNat ≤ b.toNat then a else b) s
def execMaxOp (e : Fin 24) (s : State) : Res := alu 0x0B e (fun a b => if a.toNat ≤ b.toNat then b else a) s
/-- CMP: flags only. -/
def execCmp (e : Fin 24) (s : State) : Res :=
  weExec 0x0C e (fun i w s => .go (w.idx + 1) (s.setWe e { w with flags := w.flags.sub (w.reg i.ra) (w.opB i) })) s
/-- POPC, CTZ. -/
def execPopc (e : Fin 24) (s : State) : Res := alu 0x0D e (fun a _ => popCount a) s
def execCtz (e : Fin 24) (s : State) : Res := alu 0x0E e (fun a _ => trailing a) s

/-- BITX: RD takes the trailing zeros, RA loses its lowest 1 bit; where RD is RA, RA's result stands. -/
def bitxRegs (i : WInstr) (w : We) : We :=
  let a := w.reg i.ra
  { (w.setReg i.rd (trailing a)).setReg i.ra (a &&& (a - 1)) with
    flags := { w.flags with z := decide (a = 0), n := a.getLsbD 63, c := false } }
def execBitx (e : Fin 24) (s : State) : Res := weExec 0x0F e (fun i w s => .go (w.idx + 1) (s.setWe e (bitxRegs i w))) s

/-- LDI, LDIH. -/
def execLdi (e : Fin 24) (s : State) : Res :=
  weExec 0x10 e (fun i w s => .go (w.idx + 1) (s.setWe e (w.setReg i.rd i.immX))) s
def execLdih (e : Fin 24) (s : State) : Res :=
  weExec 0x11 e (fun i w s => .go (w.idx + 1) (s.setWe e (w.setReg i.rd (pair64 (lo32 (w.reg i.rd)) i.imm)))) s

/-! ### Control -/

/-- BR. -/
def execBr (e : Fin 24) (s : State) : Res :=
  weExec 0x20 e (fun i w s => match w.flags.holds i.cond with
    | some b => .go (if b then i.target else w.idx + 1) s
    | none => .fault .badCond s) s
/-- WE_CALL, WE_RET: the return index in G31. -/
def execWeCall (e : Fin 24) (s : State) : Res :=
  weExec 0x21 e (fun i w s => .go i.target (s.setWe e (w.setReg 31 (BitVec.ofNat 64 (w.idx + 1))))) s
def execWeRet (e : Fin 24) (s : State) : Res := weExec 0x22 e (fun _ w s => .go (fld (w.reg 31) 0 13) s) s
/-- DJNZ. -/
def execDjnz (e : Fin 24) (s : State) : Res :=
  weExec 0x23 e (fun i w s =>
    let w' := w.setReg i.ra (w.reg i.ra - 1)
    .go (if w'.reg i.ra ≠ 0 then i.target else w.idx + 1) (s.setWe e w')) s

/-! ### Local memory -/

/-- Address RA + IMM. -/
def We.ea (w : We) (i : WInstr) : Nat := (w.reg i.ra + i.immX).toNat

def loadOp (e n : Nat) (i : WInstr) (w : We) (s : State) : WeOut :=
  match lmCheck (w.ea i) n n false with
  | some k => .fault k s
  | none => .go (w.idx + 1) (s.setWe e (w.setReg i.rd (w.load (w.ea i) n)))
def storeOp (e n : Nat) (i : WInstr) (w : We) (s : State) : WeOut :=
  match lmCheck (w.ea i) n n true with
  | some k => .fault k s
  | none => .go (w.idx + 1) (s.setWe e (w.store (w.ea i) n (w.reg i.rb)))

/-- LD, ST: 8 bytes; LDH, STH: 16 bits, zero-extended on load. -/
def execLd (e : Fin 24) (s : State) : Res := weExec 0x30 e (loadOp e 8) s
def execSt (e : Fin 24) (s : State) : Res := weExec 0x31 e (storeOp e 8) s
def execLdh (e : Fin 24) (s : State) : Res := weExec 0x32 e (loadOp e 2) s
def execSth (e : Fin 24) (s : State) : Res := weExec 0x33 e (storeOp e 2) s

/-! ### Transfers (R221, R222) -/

/-- HRD: HBM at RA to local memory at RD; HWR: the other way; length RB, tag IMM[3:0]. -/
def execHrd (e : Fin 24) (s : State) : Res :=
  weExec 0x40 e (fun i w s =>
    submitTransfer e false (w.reg i.rd).toNat (w.reg i.ra).toNat (w.reg i.rb).toNat (fld i.imm 0 4) w s) s
def execHwr (e : Fin 24) (s : State) : Res :=
  weExec 0x41 e (fun i w s =>
    submitTransfer e true (w.reg i.rd).toNat (w.reg i.ra).toNat (w.reg i.rb).toNat (fld i.imm 0 4) w s) s

/-- HWAIT (R222, R226): the highest status over its tags. -/
def execHwait (e : Fin 24) (s : State) : Res :=
  weExec 0x42 e (fun i w s =>
    if w.transfers.any (fun t => i.imm.getLsbD t.tag) then .again s
    else
      let st := ((List.range 16).filter (fun t => i.imm.getLsbD t)).foldl (fun m t => max m (sget 0 w.tagStat t)) 0
      .go (w.idx + 1) (s.setWe e (w.setReg i.rd (BitVec.ofNat 64 st)))) s

/-- DONE (R226, R231). -/
def execDoneTask (e : Fin 24) (s : State) : Res :=
  weExec 0x50 e (fun i w s =>
    if w.transfers ≠ [] then .again s else .finish (.done (i.imm.extractLsb' 0 8) (w.reg i.ra)) s) s

/-- POST (R223, R241, R242). -/
def execPost (e : Fin 24) (s : State) : Res := weExec 0x51 e (fun i w s => postTask e (w.reg i.ra).toNat w s) s

/-- WE_TIME: short timestamp of domain IMM[1:0]. -/
def execWeTime (e : Fin 24) (s : State) : Res :=
  weExec 0x52 e (fun i w s => .go (w.idx + 1) (s.setWe e (w.setReg i.rd (s.stamp (fld i.imm 0 2))))) s

/-! ### Repair primitives -/

/-- BMSCAN: the first non-zero of eight words. -/
def bmscan (i : WInstr) (w : We) : We :=
  let a := (w.reg i.ra).toNat
  match (List.range 8).find? (fun k => w.load (a + 8 * k) 8 ≠ 0) with
  | some k => { (w.setReg i.rd (BitVec.ofNat 64 (a + 8 * k))) with flags := { w.flags with z := false } }
  | none => { (w.setReg i.ra (w.reg i.ra + 64)) with flags := { w.flags with z := true } }
def execBmscan (e : Fin 24) (s : State) : Res :=
  weExec 0x60 e (fun i w s => match lmCheck (w.reg i.ra).toNat 64 8 false with
    | some k => .fault k s
    | none => .go (w.idx + 1) (s.setWe e (bmscan i w))) s

/-- LCMUST: the MUST bits of sixteen halfwords. -/
def lcmust (i : WInstr) (w : We) : We :=
  let a := (w.reg i.ra).toNat
  let m := ((List.range 16).map (fun k => if (w.load (a + 2 * k) 2).getLsbD 15 then 2 ^ k else 0)).sum
  { (w.setReg i.rd (BitVec.ofNat 64 m)) with flags := { w.flags with z := decide (m = 0) } }
def execLcmust (e : Fin 24) (s : State) : Res :=
  weExec 0x61 e (fun i w s => match lmCheck (w.reg i.ra).toNat 32 2 false with
    | some k => .fault k s
    | none => .go (w.idx + 1) (s.setWe e (lcmust i w))) s

/-- The halfword CDEC leaves. -/
def cdecHalf (h rb thr : Nat) : Nat := (h % 0x8000 - rb) + (if h ≥ 0x8000 ∧ ¬ h % 0x8000 - rb ≤ thr then 0x8000 else 0)
def execCdec (e : Fin 24) (s : State) : Res :=
  weExec 0x62 e (fun i w s =>
    let a := (w.reg i.ra).toNat
    match lmCheck a 2 2 true with
    | some k => .fault k s
    | none =>
      let h := BitVec.ofNat 64 (cdecHalf (w.load a 2).toNat (w.reg i.rb).toNat (fld i.imm 0 15))
      .go (w.idx + 1) (s.setWe e ((w.store a 2 h).setReg i.rd h))) s

/-! ### Start, transfers, time limit -/

/-- WORK_BLOCK_LOADED (R219): the block and, where it differs, the program are in local memory; a failed read ends the
task with a worker fault, or with RESET (the spec states no outcome). -/
def weLoaded (e : Nat) (res : HbmStatus) (s : State) : State :=
  match (s.execAt e).running with
  | none => s
  | some i =>
    let w := s.weAt e
    let a := (s.taskAt i).block
    if w.started ∨ (s.execAt e).ended.isSome ∨ (s.execAt e).startAt > s.now then s
    else
      let b := s.hbmRead a 64
      let base := field b 0 8
      let len := min 8192 (field b 8 2)
      let keep : Bool := w.resident ∧ w.progBase = base ∧ w.progLen = len
      let st := worstOf res (worstOf (s.readStatus a 64) (if keep then .ok else s.readStatus base (8 * len)))
      if st = .reset then s.setExec e { s.execAt e with ended := some (.reset, 0, 0) }
      else if st ≠ .ok then s.setExec e { s.execAt e with ended := some (.workerFault, 0, 0) }
      else
        let lm := if keep then w.lm else mwrite w.lm 0 (s.hbmRead base (8 * len))
        let regs := (List.range 5).foldl (fun m k =>
          sput m (k + 1) (BitVec.ofNat 64 (field b (0x18 + 8 * k) 8))) ([] : Sparse Word64)
        s.setWe e { w with
          started := true, regs := regs, flags := {}, idx := field b 0xA 2, pc := field b 0xA 2, lm := mwrite lm lmBlock b,
          tagStat := [], progBase := base, progLen := len, resident := true, startAt := s.now, boundary := s.now,
          timeLimit := field b 0xC 4, limitHit := false, redispatch := decide (field b 0x10 4 % 2 = 1), ending := none }
def execWorkBlockLoaded (e : Fin 24) (res : HbmStatus) (s : State) : Res := .next (weLoaded e res s)

/-- Status code HWAIT returns; UNMAPPED is treated as ECC (R222, R341). -/
def tagCode : HbmStatus → Nat
  | .ok => 0 | .ecc => 1 | .unmapped => 1 | .reset => 2

/-- One transfer completes (R222): data as read; free data where an address maps nowhere. -/
def transferDone (e : Nat) (t : Transfer) (res : HbmStatus) (s : State) : State :=
  let w := s.weAt e
  let fin := fun (st : HbmStatus) (s : State) (lm : List Host.Cell) =>
    (s.modWe e (fun w => { w with lm := lm, tagStat := sput w.tagStat t.tag (tagCode st),
                                  transfers := w.transfers.filter (fun x => x.tag ≠ t.tag) })).weFinish e
  if t.write then
    let r := s.hbmWriteReq t.hbm (mread w.lm t.lm t.len) res
    fin r.1 r.2 w.lm
  else
    let st := worstOf res (s.readStatus t.hbm t.len)
    match st with
    | .reset => fin st s w.lm
    | .unmapped => let r := s.freshBytes t.len; fin st r.2 (mwrite w.lm t.lm r.1)
    | _ => fin st s (mwrite w.lm t.lm (s.hbmRead t.hbm t.len))

/-- HBM_TRANSFER_COMPLETE (R222, R230, R232): a reply with no transfer is stale. -/
def execHbmTransferComplete (e : Fin 24) (tag : Fin 16) (res : HbmStatus) (s : State) : Res :=
  let w := s.weAt e
  match w.transfers.find? (fun t => t.tag = tag.val) with
  | some t => if t.write then s.guardWrite t.hbm t.len (.next (transferDone e t res s)) else .next (transferDone e t res s)
  | none => .next (s.setWe e { w with stale := sat32 (w.stale + 1) })

/-- TASK_TIME_LIMIT (R230): the limit has elapsed since the task's start; taken at the next boundary. -/
def execTaskTimeLimit (x : ExecId) (s : State) : Res :=
  match x with
  | .we e =>
    let w := s.weAt e
    .next (if w.started ∧ w.timeLimit ≠ 0 ∧ w.startAt + w.timeLimit * edgesUs ≤ s.now then
      s.setWe e { w with limitHit := true } else s)
  | .ce _ => .next s

/-! ### Watchdog (R232, R233) -/

/-- Edges of 32 µs and of one second. -/
def wdogEdges : Nat := 12800
def edgesSec : Nat := 400000000

/-- The engine's requests at a reset (R232): of a write transfer the blocks whose requests were issued to a stack land, those
whose requests were not do not; the engine's transfers end. A block for which the model holds no request has completed or was
never asked for: which of the two is a free value (assumption 105). -/
def landIssued (page : Nat) (w : We) (t : Transfer) (s : State) : State :=
  foldState (List.range (t.len / 64)) (fun k s =>
    let a := t.hbm + 64 * k
    let r := match s.hmc.reqs.find? (fun r => r.owner = page ∧ r.addr / 64 = a / 64) with
      | some q => (decide (q.issued = true), s)
      | none => let n := s.fresh 1; (decide (n.1 = 1), n.2)
    if r.1 then (r.2.hbmWriteReq a (mread w.lm (t.lm + 64 * k) 64) .ok).2 else r.2) s

def clearTransfers (e : Nat) (s : State) : State :=
  let w := s.weAt e
  let s := foldState (w.transfers.filter (fun t => t.write)) (landIssued (pgWe e) w) s
  (s.dropRequests (pgWe e)).modWe e (fun w => { w with transfers := [], started := false, ending := none, limitHit := false })

/-- REDISPATCH of the running task, from its work block in HBM while the engine has not loaded it. -/
def State.mayRedispatch (s : State) (e i : Nat) : Bool :=
  let w := s.weAt e
  let b := (s.taskAt i).block
  if w.started then w.redispatch else decide (s.readStatus b 64 = .ok ∧ field (s.hbmRead b 64) 0x10 4 % 2 = 1)

/-- An engine whose watchdog expires is reset; its tasks go back to their lists or end, and one that has expired three times
within a second is retired. -/
def weExpire (e : Nat) (s : State) : State :=
  let w := s.weAt e
  let v := s.execAt e
  let recent := (w.expiries ++ [s.now]).filter (fun x => s.now < x + edgesSec)
  let again := match v.running with
    | some i => s.mayRedispatch e i && !(s.taskAt i).redispatched
    | none => false
  let s := (clearTransfers e s).modWe e (fun w => { w with
    wdogCount := sat32 (w.wdogCount + 1), expiries := recent, reloading := true, reloadAt := s.now, csValid := false,
    micro := {} })
  let s := s.setExec e { v with retired := v.retired || decide (recent.length ≥ 3) }
  ((s.returnPrefetch e).runReset e again).dropNoExecutor

/-- WATCHDOG_EXPIRY: 32 µs without a boundary while a task is held. -/
def execWatchdogExpiry (e : Fin 24) (s : State) : Res :=
  .next (if (s.execAt e).running.isSome ∧ (s.execAt e).ended.isNone ∧ (s.weAt e).boundary + wdogEdges ≤ s.now then
    weExpire e s else s)

/-- CONTROL_STORE_RELOADED (R233): the management copy is back in the control store. -/
def execControlStoreReloaded (e : Fin 24) (s : State) : Res :=
  let w := s.weAt e
  .next (if w.reloading then s.setWe e { w with reloading := false, csValid := true, cs := [] } else s)

/-- OFFLINE (WE.CTRL): a prefetched task goes back, the running one finishes. -/
def weOffline (e : Nat) (off : Bool) (s : State) : State :=
  let s := s.setReg (pgWe e) 0x100 (if off then 1 else 0)
  let s := (s.modWe e (fun w => { w with offline := off })).setExec e { s.execAt e with offline := off }
  if off then s.returnPrefetch e else s
def execOffline (e : Fin 24) (off : Bool) (s : State) : Res := .next (s.whenReady (pgWe e) (weOffline e off))

/-- LM_ADDR, and the doubleword of local memory there. -/
def State.lmAddr (s : State) (e : Nat) : Nat := s.regN (pgWe e) 0x134 / 8 * 8 % lmBytes
def State.lmWord (s : State) (e : Nat) : Word64 := (s.weAt e).load (s.lmAddr e) 8

/-- A write of LM_DATA_HI completes the pair: local memory at LM_ADDR takes it with LM_DATA_LO. -/
def lmStore (e : Nat) (hi : Word32) (s : State) : State :=
  s.setWe e ((s.weAt e).store (s.lmAddr e) 8 (pair64 (s.reg (pgWe e) 0x138) hi))

/-- A write of CS_DATA_HI stores the microword at CS_ADDR. -/
def csStore (e : Nat) (hi : Word32) (s : State) : State :=
  s.modWe e (fun w => { w with cs := sput w.cs (fld (s.reg (pgWe e) 0x140) 0 14) (hi.extractLsb' 0 8 ++ s.reg (pgWe e) 0x144) })

/-- ERR_CODE of an access of LM_DATA while the engine is not offline. -/
def errWeBusy : BitVec 16 := 0x0049

/-- LM_DATA (R237, R389): the access of the high word completes the pair at LM_ADDR; all of it is ignored while the engine is
not offline. -/
def execLmData (e : Fin 24) (write : Option (Word32 × Option Word32)) (_path : Path) (s : State) : Res :=
  match write with
  | none =>
    if s.weIdleOff e then .next { s with hostOut := s.lmWord e } else .next (s.recordErr (pgWe e) errWeBusy)
  | some (hi, lo) =>
    .next (s.whenReady (pgWe e) (fun s =>
      if s.weIdleOff e then lmStore e hi (match lo with | some x => s.setReg (pgWe e) 0x138 x | none => s)
      else s.recordErr (pgWe e) errWeBusy))

/-- CS_DATA (R234): a microword is stored at CS_ADDR; with the engine running it is undefined behaviour (R396 item 10). -/
def execCsData (e : Fin 24) (hi : Word32) (lo : Option Word32) (s : State) : Res :=
  if (s.execAt e).running.isSome then .fault (.undefinedBehaviour 10)
  else .next (s.whenReady (pgWe e) (fun s =>
    csStore e hi (match lo with | some x => s.setReg (pgWe e) 0x144 x | none => s)))

/-- A soft reset of a WE page (R234): both tasks end with RESET; control store and program stay. -/
def weReset (e : Nat) (s : State) : State := (((clearTransfers e s).runReset e false).prefetchReset e)

end Sys2Proof.Machine
end

