-- ==== Sys2Proof/Machine/Ce.lean ====
section
/-! DEFINITION. Copy engines (R235, R236): the copy block and the commands of a copy. -/
namespace Sys2Proof.Machine

/-- A copy block. -/
structure CopyBlock where
  src : Nat
  dst : Nat
  len : Nat
  srcSpace : Nat
  dstSpace : Nat
  engine : Nat
  fill : Bool
  pattern : Nat
  /-- A reserved field is not zero, or a field has no meaning. -/
  bad : Bool
  deriving DecidableEq, Repr

def CopyBlock.ofBytes (b : List Byte) : CopyBlock :=
  let f := field b 0x18 4
  let len := field b 0x10 8
  { src := field b 0 8, dst := field b 8 8, len := len, srcSpace := f % 4, dstSpace := f / 4 % 4, engine := f / 256 % 32,
    fill := f.testBit 16, pattern := field b 0x20 8,
    bad := (f &&& 0xFFFEE0F0) ≠ 0 ∨ field b 0x1C 4 ≠ 0 ∨ field b 0x28 8 ≠ 0 ∨ field b 0x30 8 ≠ 0 ∨ field b 0x38 8 ≠ 0 ∨
      f % 4 ≥ 2 ∨ f / 4 % 4 = 3 ∨ len = 0 ∨ len > 2 ^ 40 }

/-- The bytes a fill writes: the pattern word over and over from the destination on. -/
def CopyBlock.fillBytes (b : CopyBlock) : List Byte :=
  (List.range b.len).map (fun j => (leBytes 8 b.pattern).getD (j % 8) 0)

/-- Host memory is on one side of the copy. -/
def CopyBlock.usesHost (b : CopyBlock) : Bool := b.dstSpace = 1 ∨ (b.srcSpace = 1 ∧ ¬ b.fill)

/-- A copy that must not run: reserved fields, or a local memory that could not be written when the copy was accepted, with
the engines of `off` offline (R235, R236). -/
def copyRefused (b : CopyBlock) (off : BitVec 24) : Bool :=
  b.bad ∨ (b.dstSpace = 2 ∧ (b.engine ≥ 24 ∨ b.dst + b.len > lmBytes ∨ ¬ off.getLsbD b.engine))

/-- Source bytes with their status; host bytes are free. -/
def State.copySource (s : State) (b : CopyBlock) : HbmStatus × List Byte × State :=
  if b.fill then (.ok, b.fillBytes, s)
  else if b.srcSpace = 1 then let r := s.freshBytes b.len; (.ok, r.1, r.2)
  else (s.readStatus b.src b.len, s.hbmRead b.src b.len, s)

/-- Write bytes to the destination space. -/
def State.copyWrite (s : State) (b : CopyBlock) (l : List Byte) : HbmStatus × State :=
  if b.dstSpace = 0 then s.hbmWriteReq b.dst l .ok
  else if b.dstSpace = 1 then (.ok, s.send (.host b.dst l))
  else (.ok, s.modWe b.engine (fun w => { w with lm := mwrite w.lm b.dst l }))

/-- The copy has reached an end. -/
def State.copyEnd (s : State) (c : Nat) (st : TaskStatus) (bytes : Nat) : State :=
  (s.setExec (0x20 + c) { s.execAt (0x20 + c) with ended := some (st, 0, bytes) }).setCe c
    { s.ceAt c with bytes := bytes, status := st.code }

/-- A copy stopped early: a free number of its bytes are written, and BYTES is to count them (R236); where their writes fail
it counts none. -/
def State.copyPart (s : State) (b : CopyBlock) : Nat × State :=
  let n := s.fresh 64
  let k := n.1.toNat % (b.len + 1)
  let src := n.2.copySource { b with len := k }
  let r := src.2.2.copyWrite b src.2.1
  (if r.1 = .ok then k else 0, r.2)

def State.copyStopped (s : State) (c : Nat) (b : CopyBlock) (st : TaskStatus) : State :=
  (s.copyPart b).2.copyEnd c st (s.copyPart b).1

/-- The copy block of an engine. -/
def State.copyBlock (s : State) (c : Nat) : CopyBlock := CopyBlock.ofBytes (s.ceAt c).block

/-- The copy of engine `c` runs: task index, not ended, started. -/
def State.copyRuns (s : State) (c : Nat) : Option Nat :=
  let v := s.execAt (0x20 + c)
  if v.ended.isNone ∧ v.startAt ≤ s.now then v.running else none

/-- Effect of COPY_COMPLETE on a running copy. -/
def copyComplete (c : Nat) (res : HbmStatus) (s : State) : State :=
  let b := s.copyBlock c
  if (s.ceAt c).blockStatus ≠ .ok then s.copyEnd c .ceError 0
  else if copyRefused b (s.ceAt c).offMask then s.copyEnd c .ceError 0
  else if s.abortDue (0x20 + c) then s.copyStopped c b .aborted
  else if b.usesHost ∧ ¬ s.pcie.up then s
  else
    let src := s.copySource b
    if worstOf res src.1 ≠ .ok then s.copyStopped c b .ceError
    else
      let r := src.2.2.copyWrite b src.2.1
      if r.1 = .ok then r.2.copyEnd c .complete b.len else s.copyStopped c b .ceError

/-- COPY_COMPLETE (R236): the last write is acknowledged, or an error or an earlier abort ends the copy. -/
def execCopyComplete (c : Fin 8) (res : HbmStatus) (s : State) : Res :=
  match s.copyRuns c with
  | some _ =>
    let b := s.copyBlock c
    if b.dstSpace = 0 then s.guardWrite b.dst b.len (.next (copyComplete c res s)) else .next (copyComplete c res s)
  | none => .next s

/-- Edges of 1 ms. -/
def edgesMs : Nat := 400000

/-- COPY_LINK_TIMEOUT (R382): no link for 1 ms ends a copy that writes to host memory; what it wrote before stands. -/
def execCopyLinkTimeout (c : Fin 8) (s : State) : Res :=
  match s.copyRuns c with
  | some _ =>
    let b := s.copyBlock c
    .next (if ¬ s.pcie.up ∧ b.dstSpace = 1 ∧ max s.pcie.downAt (s.execAt (0x20 + c)).startAt + edgesMs ≤ s.now then
      s.copyStopped c b .ceError else s)
  | none => .next s

/-- A soft reset of a CE page (R236, R32): its tasks end with RESET; a free number of the running copy's bytes are written. -/
def ceReset (c : Nat) (s : State) : State :=
  let v := s.ceAt c
  let s := if (s.copyRuns c).isSome ∧ v.blockStatus = HbmStatus.ok ∧ ¬ copyRefused (s.copyBlock c) v.offMask then
      let r := s.copyPart (s.copyBlock c)
      r.2.modCe c (fun v => { v with bytes := r.1 })
    else s
  let s := s.modCe c (fun v => { v with retries := [], status := if (s.execAt (0x20 + c)).running.isSome then TaskStatus.reset.code else v.status })
  (s.runReset (0x20 + c) false).prefetchReset (0x20 + c)

end Sys2Proof.Machine
end

