-- ==== Sys2Proof/Machine/Msf.lean ====
section
/-! DEFINITION. Commands of the measure and source streams (R256 to R282). -/
namespace Sys2Proof.Machine

/-! ### Arm, start, stop, clear -/

/-- A source descriptor (R270): address, samples, plays, next, end; none: a field out of range or reserved. -/
def descOf (b : List Byte) : Option (Nat × Nat × Nat × Nat × Bool) :=
  let len := field b 8 4
  let f := field b 0xF 1
  if len < 256 ∨ len % 32 ≠ 0 ∨ field b 0xC 2 = 0 ∨ f > 1 then none
  else some (field b 0 8, len, field b 0xC 2, field b 0xE 1, f = 1)

def State.descAddr (s : State) (i k : Nat) : Nat := s.reg64 (pgSsg i) 0x138 + 16 * k

/-- Check 3 of R258: the error detail of a configuration out of range; a fade that marks order has 16 samples or more (R274). -/
def State.strCfgBad (s : State) (m : StreamId) : Option Word32 :=
  let r := fun off => s.regN (pgStr m) off
  if s.strSrc m = 3 then some 0
  else match m with
  | .ms _ =>
    if r 0x12C < 8 ∨ r 0x12C > 16 ∨ r 0x138 = 0 ∨ r 0x138 > 262144 ∨ r 0x130 % 4096 ≠ 0 then some 0 else none
  | .ss i =>
    let ratio := s.reg64 (pgStr m) 0x144
    let k := r 0x140 % 256
    if r 0x14C < 8 ∨ r 0x14C > 16 ∨ (bit (s.reg (pgStr m) 0x120) 31 ∧ fld (s.reg (pgStr m) 0x120) 0 16 < 15) ∨ ratio = 0 ∨ ratio > 2 ^ 32 ∨ r 0x138 % 4096 ≠ 0 then some 0
    else if s.readStatus (s.descAddr i k) 16 ≠ .ok ∨ (descOf (s.hbmRead (s.descAddr i k) 16)).isNone then
      some (BitVec.ofNat 32 k)
    else none

/-- The run of an accepted arm: counters cleared, the grid at a phase the spec leaves open. -/
def StrRun.rearm (r : StrRun) (grid : Nat) : StrRun :=
  { state := r.state, cause := r.cause, arming := true, grid := grid, corrGain := r.corrGain, corrOfs := r.corrOfs,
    held := r.held, holdNext := r.holdNext, stale := r.stale, doneEdge := r.doneEdge }

/-- An accepted arm (R258, R260, R281, R282). -/
def State.strArmed (s : State) (m : StreamId) : State :=
  let f := s.fresh 64
  let s := f.2.convEnter m (s.now + 1) 0
  let r := (s.runAt m).rearm (s.now * 4096 + f.1.toNat % s.strT m)
  let s := match m with
    | .ms i => ((s.setMs i { run := r }).setReg (pgMsf i) 0x148 0).setReg (pgMsf i) 0x14C 0
    | .ss i =>
      let v := s.ssAt i
      let k := s.regN (pgSsg i) 0x140 % 256
      s.setSs i { run := r, taps := v.taps, desc := k, seg := descOf (s.hbmRead (s.descAddr i k) 16),
                  fade := { active := bit (s.reg (pgSsg i) 0x10C) 15 } }
  s.peCtrl (s.strPl m) (.conv (match m with | .ms _ => false | .ss _ => true) (s.strConv m) (fld (s.reg (pgStr m) 0x10C) 0 12 + 1))

def streamArm (m : StreamId) (s : State) : State :=
  if (s.runAt m).inProgress then (s.strCmd m 4).recordErr (pgStr m) 0x0023
  else if s.convBusy m (s.strConv m) then (s.strCmd m 0x10).recordErr (pgStr m) 0x0020
  else if (s.plAt (s.strPl m)).state ≠ .up then (s.strCmd m 0x11).recordErr (pgStr m) 0x0021
  else match s.strCfgBad m with
    | some info => (s.strCmd m 0x12).recordErr (pgStr m) 0x0022 info
    | none => s.strArmed m
/-- STREAM_ARM (R256, R258). -/
def execStreamArm (m : StreamId) (s : State) : Res := .next (s.whenReady (pgStr m) (streamArm m))

/-- Samples a source stream buffers (R271), and its prefill. -/
def ssBuffer : Nat := 8192
def Ss.prefilled (v : Ss) : Bool := v.fetched ∨ v.buf.length ≥ ssBuffer

/-- An accepted arm whose conditions are met enters ARMED (R257, R258). -/
def State.strTryArmed (s : State) (m : StreamId) : State :=
  let r := s.runAt m
  let full : Bool := match m with | .ms _ => true | .ss i => (s.ssAt i).prefilled
  if r.arming ∧ r.acked ∧ full ∧ ¬ r.held then
    let late := s.strSrc m = 1 ∧ tsPassed (s.stamp (s.strTd m)) (s.strStartTime m)
    s.setRun m { r with state := .armed, cause := .none, arming := false, armedAt := s.now, lateStart := late }
  else s

/-- STREAM_ARM_ACK. -/
def execStreamArmAck (m : StreamId) (s : State) : Res :=
  let r := s.runAt m
  .next (if r.arming then (s.setRun m { r with acked := true }).strTryArmed m else s)

/-- STREAM_START: a host START starts an ARMED stream whatever SRC selects (R259). -/
def execStreamStart (m : StreamId) (s : State) : Res :=
  .next (s.whenReady (pgStr m) (fun s =>
    if (s.runAt m).state = .armed then (s.strCmd m 0).strStart m (s.now * 4096) false else s.strCmd m 3))

/-- STREAM_STOP (R261): a stop in the completion cycle loses. -/
def execStreamStop (m : StreamId) (s : State) : Res :=
  .next (s.whenReady (pgStr m) (fun s =>
    let r := s.runAt m
    if r.inProgress then
      (s.setRun m { r with cmd := 0, stopEdge := s.now + 1 }).strEnd m .aborted .hostStop
    else s.strCmd m (if r.doneEdge = s.now + 1 then 1 else 2)))

/-- STREAM_CLEAR (R257). -/
def execStreamClear (m : StreamId) (s : State) : Res :=
  .next (s.whenReady (pgStr m) (fun s =>
    let r := s.runAt m
    if r.state = .done ∨ r.state = .aborted ∨ r.state = .faulted then
      s.setRun m { r with state := .idle, cause := .none, cmd := 0 } else s))

/-- A soft reset of a stream's page (R257, R277). -/
def strReset (m : StreamId) (s : State) : State :=
  let s := if (s.runAt m).state = .idle then s.setRun m { s.runAt m with arming := false } else s.strEnd m .aborted .reset
  match m with
  | .ms i => s.setMs i { s.msAt i with buf := [], switch := none, resets := [], retries := [] }
  | .ss i => s.setSs i { s.ssAt i with buf := [], seg := none, fetched := false }

/-! ### Measure streams (R262 to R269) -/

/-- Decimation and settle count of a preset (R262). -/
def decimation (p : Nat) : Nat := [4, 32, 256, 4096].getD p 4
def settleCount (p : Nat) : Nat := [8, 6, 5, 4].getD p 8
def State.msPreset (s : State) (i : Nat) : Nat := fld (s.reg (pgMsf i) 0x10C) 30 2
def State.msDec (s : State) (i : Nat) : Nat := decimation (s.msPreset i)
def State.msPrime (s : State) (i : Nat) : Bool := bit (s.reg (pgMsf i) 0x100) 1
def State.msFreeze (s : State) (i : Nat) : Bool := bit (s.reg (pgMsf i) 0x124) 30

/-- RESYNC (R264). -/
def execResync (i : Fin 64) (s : State) : Res :=
  .next (s.whenReady (pgMsf i) (fun s =>
    let v := s.msAt i
    if v.run.state = .running then s.setMs i { v with resets := v.resets ++ [s.now * 4096] } else s))

/-- CONVERTER_SWITCH (R266). -/
def execConverterSwitch (i : Fin 64) (s : State) : Res :=
  .next (s.whenReady (pgMsf i) (fun s =>
    let v := s.msAt i
    let c := fld (s.reg (pgMsf i) 0x110) 24 2
    if v.run.state ≠ .running then s
    else if s.convBusy (.ms i) c then (s.strCmd (.ms i) 0x10).recordErr (pgMsf i) 0x0020
    else (s.setMs i { v with switch := some (c, s.now), run := { v.run with cmd := 0 } }).peCtrl (s.strPl (.ms i)) (.switch c)))

/-- A synchronising reset before the next input, with `extra` outputs more to settle (R265, R266). -/
def State.msReset (s : State) (i : Fin 64) (extra : Nat) : State :=
  let v := s.msAt i
  let keep := s.msFreeze i
  s.setMs i { v with
    chain := [], primed := none, ovr := false, gap := false, unsettled := settleCount (s.msPreset i) + extra,
    resyncOut := v.out, mean := if keep then v.mean else 0, meanSet := ¬ keep ∧ s.msPrime i }

/-- The waiting switch acts before grid index `g`: an output boundary at least 2 µs after its commit. -/
def State.switchDue (s : State) (i : Fin 64) (g : Nat) : Bool :=
  let v := s.msAt i
  match v.switch with
  | some (_, e) => v.chain.length % s.msDec i = 0 ∧ (e + 800) * 4096 ≤ s.gridAt (.ms i) g
  | none => false

/-- Resets and a switch that act before grid index `g` (R267). -/
def State.msEvents (s : State) (i : Fin 64) (g : Nat) : State :=
  let sw := s.switchDue i g
  let v := s.msAt i
  let t := s.gridAt (.ms i) g
  let rs : Bool := v.resets.any (fun x => x ≤ t)
  let s := s.setMs i { v with resets := v.resets.filter (fun x => t < x) }
  if sw then
    let s := match v.switch with
      | some (c, _) => s.setReg (pgMsf i) 0x110 (((s.reg (pgMsf i) 0x110) &&& 0xFFFFFFFC) ||| BitVec.ofNat 32 c)
      | none => s
    (s.modMs i (fun v => { v with switch := none })).msReset i (fld (s.reg (pgMsf i) 0x10C) 16 8)
  else if rs then s.msReset i 0 else s

/-- SWITCH_EFFECT: the boundary has come before the next input. -/
def execSwitchEffect (i : Fin 64) (s : State) : Res :=
  let v := s.msAt i
  .next (if v.run.state = .running ∧ s.switchDue i v.run.next ∧ s.gridAt (.ms i) v.run.next ≤ s.now * 4096 then
    s.msEvents i v.run.next else s)

/-- Outputs a stream buffers on chip (R269). -/
def msBuffer : Nat := 1024

/-- An output is lost (R269). -/
def State.msLose (s : State) (i : Fin 64) (k : Nat) : State :=
  let v := s.msAt i
  (s.setMs i { v with lost := true, lostCount := sat32 (v.lostCount + 1), lostOut := if v.lost then v.lostOut else k }).raiseEvt
    (pgMsf i) 1

/-- A stream output (R263): its word is buffered, or the output is lost. -/
def State.msOutput (s : State) (i : Fin 64) : State :=
  let v := s.msAt i
  let y := Config.chainOutput (s.msPreset i) v.primed v.chain
  let z := clampInt (-8388608) 8388607 y
  let uns : Bool := v.unsettled > 0
  let w : Word32 :=
    if v.run.held then (v.lastWord &&& 0x00FFFFFF) ||| 0x40000000 ||| (if uns then 0x80000000 else 0)
    else BitVec.ofNat 32 (b2n uns * 2 ^ 31 + b2n (decide (z ≠ y)) * 2 ^ 29 + b2n v.ovr * 2 ^ 28 + (BitVec.ofInt 24 z).toNat)
  let lose := v.gap ∨ v.buf.length ≥ msBuffer
  let s := s.setMs i { v with out := v.out + 1, unsettled := v.unsettled - 1, ovr := false, gap := false, lastWord := w,
                              buf := if lose then v.buf else v.buf ++ [(v.out, w)] }
  let s := if lose then s.msLose i v.out else s
  let n := s.regN (pgMsf i) 0x13C
  if n ≠ 0 ∧ v.out + 1 = n then s.strEnd (.ms i) .done .complete else s

/-- One chain input `x2` and, at the end of its span, an output. -/
def State.msChain (s : State) (i : Fin 64) (x2 : Rat) : State :=
  let v := s.msAt i
  let primed := if v.chain = [] ∧ s.msPrime i then some x2 else v.primed
  let s := s.setMs i { v with chain := v.chain ++ [x2], primed := primed }
  if (v.chain.length + 1) % s.msDec i = 0 then s.msOutput i else s

/-- Correction and DC-blocking of an input sample (R262, R268). -/
def State.msCorrect (s : State) (i : Fin 64) (x : Int) : Rat × State :=
  let v := s.msAt i
  let x1 : Rat := (roundDiv ((x - v.run.corrOfs) * v.run.corrGain) (2 ^ 18) : Int)
  if bit (s.reg (pgMsf i) 0x124) 31 then
    let m := if v.meanSet then x1 else v.mean
    let a : Rat := (s.regN (pgMsf i) 0x128 : Rat) / (2 ^ 38 : Nat)
    (x1 - m, s.setMs i { v with mean := if s.msFreeze i then m else m + a * (x1 - m), meanSet := false })
  else (x1, s)

/-- One input of the stream at grid index `g`; `x` none: the sample is missing (R278). -/
def State.msInput (s : State) (i : Fin 64) (g : Nat) (x : Option Int) (ovr : Bool) : State :=
  if (s.msAt i).run.state ≠ .running then s
  else
    let v := s.msAt i
    let s := s.setMs i { v with run := { v.run with next := g + 1 } }
    let b := if v.chain.length % s.msDec i = 0 then s.frameBoundary (.ms i) v.out else (false, s)
    let s := b.2.msEvents i g
    let s := if b.1 then s.msReset i 0 else s
    let r := match x with
      | some x => s.msCorrect i x
      | none => let f := s.fresh 18; f.2.msCorrect i f.1.toInt
    let s := r.2.modMs i (fun v => { v with ovr := v.ovr || ovr, gap := v.gap || x.isNone })
    s.msChain i r.1

/-- Inputs of a block from grid index `g` on. -/
def State.msInputs (s : State) (i : Fin 64) (g : Nat) : List (Option Int × Bool) → State
  | [] => s
  | (x, o) :: l => (if g < (s.msAt i).run.next then s else s.msInput i g x o).msInputs i (g + 1) l

/-- Grid index of a SEQ number: the latest one not after now that it can stand for. -/
def State.gridOfSeq (s : State) (i : Fin 64) (seq : Nat) : Nat :=
  let cur := (s.now * 4096 - (s.msAt i).run.grid) / s.strT (.ms i)
  cur - (cur + 65536 - seq) % 65536

/-- A block for stream `i`: the samples missing before it, then its own. -/
def State.msBlock (s : State) (i : Fin 64) (words : List Word32) : State :=
  let h := words.headD 0
  let g := s.gridOfSeq i (fld h 0 16)
  let n := (s.msAt i).run.next
  let s := s.msInputs i n (List.replicate (g - n) (none, false))
  s.msInputs i g (((words.drop 1).take (fld h 16 4 + 1)).map (fun w => (some (w.extractLsb' 0 18).toInt, bit w 31)))

/-- The block again for a stream that a stop of this cycle ended: completion wins (R261). -/
def State.msBlockOrLate (s : State) (i : Fin 64) (words : List Word32) : State :=
  let v := s.msAt i
  if v.run.state = .running then s.msBlock i words
  else if v.run.stopEdge = s.now + 1 ∧ v.run.cause = .hostStop ∧ v.run.startAt.isSome then
    let t := (s.setMs i { v with run := { v.run with state := .running, cause := .none } }).msBlock i words
    if (t.msAt i).run.state = .done then t.strCmd (.ms i) 1 else s
  else s

/-- STREAM_FRAME (R278): a measure block on an UP link reaches the stream bound to its converter. -/
def execStreamFrame (pl : Fin 32) (words : List Word32) (crcOk : Bool) (s : State) : Res :=
  if ¬ crcOk then .next (s.modPl pl (fun v => { v with crcErr := sat32 (v.crcErr + 1) }))
  else if (s.plAt pl).state ≠ .up ∨ fld (words.headD 0) 24 8 ≠ 0x21 then .next s
  else
    let c := fld (words.headD 0) 22 2
    .next (foldState (List.finRange 64) (fun i s =>
      let live : Bool := (s.msAt i).run.state = .running ∨ (s.msAt i).run.stopEdge = s.now + 1
      let next : Bool := match (s.msAt i).switch with
        | some (c', _) => decide (c' = c)
        | none => false
      if live ∧ s.strPl (.ms i) = pl.val ∧ (s.strConv (.ms i) = c ∨ next) then s.msBlockOrLate i words else s) s)

/-- The next block of buffered outputs may go: complete or the stream's last, and room in the ring (R269). -/
def State.msReady (s : State) (i : Fin 64) : Option (List (Nat × Word32)) :=
  let v := s.msAt i
  match v.buf with
  | [] => none
  | (k, _) :: _ =>
    let blk := v.buf.filter (fun e => e.1 / 16 = k / 16)
    let n := s.regN (pgMsf i) 0x138 * 1024
    let whole : Bool := (k / 16 + 1) * 16 ≤ v.out ∨ ¬ v.run.inProgress
    if whole ∧ blk.all (fun e => 4 * e.1 < s.reg64 (pgMsf i) 0x148 + 4 * n) then some blk else none

/-- MSF_OUTPUT_WRITE: a block is written; outputs whose write fails are lost. -/
def execMsfOutputWrite (i : Fin 64) (res : HbmStatus) (s : State) : Res :=
  match s.msReady i with
  | none => .next s
  | some blk =>
    let v := s.msAt i
    let n := s.regN (pgMsf i) 0x138 * 1024
    let base := s.reg64 (pgMsf i) 0x130
    let r := blk.foldl (fun (a : HbmStatus × State) e =>
      let w := a.2.hbmWriteReq (base + 4 * (e.1 % n)) (leBytes 4 e.2.toNat) res
      (worstOf a.1 w.1, w.2)) (HbmStatus.ok, s)
    if r.1 = .ok then
      s.guardArray base (4 * n) (.next (r.2.setMs i { v with buf := v.buf.drop blk.length, outWr := v.outWr + 4 * blk.length }))
    else .next (foldState blk (fun e s => s.msLose i e.1) (s.setMs i { v with buf := v.buf.drop blk.length }))

/-! ### Source streams (R270 to R277) -/

/-- A fetch fault at a descriptor: a stream in progress ends. One whose prefill is not complete has left no state it could
end from (R257): its arm goes no further (assumption 106). -/
def State.ssFault (s : State) (i : Fin 64) : State :=
  let r := (s.ssAt i).run
  (if r.inProgress then s.strEnd (.ss i) .aborted .fetchFault else s.setRun (.ss i) { r with arming := false }).recordErr
    (pgSsg i) 0x0031 (BitVec.ofNat 32 (s.ssAt i).desc)

/-- Samples of a granule. -/
def samplesOf (b : List Byte) : List Int := (List.range 32).map (fun k => (BitVec.ofNat 16 (field b (2 * k) 2)).toInt)

/-- One read of a source stream completes: its next descriptor, or the next granule of its segment. -/
def ssFetch (i : Fin 64) (res : HbmStatus) (s : State) : State :=
  let v := s.ssAt i
  match v.seg with
  | none =>
    let a := s.descAddr i v.desc
    if worstOf res (s.readStatus a 16) ≠ .ok then s.ssFault i
    else match descOf (s.hbmRead a 16) with
      | some d => s.setSs i { v with seg := some d, pos := 0 }
      | none => s.ssFault i
  | some (addr, len, plays, nxt, fin) =>
    if v.buf.length + 32 > ssBuffer + 7 then s
    else
      let a := addr + 2 * v.pos
      if worstOf res (s.readStatus a 64) ≠ .ok then s.ssFault i
      else
        let v := { v with buf := v.buf ++ samplesOf (s.hbmRead a 64), pos := v.pos + 32 }
        let v := if v.pos < len then v
          else if plays > 1 then { v with pos := 0, seg := some (addr, len, plays - 1, nxt, fin) }
          else if fin then { v with fetched := true }
          else { v with seg := none, desc := nxt, pos := 0 }
        s.setSs i v

/-- SAMPLE_FETCH_COMPLETE (R270, R271). -/
def execSampleFetchComplete (i : Fin 64) (res : HbmStatus) (s : State) : Res :=
  let v := s.ssAt i
  .next (if (v.run.arming ∨ v.run.inProgress) ∧ ¬ v.fetched then (ssFetch i res s).strTryArmed (.ss i) else s)

/-- Input sample `n`; 0 before the first (R273). -/
def Ss.x (v : Ss) (n : Int) : Int := if n < v.base then 0 else v.buf.getD (n - v.base).toNat 0

/-- The resampler's sum with the taps of one bank. -/
def Ss.fir (v : Ss) (bank : Bool) : Int :=
  let n : Int := (v.acc / 2 ^ 32 : Nat)
  let p := v.acc % 2 ^ 32 / 2 ^ 27
  ((List.range 8).map (fun j => sget 0 v.taps (b2n bank * 256 + p + 32 * j) * v.x (n - j))).sum

/-- The filtered value as a fraction: numerator, denominator (R274). -/
def Ss.filtered (v : Ss) : Int × Int :=
  let old := v.fir v.fade.active
  match v.fade.fade with
  | some (t, k, l) => (old * l + (v.fir t - old) * (k + 1), l)
  | none => (old, 1)

/-- The corrected sample before saturation (R273). -/
def Ss.corrected (v : Ss) : Int :=
  let y := v.filtered
  roundDiv (y.1 * v.run.corrGain) (y.2 * 2 ^ 34) + v.run.corrOfs

/-- Swaps that marks ordered and whose instant has come (R275). -/
def Ss.markSwaps (v : Ss) (t : Nat) : Ss :=
  let due := v.swaps.filter (fun x => x.1 ≤ t)
  { v with swaps := v.swaps.filter (fun x => t < x.1),
           fade := due.foldl (fun f x => f.request (¬ f.active) x.2) v.fade }

/-- The next input sample the stream needs is not there (R272). -/
def Ss.starved (v : Ss) : Bool := v.base + v.buf.length ≤ v.acc / 2 ^ 32

/-- The accumulator moves on and used samples leave the buffer. -/
def Ss.moveOn (v : Ss) (ratio : Nat) : Ss :=
  let acc := v.acc + ratio
  let keep := acc / 2 ^ 32 - 7
  let d := min (keep - v.base) v.buf.length
  { v with acc := acc, base := v.base + d, buf := v.buf.drop d }

/-- One source sample at the grid instant of the stream's next index (R272 to R275, R279). -/
def ssSample (i : Fin 64) (s : State) : State :=
  let m : StreamId := .ss i
  let s := (s.frameBoundary m (s.ssAt i).samples).2
  let v := (s.ssAt i).markSwaps (s.gridAt m (s.ssAt i).run.next)
  let runs : Bool := ¬ v.run.held ∨ Config.sourceRunsWhileHeld
  if runs ∧ v.starved then
    ((s.setSs i { v with undr := v.samples }).strEnd m .aborted .underrun).raiseEvt (pgSsg i) 1
  else
    let y := v.corrected
    let z := clampInt (-32768) 32767 y
    let out := if v.run.held then v.last else z
    let s := s.sendSample m v.run.next out v.run.held
    let w := { v with last := out, samples := v.samples + 1, run := { v.run with next := v.run.next + 1 } }
    if ¬ runs then s.setSs i w
    else
      let w := { w with clips := sat32 (v.clips + b2n (decide (z ≠ y) && !v.run.held)), fade := w.fade.advance }
      let w := w.moveOn (s.reg64 (pgSsg i) 0x144)
      let s := s.setSs i w
      if v.fetched ∧ w.starved then s.strEnd m .done .complete else s

/-- SOURCE_SAMPLE_OUTPUT: at the grid instant; a stop of the completion cycle loses (R261). -/
def execSourceSampleOutput (i : Fin 64) (s : State) : Res :=
  let r := (s.ssAt i).run
  if r.startAt.isNone ∨ s.now * 4096 < s.gridAt (.ss i) r.next then .next s
  else if r.state = .running then .next (ssSample i s)
  else if r.stopEdge = s.now + 1 ∧ r.cause = .hostStop then
    let t := ssSample i (s.setRun (.ss i) { r with state := .running, cause := .none })
    .next (if (t.ssAt i).run.state = .done then t.strCmd (.ss i) 1 else s)
  else .next s

/-- SWAP_REQ (R275). -/
def swapReq (i : Nat) (target : Bool) (fadeM1 : BitVec 16) (s : State) : State :=
  let s := s.setReg (pgSsg i) 0x124 (BitVec.ofNat 32 (b2n target * 65536 + fadeM1.toNat))
  let v := s.ssAt i
  if v.markEdge = s.now + 1 then
    s.setSs i { v with fade := { v.fade with superseded := sat32 (v.fade.superseded + 1) } }
  else s.setSs i { v with fadeOld := some (s.now + 1, v.fade), fade := v.fade.request target (fadeM1.toNat + 1) }
def execSwapReq (i : Fin 64) (target : Bool) (fadeM1 : BitVec 16) (s : State) : Res :=
  .next (s.whenReady (pgSsg i) (swapReq i target fadeM1))

/-- The bank of a tap write is in use (R276). -/
def Fade.busy (f : Fade) (b : Bool) : Bool :=
  b == f.active || (f.fade.any (fun x => x.1 == b)) || (f.waiting.any (fun x => x.1 == b))

/-- COEF_DATA (R276). -/
def coefData (i : Nat) (v : Word32) (s : State) : State :=
  let a := s.regN (pgSsg i) 0x130 % 512
  let w := s.ssAt i
  if w.fade.busy (decide (a ≥ 256)) then s.recordErr (pgSsg i) 0x0045
  else (s.setSs i { w with taps := sput w.taps a (v.extractLsb' 0 18).toInt }).setReg (pgSsg i) 0x134 (v &&& 0x3FFFF)
def execCoefData (i : Fin 64) (v : Word32) (s : State) : Res :=
  if v &&& 0xFFFC0000 ≠ 0 then .fault (.undefinedBehaviour 2) else .next (s.whenReady (pgSsg i) (coefData i v))

end Sys2Proof.Machine
end

