-- ==== Sys2Proof/Machine/CalCmd.lean ====
section
/-! DEFINITION. Commands of the calibration unit and of the fuses (R318 to R336). -/
namespace Sys2Proof.Machine

/-! ### Targets (R318, R319) -/

/-- Indices of a kind; 0 for a reserved kind. -/
def kindCount (k : Nat) : Nat := [0, 512, 512, 512, 512, 64, 64, 32, 32, 1, 16].getD k 0
def targetOk (k i : Nat) : Bool := i < kindCount k

/-- The stream of a converter target. -/
def convStream (k i : Nat) : StreamId := if k = 5 then .ms (Fin.ofNat 64 i) else .ss (Fin.ofNat 64 i)

/-- The bank a target is measured on. -/
def calBank (k i : Nat) : Option Nat :=
  if k = 1 ∨ k = 2 ∨ k = 3 ∨ k = 4 then some (i / 32) else if k = 10 then some i else none

/-- The resource of a target is free for CAL (R318). -/
def State.calFree (s : State) (k i : Nat) : Bool :=
  match calBank k i with
  | some b => (s.bankAt b).state = .on ∧ s.bankUsers b = []
  | none =>
    if k = 5 ∨ k = 6 then
      let m := convStream k i
      let r := s.runAt m
      (¬ r.inProgress ∧ ¬ r.arming) ∨ (r.state = .running ∧ bit (s.reg (pgStr m) 0x100) 0)
    else if k = 7 ∨ k = 8 then ¬ (s.timAt i).inProgress ∧ ¬ (s.timAt i).arming
    else true

/-- The kind is enabled in CTRL. -/
def State.calEnabled (s : State) (k : Nat) : Bool :=
  let c := s.reg pgCal 0x100
  if k = 1 ∨ k = 9 then bit c 0 else if k = 2 ∨ k = 10 then bit c 1 else if k = 4 then bit c 3
  else if k = 5 ∨ k = 6 then bit c 4 else if k = 7 ∨ k = 8 then bit c 5 else false

/-- A target that CAL schedules whatever the temperature: never measured since boot, its period over, SYNC due, or
requested. -/
def State.calScheduled (s : State) (k i : Nat) : Bool :=
  let old : Bool := match (s.fig k i).last with
    | none => true
    | some e => e + s.regN pgCal 0x110 * edgesSec ≤ s.now
  s.cal.runReq = some (k, i) ∨ (s.calEnabled k ∧ ((k = 9 ∧ s.cal.syncDue) ∨ old))

/-- A target a temperature change may schedule. -/
def State.calTempMay (s : State) (k : Nat) : Bool := (k = 1 ∨ k = 2 ∨ k = 4) ∧ s.calEnabled k ∧ fld (s.reg pgCal 0x100) 16 8 ≠ 0

/-- Kinds in the order CAL takes them. -/
def kindOrder : List Nat := [1, 9, 8, 5, 6, 2, 7, 10, 4]

/-- A scheduled free target stands before `(k, i)`. -/
def State.calBefore (s : State) (k i : Nat) : Bool :=
  (kindOrder.takeWhile (· ≠ k)).any (fun k' =>
    (List.range (kindCount k')).any (fun j => s.calScheduled k' j ∧ s.calFree k' j)) ∨
  (List.range i).any (fun j => s.calScheduled k j ∧ s.calFree k j)

/-! ### Start, release, abort -/

/-- CAL takes a target. -/
def State.calStart (s : State) (k i : Nat) : State :=
  let s := { s with cal := { s.cal with running := some (k, i),
                                        runReq := if s.cal.runReq = some (k, i) then none else s.cal.runReq } }
  let s := s.setFig k i { s.fig k i with pending := false }
  match calBank k i with
  | some b => s.setBank b { s.bankAt b with calBusy := true }
  | none =>
    if k = 5 ∨ k = 6 then
      let m := convStream k i
      let r := s.runAt m
      s.setRun m (if r.state = .running then { r with holdNext := some true } else { r with held := true })
    else s

/-- CAL gives its target up; what waited for it goes on (R18, R189, R296). -/
def State.calLeave (s : State) : State :=
  match s.cal.running with
  | none => s
  | some (k, i) =>
    let s := { s with cal := { s.cal with running := none, wanted := false } }
    match calBank k i with
    | some b => s.setBank b { s.bankAt b with calBusy := false }
    | none =>
      if k = 5 ∨ k = 6 then
        let m := convStream k i
        let r := s.runAt m
        if r.state = .running then s.setRun m { r with holdNext := if r.held then some false else none }
        else (s.setRun m { r with held := false, holdNext := none }).strTryArmed m
      else if (k = 7 ∨ k = 8) ∧ (s.timAt i).arming then s.timArmed i
      else s

/-- CAL_MEASUREMENT_START (R318, R319). -/
def execCalMeasurementStart (t : CalTarget) (s : State) : Res :=
  let k := t.kind
  let i := t.index
  .next (if s.ready pgCal ∧ targetOk k i ∧ k ≠ 3 ∧ s.cal.running.isNone ∧ s.calFree k i ∧
      (s.calScheduled k i ∨ s.calTempMay k) ∧ ¬ s.calBefore k i then s.calStart k i else s)

/-- An arm or a command needs the resource CAL measures on. -/
def State.calWanted (s : State) (k i : Nat) : Bool :=
  s.cal.wanted || match calBank k i with
  | some b => decide ((s.bankAt b).state ≠ .on ∨ s.bankUsers b ≠ [])
  | none => if k = 5 ∨ k = 6 then (s.runAt (convStream k i)).arming else (k = 7 ∨ k = 8) ∧ (s.timAt i).arming

/-- CAL_RELEASE (R18, R189, R296): the partial measurement is discarded. -/
def execCalRelease (t : CalTarget) (s : State) : Res :=
  .next (if s.cal.running = some (t.kind, t.index) ∧ s.calWanted t.kind t.index then s.calLeave else s)

def calCmd (s : State) (code : Nat) : State := { s with cal := { s.cal with cmdStat := code } }

/-- CAL_RUN (R319, R337): started, queued, or a bad target. -/
def calRun (s : State) : State :=
  let w := s.reg pgCal 0x10C
  let k := fld w 28 4
  let i := fld w 0 16
  if ¬ targetOk k i then calCmd s 3
  else if k = 3 then calCmd s 0
  else if s.cal.running.isNone ∧ s.calFree k i then calCmd (s.calStart k i) 0
  else
    let s := match s.cal.runReq with
      | some (a, b) => s.setFig a b { s.fig a b with pending := false }
      | none => s
    let s := { s with cal := { s.cal with runReq := some (k, i) } }
    calCmd (s.setFig k i { s.fig k i with pending := true }) 2
def execCalRun (s : State) : Res := .next (s.whenReady pgCal calRun)

/-- CAL_ABORT (R337). -/
def execCalAbort (s : State) : Res :=
  .next (s.whenReady pgCal (fun s => if s.cal.running.isSome then calCmd s.calLeave 0 else calCmd s 1))

/-- EXT_DATA (R317, R337): a new external path correction is staged. -/
def extData (v : Word32) (s : State) : State :=
  let w := s.reg pgCal 0x180
  let c := fld w 0 9
  let x := fld w 16 2
  let d := v.extractLsb' 0 16
  if x = 3 then s
  else ({ s with cal := { s.cal with ext := sput s.cal.ext (3 * c + x) d } }).stage c (.ext x d.toInt)
def execExtData (v : Word32) (s : State) : Res :=
  if v &&& 0xFFFF0000 ≠ 0 then .fault (.undefinedBehaviour 2) else .next (s.whenReady pgCal (extData v))

/-! ### Results (R320 to R325) -/

/-- A rounded quotient for a divisor of either sign. -/
def roundQuot (n d : Int) : Int := if d < 0 then roundDiv (-n) (-d) else roundDiv n d

/-- Events collected: 2 to the NLOG2. -/
def State.calEvents (s : State) : Nat := 2 ^ fld (s.reg pgCal 0x114) 0 5

/-- The linearised codes of a histogram of `n` events (R320): E_i in units of 0.5 ps. -/
def densityTable (l : List Nat) (n : Nat) : List Int :=
  ((l.foldl (fun (a : Nat × List Int) x => (a.1 + x, a.2 ++ [(roundNat (625 * (2 * a.1 + x)) (2 * n) : Int)])) (0, [])).2)

/-- The standard-error bound in 0.01 ps, half up. -/
def densityBound (n : Nat) : Nat := (isqrt (31250 * 31250 / n) 40 0 + 1) / 2

/-- Gain and offset of a measure converter from its reference readings (R324). -/
def convFit (mlo mhi vlo vhi : Int) (s : State) : (Int × Int) × State :=
  if mhi = mlo ∨ vhi = vlo then
    let a := s.fresh 20
    let b := a.2.fresh 18
    ((a.1.toNat, b.1.toInt), b.2)
  else ((roundQuot (2 ^ 18 * (vhi - vlo)) (mhi - mlo), roundQuot (mlo * (vhi - vlo) - vlo * (mhi - mlo)) (vhi - vlo)), s)

def State.stageConv (s : State) (k : Nat) (g o : Int) : State :=
  { s with cal := { s.cal with stagedConv := sput s.cal.stagedConv k (s.now, g, o) } }

/-- Stage a correction of a TIM unit; it is in force for an arm of the same cycle (R327). -/
def State.stageTim (s : State) (u : Nat) (f : StagedTim → StagedTim) : State :=
  let s := { s with cal := { s.cal with stagedTim := sput s.cal.stagedTim u { f (sget {} s.cal.stagedTim u) with edge := s.now } } }
  if (s.timAt u).inProgress ∧ (s.timAt u).armedAt = s.now then s.timEnter u else s

/-- The new SYNC term goes to every channel and every TIM unit (R325). -/
def State.stageSync (s : State) (v : Int) : State :=
  let s := foldState (List.range 512) (fun c s => s.stage c (.sync v)) s
  foldState (List.range 32) (fun u s => s.stageTim u (fun g => { g with sync := some v })) s

/-- What a measurement of target `(k, i)` stages; none where it does not fit the target. Answers whether it is
rejected, and the result figure where the spec gives one. -/
def calResult (k i : Nat) (m : CalMeas) (s : State) : Option (Bool × Option Int × State) :=
  match k, m with
  | 1, .deskew d e c => some (false, none, s.stage i (.deskew d e c))
  | 2, .lin d g => some (false, none, s.stage i (.lin d g))
  | 4, .serial v => let v := clampInt (-32) 31 v; some (false, some v, s.stage i (.serial v))
  | 5, .conv mlo mhi =>
    let p := s.plAt (s.strPl (convStream 5 i))
    let c := s.strConv (convStream 5 i)
    let r := convFit mlo mhi (BitVec.ofNat 18 (p.vlo.getD c 0)).toInt (BitVec.ofNat 18 (p.vhi.getD c 0)).toInt s
    some (false, none, r.2.stageConv i r.1.1 r.1.2)
  | 6, .fit g o => some (false, none, s.stageConv (64 + i) g o)
  | 7, .codes l =>
    if l.length ≠ 625 ∨ l.any (· = 0) then some (true, none, s)
    else some (false, none, s.stageTim i (fun g => { g with tab := some (densityTable l s.calEvents) }))
  | 8, .taps l => some (false, none, s.stageTim i (fun g => { g with taps := some l }))
  | 9, .sync =>
    let v := Config.syncCorr s.sync.phase ((s.reg (pgTime 0) 0x208).extractLsb' 0 18).toInt (s.trim 3).toInt
    some (false, some v, { s.stageSync v with cal := { (s.stageSync v).cal with syncDue := false } })
  | 10, .codes l =>
    if l.length ≠ 625 ∨ l.any (· = 0) then some (true, none, s)
    else some (false, none, ({ s with cal := { s.cal with
      bankTab := sput s.cal.bankTab i (densityTable l s.calEvents), syncDue := true } }).figEnter 10 i)
  | _, _ => none

/-- CAL_MEASUREMENT_DONE (R320 to R325, R329): the result is staged or rejected, its figures are kept, and the target is
given up. -/
def calDone (k i : Nat) (m : CalMeas) (temp : Int) (resid : Nat) (s : State) : State :=
  match calResult k i m s with
  | none => s
  | some (bad, res, s) =>
    let f := s.fig k i
    let q := if k = 7 ∨ k = 10 then densityBound s.calEvents else resid
    let r := match res with
      | some v => (v, s)
      | none => let x := s.fresh 16; (x.1.toInt, x.2)
    let s := r.2.setFig k i (if bad then { f with insufficient := true }
      else { f with insufficient := false, temp := temp, value := q, result := r.1, last := some s.now })
    s.calLeave
def execCalMeasurementDone (m : CalMeas) (temp : Int) (resid : Nat) (s : State) : Res :=
  match s.cal.running with
  | some (k, i) => .next (calDone k i m temp resid s)
  | none => .next s

/-- Corrections of streams and TIM units not in use enter force at the second edge after staging (R326). -/
def State.calSettleUnits (s : State) : State :=
  let s := foldState allStreams (fun m s =>
    if (s.runAt m).inProgress then s
    else let k := (s.runAt m).corrOut; s.convEnter m (s.now - 1) k) s
  foldState (List.range 32) (fun u s =>
    match s.cal.stagedTim.find? (fun x => x.1 = u) with
    | some (_, g) => if ¬ (s.timAt u).inProgress ∧ g.edge + 2 ≤ s.now then s.timEnter u else s
    | none => s) s

/-! ### Fuses (R330 to R336) -/

def State.fuseWord (s : State) (i : Nat) : Word32 := sget 0 s.fuse.words i
def State.setFuse (s : State) (f : Fuse) : State := { s with fuse := f }

/-- First fuse word of record block `b`, and the number of blocks. -/
def blockWord (b : Nat) : Nat := 576 + 8 * b
def fuseBlocks : Nat := 184
def recordMagic : Word32 := 0xCA1B4EC0
def recordCommit : Word32 := 0x5AC396E1

/-- Words of `n` blocks from block `b`. -/
def State.blockWords (s : State) (b n : Nat) : List Word32 := (List.range (8 * n)).map (fun k => s.fuseWord (blockWord b + k))

/-- Length and generation of a valid header (R333). -/
def headerOf (w : List Word32) : Option (Nat × Nat) :=
  let a := w.getD 1 0
  let g := w.getD 3 0
  let len := fld a 0 8
  if w.getD 0 0 = recordMagic ∧ 1 ≤ len ∧ len ≤ 64 ∧ fld a 8 8 = 255 - len ∧ fld g 16 16 = 65535 - fld g 0 16 then
    some (len, fld g 0 16)
  else none

/-- The boot scan (R333): accepted records as generation and payload, blocks and records ignored, end of the used area. -/
def State.scanBlocks (s : State) : Nat → Nat → List (Nat × List Word32) → Nat → List (Nat × List Word32) × Nat × Nat
  | 0, b, acc, ign => (acc, ign, b)
  | n + 1, b, acc, ign =>
    let w := s.blockWords b 1
    if b ≥ fuseBlocks ∨ w.all (· = 0) then (acc, ign, b)
    else match headerOf w with
      | some (len, gen) =>
        let p := s.blockWords (b + 1) len
        if w.getD 7 0 = recordCommit ∧ w.getD 2 0 = crc32 (wordBytes p) then
          s.scanBlocks n (b + 1 + len) (acc ++ [(gen, p)]) ign
        else s.scanBlocks n (b + 1 + len) acc (ign + 1)
      | none => s.scanBlocks n (b + 1) acc (ign + 1)

/-- Records in the order in which they override each other (R334). -/
def recordOrder (l : List (Nat × List Word32)) : List (Nat × List Word32) :=
  l.foldl (fun acc r => acc.takeWhile (fun x => x.1 ≤ r.1) ++ [r] ++ acc.dropWhile (fun x => x.1 ≤ r.1)) []

/-- The items in force from records. -/
def recordItems (l : List (Nat × List Word32)) : Sparse (BitVec 16) :=
  (recordOrder l).foldl (fun m r => r.2.foldl (fun m e =>
    if fld e 16 16 = 0 ∨ fld e 16 16 ≥ 1024 then m else sput m (fld e 16 16) (e.extractLsb' 0 16)) m) []

/-- Boot: the fuses are scanned and the items take force (R316, R333, R334). -/
def State.fuseScan (s : State) : State :=
  let r := s.scanBlocks (fuseBlocks + 1) 0 [] 0
  s.setFuse { s.fuse with
    scanned := true, accepted := r.1.length, ignored := r.2.1, free := fuseBlocks - min r.2.2 fuseBlocks,
    lastGen := r.1.foldl (fun m x => max m x.1) 0, items := recordItems r.1 }

/-- VQPS is power good. -/
def State.vqps (s : State) : Bool := s.mgt.rails.getLsbD 6

/-- A burn request (R335): the refusal code, or the burn begins. -/
def State.burn (s : State) (len gen : Nat) : Option Nat × State :=
  let f := s.fuse
  if f.burn.isSome then (some 1, s)
  else if f.free < len + 1 then (some 2, s)
  else if ¬ s.vqps then (some 3, s)
  else if len = 0 ∨ len > 64 then (some 4, s)
  else
    let b := fuseBlocks - f.free
    let pay := (List.range (8 * len)).map (fun k => sget 0 f.buf k)
    let head : List Word32 := [recordMagic, BitVec.ofNat 32 ((255 - len) * 256 + len), crc32 (wordBytes pay),
      BitVec.ofNat 32 ((65535 - gen) * 65536 + gen)]
    let words := (head ++ pay).zipIdx.map (fun x => (blockWord b + (if x.2 < 4 then x.2 else x.2 + 4), x.1))
    (none, s.setFuse { f with free := f.free - (len + 1), burnBlock := b,
                              burn := some { block := b, words := words ++ [(blockWord b + 7, recordCommit)], edge := s.now } })

/-- BURN: a write of CTRL.BURN. -/
def execBurn (_path : Path) (s : State) : Res :=
  .next (s.whenReady pgFuse (fun s =>
    let c := s.reg pgFuse 0x110
    match s.burn (fld c 16 8) (fld c 0 16) with
    | (some code, s) => s.setFuse { s.fuse with cmdStat := code }
    | (none, s) => s))

/-- The word in progress stays partly programmed: a free subset of its bits is set (R332). Of a word that begins in this very
cycle no bit is programmed (R335). -/
def State.burnStop (s : State) : State :=
  match s.fuse.burn with
  | some { words := (a, v) :: _, edge := e, .. } =>
    if e = s.now then s.setFuse { s.fuse with burn := none } else
    let f := s.fresh 32
    f.2.setFuse { s.fuse with burn := none, words := sput s.fuse.words a (s.fuseWord a ||| (v &&& f.1)) }
  | _ => s.setFuse { s.fuse with burn := none }

/-- Edges of the 10 µs that a word takes. -/
def edgesWord : Nat := 4000

/-- FUSE_WORD_PROGRAMMED (R332): programming only sets bits; the read-back must show the word. -/
def execFuseWordProgrammed (ok : Bool) (s : State) : Res :=
  match s.fuse.burn with
  | some { block := b, words := (a, v) :: l, edge := e } =>
    if s.now < e + edgesWord then .next s
    else if ok ∧ s.fuseWord a ||| v = v then
      let f := { s.fuse with words := sput s.fuse.words a v }
      .next (s.setFuse (if l = [] then { f with burn := none, cmdStat := 0 } else { f with burn := some { block := b, words := l, edge := s.now } }))
    else if ok then
      .next (s.setFuse { s.fuse with burn := none, cmdStat := 5, words := sput s.fuse.words a (s.fuseWord a ||| v) })
    else .next (let t := s.burnStop; t.setFuse { t.fuse with cmdStat := 5 })
  | _ => .next s

/-- BUF_DATA (R335). -/
def execBufData (v : Word32) (s : State) : Res :=
  .next (s.whenReady pgFuse (fun s =>
    let a := fld (s.reg pgFuse 0x128) 0 9
    (s.setFuse { s.fuse with buf := sput s.fuse.buf a v }).setReg pgFuse 0x128 (BitVec.ofNat 32 ((a + 1) % 512))))

/-- VQPS_LOSS (R332, R399). -/
def execVqpsLoss (s : State) : Res :=
  .next ({ s with mgt := { s.mgt with rails := clrBit s.mgt.rails 6 } }).burnStop

end Sys2Proof.Machine
end

