-- ==== Sys2Proof/Machine/Time.lean ====
section
/-! DEFINITION. Time domains and SYNC (R299 to R314): steering, pairs, loads, two-way transfer, and what one PFCLK edge
does to the domains. Time is in units of 2.5 ns / 2^40. -/
namespace Sys2Proof.Machine

/-! ### Domains -/

def State.tdSrc (s : State) (d : Nat) : Nat := fld (s.reg (pgTime d) 0x100) 0 4
def State.tdPort (s : State) (d : Nat) : Nat := fld (s.reg (pgTime d) 0x100) 4 3
/-- Steered by PTM or over a Zheind port. -/
def State.steered (s : State) (d : Nat) : Bool := s.tdSrc d = 2 ∨ s.tdSrc d = 3
def State.modTd (s : State) (d : Nat) (f : TimeDom → TimeDom) : State := s.setTd d (f (s.tdAt d))
def State.modPair (s : State) (p : Nat) (f : TimePair → TimePair) : State := s.setPair p (f (s.pairAt p))

/-- Units in hundredths of a picosecond, saturated to 32 bits, and the other way. -/
def centiPs (x : Int) : Int := clampInt (-2147483648) 2147483647 (roundDiv (x * 250000) (2 ^ 40))
def ofCentiPs (x : Int) : Int := roundDiv (x * 2 ^ 40) 250000

/-- The domain takes a state; the pair notes that its active member leaves LOCKED. -/
def State.tdState (s : State) (d : Nat) (st : TdState) : State :=
  let v := s.tdAt d
  let act := s.pairEn d ∧ (s.pairAt (d / 2)).activeOdd = decide (d % 2 = 1)
  let s := s.setTd d { v with state := st }
  if act ∧ v.state = .locked ∧ st ≠ .locked then s.modPair (d / 2) (fun p => { p with left := true }) else s

/-- The pair records D after an update with both members steered and LOCKED (R309). -/
def State.pairRecord (s : State) (d : Nat) : State :=
  let a := d / 2 * 2
  let p := s.pairAt (d / 2)
  if s.pairEn d ∧ s.steered a ∧ s.steered (a + 1) ∧ (s.tdAt a).state = .locked ∧ (s.tdAt (a + 1)).state = .locked then
    let diff := ((s.tdAt (a + 1)).t : Int) - (s.tdAt a).t
    s.setPair (d / 2) { p with diff := if p.activeOdd then -diff else diff }
  else s

/-- Largest rate of a domain: SLEW_MAX in ppb. -/
def State.slewMax (s : State) (d : Nat) : Int := (s.regN (pgTime d) 0x16C : Int) * 2 ^ 40 / 10 ^ 9

/-- An update with offset `θ` (R307). The shifts apply to θ alone, as a proportional and integral loop needs (assumption 108). -/
def State.steer (s : State) (d : Nat) (θ : Int) : State :=
  let v := s.tdAt d
  let cfg := s.reg (pgTime d) 0x100
  let lim : Int := (s.regN (pgTime d) 0x168 : Int) * 2 ^ 41
  let v1 : TimeDom :=
    if bit cfg 8 ∧ (θ.natAbs : Int) * 5 > lim then { v with t := ((v.t : Int) - θ).toNat, stepCount := sat32 (v.stepCount + 1) }
    else
      let integ := v.integ - θ >>> fld (s.reg (pgTime d) 0x170) 0 8
      { v with integ := integ,
               rate := clampInt (-s.slewMax d) (s.slewMax d) (integ - θ >>> fld (s.reg (pgTime d) 0x170) 8 8) }
  let near : Bool := θ.natAbs * 5 < 2 ^ 41
  let good := if v.state = .holdover then b2n near else if near then v.good + 1 else 0
  let s := s.setTd d { v1 with good := good, missRun := 0, offset := centiPs θ }
  (s.tdState d (if good ≥ 8 ∧ v.state ≠ .holdover then .locked else .acquire)).pairRecord d

/-- The domain enters HOLDOVER (R307): the last rate, or a rate that follows the crystal, which the spec does not give. -/
def State.holdover (s : State) (d : Nat) : State :=
  if (s.tdAt d).state = .holdover then s
  else
    let s := if bit (s.reg (pgTime d) 0x100) 9 then
        let f := s.fresh 32
        f.2.modTd d (fun v => { v with rate := f.1.toInt })
      else s
    s.tdState d .holdover

/-- One interval of the source is missed. -/
def State.tdMiss (s : State) (d : Nat) : State :=
  let v := s.tdAt d
  let s := s.setTd d { v with missed := sat32 (v.missed + 1), missRun := v.missRun + 1, exch := none }
  if v.missRun + 1 ≥ 3 then s.holdover d else s

/-- PTM_EXCHANGE (R304): the offset of the domain from the host's time, in domain units; none without ResponseD. -/
def execPtmExchange (td : Fin 4) (theta : Option Int) (s : State) : Res :=
  let s := { s with pcie := { s.pcie with ptmOn := s.pcie.ptmOn || theta.isSome, ptmValid := theta.isSome } }
  .next (if s.tdSrc td = 2 then match theta with
    | some θ => s.steer td θ
    | none => s.tdMiss td
  else s)

/-- UPDATE_MISSED (R307). -/
def execUpdateMissed (td : Fin 4) (s : State) : Res := .next (if s.steered td then s.tdMiss td else s)

/-- The domains sourced over a lost port enter HOLDOVER (R372). -/
def State.timeLinkLost (s : State) (p : Nat) : State :=
  foldState (List.range 4) (fun d s => if s.tdSrc d = 3 ∧ s.tdPort d = p then
    (s.modTd d (fun v => { v with exch := none })).holdover d else s) s

/-! ### Two-way transfer (R305, R376) -/

/-- Short timestamp of a member's own time at `fine` fine steps into the cycle. -/
def State.ownStamp (s : State) (d fine : Nat) : Word64 :=
  let v := s.tdAt d
  shortTs ((v.t : Int) + (fine : Int) * (2 ^ 40 + v.rate) / 4096).toNat

/-- Time transfer runs on the port. -/
def State.timePort (s : State) (p : Nat) : Bool := (s.zpAt p).isUp ∧ (s.zpAt p).version = 2
/-- The chip is master of domain `d` on port `p`. -/
def State.servesTd (s : State) (d p : Nat) : Bool := bit (s.reg (pgTime d) 0x100) (16 + p)

/-- TT_SYNC_SEND: the transmit instant within the cycle is free. -/
def execTtSyncSend (port : Fin 6) (td : Fin 4) (s : State) : Res :=
  .next (if s.timePort port ∧ s.servesTd td port then
    let f := s.fresh 12
    f.2.send (.zp port (.ttSync td (f.2.stampAt td (f.2.now * 4096 + f.1.toNat))))
  else s)

/-- TT_SYNC arrives at a member: t2 and t3 are kept and TT_DREQ answers. -/
def execTtSync (port : Fin 6) (td : Fin 4) (t1 : Word64) (fine : Fin 4096) (s : State) : Res :=
  .next (if s.timePort port ∧ s.tdSrc td = 3 ∧ s.tdPort td = port.val then
    let f := s.fresh 12
    let s := f.2.modTd td (fun v => { v with exch := some (t1, f.2.ownStamp td fine, f.2.ownStamp td f.1.toNat) })
    s.send (.zp port (.ttDreq td))
  else s)

/-- TT_DREQ arrives at the master: TT_DRESP carries t4. -/
def execTtDreq (port : Fin 6) (td : Fin 4) (fine : Fin 4096) (s : State) : Res :=
  .next (if s.timePort port ∧ s.servesTd td port then
    s.zpSend port (.ttDresp td (s.stampAt td (s.now * 4096 + fine.val)))
  else s)

/-- TT_DRESP (R305): offset and delay of the member; one that answers no exchange is stale (R372). -/
def ttUpdate (p d : Nat) (t4 : Word64) (s : State) : State :=
  match (s.tdAt d).exch with
  | some (t1, t2, t3) =>
    let a := (t2 - t1).toInt * 1562500
    let b := (t4 - t3).toInt * 1562500
    let θ := (a - b) / 2 - ofCentiPs (s.reg (pgTime d) 0x150).toInt
    (s.modTd d (fun v => { v with exch := none, delay := centiPs ((a + b) / 2) })).steer d θ
  | none => s.modZp p (fun v => { v with stale := sat32 (v.stale + 1) })
def execTtDresp (port : Fin 6) (td : Fin 4) (t4 : Word64) (s : State) : Res :=
  .next (if s.timePort port ∧ s.tdSrc td = 3 ∧ s.tdPort td = port.val then ttUpdate port td t4 s else s)

/-! ### Pairs (R309 to R311) -/

/-- The members of a pair exchange roles. -/
def State.pairSwitch (s : State) (k : Nat) : State :=
  let p := s.pairAt k
  let m := fun (odd : Bool) => ((s.tdAt (2 * k + b2n odd)).t : Int)
  let ofs := p.ofs - p.diff
  s.setPair k { p with
    activeOdd := !p.activeOdd, ofs := ofs, diff := -p.diff, switchCount := sat32 (p.switchCount + 1), switchEdge := s.now + 1,
    switchStep := centiPs (m (!p.activeOdd) + ofs - (m p.activeOdd + p.ofs)), left := false }

/-- The standby member of a pair is LOCKED. -/
def State.standbyLocked (s : State) (k : Nat) : Bool :=
  (s.tdAt (2 * k + b2n (!(s.pairAt k).activeOdd))).state = .locked

/-- PAIR_SWITCH (R310, R311). -/
def pairSwitchCmd (d : Nat) (s : State) : State :=
  if ¬ s.pairEn d ∨ (s.pairAt (d / 2)).switchEdge = s.now + 1 then s
  else if s.standbyLocked (d / 2) then s.pairSwitch (d / 2)
  else s.recordErr (pgTime d) 0x0047
def execPairSwitch (td : Fin 4) (s : State) : Res := .next (s.whenReady (pgTime td) (pairSwitchCmd td))

/-! ### SYNC and GRID (R299, R300, R306) -/

/-- A pulse of this cycle has arrived after the edge at which the cycle began, so after what committed at that edge. -/
def State.pulsed (s : State) : Bool := match s.sync.pulseAt with | some t => s.now * 4096 < t | none => false

/-- A domain with an armed load takes it at the next edge. -/
def TimeDom.take (v : TimeDom) (now : Nat) : TimeDom := { v with loadPending := false, loadAt := some (now + 1) }

/-- LOAD: arms a load of a GRID domain. -/
def execTimeLoad (td : Fin 4) (s : State) : Res :=
  .next (s.whenReady (pgTime td) (fun s =>
    if s.tdSrc td = 1 then s.modTd td (fun v =>
      let v := { v with loadPending := true, loadEdge := s.now + 1 }
      if s.pulsed then v.take s.now else v)
    else s))

/-- The pulse at `t` fixes the phase (R299); CAL refreshes SYNC_CORR after it. -/
def State.fixPhase (s : State) (t : Nat) : State :=
  { s with sync := { s.sync with fixed := true, rephase := false, phase := t % 512, origin := s.now + 1, lastAt := some t },
           cal := { s.cal with syncDue := true } }

/-- REPHASE (R300). -/
def execRephase (s : State) : Res :=
  .next (s.whenReady (pgTime 0) (fun s =>
    if (List.range 64).any (fun q => s.inProgress q) ∨ s.anyStream ∨ s.anyTim then s.recordErr (pgTime 0) 0x0046
    else
      match s.sync.pulseAt with
      | some t => if s.pulsed then s.fixPhase t else { s with sync := { s.sync with rephase := true, rephaseEdge := s.now + 1 } }
      | none => { s with sync := { s.sync with rephase := true, rephaseEdge := s.now + 1 } }))

/-- Whether a pulse at `at` (fine steps) lies more than 128 fine steps (78.125 ps) from its expected instant. -/
def State.slipped (s : State) (t : Nat) : Bool :=
  let c := s.reg (pgTime 0) 0x200
  let p := fld c 0 24 * 16384
  match s.sync.lastAt with
  | some t0 => bit c 31 ∧ p ≠ 0 ∧ 128 < (t - t0) % p ∧ (t - t0) % p < p - 128
  | none => false

/-- What a pulse at `t` follows: a command that committed at an earlier edge, or at this one if the pulse is later. -/
def State.follows (s : State) (t e : Nat) : Bool := e ≤ s.now ∨ s.now * 4096 < t

/-- SYNC_PULSE: a pulse `off` fine steps into the cycle fixes the phase, or is checked; loads armed before it take effect at
the next edge. -/
def execSyncPulse (off : Fin 4096) (s : State) : Res :=
  let t := s.now * 4096 + off.val
  let s := { s with sync := { s.sync with ts := s.stampAt (fld (s.reg (pgTime 0) 0x200) 28 2) t, pulseAt := some t } }
  let s := foldState (List.range 4) (fun d s => s.modTd d (fun v =>
    if v.loadPending ∧ s.follows t v.loadEdge then v.take s.now else v)) s
  .next (if s.mgt.pllLocked ∧ (¬ s.sync.fixed ∨ (s.sync.rephase ∧ s.follows t s.sync.rephaseEdge)) then s.fixPhase t
    else if s.slipped t then ({ s with sync := { s.sync with slips := sat32 (s.sync.slips + 1) } }).raiseEvt (pgTime 0) 1
    else s)

/-! ### One PFCLK edge -/

/-- RATE in force of a domain (R302, R306, R307). -/
def State.effRate (s : State) (d : Nat) : Int :=
  if s.tdSrc d = 1 then 0 else if s.steered d then (s.tdAt d).rate else (s.reg (pgTime d) 0x144).toInt

/-- LOAD_TIME in units: seconds and fraction. -/
def State.loadTime (s : State) (d : Nat) : Nat :=
  let frac := s.regN (pgTime d) 0x120 + 2 ^ 32 * (s.regN (pgTime d) 0x124 % 2 ^ 16)
  let sec := s.regN (pgTime d) 0x128 + 2 ^ 32 * (s.regN (pgTime d) 0x12C % 2 ^ 16)
  sec * unitsPerSec + frac * 1562500

/-- A domain at the edge `s.now`: a load, or its advance. -/
def State.tdEdge (s : State) (d : Nat) : State :=
  let v := s.tdAt d
  let rate := s.effRate d
  if v.loadAt = some s.now then
    s.setTd d { v with t := s.loadTime d, rate := 0, loadAt := none, loaded := true, state := .free,
                       stepCount := sat32 (v.stepCount + 1) }
  else if s.tdSrc d = 1 ∧ ¬ v.loaded then s
  else s.setTd d { v with t := ((v.t : Int) + 2 ^ 40 + rate).toNat, rate := rate }

/-- `x` moved toward 0 by `n`. -/
def toward0 (x : Int) (n : Nat) : Int := if x.natAbs ≤ n then 0 else if x < 0 then x + n else x - n

/-- A pair at the edge: an automatic switch, then the slew of OFS (R309, R310). -/
def State.pairEdge (s : State) (k : Nat) : State :=
  let cfg := s.reg (pgTime (2 * k)) 0x10C
  let s := if bit cfg 31 ∧ bit cfg 30 ∧ (s.pairAt k).left ∧ s.standbyLocked k then s.pairSwitch k else s
  let p := s.pairAt k
  let valid : Bool := (s.tdAt (2 * k + b2n p.activeOdd)).state ≠ .holdover
  s.setPair k { p with left := false, ofs := if valid then toward0 p.ofs (fld cfg 0 16 * 2 ^ 40 / 10 ^ 9) else p.ofs }

/-- The time base at the edge `s.now`. -/
def State.timeEdge (s : State) : State :=
  foldState (List.range 2) (fun k s => s.pairEdge k) (foldState (List.range 4) (fun d s => s.tdEdge d) s)

end Sys2Proof.Machine
end

