-- ==== Sys2Proof/Machine/Hmc.lean ====
section
/-! DEFINITION. Commands of the HBM controller (R338 to R361): requests, issue order, completion, refresh, self-refresh,
scrubbing, rates, training and failures. -/
namespace Sys2Proof.Machine

def State.modHmc (s : State) (f : Hmc → Hmc) : State := { s with hmc := f s.hmc }
def State.modStack (s : State) (h : Nat) (f : HbmStack → HbmStack) : State := s.setStack h (f (s.stackAt h))

/-- The pseudo-channels of a stack. -/
def stackPcs (h : Nat) : List Nat := (List.range 32).map (fun j => 32 * h + j)

/-! ### Ports (R342 to R346) -/

/-- Urgency thresholds and target of a port, in PFCLK edges (R342); none for MT. -/
def portLevels (q : Nat) : List Nat :=
  [[120, 180, 216], [200, 300, 360], [400, 600, 720], [800, 1200, 1440], [1600, 2400, 2880], [2000, 3000, 3600],
   [4000, 6000, 7200], []].getD q []
def portTarget (q : Nat) : Option Nat :=
  [some 240, some 400, some 800, some 1600, some 3200, some 4000, some 8000, none].getD q none

/-- Urgency of a request (R343), and whether it is aged (R345 rule 1). -/
def HbmReq.urgency (r : HbmReq) (now : Nat) : Nat := ((portLevels r.port).filter (fun t => r.accepted + t ≤ now)).length
def HbmReq.aged (r : HbmReq) (now : Nat) : Bool :=
  match portTarget r.port with
  | some t => r.accepted + 4 * t ≤ now
  | none => r.accepted + 40000 ≤ now

/-- Bank and row of a local address under a map entry (R340). -/
def bankRow (hash : Bool) (l : Nat) : Nat × Nat :=
  let u := l / 1024
  let row := u / 48
  let bb := u / 3 % 16
  (16 * (u % 3) + (if hash then bb ^^^ (row % 16) else bb), row)

/-- HASH of the entry an address maps under. -/
def State.hashAt (s : State) (a : Nat) : Bool :=
  (List.range 16).any (fun p => let e := s.part p
    e.en ∧ e.base * 2 ^ 26 ≤ a ∧ a < (e.base + e.size) * 2 ^ 26 ∧ bit (s.reg pgHmc (0x210 + 0x20 * p)) 30)

/-- The pseudo-channel answers RESET: in reset or failed (R357, R358). -/
def PcUnit.down (v : PcUnit) : Bool := v.state = .resetting ∨ v.state = .failed

/-- A request enters its queue under the map in force (R341). -/
def State.acceptReq (s : State) (port : HbmPort) (addr : Nat) (owner : BitVec 16) : State :=
  let loc := s.locate addr
  let br := bankRow (s.hashAt addr) ((loc.map Prod.snd).getD 0)
  let forced := match loc with
    | none => some (HbmStatus.unmapped, s.now)
    | some x => if (s.pcAt x.1).down then some (HbmStatus.reset, s.now) else none
  let r : HbmReq := { id := s.hmc.nextId, port := portNo port, addr := addr, loc := loc, bank := br.1, row := br.2,
                      owner := owner.toNat, accepted := s.now, forced := forced }
  let s := s.modHmc (fun m => { m with reqs := m.reqs ++ [r], nextId := m.nextId + 1 })
  match loc with
  | some x => s.modStack (x.1 / 32) (fun v => { v with lastReq := s.now })
  | none => s

/-- A port that answers QUEUE_FULL (R342, R344). -/
def portMayRefuse (port : HbmPort) : Bool := port = .sw ∨ port = .we ∨ port = .ha

/-- Edges of 64 ns, rounded up to a whole edge. -/
def edgesRetry : Nat := 26

/-- A port answers QUEUE_FULL (R342): its REFUSED counts. A copy engine counts the refusal too, and it and a measure stream
try again after 64 ns (R235, R269). -/
def State.refuseReq (s : State) (q addr owner : Nat) : State :=
  let s := s.portRefuses q
  let again := [(addr, s.now + edgesRetry)]
  if 0x330 ≤ owner ∧ owner < 0x338 ∧ (s.copyRuns (owner - 0x330)).isSome then
    s.modCe (owner - 0x330) (fun v => { v with refused := sat32 (v.refused + 1), retries := v.retries ++ again })
  else if 0x240 ≤ owner ∧ owner < 0x280 then s.modMs (owner - 0x240) (fun v => { v with retries := v.retries ++ again })
  else s

/-- A request reaches a port: accepted, refused, or held back at its submitter while the queue is full. -/
def State.tryReq (s : State) (port : HbmPort) (addr : Nat) (owner : BitVec 16) : State :=
  let q := portNo port
  if ¬ s.portFull q then s.acceptReq port addr owner
  else if portMayRefuse port then s.refuseReq q addr owner.toNat else s

/-- HBM_REQUEST. -/
def execHbmRequest (port : HbmPort) (addr : Nat) (owner : BitVec 16) (s : State) : Res := .next (s.tryReq port addr owner)

/-- COPY_RETRY (R235): 64 ns have passed since the oldest refusal, and the request is made again through the HA port. -/
def execCopyRetry (c : Fin 8) (s : State) : Res :=
  match (s.ceAt c).retries with
  | (a, t) :: rest =>
    .next (if t ≤ s.now then (s.modCe c (fun v => { v with retries := rest })).tryReq .ha a (BitVec.ofNat 16 (pgCe c)) else s)
  | [] => .next s

/-- SW_RETRY (R269, R344): the same for a measure stream's refused submission to the SW port. -/
def execSwRetry (i : Fin 64) (s : State) : Res :=
  match (s.msAt i).retries with
  | (a, t) :: rest =>
    .next (if t ≤ s.now then (s.modMs i (fun v => { v with retries := rest })).tryReq .sw a (BitVec.ofNat 16 (pgMsf i)) else s)
  | [] => .next s

/-! ### Issue (R345, R347, R349) -/

/-- Refresh interval in edges: 3.9 µs over the factor. -/
def PcUnit.refInterval (v : PcUnit) : Nat := 1560 / v.refMult
/-- Eight intervals are owed: the refresh issues before any request. -/
def PcUnit.refreshFirst (v : PcUnit) (now : Nat) : Bool := v.refAt + 8 * v.refInterval ≤ now

/-- Queued requests of a pseudo-channel that its stack lets issue now. -/
def State.pcQueue (s : State) (pc : Nat) : List HbmReq :=
  let st := s.stackAt (pc / 32)
  s.hmc.reqs.filter (fun r => r.loc.map Prod.fst = some pc ∧ ¬ r.issued ∧ r.forced.isNone ∧
    ¬ (st.changing ∧ r.id ≥ st.holdFrom))

/-- Rank of R345, rules 1 to 3; smaller is better: aged and age, urgency, port. -/
def HbmReq.better (now : Nat) (a b : HbmReq) : Bool :=
  if a.aged now ∧ b.aged now then a.accepted < b.accepted
  else if a.aged now then true else if b.aged now then false
  else a.urgency now > b.urgency now ∨ (a.urgency now = b.urgency now ∧ a.port < b.port)

/-- A request of a queue can issue: it heads its bank, or hits the open row past requests of no higher rank, none of
its block, none passed 16 times. -/
def State.canIssue (s : State) (pc : Nat) (queue : List HbmReq) (r : HbmReq) : Bool :=
  let older := queue.filter (fun x => x.bank = r.bank ∧ x.id < r.id)
  let hit : Bool := match (s.pcAt pc).openRow.find? (fun e => e.1 = r.bank) with
    | some (_, row) => decide (row = r.row)
    | none => false
  older.isEmpty || (hit && older.all (fun x => ¬ x.better s.now r ∧ x.addr / 64 ≠ r.addr / 64 ∧ x.passed < 16))

/-- Distance of a bank from the pointer. -/
def bankDist (last b : Nat) : Nat := (b + 47 - last) % 48

/-- `a` stands before `b`: rank, then the rotating pick. -/
def reqFirst (now last : Nat) (a b : HbmReq) : Bool :=
  a.better now b ∨ (¬ b.better now a ∧ (bankDist last a.bank < bankDist last b.bank ∨
    (bankDist last a.bank = bankDist last b.bank ∧ a.id < b.id)))

/-- The first of a list under an order. -/
def firstBy {α : Type} (lt : α → α → Bool) : List α → Option α
  | [] => none
  | a :: l => match firstBy lt l with
    | some b => if lt b a then some b else some a
    | none => some a

/-- The request a pseudo-channel issues next. -/
def State.nextIssue (s : State) (pc : Nat) : Option HbmReq :=
  let v := s.pcAt pc
  if v.state ≠ .inService ∨ v.refreshFirst s.now then none
  else
    let q := s.pcQueue pc
    firstBy (reqFirst s.now v.lastBank) (q.filter (fun r => s.canIssue pc q r))

/-- REQUEST_ISSUE. -/
def execRequestIssue (pc : Fin 64) (s : State) : Res :=
  match s.nextIssue pc with
  | none => .next s
  | some r =>
    let s := s.modHmc (fun m => { m with reqs := m.reqs.map (fun x =>
      if x.id = r.id then { x with issued := true }
      else if x.loc.map Prod.fst = some pc.val ∧ ¬ x.issued ∧ x.bank = r.bank ∧ x.id < r.id then { x with passed := x.passed + 1 }
      else x) })
    .next (s.modPc pc (fun v => { v with lastBank := r.bank, openRow := sput v.openRow r.bank r.row }))

/-! ### Completion (R343, R346, R351, R357 to R359) -/

/-- A reply is stale at its requester: the STALE_REPLY of its page counts (R32). -/
def State.countStale (s : State) (page : Nat) : State :=
  if 0x100 ≤ page ∧ page < 0x140 then s.modSeq (page - 0x100) (fun v => { v with stale := sat32 (v.stale + 1) })
  else if 0x180 ≤ page ∧ page < 0x200 then s.modCap (page - 0x180) (fun v => { v with stale := sat32 (v.stale + 1) })
  else if 0x240 ≤ page ∧ page < 0x280 then
    s.modMs (page - 0x240) (fun v => { v with run := { v.run with stale := sat32 (v.run.stale + 1) } })
  else if 0x280 ≤ page ∧ page < 0x2C0 then
    s.modSs (page - 0x280) (fun v => { v with run := { v.run with stale := sat32 (v.run.stale + 1) } })
  else if page = 0x300 then { s with sch := { s.sch with stale := sat32 (s.sch.stale + 1) } }
  else if 0x310 ≤ page ∧ page < 0x328 then s.modWe (page - 0x310) (fun v => { v with stale := sat32 (v.stale + 1) })
  else if 0x330 ≤ page ∧ page < 0x338 then s.modCe (page - 0x330) (fun v => { v with stale := sat32 (v.stale + 1) })
  else s

/-- Outstanding requests of a pseudo-channel will complete with RESET (R357, R358). -/
def State.forceReset (s : State) (pc : Nat) : State :=
  s.modHmc (fun m => { m with reqs := m.reqs.map (fun r =>
    if r.loc.map Prod.fst = some pc ∧ r.forced.isNone then { r with forced := some (.reset, s.now) } else r) })

/-- A pseudo-channel fails in service (R358): its requests end with RESET. The map stays. -/
def State.pcFails (s : State) (pc : Nat) : State :=
  let v := s.pcAt pc
  if v.state = .inService ∨ v.state = .selfRefresh then
    let s := (s.setPc pc { v with state := .failed }).forceReset pc
    s.modHmc (fun m => { m with degraded := true, pcOk := clrBit m.pcOk pc })
  else s

/-- One second, in edges. -/
def edgesSecond : Nat := 400000000

/-- An uncorrectable error at an address (R351). UE_LIMIT of them within one second fail the pseudo-channel (R358). -/
def State.ueAt (s : State) (x : Nat × Nat) (addr : Nat) : State :=
  let k := hbmKey x / 64
  let s := { s with hbmBad := if s.hbmBad.contains k then s.hbmBad else s.hbmBad ++ [k] }
  let late := s.now :: (s.pcAt x.1).ueEdges.filter (fun e => s.now < e + edgesSecond)
  let s := s.modPc x.1 (fun v => { v with ueCount := sat32 (v.ueCount + 1), ueAddr := addr, ueEdges := late })
  let s := s.raiseEvt (pgPc x.1) 1
  if (s.reg pgHmc 0x120).toNat ≤ late.length then s.pcFails x.1 else s

/-- A corrected error. -/
def State.ceErrAt (s : State) (x : Nat × Nat) (addr : Nat) : State :=
  s.modPc x.1 (fun v => { v with ceCount := sat32 (v.ceCount + 1), ceAddr := addr })

/-- Counters of a port at a completion, latency in ns (2.5 ns an edge). -/
def State.served (s : State) (r : HbmReq) : State :=
  let v := s.hportAt r.port
  let lat := s.now - r.accepted
  let late : Bool := match portTarget r.port with | some t => t < lat | none => false
  s.setHport r.port { v with served := v.served + 1, late := sat32 (v.late + b2n late), maxLat := max v.maxLat (sat32 (lat * 5 / 2)) }

/-- A stack whose change waits only for its outstanding requests begins to train (R355). -/
def State.changeTrains (s : State) (h : Nat) : State :=
  let v := s.stackAt h
  if v.changing ∧ ¬ v.training ∧ ¬ s.hmc.reqs.any (fun r => r.id < v.holdFrom ∧ (r.loc.map (fun x => x.1 / 32)) = some h) then
    let s := s.setStack h { v with training := true, step := 0, rate := v.target, selfRefresh := true }
    foldState (stackPcs h) (fun n s => s.modPc n (fun p =>
      if p.state = .inService ∨ p.state = .selfRefresh then { p with state := .training } else p)) s
  else s

/-- Status a request completes with: one fixed before, unless its completion falls in that cycle (R357). -/
def HbmReq.final (r : HbmReq) (now : Nat) (res : HbmStatus) : Option HbmStatus :=
  match r.forced with
  | some (.reset, e) => if r.issued ∧ e = now then some res else some .reset
  | some (st, _) => some st
  | none => if r.issued then some res else none

/-- Effect of a completion with status `st`. -/
def State.completeReq (s : State) (r : HbmReq) (st : HbmStatus) (ce : Bool) : State :=
  let s := s.modHmc (fun m => { m with reqs := m.reqs.filter (fun x => x.id ≠ r.id) })
  let s := s.served r
  let s := if r.stale then s.countStale r.owner else s
  match r.loc with
  | some x =>
    let s := s.modStack (x.1 / 32) (fun v => { v with lastReq := s.now })
    let s := if st = .ecc then s.ueAt x r.addr else if ce ∧ st = .ok then s.ceErrAt x r.addr else s
    s.changeTrains (x.1 / 32)
  | none => s

/-- An earlier request to the same block is outstanding: the two complete in the order in which they entered (R347). -/
def State.blockOrdered (s : State) (r : HbmReq) : Bool :=
  r.loc.isSome ∧ s.hmc.reqs.any (fun x => x.id < r.id ∧
    x.loc.map (fun l => hbmKey l / 64) = r.loc.map (fun l => hbmKey l / 64))

/-- HBM_REQUEST_COMPLETE. -/
def execHbmRequestComplete (id : Nat) (res : HbmStatus) (ce : Bool) (s : State) : Res :=
  match s.hmc.reqs.find? (fun r => r.id = id) with
  | some r => match r.final s.now res with
    | some st => .next (if s.blockOrdered r then s else s.completeReq r st ce)
    | none => .next s
  | none => .next s

/-! ### Refresh, temperature, self-refresh (R349, R350) -/

/-- REFRESH: the interval has elapsed; the next bank is refreshed. -/
def execRefresh (pc : Fin 64) (s : State) : Res :=
  let v := s.pcAt pc
  .next (if v.state = .inService ∧ v.refAt + v.refInterval ≤ s.now then
    s.setPc pc { v with refAt := v.refAt + v.refInterval, refBank := (v.refBank + 1) % 48 } else s)

/-- STACK_TEMP_READ: factor 2 from 85 °C, 4 and HOT from 95 °C. -/
def execStackTempRead (st : Fin 2) (temp : Int) (s : State) : Res :=
  let m := if temp ≥ 95 then 4 else if temp ≥ 85 then 2 else 1
  let s := foldState (stackPcs st) (fun n s => s.modPc n (fun v => { v with temp := temp, refMult := m })) s
  .next (s.modHmc (fun h => { h with hot := (List.range 64).any (fun n => (s.pcAt n).temp ≥ 95) }))

/-- A request waits for or runs on a stack. -/
def State.stackUsed (s : State) (h : Nat) : Bool :=
  s.hmc.reqs.any (fun r => (r.loc.map (fun x => x.1 / 32)) = some h ∧ r.forced.isNone)

/-- SELF_REFRESH_ENTRY: idle for SR_IDLE µs. -/
def execSelfRefreshEntry (st : Fin 2) (s : State) : Res :=
  let v := s.stackAt st
  let c := s.reg pgHmc 0x100
  if bit c 31 ∧ ¬ v.selfRefresh ∧ ¬ v.changing ∧ ¬ v.training ∧ ¬ s.stackUsed st ∧ v.lastReq + fld c 0 16 * edgesUs ≤ s.now then
    let s := s.setStack st { v with selfRefresh := true }
    .next (foldState (stackPcs st) (fun n s => s.modPc n (fun p =>
      if p.state = .inService then { p with state := .selfRefresh } else p)) s)
  else .next s

/-- SELF_REFRESH_EXIT: a request waits, and the stack is back. It refreshed itself meanwhile. -/
def execSelfRefreshExit (st : Fin 2) (s : State) : Res :=
  let v := s.stackAt st
  if v.selfRefresh ∧ ¬ v.training ∧ s.stackUsed st then
    let s := s.setStack st { v with selfRefresh := false }
    .next (foldState (stackPcs st) (fun n s => s.modPc n (fun p =>
      if p.state = .selfRefresh then { p with state := .inService, refAt := s.now } else p)) s)
  else .next s

/-! ### Scrubbing (R352) -/

/-- SCRUB: the corrected block is written back unchanged; an uncorrectable one is counted and left. -/
def execScrub (addr : Nat) (ce ue : Bool) (s : State) : Res :=
  match s.locate addr with
  | some x =>
    if (s.pcAt x.1).state ≠ .inService then .next s
    else if ue ∨ s.hbmBad.contains (hbmKey x / 64) then .next (s.ueAt x addr)
    else .next (if ce then s.ceErrAt x addr else s)
  | none => .next s

/-! ### Rate changes and training (R353 to R356) -/

def State.freqStat (s : State) (code : Nat) : State := s.modHmc (fun m => { m with freqStat := code })

/-- Training of a stack starts again from its first step at a rate (R356). -/
def State.retrain (s : State) (h rate : Nat) : State :=
  let s := s.modStack h (fun v => { v with training := true, step := 0, rate := rate, target := rate, deferred := none })
  (foldState (stackPcs h) (fun n s => s.modPc n (fun p =>
    if p.state = .inService ∨ p.state = .selfRefresh then { p with state := .training } else p)) s).freqStat 1

/-- FREQ_REQ (R355, R356): refused, deferred to a step end, or started. -/
def freqReq (h rate : Nat) (s : State) : State :=
  let s := s.setReg pgHmc 0x114 (BitVec.ofNat 32 (256 * h + rate))
  let v := s.stackAt h
  if (List.range 64).any (fun q => s.inProgress q) ∨ s.anyStream then s.freqStat 3
  else if v.stepEdge = s.now + 1 then s.retrain h rate
  else if v.training then (s.setStack h { v with deferred := some rate }).freqStat 2
  else if (s.stackAt 0).changing ∨ (s.stackAt 1).changing then s.freqStat 4
  else ((s.setStack h { v with changing := true, target := rate, holdFrom := s.hmc.nextId }).freqStat 1).changeTrains h
def execFreqReq (st : Fin 2) (rate : Fin 4) (s : State) : Res := .next (s.whenReady pgHmc (freqReq st rate))

/-- PART0 over the pseudo-channels in service (R341, R354): base 0, a size of 12 per pseudo-channel, grain 12, HASH. -/
def State.buildPart0 (s : State) : State :=
  let ok := s.hmc.pcOk
  let n := (setBits ok).length
  let s := (s.setReg pgHmc 0x200 0).setReg pgHmc 0x204 (BitVec.ofNat 32 (12 * n))
  let s := (s.setReg pgHmc 0x208 (lo32 ok)).setReg pgHmc 0x20C (hi32 ok)
  let s := s.setReg pgHmc 0x210 (if n = 0 then 0 else 0xC4000000)
  s.modHmc (fun m => { m with capacity := 768 * n })

/-- The report of a training pass: pseudo-channels that trained enter service or fail (R353, R354). -/
def State.trainReport (s : State) (h : Nat) (rep : TrainRep) : State :=
  let s := foldState (List.range 32) (fun j s =>
    let n := 32 * h + j
    let v := s.pcAt n
    if v.state = .training ∨ v.state = .resetting then
      let bad := rep.failed.getLsbD j
      let s := s.setPc n { v with state := if bad then .failed else .inService, fom := rep.fom.getD j 0,
                                  laneRepaired := rep.repaired.getLsbD j, refAt := s.now }
      let s := if (s.hdrAt (pgPc n)).busy then s.pageResetDone (pgPc n) else s
      s.modHmc (fun m => { m with pcOk := if bad then clrBit m.pcOk n else setBit m.pcOk n })
    else s) s
  let s := s.modHmc (fun m => { m with degraded := (List.range 64).any (fun n => (s.pcAt n).state = .failed) })
  if (stackPcs h).any (fun n => (s.pcAt n).state = .failed) then s.raiseEvt pgHmc 1 else s

/-- A training pass runs on a stack: its own, or of a pseudo-channel that was reset. -/
def State.stackTrains (s : State) (h : Nat) : Bool :=
  (s.stackAt h).training ∨ (stackPcs h).any (fun n => (s.pcAt n).state = .resetting ∨ (s.pcAt n).state = .training)

/-- A stack is powered and begins to train. -/
def State.stackPower (s : State) (h : Nat) : State :=
  foldState (stackPcs h) (fun n s => s.modPc n (fun p => { p with state := .training }))
    (s.modStack h (fun v => { v with training := true, step := 0 }))

/-- Boot goes on after a stack's training: H1 after H0, then PART0 and the LINKS stage (R341, R354, R401). -/
def State.bootTrained (s : State) (h : Nat) : State :=
  if s.mgt.stage ≠ .hbm then s
  else if h = 0 then s.stackPower 1
  else
    let s := s.buildPart0
    { s with mgt := { s.mgt with stage := .links, linksAt := some s.now } }

/-- HBM_TRAINING_STEP_END (R356): a deferred rate restarts training; a report ends it. -/
def hbmStep (h : Nat) (rep : Option TrainRep) (s : State) : State :=
  let v := s.stackAt h
  match v.deferred, rep with
  | some r, _ => (s.retrain h r).modStack h (fun v => { v with stepEdge := s.now + 1 })
  | none, none => s.setStack h { v with step := v.step + 1, stepEdge := s.now + 1 }
  | none, some rep =>
    let s := s.setStack h { v with training := false, changing := false, selfRefresh := false, step := 0, stepEdge := s.now + 1 }
    let s := (s.trainReport h rep).bootTrained h
    if v.changing then s.freqStat 0 else s
def execHbmTrainingStepEnd (st : Fin 2) (rep : Option TrainRep) (s : State) : Res :=
  .next (if s.stackTrains st then hbmStep st rep s else s)

/-! ### Resets and failures (R357, R358) -/

/-- A soft reset of a pseudo-channel page (R357): contents lost, training again. -/
def pcReset (pc : Nat) (s : State) : State :=
  let s := (s.forceReset pc).hbmLose pc
  let s := s.modPc pc (fun v => { v with state := .resetting, dataLost := true, openRow := [] })
  s.modHmc (fun m => { m with pcOk := clrBit m.pcOk pc })

/-- PC_FAIL: the PHY loses lock, or UE_LIMIT is reached (R358). -/
def execPcFail (pc : Fin 64) (s : State) : Res := .next (s.pcFails pc)

/-- A soft reset of the HMC page (R360). -/
def hmcReset (s : State) : State :=
  (s.modHmc (fun m => { m with ports := [] })).resetRegs pgHmc (fun off => off ≠ 0x100 ∧ off ≠ 0x11C ∧ off ≠ 0x120)

end Sys2Proof.Machine
end

