-- ==== Sys2Proof/Machine/Pl.lean ====
section
/-! DEFINITION. PE links (R377 to R380, R406): training, heartbeats, CTRL answers, descriptors, firmware delivery and
the loss of a link. -/
namespace Sys2Proof.Machine

/-- CTRL.EN of a PE link. -/
def State.plOn (s : State) (j : Nat) : Bool := bit (s.reg (pgPl j) 0x100) 31

/-- A training attempt begins (R377). -/
def State.plTrain (s : State) (j : Nat) : State :=
  s.modPl j (fun v => { v with state := .training, locked := false, attemptAt := s.now, updSent := 0, pauseEnd := 0 })

/-- Edges between heartbeats, of the answer limit of a CTRL frame, of the pause after a loss, and of an attempt. -/
def edgesHb : Nat := 400
def edgesCtrl : Nat := 1600
def edgesPause : Nat := 6400
def edgesAttempt : Nat := 800000

/-- An arm of a stream that waits for its acknowledge over a lost link ends as one made while the link was down. -/
def State.armLost (s : State) (j : Nat) : State :=
  foldState allStreams (fun m s =>
    if (s.runAt m).arming ∧ s.strPl m = j then
      ((s.setRun m { s.runAt m with arming := false }).strCmd m 0x11).recordErr (pgStr m) 0x0021
    else s) s

/-- The link is LOST (R379, R41, R257): its heartbeats pause for 16 µs. -/
def State.plLose (s : State) (j : Nat) : State :=
  let s := s.modPl j (fun v => { v with
    state := .lost, lostCount := sat32 (v.lostCount + 1), ctrl := [],
    lostCtrl := (v.lostCtrl ++ v.ctrl.map (fun f => f.seq)).eraseDups, hbSent := false, hbAcked := true, hbEdge := 0,
    attempts := 0, answered := false, locked := false, pauseEnd := s.now + edgesPause })
  let s := foldState (List.range 64) (fun q s =>
    let v := s.seqAt q
    if (v.state = .armed ∨ v.state = .running ∨ v.state = .hold) ∧ v.cast.chans.any (fun c => c / 16 = j) then
      s.endBurst q .peLinkLost s.now else s) s
  (s.strLinkLost j).armLost j

/-- An attempt fails (R366, R377): three without an answer lead to ABSENT, three with one to LOST. -/
def State.plFail (s : State) (j : Nat) : State :=
  let v := s.plAt j
  let ans := v.answered || v.locked
  if v.attempts + 1 < 3 then (s.setPl j { v with attempts := v.attempts + 1, answered := ans }).plTrain j
  else s.setPl j { v with attempts := 3, answered := ans, locked := false, state := if ans then .lost else .absent,
                          probeAt := s.now + 100 * edgesMs }

/-! ### Heartbeats (R379) -/

/-- A heartbeat falls due: a miss is counted if the last one is not acknowledged. The loss of an eighth miss takes effect
when the cycle ends, since an HB_ACK of this cycle still counts. -/
def heartbeat (j : Nat) (s : State) : State :=
  let v := s.plAt j
  let missed := v.hbSent && !v.hbAcked
  let n := if missed then v.hbMiss + 1 else v.hbMiss
  let s := s.setPl j { v with hbMiss := n, hbEdge := if n ≥ 8 ∧ missed then s.now + 1 else v.hbEdge,
                              hbSeq := (v.hbSeq + 1) % 65536, hbSent := true, hbAcked := false, hbAt := s.now }
  s.peFrame j 1 [BitVec.ofNat 32 ((v.hbSeq + 1) % 65536)]

/-- HEARTBEAT. -/
def execHeartbeat (pl : Fin 32) (s : State) : Res :=
  let v := s.plAt pl
  .next (if v.state = .up ∧ v.hbEdge = 0 ∧ (¬ v.hbSent ∨ v.hbAt + edgesHb ≤ s.now) then heartbeat pl s else s)

/-- A frame with a bad CRC is discarded and counted (R378). -/
def badFrame (j : Nat) (s : State) : State := s.modPl j (fun v => { v with crcErr := sat32 (v.crcErr + 1) })

/-- HB_ACK: the echo of the last heartbeat; in the cycle of the eighth miss it is that of the heartbeat before. -/
def execHbAck (pl : Fin 32) (seq : BitVec 16) (status : BitVec 8) (crcOk : Bool) (s : State) : Res :=
  let v := s.plAt pl
  .next (if ¬ crcOk then badFrame pl s
  else if v.state ≠ .up ∨ ¬ v.hbSent then s
  else if v.hbEdge = s.now + 1 ∧ seq.toNat = (v.hbSeq + 65535) % 65536 then
    s.setPl pl { v with hbMiss := 0, hbEdge := 0, peStatus := status.toNat }
  else if seq.toNat = v.hbSeq then
    s.setPl pl { v with hbAcked := true, hbMiss := 0, hbEdge := 0, peStatus := status.toNat }
  else s.setPl pl { v with peStatus := status.toNat })

/-- Links whose eighth miss was counted in an earlier cycle are lost. -/
def State.plTick (s : State) : State :=
  foldState (List.range 32) (fun j s => if (s.plAt j).hbEdge ≠ 0 ∧ (s.plAt j).hbEdge ≤ s.now then s.plLose j else s) s

/-- HEARTBEAT_PAUSE_END: the link retrains. -/
def execHeartbeatPauseEnd (pl : Fin 32) (s : State) : Res :=
  let v := s.plAt pl
  .next (if v.state = .lost ∧ v.pauseEnd ≠ 0 ∧ v.pauseEnd ≤ s.now ∧ s.plOn pl then s.plTrain pl else s)

/-- RECEIVER_LOSS_OF_LOCK. -/
def execReceiverLossOfLock (pl : Fin 32) (s : State) : Res :=
  let v := s.plAt pl
  .next (if v.state = .up ∨ v.state = .version then s.plLose pl else s)

/-! ### CTRL frames (R378) -/

/-- CTRL_RESP answers the CTRL frame of its SEQ; one for a frame that a loss of the link dropped is stale. -/
def execCtrlResp (pl : Fin 32) (seq : Fin 4096) (crcOk : Bool) (s : State) : Res :=
  let v := s.plAt pl
  .next (if ¬ crcOk then badFrame pl s
  else if v.ctrl.any (fun f => f.seq = seq.val) then s.setPl pl { v with ctrl := v.ctrl.filter (fun f => f.seq ≠ seq.val) }
  else if v.lostCtrl.contains seq.val then s.setPl pl { v with stale := sat32 (v.stale + 1) }
  else s)

/-- CTRL_RESEND: the oldest CTRL frame without an answer for 4 µs is sent again with its SEQ, three times at most. -/
def execCtrlResend (pl : Fin 32) (s : State) : Res :=
  let v := s.plAt pl
  .next (match v.ctrl.find? (fun f => f.sentAt + edgesCtrl ≤ s.now) with
  | some f =>
    if f.resends ≥ 3 then s.plLose pl
    else
      (s.setPl pl { v with ctrlRetry := sat32 (v.ctrlRetry + 1),
                           ctrl := v.ctrl.map (fun g => if g.seq = f.seq then { g with resends := g.resends + 1, sentAt := s.now } else g)
        }).send (.peCtrl pl f.seq f.op)
  | none => s)

/-! ### Training and firmware (R377, R380, R406) -/

/-- DESC: the descriptor is recorded; protocol major 2 and the firmware of the booted slot bring the link UP. -/
def plDesc (j : Nat) (d : PeDesc) (s : State) : State :=
  let v := s.plAt j
  let ok : Bool := d.major = 2 ∧ (d.fw = s.mgt.peVer ∨ s.mgt.peImage = [])
  s.setPl j { v with
    state := if ok then .up else .version, protoMajor := d.major.toNat, protoMinor := d.minor.toNat, peFw := d.fw,
    vlo := (List.range 4).map (fun c => (d.vlo.getD c 0).toNat), vhi := (List.range 4).map (fun c => (d.vhi.getD c 0).toNat),
    attempts := 0, answered := false, hbSent := false, hbAcked := true, hbMiss := 0, hbEdge := 0, updSent := 0 }
def execDesc (pl : Fin 32) (d : PeDesc) (crcOk : Bool) (s : State) : Res :=
  let v := s.plAt pl
  .next (if ¬ crcOk then badFrame pl s else if (v.state = .training ∧ v.locked) ∨ v.state = .version then plDesc pl d s else s)

/-- Words of the PE component of the booted slot. -/
def wordsOf : Nat → List Byte → List Word32
  | 0, _ => []
  | n + 1, l => if l = [] then [] else BitVec.ofNat 32 (leNat (l.take 4)) :: wordsOf n (l.drop 4)
def Mgt.peWords (m : Mgt) : List Word32 := wordsOf (m.peImage.length / 4 + 1) m.peImage

/-- UPDATE_FRAME: the next 32 words of the PE component; after the last the link trains again. -/
def execUpdateFrame (pl : Fin 32) (s : State) : Res :=
  let v := s.plAt pl
  let w := s.mgt.peWords
  .next (if v.state = .version ∧ v.updSent < w.length then
    let l := (w.drop v.updSent).take 32
    let s := (s.setPl pl { v with updSent := v.updSent + l.length }).peFrame pl 7 l
    if v.updSent + l.length = w.length then s.plTrain pl else s
  else s)

/-- A receiver locks: step 1 of a training attempt ends. -/
def plLocked (j : Nat) (s : State) : State :=
  if (s.plAt j).state = .training then s.modPl j (fun v => { v with locked := true }) else s

/-- An attempt has lasted 2 ms. -/
def plTimeout (j : Nat) (s : State) : State :=
  if (s.plAt j).state = .training ∧ (s.plAt j).attemptAt + edgesAttempt ≤ s.now then s.plFail j else s

/-- A probe of an ABSENT link: a fresh attempt (R366, R377). -/
def plProbe (j : Nat) (s : State) : State :=
  let v := s.plAt j
  if v.state = .absent ∧ v.probeAt ≤ s.now then
    (s.setPl j { v with attempts := 2, answered := false }).plTrain j else s

/-- CTRL.RETRAIN of an enabled link: an UP link is lost to its users while it trains. -/
def plRetrain (j : Nat) (s : State) : State :=
  if ¬ s.plOn j ∨ (s.plAt j).state = .disabled then s
  else
    let s := if (s.plAt j).state = .up then s.plLose j else s
    (s.modPl j (fun v => { v with attempts := 0, answered := false })).plTrain j

/-- CTRL.EN changes: training begins, or the link is DISABLED (LOST to its users while it was UP). -/
def plEnable (j : Nat) (on : Bool) (s : State) : State :=
  let v := s.plAt j
  if on ∧ v.state = .disabled then (s.setPl j { v with attempts := 0, answered := false }).plTrain j
  else if ¬ on then
    let s := if v.state = .up then s.plLose j else s
    s.modPl j (fun v => { v with state := .disabled, locked := false, pauseEnd := 0, ctrl := [],
                                 lostCtrl := (v.lostCtrl ++ v.ctrl.map (fun f => f.seq)).eraseDups })
  else s

/-- A soft reset of a PL page: EN returns to 0 with the other RW fields, which disables the link. -/
def plReset (j : Nat) (s : State) : State := (plEnable j false s).resetRegs (pgPl j)

end Sys2Proof.Machine
end

