-- ==== Sys2Proof/Machine/Upd.lean ====
section
/-! DEFINITION. Management firmware as its mailbox shows it, bundles, flash slots and update sessions (R395, R408 to
R417). Requests of the host and of Zheind neighbours reach the agent in order of arrival, the host first within a cycle,
and one request is answered at a time. -/
namespace Sys2Proof.Machine

def State.modMgt (s : State) (f : Mgt → Mgt) : State := { s with mgt := f s.mgt }
def State.modSess (s : State) (f : Session → Session) : State := s.modMgt (fun m => { m with sess := f m.sess })

/-! ### Requests and responses (R395) -/

/-- STATUS codes. -/
def stOk : Nat := 0
def stBadCmd : Nat := 1
def stBadLen : Nat := 2
def stBusy : Nat := 3
def stReset : Nat := 4
def stDenied : Nat := 5

def MboxReq.w (r : MboxReq) (i : Nat) : Word32 := r.words.getD i 0
def MboxReq.cmd (r : MboxReq) : Nat := fld (r.w 0) 24 8
def MboxReq.len (r : MboxReq) : Nat := fld (r.w 0) 16 8
def MboxReq.tag (r : MboxReq) : Nat := fld (r.w 0) 0 16

/-- A request joins the queue: the host's stands before those of neighbours that came in its cycle (R415). -/
def State.pushReq (s : State) (r : MboxReq) : State :=
  s.modMgt (fun m => { m with waiting :=
    if r.src.isNone then m.waiting.filter (fun x => x.edge ≠ r.edge) ++ [r] ++ m.waiting.filter (fun x => x.edge = r.edge)
    else m.waiting ++ [r] })

/-- The words of a response. -/
def respWords (r : MboxReq) (status : Nat) (pay : List Word32) : List Word32 :=
  BitVec.ofNat 32 (status * 2 ^ 24 + pay.length * 2 ^ 16 + r.tag) :: pay

/-- Answer a request: the response registers, RSP_VALID and no REQ_BUSY in one cycle, or an MBOX message. A DENIED
raises UPD.EVT_RAW.DENIED. -/
def State.answer (s : State) (r : MboxReq) (status : Nat) (pay : List Word32 := []) : State :=
  let s := if status = stDenied then s.raiseEvt pgUpd 4 else s
  match r.src with
  | none =>
    (s.modMgt (fun m => { m with mboxBusy := false, rspValid := true, rspEdge := s.now + 1, rsp := respWords r status pay
      })).raiseEvt pgMbox 1
  | some p => s.zpSend p (.mbox (respWords r status pay))

/-- The agent runs: management firmware, or the boot ROM in recovery mode (R414). -/
def Mgt.agent (m : Mgt) : Bool := m.fwReady ∨ m.phase = .recovery

/-- A command the agent knows. -/
def Mgt.knows (m : Mgt) (c : Nat) : Bool :=
  if m.phase = .recovery then 0x20 ≤ c ∧ c ≤ 0x25
  else c = 1 ∨ c = 2 ∨ (0x20 ≤ c ∧ c ≤ 0x25) ∨ (0x28 ≤ c ∧ c ≤ 0x2B)

/-- Payload words a command takes; FUSE_BUF takes two or more. -/
def lenOk (r : MboxReq) : Bool :=
  if r.cmd = 0x2A then 2 ≤ r.len ∧ r.len ≤ 15
  else r.len = (if r.cmd = 0x20 ∨ r.cmd = 0x24 ∨ r.cmd = 0x29 ∨ r.cmd = 0x2B then 1 else if r.cmd = 0x21 then 3 else 0)

/-- Unknown commands and commands of a wrong length at the head of the queue are answered (BAD_CMD, BAD_LEN). -/
def State.rejectHead (s : State) : Nat → State
  | 0 => s
  | n + 1 =>
    match s.mgt.waiting with
    | r :: l =>
      if ¬ s.mgt.agent then s
      else if ¬ s.mgt.knows r.cmd then ((s.modMgt (fun m => { m with waiting := l })).answer r stBadCmd).rejectHead n
      else if ¬ lenOk r then ((s.modMgt (fun m => { m with waiting := l })).answer r stBadLen).rejectHead n
      else s
    | [] => s
def State.reject (s : State) : State := s.rejectHead s.mgt.waiting.length

/-- The agent takes up the request at the head if it is command `c`, and it arrived in an earlier cycle. -/
def takeReq (c : Nat) (f : MboxReq → State → State) (s : State) : Res :=
  .next (match s.mgt.waiting with
  | r :: l =>
    if s.mgt.agent ∧ s.mgt.knows c ∧ r.cmd = c ∧ lenOk r ∧ r.edge < s.now then
      (f r (s.modMgt (fun m => { m with waiting := l }))).reject
    else s
  | [] => s)

/-- DOORBELL (R395). -/
def doorbell (s : State) : State :=
  if s.mgt.mboxBusy ∨ s.mgt.rspValid then s.recordErr pgMbox 0x0050
  else
    ((s.modMgt (fun m => { m with mboxBusy := true })).pushReq
      { src := none, words := (List.range 16).map (fun i => s.reg pgMbox (0x200 + 4 * i)), edge := s.now }).reject
def execDoorbell (s : State) : Res := .next (s.whenReady pgMbox doorbell)

/-- MBOX_ACK (R395): one in the cycle in which RSP_VALID is set finds it clear. -/
def execMboxAck (s : State) : Res :=
  .next (s.whenReady pgMbox (fun s =>
    if s.mgt.rspValid ∧ s.mgt.rspEdge ≠ s.now + 1 then s.modMgt (fun m => { m with rspValid := false }) else s))

/-- MBOX_MESSAGE (R415): a request of a neighbour. -/
def execMboxMessage (port : Fin 6) (words : List Word32) (s : State) : Res :=
  .next (if (s.zpAt port).isUp then (s.pushReq { src := some port, words := words, edge := s.now }).reject else s)

/-- A soft reset of the MBOX page (R395): a pending request ends with STATUS RESET. -/
def mboxReset (s : State) : State :=
  if s.mgt.mboxBusy then
    let r := (s.mgt.waiting.find? (fun r => r.src.isNone)).getD
      ((s.mgt.sess.commitReq.getD { src := none, words := [s.reg pgMbox 0x200], edge := s.now }))
    (s.modMgt (fun m => { m with
      waiting := m.waiting.filter (fun r => r.src.isSome),
      sess := { m.sess with commitReq := m.sess.commitReq.filter (fun r => r.src.isSome) } })).answer { r with src := none } stReset
  else s

/-! ### Fuses of the key area (R415, R417) -/

/-- `n` fuse bits from bit `b`, lowest first. -/
def State.fuseBits (s : State) (b n : Nat) : Nat :=
  (List.range n).foldl (fun a i => a + b2n (bit (s.fuseWord ((b + i) / 32)) ((b + i) % 32)) * 2 ^ i) 0
def State.deviceKey (s : State) : BitVec 256 := BitVec.ofNat 256 (s.fuseBits 16384 256)
def State.familyKey (s : State) : BitVec 256 := BitVec.ofNat 256 (s.fuseBits 16640 256)
def State.signerHash (s : State) (i : Nat) : BitVec 384 := BitVec.ofNat 384 (s.fuseBits (16896 + 384 * i) 384)
/-- The fuse epoch: the count of set bits of the thermometer code. -/
def State.epoch (s : State) : Nat :=
  ((List.range 64).filter (fun i => bit (s.fuseWord ((18048 + i) / 32)) ((18048 + i) % 32))).length
def State.revoked (s : State) : BitVec 8 := BitVec.ofNat 8 (s.fuseBits 18112 8)
def State.debugFuses (s : State) : BitVec 8 := BitVec.ofNat 8 (s.fuseBits 18120 8)

/-- Program one fuse bit. -/
def State.fuseBit (s : State) (b : Nat) : State :=
  s.setFuse { s.fuse with words := sput s.fuse.words (b / 32) (setBit (s.fuseWord (b / 32)) (b % 32)) }

/-! ### Bundles (R408, R409, R411) -/

def bundleHeader : Nat := 1024
/-- First byte of a slot's trailer: the largest bundle. -/
def slotTrailer : Nat := 0xFFFF00
def slotBase (b : Bool) : Nat := if b then 0x02000000 else 0x01000000
def commitWord : Nat := 0x3C5AA5C3
def romVersion : Nat := 0x00010000

def payloadBytes (h : List Byte) : Nat := field h 0x14 4
def bundleVersion (h : List Byte) : Nat := field h 0x0C 4
def bundleEpoch (h : List Byte) : Nat := field h 0x10 1
def bundleSigner (h : List Byte) : Nat := field h 0x11 1
/-- A field of component entry `i`. -/
def comp (h : List Byte) (i o n : Nat) : Nat := field h (0x80 + 32 * i + o) n
/-- A version lies in the compatibility range of component `i`. -/
def compatible (h : List Byte) (i v : Nat) : Bool := comp h i 8 4 ≤ v ∧ v ≤ comp h i 0xC 4

/-- The component table (R408, R409): types in update order, ascending without overlap inside the payload, and every
range; `running` is the management firmware now running, if any. -/
def tableOk (h : List Byte) (running : Option Nat) : Bool :=
  field h 6 2 = 5 ∧ (List.range 5).all (fun i => comp h i 0 1 = i + 1) ∧
  (List.range 4).all (fun i => comp h i 0x10 8 + comp h i 0x18 8 ≤ comp h (i + 1) 0x10 8) ∧
  comp h 4 0x10 8 + comp h 4 0x18 8 ≤ payloadBytes h ∧
  (List.range 4).all (fun i => compatible h i (comp h 4 4 4)) ∧ running.all (fun v => (List.range 4).all (compatible h · v)) ∧
  compatible h 4 romVersion

/-- The header checks of R411, in order. -/
def headerCheck (s : State) (h : List Byte) (running : Option Nat) : SessReason :=
  let n := bundleSigner h
  if field h 0 4 ≠ 0x53594C42 ∨ field h 4 2 ≠ 2 then .format
  else if field h 8 2 ≠ 0x5120 ∨ field h 0xA 1 > 0xB0 ∨ field h 0xB 1 < 0xB0 then .part
  else if n > 2 ∨ Config.sha384 ((h.drop 0x260).take 96) ≠ s.signerHash n ∨ s.revoked.getLsbD n then .signer
  else if ¬ Config.ecdsaP384Verify ((h.drop 0x260).take 96) ((h.drop 0x200).take 96) (h.take 0x200) then .signature
  else if bundleEpoch h < s.epoch then .epoch
  else if ¬ tableOk h running then .compat
  else if bundleHeader + payloadBytes h > slotTrailer then .length
  else .none

/-! ### Flash (R412, R413) -/

/-- An erased byte. -/
def erased : Byte := 0xFF
def State.flashByte (s : State) (a : Nat) : Byte := sget erased s.mgt.flash a
def State.flashRead (s : State) (a n : Nat) : List Byte := (List.range n).map (fun i => s.flashByte (a + i))

/-- Erase the sector that holds an address. -/
def eraseSector (f : List Host.Cell) (a : Nat) : List Host.Cell := f.filter (fun e => e.1 / 65536 ≠ a / 65536)

/-- Program bytes from `a`, erasing each 64 KiB sector as its first byte is reached, except that of the trailer, erased
before. -/
def flashProgram (f : List Host.Cell) (a : Nat) : List Byte → List Host.Cell
  | [] => f
  | b :: t =>
    let f := if a % 65536 = 0 ∧ a % 0x1000000 ≠ 0xFF0000 then eraseSector f a else f
    flashProgram (if b = erased then sdel f a else sput f a b) (a + 1) t

def State.setFlash (s : State) (f : List Host.Cell) : State := s.modMgt (fun m => { m with flash := f })

/-- A slot as the boot ROM reads it: header, plaintext payload. -/
def State.slotHeader (s : State) (b : Bool) : List Byte := s.flashRead (slotBase b) bundleHeader
def State.slotIv (s : State) (b : Bool) : BitVec 96 := BitVec.ofNat 96 (leNat (s.flashRead (slotBase b + slotTrailer) 12))
def State.slotPlain (s : State) (b : Bool) : List Byte :=
  Config.gcmCrypt s.deviceKey (s.slotIv b)
    (s.flashRead (slotBase b + bundleHeader) (min (payloadBytes (s.slotHeader b)) (slotTrailer - bundleHeader)))

/-- The full check of a slot (R408, R412); BOOT_FAILS of 3 counts as invalid (R413). -/
def State.slotValid (s : State) (b : Bool) : Bool :=
  let h := s.slotHeader b
  let p := s.slotPlain b
  s.mgt.fails.getD (b2n b) 0 < 3 ∧
  leNat (s.flashRead (slotBase b + 0xFFFFFC) 4) = commitWord ∧
  headerCheck s h none = .none ∧
  BitVec.ofNat 128 (leNat (s.flashRead (slotBase b + slotTrailer + 12) 16)) = Config.gcmTag s.deviceKey (s.slotIv b) (h.take 0x18) p ∧
  Config.sha384 p = BitVec.ofNat 384 (field h 0x34 48) ∧
  field p (comp h 0 0x10 8) 4 = 2

/-- The slot to boot (R413); none: recovery mode. -/
def State.bootSlot (s : State) : Option Bool :=
  let a := s.slotValid false
  let b := s.slotValid true
  match s.mgt.pin with
  | some x => if s.slotValid x then some x else if a then some false else if b then some true else none
  | none =>
    if a ∧ b then some (decide (bundleVersion (s.slotHeader true) > bundleVersion (s.slotHeader false)))
    else if a then some false else if b then some true else none

/-! ### Sessions (R410, R411, R415) -/

def Session.active (v : Session) : Bool := v.state = .receiving ∨ v.state = .headerOk ∨ v.state = .committing

/-- A session ends: the lock is released, SESSION_END rises; a commit that waited is answered. -/
def State.sessEnd (s : State) (st : SessState) (r : SessReason) (status : Nat) : State :=
  let req := s.mgt.sess.commitReq
  let s := (s.modMgt (fun m => { m with flashOps := [] })).modSess (fun v => { v with
    state := st, reason := r, owner := none, expect := 0, commitReq := none })
  let s := s.raiseEvt pgUpd 1
  match req with
  | some q => s.answer q status
  | none => s
def State.sessFail (s : State) (r : SessReason) : State :=
  if s.mgt.sess.active then s.sessEnd .failed r stDenied else s

/-- The session of a lost port fails. -/
def State.sessPortLost (s : State) (p : Nat) : State :=
  if s.mgt.sess.owner = some (some p) then s.sessFail .reset else s

/-- Another source holds the lock. -/
def State.locked (s : State) (r : MboxReq) : Bool := s.mgt.sess.active ∧ s.mgt.sess.owner ≠ some r.src
/-- The source holds the lock. -/
def State.owns (s : State) (r : MboxReq) : Bool := s.mgt.sess.active ∧ s.mgt.sess.owner = some r.src

/-- The slot a session writes: the one that did not boot; slot A in recovery mode. -/
def Mgt.target (m : Mgt) : Bool := m.phase ≠ .recovery ∧ ¬ m.bootedB

/-- UPD_OPEN: the lock, and the trailer sector erased. -/
def updOpen (r : MboxReq) (s : State) : State :=
  if s.locked r then s.answer r stBusy
  else if s.mgt.sess.active then s.answer r stDenied
  else
    let t := s.mgt.target
    let f := s.fresh 96
    let s := f.2.setFlash (eraseSector s.mgt.flash (slotBase t + slotTrailer))
    let s := s.modMgt (fun m => { m with
      flashOps := [.erase],
      sess := { state := .receiving, owner := some r.src, targetB := t, total := (r.w 1).toNat, dataAt := s.now, storeIv := f.1 } })
    s.answer r stOk
def execUpdOpen (s : State) : Res := takeReq 0x20 updOpen s

/-- The header is complete: checked before any payload is programmed. -/
def State.sessHeader (s : State) : State :=
  let h := s.mgt.sess.received.take bundleHeader
  match headerCheck s h (if s.mgt.phase = .recovery then none else some s.mgt.fwVer.toNat) with
  | .none =>
    ((s.modSess (fun v => { v with state := .headerOk, header := h })).modMgt (fun m => { m with
      flashOps := m.flashOps ++ [.program bundleHeader] })).raiseEvt pgUpd 2
  | r => s.sessFail r

/-- Bytes not yet handed to the flash are programmed next. -/
def FlashOp.bytes : FlashOp → Nat
  | .program n => n
  | _ => 0
def State.sessProgram (s : State) : State :=
  let v := s.mgt.sess
  let n := v.received.length - v.bytes - (s.mgt.flashOps.map FlashOp.bytes).sum
  if v.state = .headerOk ∧ 0 < n then s.modMgt (fun m => { m with flashOps := m.flashOps ++ [.program n] }) else s

/-- Data reach the session. -/
def State.sessData (s : State) (l : List Byte) : State :=
  let s := s.modSess (fun v => { v with received := v.received ++ l, dataAt := s.now })
  let v := s.mgt.sess
  if v.received.length > v.total then s.sessFail .length
  else
    let s := if v.state = .receiving ∧ bundleHeader ≤ v.received.length then s.sessHeader else s
    let v := s.mgt.sess
    if v.state = .headerOk ∧ v.received.length > bundleHeader + payloadBytes v.header then s.sessFail .length
    else s.sessProgram

/-- UPD_DATA: from HBM, or announced by a neighbour whose data follow. -/
def updData (r : MboxReq) (s : State) : State :=
  if s.locked r then s.answer r stBusy
  else if ¬ s.owns r ∨ s.mgt.sess.state = .committing then s.answer r stDenied
  else
    let n := (r.w 3).toNat
    match r.src with
    | some _ => (s.modSess (fun v => { v with expect := v.expect + n, dataAt := s.now })).answer r stOk
    | none =>
      let a := (pair64 (r.w 1) (r.w 2)).toNat
      if s.readStatus a n ≠ .ok then s.answer r stDenied else (s.answer r stOk).sessData (s.hbmRead a n)
def execUpdData (s : State) : Res := takeReq 0x21 updData s

/-- Bytes of a DATA flit of the owner's port. -/
def State.sessFlit (s : State) (p : Nat) (l : List Byte) : State :=
  let v := s.mgt.sess
  if v.active ∧ v.owner = some (some p) ∧ v.state ≠ .committing ∧ 0 < v.expect then
    (s.modSess (fun v => { v with expect := v.expect - l.length })).sessData (l.take v.expect)
  else s

/-- UPD_COMMIT: trailer, then commit word, once the whole payload is programmed and verified. -/
def updCommit (r : MboxReq) (s : State) : State :=
  let v := s.mgt.sess
  if s.locked r then s.answer r stBusy
  else if ¬ s.owns r ∨ v.state ≠ .headerOk ∨ v.bytes ≠ bundleHeader + payloadBytes v.header ∨ s.mgt.flashOps ≠ [] then
    s.answer r stDenied
  else (s.modMgt (fun m => { m with flashOps := [.trailer, .commit] })).modSess (fun v => { v with
    state := .committing, commitReq := some r })
def execUpdCommit (s : State) : Res := takeReq 0x22 updCommit s

/-- UPD_ABORT. -/
def updAbort (r : MboxReq) (s : State) : State :=
  if s.locked r then s.answer r stBusy
  else if ¬ s.owns r then s.answer r stDenied
  else (s.sessFail .aborted).answer r stOk
def execUpdAbort (s : State) : Res := takeReq 0x23 updAbort s

/-- UPD_PIN (R413). -/
def updPin (r : MboxReq) (s : State) : State :=
  let n := (r.w 1).toNat
  if n > 2 then s.answer r stDenied
  else (s.modMgt (fun m => { m with pin := if n = 2 then none else some (decide (n = 1)) })).answer r stOk
def execUpdPin (s : State) : Res := takeReq 0x24 updPin s

/-- SESS_STAT. -/
def Session.stat (v : Session) : Word32 :=
  let own := match v.owner with | none => 0 | some none => 1 | some (some _) => 2
  let port := match v.owner with | some (some p) => p | _ => 0
  BitVec.ofNat 32 (v.state.code * 2 ^ 29 + own * 2 ^ 27 + port * 2 ^ 24 + v.reason.code * 2 ^ 16 + b2n v.targetB)

/-- UPD_STATUS. -/
def execUpdStatus (s : State) : Res :=
  takeReq 0x25 (fun r s => s.answer r stOk [s.mgt.sess.stat, BitVec.ofNat 32 s.mgt.sess.bytes]) s

/-- The plaintext of the payload received, and the bundle as the slot stores it (R410). -/
def State.sessPlain (s : State) : List Byte :=
  let v := s.mgt.sess
  Config.gcmCrypt s.familyKey (BitVec.ofNat 96 (field v.header 0x18 12)) (v.received.drop bundleHeader)
def State.sessStored (s : State) : List Byte :=
  s.mgt.sess.header ++ Config.gcmCrypt s.deviceKey s.mgt.sess.storeIv s.sessPlain

/-- The trailer: STORE_IV and STORE_TAG. -/
def State.sessTrailer (s : State) : List Byte :=
  let v := s.mgt.sess
  leBytes 12 v.storeIv.toNat ++ leBytes 16 (Config.gcmTag s.deviceKey v.storeIv (v.header.take 0x18) s.sessPlain).toNat

/-- An operation of the flash completes. -/
def flashDone (op : FlashOp) (s : State) : State :=
  let v := s.mgt.sess
  let base := slotBase v.targetB
  match op with
  | .erase => s
  | .program n =>
    (s.setFlash (flashProgram s.mgt.flash (base + v.bytes) ((s.sessStored.drop v.bytes).take n))).modSess (fun v => { v with
      bytes := v.bytes + n })
  | .trailer => s.setFlash (flashProgram s.mgt.flash (base + slotTrailer) s.sessTrailer)
  | .commit =>
    let s := s.setFlash (flashProgram s.mgt.flash (base + 0xFFFFFC) (leBytes 4 commitWord))
    (s.modMgt (fun m => { m with fails := m.fails.set (b2n v.targetB) 0 })).sessEnd .done .none stOk

/-- FLASH_PROGRAM_COMPLETE (R415): a program or verify error fails the session. -/
def execFlashProgramComplete (ok : Bool) (s : State) : Res :=
  .next (match s.mgt.flashOps with
  | op :: l => if ok then flashDone op (s.modMgt (fun m => { m with flashOps := l })) else s.sessFail .flash
  | [] => s)

/-- SESSION_TIMEOUT (R415). -/
def execSessionTimeout (s : State) : Res :=
  let v := s.mgt.sess
  .next (if (v.state = .receiving ∨ v.state = .headerOk) ∧ v.dataAt + s.regN pgUpd 0x10C * edgesSec ≤ s.now then
    s.sessFail .timeout else s)

/-! ### Other commands (R395, R415, R416) -/

/-- VERSIONS: the component versions of the booted bundle, in the order of their types. -/
def execVersions (s : State) : Res :=
  takeReq 1 (fun r s => s.answer r stOk ((List.range 5).map (fun i =>
    BitVec.ofNat 32 (comp (s.slotHeader s.mgt.bootedB) i 4 4)))) s

/-- TEMPS: the hottest die sensor in 0.1 °C and the stack temperatures in °C. -/
def execTemps (s : State) : Res :=
  takeReq 2 (fun r s => s.answer r stOk [s.mgt.temp.signExtend 32, BitVec.ofInt 32 (s.pcAt 0).temp, BitVec.ofInt 32 (s.pcAt 32).temp]) s

/-- EPOCH_BUMP. -/
def epochBump (r : MboxReq) (s : State) : State :=
  if s.fuse.burn.isSome then s.answer r stBusy
  else if ¬ s.vqps ∨ s.epoch ≥ 64 ∨ bundleEpoch (s.slotHeader s.mgt.bootedB) < s.epoch + 1 then s.answer r stDenied
  else (s.fuseBit (18048 + s.epoch)).answer r stOk
def execEpochBump (s : State) : Res := takeReq 0x28 epochBump s

/-- REVOKE: not the booted slot's signer, nor the last that is not revoked. -/
def revoke (r : MboxReq) (s : State) : State :=
  let n := (r.w 1).toNat
  let left := (List.range 3).filter (fun i => ¬ s.revoked.getLsbD i)
  if s.fuse.burn.isSome then s.answer r stBusy
  else if ¬ s.vqps ∨ n > 2 ∨ n = bundleSigner (s.slotHeader s.mgt.bootedB) ∨ left = [n] then s.answer r stDenied
  else (s.fuseBit (18112 + n)).answer r stOk
def execRevoke (s : State) : Res := takeReq 0x29 revoke s

/-- FUSE_BUF. -/
def fuseBuf (r : MboxReq) (s : State) : State :=
  let a := (r.w 1).toNat
  let s := foldState (List.range (r.len - 1)) (fun i s =>
    s.setFuse { s.fuse with buf := sput s.fuse.buf ((a + i) % 512) (r.w (2 + i)) }) s
  s.answer r stOk
def execFuseBuf (s : State) : Res := takeReq 0x2A fuseBuf s

/-- FUSE_BURN (R335, R415): BUSY while a burn runs, DENIED for the other refusals. -/
def fuseBurn (r : MboxReq) (s : State) : State :=
  match s.burn (fld (r.w 1) 16 8) (fld (r.w 1) 0 16) with
  | (some code, s) => (s.setFuse { s.fuse with cmdStat := code }).answer r (if code = 1 then stBusy else stDenied)
  | (none, s) => s.answer r stOk
def execFuseBurn (s : State) : Res := takeReq 0x2B fuseBurn s

end Sys2Proof.Machine
end

