-- ==== Sys2Proof/Machine/Zp.lean ====
section
/-! DEFINITION. Zheind ports (R362 to R376): training, rates, flits with replay and credits, lane sparing, received
cross-trigger levels, and the loss of a port. The commands that a port shares with a PE link stand here too. -/
namespace Sys2Proof.Machine

/-! ### Received XT levels (R375) -/

/-- The OR over ports that are up of the received levels their IN_EN lets through. -/
def State.xtLevels (s : State) : BitVec 8 :=
  (List.range 6).foldl (fun m p =>
    let v := s.zpAt p
    if v.isUp then m ||| (v.xtRx &&& (s.reg (pgZp p) 0x124).extractLsb' 0 8) else m) 0

/-- The levels are recomputed: consumers see an edge where the OR changes, at the second PFCLK edge after the decode
(R48, R210); a line forced inactive by the loss of a port makes none, and reads inactive at once (R87, R372). -/
def State.xtUpdate (s : State) (lost : Bool) : State :=
  let t := s.trg
  let new := s.xtLevels
  let old := t.xtNow
  let prev := t.xtBefore s.now
  let s := { s with trg := { t with xtPrev := if lost then prev &&& new else prev, xtEdge := s.now, xtNow := new } }
  if lost then s
  else foldState (setBits (old ^^^ new)) (fun n s =>
    let r := new.getLsbD n
    let s := s.cond (s.now + 2) (.xt n r)
    { s with trg := { s.trg with xtPend := s.trg.xtPend ++ [(s.now + 2, n, r)] } }) s

/-- Starts that an XT edge brings about in this cycle. -/
def State.xtTick (s : State) : State :=
  let due := s.trg.xtPend.filter (fun x => x.1 ≤ s.now)
  let s := { s with trg := { s.trg with xtPend := s.trg.xtPend.filter (fun x => ¬ x.1 ≤ s.now) } }
  foldState due (fun x s => xtStarts x.2.1 x.2.2 s) s

/-! ### Lane maps (R367, R371) -/

/-- The map of a direction whose failed lanes are given: spare in use, half width; none: no map. -/
def laneMap (failed : BitVec 9) : Option (Bool × Bool) :=
  let n := ((List.range 8).filter (fun k => failed.getLsbD k)).length
  if n = 0 then some (false, false)
  else if n = 1 ∧ ¬ failed.getLsbD 8 then some (true, false)
  else if 4 ≤ 8 - n then some (false, true)
  else none

/-- UP or UP_HALF. -/
def Zp.settle (v : Zp) : Zp := { v with state := if v.rxHalf ∨ v.txHalf then .upHalf else .up }

/-- Receive lanes whose best FOM lies below FOM_MIN (R363). -/
def State.badLanes (s : State) (p : Nat) (fom : List Nat) : BitVec 9 :=
  (List.range 9).foldl (fun m k => if fom.getD k 0 < s.regN (pgZp p) 0x110 then setBit m k else m) 0

/-! ### Training (R364 to R368) -/

def State.zpOn (s : State) (p : Nat) : Bool := bit (s.reg (pgZp p) 0x100) 31
def State.zpVerMax (s : State) (p : Nat) : Nat := fld (s.reg (pgZp p) 0x100) 0 2

/-- Send HELLO. -/
def State.zpHello (s : State) (p : Nat) : State := s.send (.zp p (.hello (s.zpVerMax p) (s.zpAt p).ownId))

/-- An attempt begins at step 1; a rate that was asked for applies. -/
def State.zpTrain (s : State) (p : Nat) : State :=
  let v := s.zpAt p
  let r := v.rateDefer <|> v.rateNext
  (s.setZp p { v with
    state := .training, step := 1, hellos := 0, ownId := s.reg pgChip 0x104, attemptAt := s.now, stepAt := s.now, restartAt := 0,
    rate25 := r.getD v.rate25, rateNext := none, rateDefer := none,
    rateStat := if r.isSome then .inProgress else v.rateStat,
    rxFailed := 0, txFailed := 0, rxSpare := false, txSpare := false, rxHalf := false, txHalf := false,
    markEnd := none, txSparing := false, rxSparing := false }).zpHello p

/-- A retrain of an up port: flits stay in the replay buffer, and its XT levels leave the OR. -/
def State.zpRetrain (s : State) (p : Nat) : State :=
  ((s.modZp p (fun v => { v with retrain := true, attempts := 0, lateFail := false })).zpTrain p).xtUpdate false

/-- Open barriers that use a lost port fault under R63. -/
def State.barriersLost (s : State) (p : Nat) : State :=
  foldState (s.align.map Prod.fst) (fun g s =>
    let a := s.alignAt g
    if a.opened ∧ s.groupX g ∧ (s.groupPorts g).getLsbD p ∧ a.releaseT.isNone then
      s.cancelGroup g .alignLinkLost (some p) s.now
    else s) s

/-- The port is lost (R372): its forwarded clock stops for 4 µs. -/
def State.zpLose (s : State) (p : Nat) : State :=
  let v := s.zpAt p
  let s := s.setZp p { v with
    state := .training, step := 0, attempts := 0, lateFail := false, retrain := false, xtRx := 0, kept := [], waiting := [],
    txSeq := 0, rxSeq := 0, refusing := false, markEnd := none, txSparing := false, rxSparing := false,
    lostCount := sat32 (v.lostCount + 1),
    restartAt := s.now + edgesCtrl }
  let s := (s.xtUpdate true).barriersLost p
  ((s.timeLinkLost p).sessPortLost p).raiseEvt (pgZp p) 8

/-- An attempt fails (R366); of a retrain of an up port, the port is lost (R368). -/
def State.zpFail (s : State) (p : Nat) : State :=
  let v := s.zpAt p
  let late := v.lateFail || decide (v.step > 1)
  if v.retrain then s.zpLose p
  else if v.attempts + 1 < 3 then (s.setZp p { v with attempts := v.attempts + 1, lateFail := late }).zpTrain p
  else
    (s.setZp p { v with attempts := 3, lateFail := false, step := 0, state := if late then .down else .absent,
                        rateNext := v.rateDefer <|> v.rateNext, rateDefer := none,
                        rateStat := if v.rateDefer.isSome ∨ v.rateNext.isSome then .done else v.rateStat,
                        probeAt := s.now + 100 * edgesMs }).raiseEvt (pgZp p) (if late then 0x20 else 0x10)

/-- A fresh series of attempts. -/
def State.zpFresh (s : State) (p : Nat) : State :=
  (s.modZp p (fun v => { v with attempts := 0, lateFail := false, retrain := false })).zpTrain p

/-- HELLO (R364 to R366): three in a row end step 1 and fix the version. -/
def zpHelloIn (p verMax : Nat) (chipId : Word32) (s : State) : State :=
  let v := s.zpAt p
  if v.state = .absent then ((s.zpFresh p).modZp p (fun v => { v with hellos := 1 }))
  else if v.state = .training ∧ v.step = 1 then
    if v.hellos + 1 < 3 then s.setZp p { v with hellos := v.hellos + 1 }
    else
      let ver := min (s.zpVerMax p) verMax
      s.setZp p { v with hellos := 3, step := 2, stepAt := s.now, stepEdge := s.now + 1, partnerVer := verMax,
                         partnerId := chipId, version := ver, rate25 := if ver = 1 then true else v.rate25 }
  else s
def execHello (port : Fin 6) (verMax : Fin 256) (chipId : Word32) (s : State) : Res :=
  .next (zpHelloIn port verMax chipId s)

/-- Replay every kept flit from the oldest (R369); a flit with eight replays behind it loses the port. -/
def State.zpReplay (s : State) (p : Nat) : State :=
  let v := s.zpAt p
  if v.kept.any (fun f => f.replays ≥ 8) then s.zpLose p
  else
    let s := s.setZp p { v with kept := v.kept.map (fun f => { f with replays := f.replays + 1 }),
                                replayCount := sat32 (v.replayCount + v.kept.length), ackAt := s.now }
    foldState v.kept (fun f s => s.send (.zp p f.msg)) s

/-- Step 7: the port enters UP or UP_HALF; kept flits are replayed, and what waits is sent. -/
def State.zpActive (s : State) (p : Nat) : State :=
  let f := s.fresh 32
  let s := f.2.modZp p (fun v => { v.settle with
    step := 7, attempts := 0, lateFail := false, retrain := false, credMsg := 64, credData := 64, rtt := f.1.toNat,
    refusing := false, rateStat := if v.rateStat = .inProgress then .done else v.rateStat, ackAt := s.now })
  let s := ((s.raiseEvt (pgZp p) 1).xtUpdate false)
  let s := if (s.zpAt p).kept = [] then s else s.zpReplay p
  s.zpDrain p (s.zpAt p).waiting.length

/-- The end of a training step (R364, R367, R368): `fom` as step 4 found it, `partner` the lanes the partner marked FAILED
in our transmit direction. -/
def zpStepEnd (p : Nat) (fom : List Nat) (partner : BitVec 9) (s : State) : State :=
  let v := s.zpAt p
  let on := fun (v : Zp) => s.setZp p { v with step := v.step + 1, stepAt := s.now, stepEdge := s.now + 1 }
  if 3 ≤ v.step ∧ v.rateDefer.isSome then (s.zpTrain p).modZp p (fun v => { v with stepEdge := s.now + 1 })
  else if v.step = 2 then
    if v.version = 0 then s.zpFail p
    else on { v with rate25 := if v.version = 1 then true else v.rateNext.getD v.rate25, rateNext := none }
  else if v.step = 4 then on { v with fom := (List.range 9).map (fun k => min 255 (fom.getD k 0)) }
  else if v.step = 5 then
    let bad := s.badLanes p v.fom
    match laneMap bad, laneMap partner with
    | some r, some t =>
      if v.version = 1 ∧ (r ≠ (false, false) ∨ t ≠ (false, false)) then s.zpFail p
      else on { v with rxFailed := bad, txFailed := partner, rxSpare := r.1, rxHalf := r.2, txSpare := t.1, txHalf := t.2 }
    | _, _ => (s.setZp p { v with rxFailed := bad }).zpFail p
  else if v.step = 6 then ((s.setZp p { v with stepEdge := s.now + 1 }).zpActive p)
  else on v

/-- LINK_TRAINING_STEP_END; of a PE link, its receiver locks (R377). -/
def execLinkTrainingStepEnd (l : LinkId) (fom : List Nat) (partner : BitVec 9) (s : State) : Res :=
  match l with
  | .zp p => .next (if (s.zpAt p).state = .training ∧ 2 ≤ (s.zpAt p).step then zpStepEnd p fom partner s else s)
  | .pl j => .next (plLocked j s)

/-- Edges a training step may last. -/
def edgesStep : Nat := 80000

/-- TRAINING_STEP_TIMEOUT (R364, R377). -/
def execTrainingStepTimeout (l : LinkId) (s : State) : Res :=
  match l with
  | .zp p =>
    let v := s.zpAt p
    .next (if v.state = .training ∧ 1 ≤ v.step ∧
        ((2 ≤ v.step ∧ v.stepAt + edgesStep ≤ s.now) ∨ v.attemptAt + edgesAttempt ≤ s.now) then s.zpFail p else s)
  | .pl j => .next (plTimeout j s)

/-- ABSENT_PROBE (R366). -/
def execAbsentProbe (l : LinkId) (s : State) : Res :=
  match l with
  | .zp p =>
    let v := s.zpAt p
    .next (if v.state = .absent ∧ v.probeAt ≤ s.now then
      (s.setZp p { v with probeAt := s.now + 100 * edgesMs }).zpHello p else s)
  | .pl j => .next (plProbe j s)

/-- CTRL.RETRAIN (R366, R368). -/
def zpRetrainCmd (p : Nat) (s : State) : State :=
  let v := s.zpAt p
  if ¬ s.zpOn p ∨ v.state = .disabled ∨ v.restartAt ≠ 0 then s
  else if v.isUp ∨ v.retrain then s.zpRetrain p
  else s.zpFresh p
def execRetrain (l : LinkId) (s : State) : Res :=
  match l with
  | .zp p => .next (s.whenReady (pgZp p) (zpRetrainCmd p))
  | .pl j => .next (s.whenReady (pgPl j) (plRetrain j))

/-- RATE_REQ (R368): a request in the cycle of a step end acts at that end. -/
def rateReq (p : Nat) (rate : Bool) (s : State) : State :=
  let s := s.setReg (pgZp p) 0x108 (BitVec.ofNat 32 (b2n rate))
  let v := s.zpAt p
  let ended : Bool := v.stepEdge = s.now + 1
  let ver := if v.isUp ∨ (v.state = .training ∧ 2 ≤ v.step) then v.version else s.zpVerMax p
  if ver = 1 then s.setZp p { v with rateStat := .v1 }
  else if v.state = .training ∧ v.step = 3 ∧ ended then s.setZp p { v with rate25 := rate, rateStat := .inProgress }
  else if ended ∧ ((v.state = .training ∧ 4 ≤ v.step) ∨ (v.isUp ∧ v.step = 7)) then
    ((s.setZp p { v with rateNext := some rate }).zpTrain p).xtUpdate false
  else if v.isUp then (s.setZp p { v with rateNext := some rate }).zpRetrain p
  else if v.state = .training ∧ 3 ≤ v.step then s.setZp p { v with rateDefer := some rate, rateStat := .deferred }
  else if v.state = .training ∧ 1 ≤ v.step then s.setZp p { v with rateNext := some rate, rateStat := .inProgress }
  else s.setZp p { v with rateNext := some rate, rateStat := .done }
def execRateReq (port : Fin 6) (rate : Bool) (s : State) : Res := .next (s.whenReady (pgZp port) (rateReq port rate))

/-! ### Loss and restart (R372, R373) -/

/-- LINK_LOST. -/
def execLinkLost (port : Fin 6) (s : State) : Res :=
  .next (if (s.zpAt port).isUp ∨ (s.zpAt port).retrain then s.zpLose port else s)

/-- LINK_RESTART: the forwarded clock runs again, and training begins. -/
def zpRestart (p : Nat) (s : State) : State :=
  let v := s.zpAt p
  if v.restartAt = 0 ∨ s.now < v.restartAt then s
  else
    let s := if v.state = .resetting then s.pageResetDone (pgZp p) else s
    if s.zpOn p then s.zpTrain p else s.setZp p { v with state := .disabled, restartAt := 0 }
def execLinkRestart (l : LinkId) (s : State) : Res :=
  match l with
  | .zp p => .next (zpRestart p s)
  | .pl _ => .next s

/-- CTRL.EN changes. -/
def zpEnable (p : Nat) (on : Bool) (s : State) : State :=
  let v := s.zpAt p
  if on then if v.state = .disabled then s.zpFresh p else s
  else
    let s := if v.isUp ∨ v.retrain then s.zpLose p else s
    s.modZp p (fun v => { v with state := .disabled, step := 0, attempts := 0, restartAt := 0, retrain := false })

/-- A soft reset of a ZP page (R373): a loss; the counters are cleared and the RW fields kept. -/
def zpReset (p : Nat) (s : State) : State :=
  let s := if (s.zpAt p).isUp ∨ (s.zpAt p).retrain then s.zpLose p else s
  s.modZp p (fun v => { v with
    state := .resetting, step := 0, attempts := 0, lateFail := false, replayCount := 0, crcErr := 0, spareCount := 0, lostCount := 0,
    stale := 0, badMsg := 0, restartAt := s.now + edgesCtrl })

/-! ### Flits (R369, R374) -/

/-- The header fields of a flit. -/
structure Flit where
  seq : Nat
  ack : Nat
  xt : BitVec 8
  kind : Nat
  credMsg : Nat
  credData : Nat
  nak : Bool
  deriving DecidableEq, Repr

def Flit.ofBytes (b : List Byte) : Flit :=
  let w0 := BitVec.ofNat 32 (leNat (b.take 4))
  let w1 := BitVec.ofNat 32 (leNat ((b.drop 4).take 4))
  { seq := fld w0 20 12, ack := fld w0 8 12, xt := w0.extractLsb' 0 8, kind := fld w1 28 4, credMsg := fld w1 22 6,
    credData := fld w1 16 6, nak := bit w1 14 }

/-- A flit of 64 bytes whose CRC is good. -/
def flitGood (b : List Byte) : Bool := b.length = 64 ∧ leNat (b.drop 60) = (crc32 (b.take 60)).toNat

/-- The receiver refuses: the first refusal sends NAK = 1 with the last SEQ accepted. -/
def State.zpRefuse (s : State) (p : Nat) : State :=
  let v := s.zpAt p
  if v.refusing then s
  else (s.setZp p { v with refusing := true }).send (.zp p (.nak ((v.rxSeq + 4095) % 4096)))

/-- Flits left after an ACK: those behind the one it names. -/
def ackKept (ack : Nat) (l : List TxFlit) : List TxFlit :=
  if l.any (fun f => f.seq = ack) then (l.dropWhile (fun f => f.seq ≠ ack)).drop 1 else l

/-- Message slots of reserved types. -/
def badSlots (slots : List Nat) (b : List Byte) : Nat :=
  (slots.filter (fun o => ¬ [0, 1, 2, 3, 0x10, 0x11, 0x12, 0x20].contains (b.getD o 0).toNat)).length

/-- The event of a sparing: HALF_WIDTH, or LANE_SPARED. -/
def spareEvt (half : Bool) : Word32 := if half then 4 else 2

/-- Step 4 of a sparing of our transmit direction (R371): the partner asks for the replay, and new traffic resumes. -/
def State.sparedTx (s : State) (p : Nat) : State :=
  (s.modZp p (fun v => { v with txSparing := false, spareCount := sat32 (v.spareCount + 1) })).raiseEvt (pgZp p)
    (spareEvt (s.zpAt p).txHalf)

/-- A sequenced flit is accepted or refused. -/
def State.zpSequenced (s : State) (p : Nat) (f : Flit) (b : List Byte) : State :=
  let v := s.zpAt p
  if f.seq ≠ v.rxSeq then s.zpRefuse p
  else
    let s := s.setZp p { v with rxSeq := (v.rxSeq + 1) % 4096, refusing := false,
                                badMsg := if f.kind = 1 then sat32 (v.badMsg + badSlots [8, 24, 40] b) else v.badMsg }
    if f.kind = 2 then s.sessFlit p ((b.drop 8).take 52) else s

/-- FLIT_RECEIVE: what counts in every good flit, then the flit itself. Its messages are delivered by their own commands. -/
def flitReceive (p : Nat) (b : List Byte) (s : State) : State :=
  let v := s.zpAt p
  if ¬ flitGood b then (s.setZp p { v with crcErr := sat32 (v.crcErr + 1) }).zpRefuse p
  else
    let f := Flit.ofBytes b
    let kept := ackKept f.ack v.kept
    let s := (s.setZp p { v with xtRx := f.xt, credMsg := v.credMsg + f.credMsg, credData := v.credData + f.credData, kept := kept,
                                 ackAt := if kept.length < v.kept.length then s.now else v.ackAt }).xtUpdate false
    let s := if v.txSparing ∧ v.markEnd.isNone ∧ (f.nak ∨ kept.length < v.kept.length) then s.sparedTx p else s
    let s := if f.nak ∧ kept ≠ [] ∧ v.markEnd.isNone then s.zpReplay p else s
    let s := if f.kind = 4 then s.modZp p (fun v => { v with badMsg := sat32 (v.badMsg + badSlots [8] b) }) else s
    let s := if (f.kind = 1 ∨ f.kind = 2) ∧ (s.zpAt p).isUp then s.zpSequenced p f b else s
    s.zpDrain p (s.zpAt p).waiting.length
def execFlitReceive (port : Fin 6) (bytes : List Byte) (s : State) : Res :=
  .next (if (s.zpAt port).isUp then flitReceive port bytes s else s)

/-- REPLAY_TIMEOUT: 4 µs without ACK progress. -/
def execReplayTimeout (port : Fin 6) (s : State) : Res :=
  let v := s.zpAt port
  .next (if v.isUp ∧ v.kept ≠ [] ∧ v.markEnd.isNone ∧ v.ackAt + edgesCtrl ≤ s.now then s.zpReplay port else s)

/-! ### Lane sparing in service (R371) -/

/-- LANE_FAILURE of a receive lane (8 is S): a sparing of the direction, a mark only for an idle S, a loss in version 1 (which
has no S, R365) or where fewer than four data lanes work. -/
def laneFailure (p lane : Nat) (s : State) : State :=
  let v := s.zpAt p
  let bad := setBit v.rxFailed lane
  let s' := s.setZp p { v with rxFailed := bad }
  if v.version = 1 then if lane = 8 then s else s'.zpLose p
  else if lane = 8 ∧ ¬ v.rxSpare then s'
  else match laneMap bad with
    | none => s'.zpLose p
    | some _ => (s'.modZp p (fun v => { v with rxSparing := true })).send (.zp p (.spareReq bad))
def execLaneFailure (port : Fin 6) (lane : Fin 9) (s : State) : Res :=
  .next (if (s.zpAt port).isUp ∧ ¬ (s.zpAt port).rxFailed.getLsbD lane then laneFailure port lane s else s)

/-- Edges of SPARE_MARK. -/
def edgesMark : Nat := 800

/-- SPARE_REQ: the sender moves to the new map and sends SPARE_MARK for 2 µs; a later request replaces an earlier one. -/
def spareReq (p : Nat) (mask : BitVec 9) (s : State) : State :=
  let v := s.zpAt p
  match laneMap mask with
  | none => (s.setZp p { v with txFailed := mask }).zpLose p
  | some m =>
    let v : Zp := { v with txFailed := mask, txSpare := m.1, txHalf := m.2, txSparing := true, markEnd := some (s.now + edgesMark) }
    s.setZp p v.settle
def execSpareReq (port : Fin 6) (mask : BitVec 9) (s : State) : Res :=
  .next (if (s.zpAt port).isUp ∧ (s.zpAt port).version ≠ 1 then spareReq port mask s else s)

/-- SPARE_MARK_END: our SPARE_MARK is over, or that of the partner, where the receiver aligns on the new map and sends a NAK. -/
def spareMarkEnd (p : Nat) (s : State) : State :=
  let v := s.zpAt p
  if v.markEnd.any (fun e => e ≤ s.now) then s.setZp p { v with markEnd := none, ackAt := s.now }
  else if v.rxSparing then
    let m := (laneMap v.rxFailed).getD (false, true)
    let s := s.setZp p ({ v with rxSparing := false, rxSpare := m.1, rxHalf := m.2, spareCount := sat32 (v.spareCount + 1),
                                 refusing := false } : Zp).settle
    (s.zpRefuse p).raiseEvt (pgZp p) (spareEvt m.2)
  else s
def execSpareMarkEnd (port : Fin 6) (s : State) : Res :=
  .next (if (s.zpAt port).isUp then spareMarkEnd port s else s)

end Sys2Proof.Machine
end

