-- ==== Sys2Proof/Machine/Pcie.lean ====
section
/-! DEFINITION. The PCI Express endpoint (R344, R381, R382, R407): BAR4 accesses, loss and return of the link, PERST_N. -/
namespace Sys2Proof.Machine

def State.modPcie (s : State) (f : PcieEp → PcieEp) : State := { s with pcie := f s.pcie }

/-- Device address of a BAR4 offset (R381). -/
def State.bar4Addr (s : State) (off : Nat) : Nat := fld (s.reg pgPcie 0x104) 0 10 * 2 ^ 26 + off

/-- A BAR4 access fails: counted, with the address as the error's detail. -/
def State.bar4Fail (s : State) (a : Nat) : State :=
  (s.modPcie (fun v => { v with bar4Err := sat32 (v.bar4Err + 1) })).recordErr pgPcie 0x004A (BitVec.ofNat 32 a)

/-- An accepted BAR4 access of `n` bytes with the completion the controller reports: a read returns its data or a Completer
Abort, a write is performed or dropped. -/
def State.bar4Do (s : State) (a : Nat) (write : Option (List Byte)) (n : Nat) (res : HbmStatus) : State :=
  match write with
  | some l =>
    match s.hbmWriteReq a l res with
    | (.ok, s) => s
    | (_, s) => s.bar4Fail a
  | none =>
    if worstOf res (s.readStatus a n) = .ok then s.send (.bar4 (some (s.hbmRead a n)))
    else (s.bar4Fail a).send (.bar4 none)

/-- BAR4_ACCESS: performed, or refused by the HA port and retried. -/
def bar4Access (off : Nat) (write : Option (List Byte)) (n : Nat) (res : HbmStatus) (s : State) : State :=
  if s.portFull (portNo .ha) then
    (s.portRefuses (portNo .ha)).modPcie (fun v => { v with
      bar4 := v.bar4 ++ [{ off := s.bar4Addr off, write := write, len := n, res := res, at_ := s.now }] })
  else s.bar4Do (s.bar4Addr off) write n res
def execBar4Access (off : BitVec 32) (write : Option (List Byte)) (len : Nat) (res : HbmStatus) (s : State) : Res :=
  if ¬ s.pcie.up then .next s
  else match write with
    | some l => s.guardWrite (s.bar4Addr off.toNat) l.length (.next (bar4Access off.toNat write len res s))
    | none => .next (bar4Access off.toNat write len res s)

/-- PFCLK edges in 64 ns, rounded up. -/
def edges64ns : Nat := 26

/-- BAR4_RETRY (R344): the oldest refused access is tried again. -/
def execBar4Retry (s : State) : Res :=
  .next (match s.pcie.bar4 with
  | b :: l =>
    if s.now < b.at_ + edges64ns then s
    else if s.portFull (portNo .ha) then
      (s.portRefuses (portNo .ha)).modPcie (fun v => { v with bar4 := { b with at_ := s.now } :: l })
    else (s.modPcie (fun v => { v with bar4 := l })).bar4Do b.off b.write b.len b.res
  | [] => s)

/-- The endpoint loses its link; configuration space returns to its defaults (R382): every vector masked, nothing
pending. A read that was refused has no one to answer; a posted write goes on. -/
def State.pcieLost (s : State) : State :=
  { s.modPcie (fun v => { v with
      up := false, width := 0, speed := 0, downCount := if v.up then sat32 (v.downCount + 1) else v.downCount,
      downAt := if v.up then s.now else v.downAt, ptmOn := false, ptmValid := false, bar4 := v.bar4.filter (fun b => b.write.isSome) }) with msixOn := 0, msixPend := 0 }

/-- PCIE_LINK_DOWN. -/
def execPcieLinkDown (s : State) : Res := .next (if s.pcie.up then s.pcieLost else s)

/-- PCIE_RESET (R407): PERST_N resets the endpoint and its configuration space only. -/
def execPcieReset (s : State) : Res := .next (s.pcieLost.modPcie (fun v => { v with bar4 := [] }))

/-- PCIE_LINK_UP: what was held is sent, in order. -/
def execPcieLinkUp (width : Fin 17) (speed : Fin 6) (s : State) : Res :=
  .next (if s.pcie.up ∨ s.mgt.phase = .unpowered ∨ s.mgt.phase = .reset ∨ ¬ s.mgt.refclk then s
  else { s.modPcie (fun v => { v with up := true, width := width, speed := speed }) with
         outbox := s.outbox ++ s.pcieHeld, pcieHeld := [] })

end Sys2Proof.Machine
end

