-- ==== Sys2Proof/Machine/Regs.lean ====
section
/-! DEFINITION. What reads of the register pages return: every register of R383's pages from the state that holds it. A
register not named here reads as stored. -/
namespace Sys2Proof.Machine

/-- A word of fields: value and position of each, in order. -/
def pack (l : List (Nat × Nat)) : Word32 := BitVec.ofNat 32 ((l.map (fun x => x.1 * 2 ^ x.2)).sum)
/-- Low word, or high word, of a 64-bit value. -/
def half (v : Nat) (hi : Bool) : Word32 := BitVec.ofNat 32 (if hi then v / 2 ^ 32 else v)
/-- Word of a 64-bit pair at `base` for offset `off`. -/
def pairAt (v base off : Nat) : Word32 := half v (decide (off ≠ base))
def regOf (n : Nat) : Word32 := BitVec.ofNat 32 n
/-- A register whose field of `n` bits holds a signed value. -/
def sfld (n : Nat) (v : Int) : Word32 := (BitVec.ofInt n v).zeroExtend 32

/-- Word `k` of a site mask. -/
def maskWord (m : BitVec 128) (k : Nat) : Word32 := m.extractLsb' (32 * k) 32

def readSeq (s : State) (q off : Nat) : Option Word32 :=
  let v := s.seqAt q
  if off = 0x104 then some (pack [((match v.ending with | some (c, _) => c | none => v.endCause).code, 28), (b2n v.matchRun.isSome, 23), (b2n v.waitAlign, 22),
    (b2n (decide (v.arming ≠ .none)), 21), (b2n v.compat, 20), (b2n v.maquette, 19), (b2n v.startLate, 18), (b2n v.matched, 17),
    (b2n v.abortLate, 16), (v.state.code, 0)])
  else if off = 0x108 then some v.cmdStat
  else if 0x130 ≤ off ∧ off < 0x140 then some (maskWord (v.retireReq.foldl (fun m r => m ||| r.2) 0) ((off - 0x130) / 4))
  else if 0x140 ≤ off ∧ off < 0x150 then some (maskWord v.active ((off - 0x140) / 4))
  else if 0x150 ≤ off ∧ off < 0x160 then some (maskWord v.matchSites ((off - 0x150) / 4))
  else if off = 0x1A0 ∨ off = 0x1A4 then some (pairAt v.vecCount 0x1A0 off)
  else if off = 0x1A8 ∨ off = 0x1AC then some (pairAt v.cycleTime 0x1A8 off)
  else if 0x1B0 ≤ off ∧ off < 0x1D0 then some (regOf ([v.endVaddr, v.unownedCmp, v.maqCollide, v.maqTsIllegal, v.maqUnderrun,
    v.maqMinLead, v.stretch, v.stale].getD ((off - 0x1B0) / 4) 0))
  else if off = 0x204 then some (pack [(b2n v.underrunFlag, 31), (b2n v.starveHold, 30),
    (b2n (decide (v.inProgress = true) && (s.seg q v.segCur).streamed), 29), (v.vfs.held, 0)])
  else if off = 0x220 ∨ off = 0x224 then some (pairAt (s.strmWrOf q) 0x220 off)
  else if off = 0x228 ∨ off = 0x22C then some (pairAt v.strmRd 0x228 off)
  else if off = 0x230 ∨ off = 0x234 then some (pairAt (s.strmRelOf q) 0x230 off)
  else if off = 0x23C then some (pack [(b2n v.jump.isSome, 31), (b2n v.jumpTaken, 30), (b2n v.jumpSuperseded, 29),
    (b2n v.jumpLapsed, 28), (b2n v.jumpNoTarget, 27), (b2n v.jumpBoundary, 26), (v.jumpSlot, 24), (v.jumpSeg, 0)])
  else if off = 0x240 ∨ off = 0x244 then some (pairAt v.jumpVec 0x240 off)
  else if off = 0x248 then some (regOf v.undrInstr)
  else if off = 0x24C then some (regOf v.undrCount)
  else if off = 0x250 ∨ off = 0x254 then some (pairAt v.undrVec 0x250 off)
  else if off = 0x258 then some (regOf v.segCur)
  else if off = 0x260 ∨ off = 0x264 then some (pairAt v.markTs.toNat 0x260 off)
  else if off = 0x268 then some (match v.marks with | m :: _ => regOf (2 ^ 31 + m.id.toNat) | [] => 0)
  else if 0x26C ≤ off ∧ off < 0x278 then some (regOf ([v.markOvf, v.fetchHbm, v.fetchMerged].getD ((off - 0x26C) / 4) 0))
  else none

def readAxis (a : Axis) (k : Nat) : Option Word32 :=
  if k = 0 then some (regOf a.cur) else if k = 4 then some (regOf a.pos) else if k = 0x14 then some (regOf a.saveCur)
  else if k = 0x18 then some (regOf a.savePos) else none

def readApg (s : State) (q off : Nat) : Option Word32 :=
  let a := s.apgAt q
  if off = 0x104 then some (pack [(b2n a.z.carry, 2), (b2n a.y.carry, 1), (b2n a.x.carry, 0)])
  else if 0x110 ≤ off ∧ off < 0x170 then readAxis (a.axis ((off - 0x110) / 0x20)) ((off - 0x110) % 0x20)
  else if off = 0x180 then some (s.reg (pgApg q) off ||| pack [(b2n a.dg0.inv, 24)])
  else if off = 0x1A0 then some (s.reg (pgApg q) off ||| pack [(b2n a.dg1.inv, 24)])
  else if off = 0x190 ∨ off = 0x194 then some (pairAt a.dg0.cur.toNat 0x190 off)
  else if off = 0x1B0 ∨ off = 0x1B4 then some (pairAt a.dg1.cur.toNat 0x1B0 off)
  else if off = 0x1C0 ∨ off = 0x1C4 then some (pairAt a.opCount 0x1C0 off)
  else none

def readTss (s : State) (off : Nat) : Option Word32 :=
  let t := s.tss
  let pend := (List.range 64).filter (fun q => t.parts.any (fun p => p.seq = some q))
  if off = 0x128 then some (pack [(t.openItems.length, 16), (t.free, 0)])
  else if off = 0x12C then some (pack [(t.lastBatch, 16), (t.nextBatch, 0)])
  else if off = 0x130 then some (regOf t.refused)
  else if off = 0x134 then some t.cmd
  else if off = 0x138 ∨ off = 0x13C then some (pairAt ((pend.map (2 ^ ·)).sum) 0x138 off)
  else if off = 0x140 then some (match t.log with | r :: _ => r.id | [] => 0)
  else if off = 0x144 ∨ off = 0x148 then some (pairAt t.applyVec.toNat 0x144 off)
  else if off = 0x14C then some t.applySeg
  else if off = 0x150 then some (regOf t.applyOvf)
  else none

def readCh (s : State) (c off : Nat) : Option Word32 :=
  let v := s.chanAt c
  let m := s.reg (pgCh c) 0x10C
  if off = 0x10C then some (m ||| pack [(b2n v.lapsed, 31)])
  else if off = 0x110 then some (pack [(b2n (s.plinthBit c), 31), (b2n (s.loopActs c), 30), (b2n (s.cmpNow c).1, 1),
    (b2n (s.cmpNow c).2, 0)])
  else if off = 0x120 then some (v.corrDat.zeroExtend 32)
  else if off = 0x124 then some (v.corrEn.zeroExtend 32)
  else if off = 0x128 then some (v.corrCmp.zeroExtend 32)
  else if off = 0x180 then some (regOf v.edgeCollide)
  else if off = 0x184 then some (regOf v.edgeRange)
  else if off = 0x188 then some (regOf v.strobeMiss)
  else if off = 0x190 then some (regOf v.cmpMade)
  else if off = 0x194 then some (regOf v.cmpInvalid)
  else none

def readBank (s : State) (b off : Nat) : Option Word32 :=
  let v := s.bankAt b
  let users := ((s.bankUsers b).map (2 ^ ·)).sum
  if off = 0x104 then some (pack [(b2n v.entering, 11), (b2n v.powering, 10), (b2n v.queued, 9), (b2n v.calBusy, 8), (v.target.code, 4),
    (v.state.code, 0)])
  else if off = 0x108 ∨ off = 0x10C then some (pairAt users 0x108 off)
  else if off = 0x110 then some (regOf v.wakeCount)
  else none

def readCap (s : State) (i off : Nat) : Option Word32 :=
  let v := s.capAt i
  if off = 0x10C then some (pack [(b2n v.lost, 31), (b2n v.flogFull, 30), (b2n v.thresh, 29), (b2n v.rawTriggered, 28),
    (b2n v.rawDone, 27), (b2n v.postClamped, 26), (b2n v.drained, 25), (b2n v.retired, 24), (v.chans.length, 0)])
  else if off = 0x114 then some (regOf v.flogCount)
  else if off = 0x118 ∨ off = 0x11C then some (pairAt v.failVec 0x118 off)
  else if off = 0x120 ∨ off = 0x124 then some (pairAt v.failCmp 0x120 off)
  else if off = 0x128 ∨ off = 0x12C then some (pairAt v.firstVec 0x128 off)
  else if off = 0x130 ∨ off = 0x134 then some (pairAt v.firstTs.toNat 0x130 off)
  else if off = 0x138 ∨ off = 0x13C then some (pairAt v.retireVec 0x138 off)
  else if off = 0x140 then some (regOf v.lostCount)
  else if off = 0x144 then some (regOf v.stale)
  else if off = 0x148 ∨ off = 0x14C then some (pairAt v.lostVec 0x148 off)
  else if off = 0x178 then some (regOf v.mustRows)
  else if off = 0x17C then some (regOf v.mustCols)
  else if off = 0x180 then some (regOf v.bmOutside)
  else if off = 0x194 then some (regOf v.recBytes)
  else if off = 0x1A0 then some (regOf v.postEff)
  else if off = 0x1A8 ∨ off = 0x1AC then some (pairAt v.rawWr 0x1A8 off)
  else if off = 0x1B8 ∨ off = 0x1BC then some (pairAt v.trigVec 0x1B8 off)
  else if off = 0x1C0 ∨ off = 0x1C4 then some (pairAt v.trigOfs 0x1C0 off)
  else if 0x800 ≤ off then some (regOf (sget 0 v.fcount ((off - 0x800) / 4)))
  else none

def readTrg (s : State) (off : Nat) : Option Word32 :=
  let t := s.trg
  if off = 0x100 ∨ off = 0x104 then some (t.flagsNow.zeroExtend 32)
  else if off = 0x10C then some (pack [(t.xtNow.toNat, 4), (t.trigIn.toNat, 0)])
  else if 0x400 ≤ off ∧ off < 0x800 then
    let v := s.unitAt ((off - 0x400) / 0x40)
    let k := (off - 0x400) % 0x40
    if k = 0 then some ((s.reg pgTrg off &&& 0x8FFFFFFF) ||| pack [(b2n v.armed, 29), (b2n v.inHoldoff, 28)])
    else if k = 0x20 then some (pack [(v.causeAction.toNat, 8), (v.causeMask.toNat, 0)])
    else if k = 0x24 then some (regOf v.fireCount)
    else if k = 0x28 then some (regOf v.suppressed)
    else if k = 0x30 ∨ k = 0x34 then some (pairAt v.fireTs.toNat 0x30 k)
    else if k = 0x38 ∨ k = 0x3C then some (pairAt v.fireVec 0x38 k)
    else none
  else none

/-- Identity of a task in the table. -/
def State.idOf (s : State) : Option Nat → Nat
  | some i => taskId i (s.taskAt i)
  | none => 0

def readWe (s : State) (e off : Nat) : Option Word32 :=
  let v := s.weAt e
  let x := s.execAt e
  if off = 0x104 then some (pack [(b2n (v.offline && x.running.isNone), 31), (b2n x.running.isSome, 30), (b2n x.prefetch.isSome, 29),
    (b2n v.csValid, 28), (b2n v.reloading, 27), (b2n x.retired, 26)])
  else if off = 0x108 then some (regOf (s.idOf x.running))
  else if off = 0x10C then some (regOf v.idx)
  else if off = 0x110 ∨ off = 0x114 then some (pairAt v.instrCount 0x110 off)
  else if off = 0x118 then some (regOf v.wdogCount)
  else if off = 0x11C then some (regOf v.hbmRefused)
  else if off = 0x120 then some (regOf v.stale)
  else if off = 0x124 then some v.faultInfo
  else if off = 0x128 ∨ off = 0x12C then some (pairAt v.progBase 0x128 off)
  else if off = 0x130 then some (regOf v.progLen)
  else if off = 0x138 ∨ off = 0x13C then (if s.weIdleOff e then some (pairAt (s.lmWord e).toNat 0x138 off) else none)
  else if off = 0x14C then some v.mcodeVer
  else none

def readCe (s : State) (c off : Nat) : Option Word32 :=
  let v := s.ceAt c
  if off = 0x100 then some (pack [(b2n v.busy, 31), (v.status, 0)])
  else if off = 0x104 then some (regOf v.taskId)
  else if off = 0x108 ∨ off = 0x10C then some (pairAt v.bytes 0x108 off)
  else if off = 0x110 then some (regOf v.refused)
  else if off = 0x114 then some (regOf v.stale)
  else none

/-- Tasks that wait for space in an enabled ring; those of a ring with EN = 0 only wait for it (R255). -/
def State.ringHeld (s : State) (r : Nat) : Nat :=
  if s.ringOpen r ∨ ¬ (s.reg pgSch (ringOff r + 0xC)).getLsbD 31 then 0 else (s.sch.tasks.filter (fun e => e.2.state = .completing ∧ ¬ cfgNorec e.2.cfg ∧ cfgRing e.2.cfg = r)).length

def readSch (s : State) (off : Nat) : Option Word32 :=
  let v := s.sch
  if off = 0x104 then some (pack [(s.readyList.length, 16), (s.freeEntries, 0)])
  else if off = 0x110 then some (pack [(b2n v.cancelPending.isSome, 31), (v.cancelCode, 0)])
  else if 0x114 ≤ off ∧ off < 0x128 then some (regOf ([v.tableFull, v.badSucc, v.depUnderflow, v.stale, v.lateRelease].getD ((off - 0x114) / 4) 0))
  else if off = 0x128 ∨ off = 0x12C then some (pairAt v.submitted 0x128 off)
  else if 0x200 ≤ off ∧ off < 0x280 then
    let p := s.portAt ((off - 0x200) / 0x10)
    let k := (off - 0x200) % 0x10
    if k = 0 then some (regOf p.addr) else if k = 8 then some (pack [(b2n p.pending, 31), (p.code, 0)])
    else if k = 0xC then some (regOf p.id) else none
  else if 0x300 ≤ off ∧ off < 0x380 then
    let r := (off - 0x300) / 0x20
    let k := (off - 0x300) % 0x20
    if k = 0x14 then some (regOf (v.tails.getD r 0)) else if k = 0x18 then some (regOf (s.ringHeld r)) else none
  else none

def strStat (s : State) (m : StreamId) (extra : List (Nat × Nat)) : Word32 :=
  let r := s.runAt m
  pack ([(r.cause.code, 28), (b2n r.held, 22), (b2n r.startLate, 19), (r.state.code, 0)] ++ extra)

def readMs (s : State) (i : Fin 64) (off : Nat) : Option Word32 :=
  let v := s.msAt i
  let r := v.run
  if off = 0x104 then some (strStat s (.ms i) [(b2n (bit v.lastWord 31), 23), (b2n v.lost, 21), (b2n v.switch.isSome, 20)])
  else if off = 0x108 then some (regOf r.cmd)
  else if off = 0x140 ∨ off = 0x144 then some (pairAt v.outWr 0x140 off)
  else if off = 0x150 ∨ off = 0x154 then some (pairAt r.firstTs.toNat 0x150 off)
  else if off = 0x158 ∨ off = 0x15C then some (pairAt v.lostOut 0x158 off)
  else if off = 0x160 then some (regOf v.lostCount)
  else if off = 0x164 ∨ off = 0x168 then some (pairAt v.resyncOut 0x164 off)
  else if off = 0x16C ∨ off = 0x170 then some (pairAt r.corrOut 0x16C off)
  else if off = 0x174 then some (sfld 20 r.corrGain)
  else if off = 0x178 then some (sfld 18 r.corrOfs)
  else if off = 0x17C then some (regOf r.stale)
  else none

def readSs (s : State) (i : Fin 64) (off : Nat) : Option Word32 :=
  let v := s.ssAt i
  let r := v.run
  if off = 0x104 then some (strStat s (.ss i) [])
  else if off = 0x108 then some (regOf r.cmd)
  else if off = 0x128 then some (pack [(b2n v.fade.fade.isSome, 31), (b2n v.fade.waiting.isSome, 30), (b2n v.fade.noop, 29), (b2n v.fade.active, 16)])
  else if off = 0x12C then some (regOf v.fade.superseded)
  else if off = 0x150 ∨ off = 0x154 then some (pairAt v.samples 0x150 off)
  else if off = 0x158 ∨ off = 0x15C then some (pairAt r.firstTs.toNat 0x158 off)
  else if off = 0x160 ∨ off = 0x164 then some (pairAt v.undr 0x160 off)
  else if off = 0x168 ∨ off = 0x16C then some (pairAt r.corrOut 0x168 off)
  else if off = 0x170 then some (regOf v.clips)
  else if off = 0x174 then some (sfld 20 r.corrGain)
  else if off = 0x178 then some (sfld 16 r.corrOfs)
  else if off = 0x17C then some (regOf r.stale)
  else none

def readTim (s : State) (u off : Nat) : Option Word32 :=
  let v := s.timAt u
  if off = 0x104 then some (pack [(v.cause.code, 28), (b2n v.partialRes, 23), (b2n v.startLate, 22), (b2n (s.timCalBusy u), 21), (v.state.code, 0)])
  else if off = 0x108 then some (regOf v.cmd)
  else if off = 0x138 ∨ off = 0x13C then some (pairAt v.mean 0x138 off)
  else if off = 0x140 then some (regOf v.sdev)
  else if off = 0x148 ∨ off = 0x14C then some (pairAt v.minR 0x148 off)
  else if off = 0x150 ∨ off = 0x154 then some (pairAt v.maxR 0x150 off)
  else if off = 0x158 then some (regOf v.shots)
  else if off = 0x15C then some (regOf v.missed)
  else if off = 0x160 ∨ off = 0x164 then some (pairAt v.freq 0x160 off)
  else if off = 0x168 ∨ off = 0x16C then some (pairAt v.edges 0x168 off)
  else if off = 0x170 ∨ off = 0x174 then some (pairAt v.firstTs.toNat 0x170 off)
  else none

/-- The four words of a time: fraction in units of 2^-48 s, rounded, and seconds. -/
def timeWord (t k : Nat) : Word32 :=
  let f := (t + 781250) / 1562500
  if k = 0 then regOf f else if k = 1 then regOf (f / 2 ^ 32 % 2 ^ 16) else half (f / 2 ^ 48) (decide (k = 3))

def readTime (s : State) (d off : Nat) : Option Word32 :=
  let v := s.tdAt d
  let p := s.pairAt (d / 2)
  if off = 0x104 then some (pack [
    (b2n (s.pairEn d && decide ((s.tdAt (d / 2 * 2)).state = .holdover) && decide ((s.tdAt (d / 2 * 2 + 1)).state = .holdover)), 31),
    (b2n (p.activeOdd && decide (d % 2 = 0)), 30), (b2n v.loadPending, 29), (v.state.code, 0)])
  else if 0x110 ≤ off ∧ off < 0x120 then some (timeWord (s.time d) ((off - 0x110) / 4))
  else if 0x130 ≤ off ∧ off < 0x140 then some (timeWord v.t ((off - 0x130) / 4))
  else if off = 0x140 then some (sfld 32 v.rate)
  else if off = 0x148 then some (sfld 32 v.offset)
  else if off = 0x14C then some (sfld 32 v.delay)
  else if off = 0x154 then some (regOf p.switchCount)
  else if off = 0x158 then some (sfld 32 (centiPs p.switchStep))
  else if off = 0x15C then some (sfld 32 (centiPs p.ofs))
  else if off = 0x160 then some (sfld 32 (centiPs p.diff))
  else if off = 0x174 then some (regOf v.missed)
  else if off = 0x178 then some (regOf v.stepCount)
  else if off = 0x204 then some (regOf s.sync.phase)
  else if off = 0x20C then some (sfld 18 s.sync.corr)
  else if off = 0x210 ∨ off = 0x214 then some (pairAt s.sync.ts.toNat 0x210 off)
  else if off = 0x218 then some (regOf s.sync.slips)
  else if off = 0x21C then some ((s.trim 2 ++ s.trim 1 : BitVec 32))
  else if off = 0x228 then some (sfld 32 s.xoEst)
  else none

/-- Staged corrections of a target are not yet in force (R328). -/
def State.calStale (s : State) (k i : Nat) : Bool :=
  if k = 5 ∨ k = 6 then s.cal.stagedConv.any (fun x => x.1 = (if k = 5 then i else 64 + i))
  else if k = 7 ∨ k = 8 then s.cal.stagedTim.any (fun x => x.1 = i)
  else s.cal.staged.any (fun e => (k = 9 ∨ e.1 = i) ∧ e.2.any (fun x => x.term.kind = k))

def readCal (s : State) (off : Nat) : Option Word32 :=
  let c := s.cal
  let w := s.reg pgCal 0x160
  let k := fld w 28 4
  let i := fld w 0 16
  let f := s.fig k i
  if off = 0x104 then
    let cur := c.running.getD (0, 0)
    some (pack [(b2n c.bootDone, 31), (b2n c.running.isSome, 30), (cur.1, 24), (cur.2, 0)])
  else if off = 0x11C then some (regOf c.cmdStat)
  else if off = 0x164 then some (regOf (min 65535 f.value))
  else if off = 0x168 then some (pack [(b2n f.pending, 3), (b2n f.insufficient, 2), (b2n (s.calStale k i), 1), (b2n (targetOk k i && decide (f.count = 0)), 0)])
  else if off = 0x16C then some (regOf f.count)
  else if off = 0x170 ∨ off = 0x174 then some (pairAt f.time.toNat 0x170 off)
  else if off = 0x178 then some (sfld 16 f.temp)
  else if off = 0x17C then some (sfld 16 f.result)
  else if off = 0x184 then
    let e := s.reg pgCal 0x180
    some ((sget 0 c.ext (3 * fld e 0 9 + fld e 16 2)).zeroExtend 32)
  else none

def readFuse (s : State) (off : Nat) : Option Word32 :=
  let f := s.fuse
  let i := fld (s.reg pgFuse 0x120) 0 10
  if off = 0x104 then some (pack [(b2n f.burn.isSome, 31), (b2n s.vqps, 30), (b2n f.scanned, 29)])
  else if off = 0x108 then some (regOf f.cmdStat)
  else if off = 0x10C then some (regOf f.free)
  else if off = 0x114 then some (regOf f.accepted)
  else if off = 0x118 then some (regOf f.ignored)
  else if off = 0x11C then some (regOf f.lastGen)
  else if off = 0x124 then some (pack [(b2n (f.items.any (fun x => x.1 = i)), 16), ((s.trim i).toNat, 0)])
  else if off = 0x12C then some (sget 0 f.buf (fld (s.reg pgFuse 0x128) 0 9))
  else if off = 0x130 then some (regOf f.burnBlock)
  else none

def readHmc (s : State) (off : Nat) : Option Word32 :=
  let h := s.hmc
  let st := fun i => s.stackAt i
  if off = 0x104 then some (pack [(b2n h.degraded, 31), (b2n h.hot, 30), (b2n (st 1).selfRefresh, 29), (b2n (st 0).selfRefresh, 28),
    (b2n (st 1).changing, 27), (b2n (st 0).changing, 26), ((st 1).rate, 2), ((st 0).rate, 0)])
  else if off = 0x108 then some (regOf h.capacity)
  else if off = 0x10C ∨ off = 0x110 then some (pairAt h.pcOk.toNat 0x10C off)
  else if off = 0x118 then some (regOf h.freqStat)
  else if off = 0x124 then some (regOf h.reqs.length)
  else if 0x400 ≤ off ∧ off < 0x500 then
    let q := (off - 0x400) / 0x20
    let k := (off - 0x400) % 0x20
    let p := s.hportAt q
    if k = 0 ∨ k = 4 then some (pairAt p.served 0 k)
    else if k < 0x18 then some (regOf ([p.late, p.refused, p.maxLat, s.portQueued q].getD ((k - 8) / 4) 0))
    else none
  else none

def readPc (s : State) (n off : Nat) : Option Word32 :=
  let v := s.pcAt n
  if off = 0x100 then some (pack [(b2n v.dataLost, 31), (b2n v.laneRepaired, 30), (v.state.code, 0)])
  else if off = 0x104 then some (regOf v.ceCount)
  else if off = 0x108 ∨ off = 0x10C then some (pairAt v.ceAddr 0x108 off)
  else if off = 0x110 then some (regOf v.ueCount)
  else if off = 0x114 ∨ off = 0x118 then some (pairAt v.ueAddr 0x114 off)
  else if off = 0x11C then some (sfld 8 v.temp)
  else if off = 0x120 then some (regOf v.refMult)
  else if off = 0x128 then some (regOf v.fom)
  else if off = 0x138 then some (regOf v.trnErr)
  else if off = 0x140 then some (regOf (s.hmc.reqs.filter (fun r => r.loc.map Prod.fst = some n)).length)
  else none

/-- Code of receive lane `k` in LANE_STAT. -/
def laneCode (v : Zp) (k : Nat) : Nat :=
  if v.rxFailed.getLsbD k then 2
  else if k = 8 then (if v.rxSpare ∨ ¬ v.isUp then 0 else 1)
  else if v.rxHalf ∧ ((List.range k).filter (fun j => ¬ v.rxFailed.getLsbD j)).length ≥ 4 then 1
  else 0

def readZp (s : State) (p off : Nat) : Option Word32 :=
  let v := s.zpAt p
  let f := fun k => v.fom.getD k 0
  if off = 0x104 then some (pack [(v.step, 20), (v.attempts, 16), (b2n v.rxSpare, 12), (b2n v.txSpare, 11), (b2n v.rxHalf, 10), (b2n v.txHalf, 9),
    (b2n v.rate25, 8), (v.version, 4), (v.state.code, 0)])
  else if off = 0x10C then some (regOf v.rateStat.code)
  else if off = 0x114 then some (pack ((List.range 9).map (fun k => (laneCode v k, 2 * k))))
  else if off = 0x118 then some (pack [(f 0, 0), (f 1, 8), (f 2, 16), (f 3, 24)])
  else if off = 0x11C then some (pack [(f 4, 0), (f 5, 8), (f 6, 16), (f 7, 24)])
  else if off = 0x120 then some (regOf (f 8))
  else if off = 0x128 then some (v.xtRx.zeroExtend 32)
  else if off = 0x12C then some v.partnerId
  else if 0x130 ≤ off ∧ off < 0x14C then some (regOf ([v.replayCount, v.crcErr, v.spareCount, v.lostCount, v.stale, v.badMsg, v.rtt].getD ((off - 0x130) / 4) 0))
  else none

def readPl (s : State) (j off : Nat) : Option Word32 :=
  let v := s.plAt j
  if off = 0x104 then some (pack [(v.protoMajor, 24), (v.protoMinor, 16), (v.peStatus, 8), (v.state.code, 0)])
  else if off = 0x108 then some v.peFw
  else if 0x10C ≤ off ∧ off < 0x120 then some (regOf ([v.hbMiss, v.lostCount, v.crcErr, v.ctrlRetry, v.stale].getD ((off - 0x10C) / 4) 0))
  else if 0x120 ≤ off ∧ off < 0x140 then
    some (regOf ((if (off - 0x120) / 4 % 2 = 0 then v.vlo else v.vhi).getD ((off - 0x120) / 8) 0))
  else none

def readPcie (s : State) (off : Nat) : Option Word32 :=
  let v := s.pcie
  if off = 0x100 then some (pack [(b2n v.up, 31), (v.width, 16), (v.speed, 0)])
  else if off = 0x108 then some (regOf v.bar4Err)
  else if off = 0x10C then some (regOf v.downCount)
  else if off = 0x110 then some (pack [(b2n v.ptmOn, 31), (b2n v.ptmValid, 30)])
  else if off = 0x114 then some (regOf s.pcieHeld.length)
  else none

/-- Pages that are event sources (R383, R390). -/
def sources : List Nat := blocks.flatMap (fun b => (List.range b.2.1).map (fun i => b.1 + i))

def readChip (s : State) (off : Nat) : Option Word32 :=
  let m := s.mgt
  if off = 0x100 then some 0x512000B0
  else if off = 0x108 then some (Config.uidWord 0)
  else if off = 0x10C then some (Config.uidWord 1)
  else if off = 0x110 then some (pack [(b2n (decide (m.stage = .done)), 31), (b2n (decide (m.phase = .recovery)), 30), (b2n m.bootedB, 24), (m.stage.code, 0)])
  else if off = 0x114 then some m.fwVer
  else if off = 0x118 then some (m.temp.zeroExtend 32)
  else if 0x200 ≤ off ∧ off < 0x2C4 then
    let w := (off - 0x200) / 4
    some (pack ((List.range 32).map (fun j => (b2n (s.hdrAt (32 * w + j)).summary, j))))
  else none

def readRcp (s : State) (off : Nat) : Option Word32 :=
  let m := s.mgt
  if off = 0x104 then some m.cause
  else if off = 0x108 then some (pack [(b2n (decide (m.phase ≠ .unpowered)), 3), (b2n s.sync.fixed, 2), (b2n m.pllLocked, 1), (b2n m.refclk, 0)])
  else if off = 0x10C then some (m.rails.zeroExtend 32)
  else if off = 0x110 then
    let left := match s.bankLastStart with | some e => e + edges20us - s.now | none => 0
    some (pack [(b2n (decide (0 < left)), 16), ((left + 399) / 400, 0)])
  else if off = 0x114 then some ((Config.coreCurrent s.now).zeroExtend 32)
  else none

def readMbox (s : State) (off : Nat) : Option Word32 :=
  let m := s.mgt
  if off = 0x104 then some (pack [(b2n m.mboxBusy, 31), (b2n m.rspValid, 30), (b2n m.fwReady, 29), (fld (m.rsp.getD 0 0) 0 16, 0)])
  else if 0x300 ≤ off ∧ off < 0x340 then some (m.rsp.getD ((off - 0x300) / 4) 0)
  else none

def readUpd (s : State) (off : Nat) : Option Word32 :=
  let m := s.mgt
  if off = 0x100 then some m.sess.stat
  else if off = 0x104 then some (regOf m.sess.bytes)
  else if off = 0x108 then some (regOf m.sess.total)
  else if off = 0x110 then some m.verA
  else if off = 0x114 then some m.verB
  else if off = 0x118 then some (match m.pin with | some b => pack [(1, 31), (b2n b, 0)] | none => 0)
  else if off = 0x11C then some (regOf s.epoch)
  else if off = 0x120 then some (pack [(s.debugFuses.toNat, 8), (s.revoked.toNat, 0)])
  else if off = 0x124 then some (pack [(m.fails.getD 1 0, 4), (m.fails.getD 0 0, 0)])
  else none

/-- Block type of each block (R383). -/
def blockType (page : Nat) : Nat :=
  if page = pgTss then 0x700
  else if page < 8 then page + 1
  else match blocks.find? (fun b => b.1 ≤ page ∧ page < b.1 + b.2.1) with
  | some b => if 0x11 ≤ page ∧ page ≤ 0x13 then 0x10 else b.1
  | none => 0
def blockInst (page : Nat) : Nat :=
  if page = pgTss ∨ page < 8 then 0
  else if 0x10 ≤ page ∧ page ≤ 0x13 then page - 0x10
  else match blocks.find? (fun b => b.1 ≤ page ∧ page < b.1 + b.2.1) with
  | some b => page - b.1
  | none => 0

/-- PAGE_STAT.STALE (R328). -/
def State.pageStale (s : State) (page : Nat) : Bool :=
  if 0x400 ≤ page ∧ page < 0x600 then s.cal.staged.any (fun e => e.1 = page - 0x400)
  else if 0x210 ≤ page ∧ page < 0x230 then s.cal.stagedTim.any (fun x => x.1 = page - 0x210)
  else if 0x240 ≤ page ∧ page < 0x280 then
    s.cal.stagedConv.any (fun x => x.1 = page - 0x240) || (s.msAt (page - 0x240)).run.held
  else if 0x280 ≤ page ∧ page < 0x2C0 then
    s.cal.stagedConv.any (fun x => x.1 = page - 0x280 + 64) || (s.ssAt (page - 0x280)).run.held
  else false

/-- A header register (common page header). -/
def readHdr (s : State) (page off : Nat) : Word32 :=
  let h := s.hdrAt page
  if off = 0 then pack [(blockType page, 16), (blockInst page, 0)]
  else if off = 4 then 0x200
  else if off = 8 then pack [(b2n h.freeze, 1), (b2n h.enable, 0)]
  else if off = 0xC then pack [(b2n (s.pageStale page), 3), (b2n h.error, 2), (b2n (h.busy || s.resetNow page), 1), (b2n (s.ready page), 0)]
  else if off = 0x10 then h.evtRaw
  else if off = 0x14 then h.evtMask
  else if off = 0x18 then h.pend
  else if off = 0x1C then h.errCode.zeroExtend 32
  else if off = 0x20 then h.errInfo
  else 0

/-- A block register from the state that holds it. -/
def readBlock (s : State) (page off : Nat) : Option Word32 :=
  if page = pgChip then readChip s off else if page = pgRcp then readRcp s off else if page = pgFuse then readFuse s off
  else if page = pgUpd then readUpd s off else if page = pgMbox then readMbox s off
  else if 0x10 ≤ page ∧ page < 0x14 then readTime s (page - 0x10) off
  else if 0x20 ≤ page ∧ page < 0x26 then readZp s (page - 0x20) off
  else if 0x30 ≤ page ∧ page < 0x50 then readPl s (page - 0x30) off
  else if page = pgPcie then readPcie s off
  else if 0x80 ≤ page ∧ page < 0xC0 then readPc s (page - 0x80) off
  else if page = pgHmc then readHmc s off
  else if 0x100 ≤ page ∧ page < 0x140 then readSeq s (page - 0x100) off
  else if 0x140 ≤ page ∧ page < 0x180 then readApg s (page - 0x140) off
  else if 0x180 ≤ page ∧ page < 0x200 then readCap s (page - 0x180) off
  else if page = pgTrg then readTrg s off
  else if 0x210 ≤ page ∧ page < 0x230 then readTim s (page - 0x210) off
  else if 0x240 ≤ page ∧ page < 0x280 then readMs s (Fin.ofNat 64 (page - 0x240)) off
  else if 0x280 ≤ page ∧ page < 0x2C0 then readSs s (Fin.ofNat 64 (page - 0x280)) off
  else if page = pgSch then readSch s off
  else if 0x310 ≤ page ∧ page < 0x328 then readWe s (page - 0x310) off
  else if 0x330 ≤ page ∧ page < 0x338 then readCe s (page - 0x330) off
  else if page = pgCal then readCal s off
  else if 0x400 ≤ page ∧ page < 0x600 then readCh s (page - 0x400) off
  else if 0x600 ≤ page ∧ page < 0x610 then readBank s (page - 0x600) off
  else if page = pgTss then readTss s off
  else none

/-- The live value of a register. -/
def State.liveReg (s : State) (page off : Nat) : Word32 :=
  if off < 0x100 then readHdr s page off else (readBlock s page off).getD (s.reg page off)

/-- Registers that FREEZE does not hold: those whose read removes an entry, and the latches such a read loads (R387). -/
def neverFrozen (page off : Nat) : Bool :=
  (0x100 ≤ page ∧ page < 0x140 ∧ 0x260 ≤ off ∧ off ≤ 0x268) ∨ (page = pgTss ∧ 0x140 ≤ off ∧ off ≤ 0x14C)

/-- Offsets of a page's read-only registers. -/
def roOffsets (page : Nat) : List Nat :=
  (blockAt page).flatMap (fun r =>
    if r.ro then (List.range r.n).map (fun k => r.off + r.stride * k) else []) |>.filter (fun off => ¬ neverFrozen page off)

/-- A register as a read returns it: held while FREEZE is 1, live again from the cycle after it is cleared (R387). -/
def State.readReg (s : State) (page off : Nat) : Word32 :=
  let h := s.hdrAt page
  if h.freeze ∨ h.thawEdge = s.now + 1 then sget (s.liveReg page off) h.frozen off else s.liveReg page off

end Sys2Proof.Machine
end

