-- ==== Sys2Proof/Machine/Pages.lean ====
section
/-! DEFINITION. Accesses of the register pages (R383 to R393): the header's own commands, writes of registers that have no
command of their own with every refusal a chapter names, and reads of 64-bit pairs. -/
namespace Sys2Proof.Machine

/-- Pages of the map, and the event source number that stands for the TSS control block. -/
def pageExists (page : Nat) : Bool := blockAt page ≠ []

/-- A page-header command on a page of the map; any other page is reserved (R384, R396 item 1). -/
def onPage (page : Nat) (f : State → State) (s : State) : Res :=
  if pageExists page then .next (f (s.redoReset page)) else .fault (.undefinedBehaviour 1)

def State.modHdr (s : State) (page : Nat) (f : PageHdr → PageHdr) : State := s.setHdr page (f (s.hdrAt page))

/-! ### Events and errors (R385, R390 to R392) -/

/-- A write of EVT_RAW or EVT_MASK that leaves EVT_PEND non-zero counts as a rise; pending ring events of the SCH page
signal the vectors of their rings. -/
def State.writeRise (s : State) (page : Nat) : State :=
  let h := s.hdrAt page
  if page = pgSch then
    let s := foldState ((List.range 4).filter (fun r => h.pend.getLsbD r)) (fun r s =>
      s.signal (fld (s.reg pgSch (ringOff r + 0xC)) 0 11)) s
    if h.pend &&& 0xFFFFFFF0 ≠ 0 ∧ h.enable then s.rise page else s
  else if h.summary then s.rise page else s

/-- EVT_RAW written: an event of the same cycle wins over the clear of its bit. -/
def evtRawClear (page : Nat) (bits : Word32) (s : State) : State :=
  let h := s.hdrAt page
  let keep := if h.evtEdge = s.now + 1 then h.evtNow else 0
  (s.setHdr page { h with evtRaw := h.evtRaw &&& ~~~ (bits &&& ~~~ keep) }).writeRise page
/-- EVT_RAW_CLEAR (R391). -/
def execEvtRawClear (page : BitVec 16) (bits : Word32) (s : State) : Res := onPage page.toNat (evtRawClear page.toNat bits) s

def evtMaskWrite (page : Nat) (v : Word32) (s : State) : State :=
  (s.modHdr page (fun h => { h with evtMask := v })).writeRise page
/-- EVT_MASK_WRITE (R391). -/
def execEvtMaskWrite (page : BitVec 16) (v : Word32) (s : State) : Res := onPage page.toNat (evtMaskWrite page.toNat v) s

/-- ERROR written: cleared first, then an error of the same cycle is recorded (R385). -/
def errorClear (page : Nat) (s : State) : State :=
  s.modHdr page (fun h =>
    match h.errCyc with
    | some (e, c, i) =>
      if e = s.now then { h with error := true, errCode := c, errInfo := i, errEdge := s.now + 1 }
      else { h with error := false, errCode := 0, errInfo := 0 }
    | none => { h with error := false, errCode := 0, errInfo := 0 })
/-- ERROR_CLEAR (R385). -/
def execErrorClear (page : BitVec 16) (s : State) : Res := onPage page.toNat (errorClear page.toNat) s

/-- FREEZE set or cleared (R387). -/
def freezePage (page : Nat) (on : Bool) (s : State) : State :=
  let h := s.hdrAt page
  if on = h.freeze then s
  else if on then
    s.setHdr page { h with freeze := true, frozen := (roOffsets page).map (fun off => (off, s.liveReg page off)) }
  else s.setHdr page { h with freeze := false, thawEdge := s.now + 1 }
/-- FREEZE (R387). -/
def execFreeze (page : BitVec 16) (on : Bool) (s : State) : Res := onPage page.toNat (freezePage page.toNat on) s

/-- ENABLE written: it may raise the summary (R390). -/
def enablePage (page : Nat) (on : Bool) (s : State) : State :=
  let was := (s.hdrAt page).summary
  let s := s.modHdr page (fun h => { h with enable := on })
  if (s.hdrAt page).summary ∧ ¬ was then s.rise page else s

/-! ### Soft resets (R386) -/

/-- What sequencer `q` holds refuses writes: it is in progress, and its arm is not of this very cycle (R74, R135, R217). -/
def State.heldBy (s : State) (q : Nat) : Bool := s.inProgress q && !s.tookUp q

/-- A unit whose chapter ignores its soft reset while in use (R135, R185, R217). -/
def State.resetRefused (s : State) (page : Nat) : Bool :=
  if 0x140 ≤ page ∧ page < 0x180 then s.heldBy (page - 0x140)
  else if 0x400 ≤ page ∧ page < 0x600 then s.chanInUse (page - 0x400) && !s.chanArmedNow (page - 0x400)
  else if 0x180 ≤ page ∧ page < 0x200 then
    let w := s.reg page 0x100
    bit w 31 && s.heldBy (fld w 0 6)
  else false

/-- A soft reset of a SEQ page (R43): at once where nothing is in progress, else with the final state. -/
def seqSoftReset (q : Nat) (s : State) : State :=
  let v := s.seqAt q
  if ¬ v.inProgress then seqPageReset q s
  else if v.arming = .header then
    -- it has no channel map yet, and the sites of the burst before stay its own (R243)
    let v := { v with ending := some (EndCause.reset, s.now), endCond := s.now, parked := true, resetPend := true, cast := {} }
    ((s.setSeq q v).memberEnds q s.now).enterFinal q
  else (s.setSeq q { v with resetPend := true }).endBurst q .reset s.now

/-- A soft reset of a CH page (R193): corrections and ASSIGN stay. LOOP.LAPSED clears with LOOP (assumption 98). -/
def chSoftReset (c : Nat) (s : State) : State :=
  (s.resetRegs (pgCh c) (fun off => off = 0x100)).modChan c (fun v => { v with cmpMade := 0, cmpInvalid := 0, lapsed := false })

/-- A soft reset of a CAP page (R217): items on their way to HBM become those of a requester reset since (R32, R359). -/
def capSoftReset (i : Nat) (s : State) : State :=
  (s.resetRegs (pgCap i)).modCap i (fun v => { v with old := v.old ++ v.queue, queue := [], before := 0 })

/-- A soft reset of the TSS control block (R170). -/
def tssSoftReset (s : State) : State :=
  (s.resetRegs pgTss).setTss (fun t => { t with openItems := [], refused := 0 })

/-- CTRL.SRC of a domain has changed: the domain starts in the state of its new source. -/
def State.srcChanged (s : State) (d : Nat) : State :=
  let st := if s.tdSrc d = 1 then TdState.gridWait else if s.steered d then .acquire else .free
  (s.modTd d (fun v => { v with good := 0, missRun := 0, exch := none, loaded := false, loadPending := false, loadAt := none })).tdState d st

/-- A soft reset of a TIME page (R315): time and phase stay; a domain whose SRC it changes starts in the state of FREE. -/
def timeSoftReset (d : Nat) (s : State) : State :=
  let src := s.tdSrc d
  let s := s.resetRegs (pgTime d) (fun off => d = 0 ∧ (off = 0x208 ∨ off = 0x220 ∨ off = 0x224))
  if src ≠ s.tdSrc d then s.srcChanged d else s

/-- Soft resets that end in the cycle they begin: the block's RW fields return to their reset values, RWS fields stay, and
the unit runs the reset its chapter fixes. -/
def unitSoftReset (page : Nat) (s : State) : State :=
  if page = pgChip then s.resetRegs page (fun off => off = 0x104 ∨ 0x300 ≤ off)
  else if page = pgMbox then (mboxReset s).resetRegs page
  else if 0x10 ≤ page ∧ page < 0x14 then timeSoftReset (page - 0x10) s
  else if 0x30 ≤ page ∧ page < 0x50 then plReset (page - 0x30) s
  else if page = pgHmc then hmcReset s
  else if page = pgTrg then trgReset s
  else if 0x210 ≤ page ∧ page < 0x230 then (timReset (page - 0x210) s).resetRegs page
  else if 0x240 ≤ page ∧ page < 0x280 then (strReset (.ms (Fin.ofNat 64 (page - 0x240))) s).resetRegs page
  else if 0x280 ≤ page ∧ page < 0x2C0 then (strReset (.ss (Fin.ofNat 64 (page - 0x280))) s).resetRegs page
  else if 0x310 ≤ page ∧ page < 0x328 then (weOffline (page - 0x310) false (weReset (page - 0x310) s)).resetRegs page (fun off => off = 0x118)
  else if 0x330 ≤ page ∧ page < 0x338 then (ceReset (page - 0x330) s).resetRegs page
  else if page = pgCal then
    let s := s.calLeave
    { s with cal := { s.cal with runReq := none } }.resetRegs page
  else if 0x400 ≤ page ∧ page < 0x600 then chSoftReset (page - 0x400) s
  else if 0x180 ≤ page ∧ page < 0x200 then capSoftReset (page - 0x180) s
  else if page = pgTss then tssSoftReset s
  else s.resetRegs page

/-- The reset of a page's unit. Its outstanding HBM requests complete under R359. -/
def pageResetRun (page : Nat) (s : State) : State :=
  let s := if page = pgHmc then s else s.dropRequests page  -- R360: a reset of the HMC page leaves every request
  let s := { s with latches := s.latches.filter (fun e => e.1 / 0x2000 ≠ page) }
  let begun := s.modHdr page (fun h => { h with busy := true })
  if 0x100 ≤ page ∧ page < 0x140 then seqSoftReset (page - 0x100) begun
  else if page = pgSch then schReset begun
  else if 0x20 ≤ page ∧ page < 0x26 then zpReset (page - 0x20) begun
  else if 0x80 ≤ page ∧ page < 0xC0 then (pcReset (page - 0x80) begun).resetRegs page
  else (unitSoftReset page s).pageResetDone page

/-- The write of SOFT_RESET. -/
def pageSoftReset (page : Nat) (s : State) : State :=
  if (s.hdrAt page).busy ∨ ¬ (s.hdrAt page).up then s
  else if s.resetRefused page then s.recordErr page errAssignBusy
  else pageResetRun page (s.modHdr page (fun h => { h with resetEdge := s.now + 1 }))

/-- Resets whose page was written after them in the cycle that ends act after those writes (R386). -/
def State.redoTick (s : State) : State := { foldState s.redo pageResetRun s with redo := [] }
/-- PAGE_SOFT_RESET (R386). -/
def execPageSoftReset (page : BitVec 16) (s : State) : Res := onPage page.toNat (pageSoftReset page.toNat) s

/-- The soft reset of the SCH page ends once every record is written (R253); the ring registers are RWS. -/
def State.schTick (s : State) : State :=
  if (s.hdrAt pgSch).busy ∧ s.schIdle then
    (s.resetRegs pgSch (fun off => 0x300 ≤ off ∧ off < 0x380)).pageResetDone pgSch
  else s

/-! ### Writes a chapter refuses -/

/-- A domain is named (R315). -/
def State.tdNamed (s : State) (d : Nat) : Bool :=
  (List.range 64).any (fun q =>
    (s.inProgress q && (startTd s q == d || fld (alignCfg s q) 12 2 == d || fld (s.reg (pgSeq q) 0x25C) 0 2 == d)) ||
    (match (s.seqAt q).waitUntil with | some (t, _) => t.val == d | none => false)) ∨
  allStreams.any (fun m => (s.runAt m).inProgress ∧ s.strTd m = d) ∨
  (List.range 32).any (fun u => (s.timAt u).inProgress ∧ s.timTd u = d)

/-- Ring registers whose ring holds unconsumed records or HELD tasks. -/
def State.ringBusy (s : State) (r : Nat) : Bool :=
  s.sch.tails.getD r 0 ≠ s.regN pgSch (ringOff r + 0x10) ∨ s.ringHeld r ≠ 0

/-- SEQ registers that a burst runs under: those of R74, and those of R36 and R131, which know no exception for the cycle of
the arm. -/
def seqHeld (off : Nat) : Bool := 0x10C ≤ off ∧ off < 0x130
def seqHeldAlways (off : Nat) : Bool := (0x160 ≤ off ∧ off < 0x1A0) ∨ off = 0x200 ∨ (0x208 ≤ off ∧ off < 0x21C)

/-- Why a write of `v` is ignored: its error code. -/
def State.writeRefused (s : State) (page off : Nat) (v : Word32) (path : Path) : Option (BitVec 16) :=
  let busy := fun (b : Bool) => if b then some errAssignBusy else none
  if 0x100 ≤ page ∧ page < 0x140 then busy ((s.heldBy (page - 0x100) && seqHeld off) || (s.inProgress (page - 0x100) && seqHeldAlways off))
  else if 0x140 ≤ page ∧ page < 0x180 then busy (s.heldBy (page - 0x140))
  else if 0x180 ≤ page ∧ page < 0x200 then
    let cfg := s.reg page 0x100
    let used := bit cfg 31 && s.inProgress (fld cfg 0 6)
    if off = 0x100 then busy (used || (bit v 31 && s.inProgress (fld v 0 6)))
    else if off = 0x1B0 ∨ off = 0x1B4 then none
    else if used && s.heldBy (fld cfg 0 6) then some errAssignBusy
    else if off = 0x104 ∧ bit v 3 ∧ bit v 2 then some 0x0042
    else none
  else if 0x400 ≤ page ∧ page < 0x600 then 
    busy (s.chanInUse (page - 0x400) && (decide (off = 0x100) || !s.chanArmedNow (page - 0x400)))
  else if 0x210 ≤ page ∧ page < 0x230 then busy ((s.timAt (page - 0x210)).inProgress && decide (off ≠ 0x100))
  else if 0x240 ≤ page ∧ page < 0x280 then
    busy ((s.msAt (page - 0x240)).run.inProgress &&
      !(off = 0x100 || off = 0x124 || off = 0x110 || off = 0x148 || off = 0x14C))
  else if 0x280 ≤ page ∧ page < 0x2C0 then
    busy ((s.ssAt (page - 0x280)).run.inProgress && !(off = 0x100 || off = 0x124 || off = 0x130 || off = 0x134))
  else if 0x80 ≤ page ∧ page < 0xC0 then
    busy (decide (path = .pcie) && decide ((s.pcAt (page - 0x80)).state = .inService) && decide (0x12C ≤ off ∧ off < 0x140))
  else if page = pgHmc ∧ 0x200 ≤ off ∧ off < 0x400 then
    if (s.part ((off - 0x200) / 0x20)).en ∧ ¬ (off % 0x20 = 0x10 ∧ ¬ bit v 31) then some 0x0048 else none
  else if page = pgSch ∧ 0x300 ≤ off ∧ off < 0x380 ∧ (off % 0x20 = 0 ∨ off % 0x20 = 4 ∨ off % 0x20 = 8) then
    if s.ringBusy ((off - 0x300) / 0x20) then some 0x0044 else none
  else if 0x310 ≤ page ∧ page < 0x328 ∧ (off = 0x138 ∨ off = 0x13C) then
    if s.weIdleOff (page - 0x310) then none else some errWeBusy
  else if page = pgMbox ∧ 0x200 ≤ off ∧ off < 0x240 then if s.mgt.mboxBusy then some 0x0050 else none
  else none

/-- Fields that keep their value while the rest of the register may be written: SRC and PORT of a named domain (R315), and
all but FREEZE and NEXT_CONV in a measure stream in progress (R281). -/
def State.keptBits (s : State) (page off : Nat) : Word32 :=
  if 0x10 ≤ page ∧ page < 0x14 ∧ off = 0x100 ∧ s.tdNamed (page - 0x10) then 0x7F
  else if 0x240 ≤ page ∧ page < 0x280 ∧ (s.msAt (page - 0x240)).run.inProgress then
    if off = 0x124 then 0xBFFFFFFF else if off = 0x110 then 0xFCFFFFFF else 0
  else 0

/-! ### What a register write brings about -/

/-- Effects of a stored register beyond its storage; `old` is its value before. -/
def State.written (s : State) (page off : Nat) (old v : Word32) : State :=
  if 0x10 ≤ page ∧ page < 0x14 ∧ off = 0x100 then
    if fld (old ^^^ s.reg page off) 0 4 ≠ 0 then s.srcChanged (page - 0x10) else s
  else if page = pgTime 0 ∧ off = 0x208 then { s with cal := { s.cal with syncDue := true } }
  else if 0x20 ≤ page ∧ page < 0x26 then
    if off = 0x100 then if bit old 31 = bit v 31 then s else zpEnable (page - 0x20) (bit v 31) s
    else if off = 0x124 then (s.xtUpdate false).sendXt
    else s
  else if 0x30 ≤ page ∧ page < 0x50 ∧ off = 0x100 then
    if bit old 31 = bit v 31 then s else plEnable (page - 0x30) (bit v 31) s
  else if page = pgTrg ∧ 0x400 ≤ off ∧ off % 0x40 = 0 then
    let s := unitEnable ((off - 0x400) / 0x40) (bit v 31) s
    if bit v 30 then s.unitDo ((off - 0x400) / 0x40) .arm else s
  else if 0x100 ≤ page ∧ page < 0x140 ∧ off = 0x100 then
    -- MAQUETTE and MAQ_MATCH written in the cycle of the arm are taken by it (R74)
    s.modSeq (page - 0x100) (fun q => if q.acceptEdge = s.now + 1 then { q with maquette := bit v 0, maqMatch := bit v 4 } else q)
  else if 0x310 ≤ page ∧ page < 0x328 ∧ off = 0x100 then weOffline (page - 0x310) (bit v 0) s
  else if 0x310 ≤ page ∧ page < 0x328 ∧ off = 0x13C then lmStore (page - 0x310) v s
  else if 0x310 ≤ page ∧ page < 0x328 ∧ off = 0x148 then csStore (page - 0x310) v s
  else if 0x310 ≤ page ∧ page < 0x328 ∧ off = 0x118 then s.modWe (page - 0x310) (fun w => { w with wdogCount := v.toNat })
  else if 0x400 ≤ page ∧ page < 0x600 ∧ off = 0x10C then
    -- in the cycle of an accepted arm the write acts first: the arm then sets MODE to NONE (R185, R191)
    if s.chanInUse (page - 0x400) then
      (s.setReg page off (s.reg page off &&& ~~~ 7)).modChan (page - 0x400) (fun c => { c with lapsed := decide (fld v 0 3 ≠ 0) })
    else s.modChan (page - 0x400) (fun c => { c with lapsed := false })
  else s

/-- Bits a write stores, with EN of a trigger unit left to its own rule. -/
def State.storeReg (s : State) (page off : Nat) (r : RegSpec) (v : Word32) : State :=
  let s := if page = pgTrg ∧ 0x400 ≤ off then s.keepUnit ((off - 0x400) / 0x40) else s
  let old := s.reg page off
  let kept := s.keptBits page off
  let new := (old &&& (~~~ r.rw ||| kept)) ||| (v &&& r.rw &&& ~~~ kept)
  let s := if (old ^^^ v) &&& r.rw &&& kept ≠ 0 then s.recordErr page errAssignBusy else s
  (s.setReg page off new).written page off old v

/-- Two enabled partition entries overlap, in device addresses or in a pseudo-channel (R339). -/
def State.partsOverlap (s : State) : Bool :=
  (List.range 16).any (fun i => (List.range i).any (fun j =>
    let a := s.part i
    let b := s.part j
    let span := fun (e : Part) => 64 * e.size / (setBits e.mask).length
    a.en ∧ b.en ∧ (spansMeet a.base a.size b.base b.size ∨
      (a.mask &&& b.mask ≠ 0 ∧ spansMeet a.ofs (span a) b.ofs (span b)))))

/-- A write of a block register: ignored while READY is 0 or where a chapter refuses it, and of a read-only register. -/
def blockWrite (page off : Nat) (r : RegSpec) (v : Word32) (path : Path) (s : State) : Except Fault State :=
  let s := s.redoReset page
  if ¬ (s.ready page ∨ s.resetNow page) ∨ r.ro then .ok s
  else if 0x310 ≤ page ∧ page < 0x328 ∧ off = 0x148 ∧ (s.execAt (page - 0x310)).running.isSome then .error (.undefinedBehaviour 10)
  else
    let s := if 0x80 ≤ page ∧ page < 0xC0 then s.modPc (page - 0x80) (fun p => { p with dataLost := false }) else s
    match s.writeRefused page off v path with
    | some code => .ok (s.recordErr page code)
    | none =>
      let s := s.storeReg page off r v
      if page = pgHmc ∧ s.partsOverlap then .error (.undefinedBehaviour 5) else .ok s

/-- A write of a header register. -/
def headerWrite (page off : Nat) (v : Word32) (s : State) : Except Fault State :=
  let s := s.redoReset page
  if off = 8 then
    if v &&& 0xFFFFFFF8 ≠ 0 then .error (.undefinedBehaviour 2)
    else
      let s := freezePage page (bit v 1) (enablePage page (bit v 0) s)
      .ok (if bit v 2 then pageSoftReset page s else s)
  else if off = 0xC then
    if v &&& 0xFFFFFFF0 ≠ 0 then .error (.undefinedBehaviour 2) else .ok (if bit v 2 then errorClear page s else s)
  else if off = 0x10 then .ok (evtRawClear page v s)
  else if off = 0x14 then .ok (evtMaskWrite page v s)
  else if off < 0x24 then .ok s
  else .error (.undefinedBehaviour 1)

/-- MSI-X table (R391): word 3 of an entry holds the mask bit; a vector unmasked with its pending bit set is sent. -/
def msixWrite (k : Nat) (v : Word32) (s : State) : State :=
  let n := k / 16
  if k % 16 = 12 then
    let s := s.setReg 0x1000 k v
    if bit v 0 then { s with msixOn := clrBit s.msixOn n }
    else
      let s := { s with msixOn := setBit s.msixOn n }
      if s.msixPend.getLsbD n then { s with msixPend := clrBit s.msixPend n }.signal n else s
  else s.setReg 0x1000 k v

/-- One word written at a BAR0 address, or at a BAR2 address of the TSS control block. -/
def wordWrite (bar2 : Bool) (path : Path) (addr : Nat) (v : Word32) (s : State) : Except Fault State :=
  let page := if bar2 then pgTss else addr / 0x1000
  let off := addr % 0x1000
  if bar2 ∧ addr / 0x1000 ≠ 0x500 then .error (.undefinedBehaviour 1)
  else if ¬ bar2 ∧ 0x1000 ≤ page ∧ page < 0x1008 then .ok (msixWrite (addr - 0x1000000) v s)
  else if ¬ bar2 ∧ page = 0x1008 then if off < 256 then .ok s else .error (.undefinedBehaviour 1)
  else if ¬ pageExists page ∨ (¬ bar2 ∧ page = pgTss) then .error (.undefinedBehaviour 1)
  else if off < 0x100 then headerWrite page off v s
  else match specAt page off with
  | none => .error (.undefinedBehaviour 1)
  | some r =>
    if v &&& ~~~ (r.rw ||| r.other) ≠ 0 then .error (.undefinedBehaviour 2) else blockWrite page off r v path s

/-- REGISTER_WRITE (R388, R389): each word takes effect; a 64-bit write writes both in one cycle. -/
def execRegisterWrite (bar2 : Bool) (addr : BitVec 26) (lo : Word32) (hi : Option Word32) (path : Path) (s : State) : Res :=
  toRes (bothWords addr.toNat lo hi (wordWrite bar2 path) s)

/-! ### Reads of pairs (R389) -/

/-- Low words of a page's 64-bit pairs. -/
def pairLows (page : Nat) : List Nat :=
  let rep := fun (off stride n : Nat) => (List.range n).map (fun k => off + stride * k)
  if page = pgChip then [0x108]
  else if 0x10 ≤ page ∧ page < 0x14 then [0x110, 0x120, 0x128, 0x130] ++ (if page = 0x10 then [0x210] else [])
  else if 0x20 ≤ page ∧ page < 0x26 then [0x118]
  else if 0x80 ≤ page ∧ page < 0xC0 then [0x108, 0x114]
  else if page = pgHmc then [0x10C] ++ rep 0x208 0x20 16 ++ rep 0x400 0x20 8
  else if 0x100 ≤ page ∧ page < 0x140 then
    [0x110, 0x118, 0x1A0, 0x1A8, 0x208, 0x210, 0x220, 0x228, 0x230, 0x240, 0x250, 0x260]
  else if 0x140 ≤ page ∧ page < 0x180 then [0x188, 0x190, 0x198, 0x1A8, 0x1B0, 0x1B8, 0x1C0]
  else if 0x180 ≤ page ∧ page < 0x200 then
    [0x118, 0x120, 0x128, 0x130, 0x138, 0x148, 0x150, 0x158, 0x160, 0x168, 0x188, 0x1A8, 0x1B0, 0x1B8, 0x1C0]
  else if page = pgTrg then rep 0x430 0x40 16 ++ rep 0x438 0x40 16
  else if 0x210 ≤ page ∧ page < 0x230 then [0x130, 0x138, 0x148, 0x150, 0x160, 0x168, 0x170]
  else if 0x240 ≤ page ∧ page < 0x280 then [0x118, 0x130, 0x140, 0x148, 0x150, 0x158, 0x164, 0x16C]
  else if 0x280 ≤ page ∧ page < 0x2C0 then [0x118, 0x138, 0x144, 0x150, 0x158, 0x160, 0x168]
  else if page = pgSch then [0x128] ++ rep 0x200 0x10 8 ++ rep 0x300 0x20 4
  else if 0x310 ≤ page ∧ page < 0x328 then [0x110, 0x128, 0x138, 0x144]
  else if 0x330 ≤ page ∧ page < 0x338 then [0x108]
  else if page = pgCal then [0x170]
  else if 0x600 ≤ page ∧ page < 0x610 then [0x108]
  else if page = pgTss then [0x144]
  else []

/-- Words that a read at `off` latches: the high word of a pair, and of a time read all three words above (R9, table of
NOW_FRAC_LO and MEMBER_FRAC_LO). -/
def latchedBy (page off : Nat) : List Nat :=
  if ¬ (pairLows page).contains off then []
  else if 0x10 ≤ page ∧ page < 0x14 ∧ (off = 0x110 ∨ off = 0x130) then [off + 4, off + 8, off + 12]
  else [off + 4]

/-- A word that a latch holds. -/
def isLatched (page off : Nat) : Bool := (pairLows page).any (fun l => (latchedBy page l).contains off)

/-- Latch of a word on a path. -/
def latchKey (page off : Nat) (path : Path) : Nat := 2 * (page * 0x1000 + off) + (match path with | .pcie => 0 | .mgmt => 1)

/-- One word read: the low word of a pair loads the latches of its path, a latched word returns its latch. -/
def wordRead (page off : Nat) (path : Path) (s : State) : State :=
  let v := s.readReg page off
  let v := if isLatched page off then sget v s.latches (latchKey page off path) else v
  { s with hostOut := v.zeroExtend 64,
           latches := (latchedBy page off).foldl (fun l o => sput l (latchKey page o path) (s.readReg page o)) s.latches }

/-- LOW_WORD_READ (R384, R388, R389). -/
def execLowWordRead (bar2 : Bool) (addr : BitVec 26) (path : Path) (s : State) : Res :=
  let a := addr.toNat
  let page := if bar2 then pgTss else a / 0x1000
  let off := a % 0x1000
  if a % 4 ≠ 0 then .fault (.undefinedBehaviour 3)
  else if bar2 ∧ a / 0x1000 ≠ 0x500 then
    if a < 0x400000 then .next { s with hostOut := ((sget 0 s.tss.entries (a / 32)).extractLsb' (8 * (a % 32)) 32).zeroExtend 64 }
    else if a < 0x420000 then
      .next { s with hostOut := ((sget 0 s.tss.headers ((a - 0x400000) / 8)).extractLsb' (8 * (a % 8)) 32).zeroExtend 64 }
    else if (apgTabOwner a).isSome then .next { s with hostOut := (sget 0 s.apgTab a).zeroExtend 64 }
    else .fault (.undefinedBehaviour 1)
  else if ¬ bar2 ∧ 0x1000 ≤ page ∧ page < 0x1008 then
    let k := a - 0x1000000
    let w := s.reg 0x1000 k
    .next { s with hostOut := (if k % 16 = 12 then (if s.msixOn.getLsbD (k / 16) then clrBit w 0 else setBit w 0) else w).zeroExtend 64 }
  else if ¬ bar2 ∧ page = 0x1008 ∧ off < 256 then .next { s with hostOut := (s.msixPend.extractLsb' (8 * off) 32).zeroExtend 64 }
  else if ¬ pageExists page ∨ (¬ bar2 ∧ page = pgTss) then
    if off = 0 ∧ ¬ bar2 then .next { s with hostOut := 0 } else .fault (.undefinedBehaviour 1)
  -- reads that remove the entry they return (R112, R171, R387)
  else if page = pgTss ∧ off = 0x140 then execApplyIdRead path s
  else if 0x100 ≤ page ∧ page < 0x140 ∧ off = 0x268 then execMarkIdRead (Fin.ofNat 64 (page - 0x100)) path s
  else if 0x310 ≤ page ∧ page < 0x328 ∧ (off = 0x138 ∨ off = 0x13C) ∧ ¬ s.weIdleOff (page - 0x310) then
    .next (s.recordErr page errWeBusy)
  else if off < 0x24 ∨ (specAt page off).isSome then .next (wordRead page off path s)
  else .fault (.undefinedBehaviour 1)

end Sys2Proof.Machine
end

