-- ==== Sys2Proof/Machine/Power.lean ====
section
/-! DEFINITION. Rails, resets, clocks and boot (R398 to R407, R413, R414, R427, R429). Boot stages without a command of
their own (ROM, FUSE, SLOT) take place in the cycle the reset is released; the staggered starts of R401 come at PFCLK
edges. -/
namespace Sys2Proof.Machine

/-- A page is brought up (R386). -/
def State.pageUp (s : State) (page : Nat) : State := s.modHdr page (fun h => { h with up := true })
def State.pagesUp (s : State) (l : List Nat) : State := foldState l (fun p s => s.pageUp p) s

/-- Every rail except VQPS is power good. -/
def Mgt.railsGood (m : Mgt) : Bool := m.rails &&& 0x3F = 0x3F

/-! ### Boot (R405, R412 to R414) -/

/-- Pages that live from the release of the reset on, in recovery mode too. -/
def earlyPages : List Nat := [pgChip, pgRcp, pgMbox, pgUpd, pgPcie]

/-- The fuse trims of the banks enter force (R316). -/
def State.loadTrims (s : State) : State :=
  foldState ((List.range 16).filter (fun b => (List.range 3).any (fun x => s.bankRef (32 * b) x ≠ 0))) (fun b s =>
    foldState (List.range 32) (fun j s => s.recorr (32 * b + j)) s) s

/-- Boot begins: ROM, FUSE and SLOT; management firmware of the chosen slot, or recovery mode. -/
def State.boot (s : State) : State :=
  let s := ((s.pagesUp earlyPages).fuseScan).loadTrims
  let ver := fun (b : Bool) => if s.slotValid b then BitVec.ofNat 32 (bundleVersion (s.slotHeader b)) else 0
  match s.bootSlot with
  | none => s.modMgt (fun m => { m with phase := .recovery, stage := .recovery, verA := 0, verB := 0 })
  | some b =>
    let h := s.slotHeader b
    (s.pageUp pgFuse).modMgt (fun m => { m with
      phase := .booting, stage := .mgt, bootedB := b, bootVer := ver b, verA := ver false, verB := ver true,
      peVer := BitVec.ofNat 32 (comp h 0 4 4), fwVer := BitVec.ofNat 32 (comp h 4 4 4),
      peImage := ((s.slotPlain b).drop (comp h 0 0x10 8)).take (comp h 0 0x18 8) })

/-- The device leaves chip reset once every rail but VQPS is good and RESET_N is high. -/
def State.tryRelease (s : State) : State :=
  if s.mgt.phase = .reset ∧ s.mgt.railsGood ∧ ¬ s.mgt.resetN then s.boot else s

/-- CLOCK ends with REFCLK present: the PLL locks and the first stack is powered. -/
def State.clockStage (s : State) : State :=
  if s.mgt.phase = .booting ∧ s.mgt.stage = .clock ∧ s.mgt.refclk then
    (((s.modMgt (fun m => { m with pllLocked := true, stage := .hbm })).pagesUp ((List.range 4).map pgTime)).pagesUp
      (pgHmc :: (List.range 64).map pgPc)).stackPower 0
  else s

/-- FW_READY (R395): management firmware starts. -/
def execFwReady (s : State) : Res :=
  .next (if s.mgt.phase = .booting ∧ s.mgt.stage = .mgt then
    (((s.modMgt (fun m => { m with fwReady := true, stage := .clock })).reject).pageUp (pgTime 0)).clockStage else s)

/-- REFCLK_DETECT (R405). -/
def execRefclkDetect (s : State) : Res :=
  .next (s.modMgt (fun m => { m with refclk := true })).clockStage

/-- One Zheind port, or one group of eight PE links, starts training: firmware sets EN (R401). -/
def State.startZp (s : State) (p : Nat) : State :=
  zpEnable p true ((s.setReg (pgZp p) 0x100 (setBit (s.reg (pgZp p) 0x100) 31)).pageUp (pgZp p))
def State.startPls (s : State) (g : Nat) : State :=
  foldState (List.range 8) (fun k s =>
    let j := 8 * g + k
    plEnable j true ((s.setReg (pgPl j) 0x100 (setBit (s.reg (pgPl j) 0x100) 31)).pageUp (pgPl j))) s

/-- BANKS: every bank is queued for SLEEP (R187, R401). -/
def State.banksStage (s : State) : State :=
  let s := s.modMgt (fun m => { m with stage := .banks, banksAt := some s.now })
  foldState (List.range 16) (fun b s => ((s.pageUp (pgBank b)).setBank b { s.bankAt b with queued := true, target := .sleep }).enqueueBank b) s

/-- The control store of an engine is loaded from the bundle. -/
def State.loadStore (s : State) (e : Nat) : State :=
  let v := BitVec.ofNat 32 (comp (s.slotHeader s.mgt.bootedB) 3 4 4)
  s.modWe e (fun w => { w with csValid := true, mcodeVer := v })

/-- A PE waits for its firmware (R406). -/
def State.peWaits (s : State) : Bool := s.mgt.peImage ≠ [] ∧ (List.range 32).any (fun j => (s.plAt j).state = .version)

/-- Edges of LINKS before the stage after it. -/
def edgesLinks : Nat := 6 * edgesMs

/-- The boot stages that go on by themselves, at one PFCLK edge: staggered link starts, PE_FW, BANKS, control stores. -/
def State.bootTick (s : State) : State :=
  let s := match s.mgt.linksAt with
    | some e =>
      let s := foldState ((List.range 6).filter (fun p => s.now = e + p * edgesMs + 1)) (fun p s => s.startZp p) s
      let s := foldState ((List.range 4).filter (fun g => s.now = e + g * edgesMs + 1)) (fun g s => s.startPls g) s
      if (s.mgt.stage = Stage.links ∨ s.mgt.stage = Stage.peFw) ∧ e + edgesLinks ≤ s.now then
        if s.peWaits then s.modMgt (fun m => { m with stage := .peFw }) else s.banksStage
      else s
    | none => s
  match s.mgt.banksAt with
  | some e => foldState ((List.range 24).filter (fun k => s.now = e + k / 4 * edges20us + 1)) (fun k s => s.loadStore k) s
  | none => s

/-- BOOT_DONE (R405): every page is up, and the count of the booted slot is cleared (R413). -/
def execBootDone (s : State) : Res :=
  let g : Stage := s.mgt.stage
  .next (if s.mgt.phase = .booting ∧ (g = Stage.links ∨ g = Stage.peFw ∨ g = Stage.banks) then
    let s := if g = Stage.banks then s else s.banksStage
    let s := (s.pagesUp sources).modMgt (fun m => { m with phase := .up, stage := .done, fails := m.fails.set (b2n m.bootedB) 0 })
    s.raiseEvt pgChip 1
  else s)

/-! ### Resets (R394, R400, R402 to R404) -/

/-- The contents of every pseudo-channel are lost. -/
def State.hbmLoseAll (s : State) : State :=
  { s with hbm := [], hbmLost := (List.range 64).map (fun n => (n, sget 0 s.hbmLost n + 1)) }

/-- What outlives a chip reset (R403): fuses, flash, the pins' levels, BOOT_FAILS; everything else is at its reset value.
A running burn stops first, and an update session ends FAILED. -/
def State.wiped (s : State) (phase : ChipPhase) (cause : Word32) : State :=
  let s := s.burnStop.hbmLoseAll
  { pending := s.pending, now := s.now, freeCtr := s.freeCtr, outbox := s.outbox, hostOut := s.hostOut,
    hbm := s.hbm, hbmLost := s.hbmLost, hbmBad := s.hbmBad, fuse := { words := s.fuse.words },
    mgt := { phase := phase, rails := s.mgt.rails, resetN := s.mgt.resetN, refclk := s.mgt.refclk, cause := cause,
             fails := s.mgt.fails, pin := s.mgt.pin, flash := s.mgt.flash,
             sess := if s.mgt.sess.active then { state := .failed, reason := .reset, targetB := s.mgt.sess.targetB } else {} } }

/-- A chip reset with its cause; the device stays in reset while a rail is missing or RESET_N is low. -/
def State.chipReset (s : State) (cause : Word32) : State := (s.wiped .reset cause).tryRelease

/-- Powered, in whatever phase. -/
def Mgt.powered (m : Mgt) : Bool := m.phase ≠ .unpowered

/-- CHIP_RESET (R394). -/
def execChipReset (key : BitVec 8) (s : State) : Res :=
  .next (s.whenReady pgRcp (fun s => if key = 0x5A then s.chipReset 4 else s.recordErr pgRcp 0x0051))

/-- POWER_ON_RESET: VDD_AUX is power good. -/
def execPowerOnReset (s : State) : Res :=
  .next ((((s.wiped .reset 1).modMgt (fun m => { m with rails := setBit m.rails 5, fails := [0, 0], sess := {} }))).tryRelease)

/-- RESET_N: held low for at least 1 µs. -/
def execResetN (s : State) : Res :=
  let s := s.modMgt (fun m => { m with resetN := true })
  .next (if s.mgt.powered then s.chipReset 2 else s)

/-- RESET_N_RELEASE. -/
def execResetNRelease (s : State) : Res := .next (s.modMgt (fun m => { m with resetN := false })).tryRelease

/-- RAIL_FAULT (R400): a rail other than VDD_AUX and VQPS; RST_CAUSE has no bit for it and stays. -/
def execRailFault (rail : Fin 7) (s : State) : Res :=
  .next (if rail.val < 5 ∧ s.mgt.rails.getLsbD rail then
    let s := s.modMgt (fun m => { m with rails := clrBit m.rails rail })
    if s.mgt.powered then (s.raiseEvt pgRcp 2).chipReset s.mgt.cause else s
  else s)

/-- RAIL_POWER_GOOD (R398). -/
def execRailPowerGood (rail : Fin 7) (s : State) : Res :=
  .next (if rail.val = 5 then s else (s.modMgt (fun m => { m with rails := setBit m.rails rail })).tryRelease)

/-- VDD_AUX_LOSS (R400): the whole chip is unpowered. -/
def execVddAuxLoss (s : State) : Res :=
  .next ((s.wiped .unpowered 0).modMgt (fun m => { m with rails := clrBit m.rails 5, fails := [0, 0], sess := {} }))

/-- MGT_WATCHDOG (R402, R413): before BOOT_DONE it counts against the booted slot. -/
def execMgtWatchdog (s : State) : Res :=
  .next (if s.mgt.phase = .booting ∨ s.mgt.phase = .up then
    let s := if s.mgt.phase = .booting then
        s.modMgt (fun m => { m with fails := m.fails.set (b2n m.bootedB) (min 15 (m.fails.getD (b2n m.bootedB) 0 + 1)) })
      else s
    s.chipReset 8
  else s)

/-! ### Clock and temperature (R427, R429) -/

/-- REFCLK_LOSS. -/
def execRefclkLoss (s : State) : Res :=
  .next (if s.mgt.refclk then
    (s.modMgt (fun m => { m with refclk := false, refLost := some s.now })).raiseEvt pgRcp 1 else s)

/-- Edges for which the PLL holds. -/
def edgesPll : Nat := 4000

/-- PLL_STOP. -/
def execPllStop (s : State) : Res :=
  .next (match s.mgt.refLost with
  | some e => if e + edgesPll ≤ s.now then s.modMgt (fun m => { m with pllLocked := false, refLost := none }) else s
  | none => s)

/-- TEMP_WARN: TEMP reaches TEMP_LIMIT. -/
def execTempWarn (temp : BitVec 16) (s : State) : Res :=
  let lim := ((s.reg pgChip 0x11C).extractLsb' 0 16).toInt
  let old := s.mgt.temp.toInt
  let s := s.modMgt (fun m => { m with temp := temp })
  .next (if s.mgt.powered ∧ lim ≤ temp.toInt ∧ old < lim then s.raiseEvt pgChip 2 else s)

end Sys2Proof.Machine
end

