-- ==== Sys2Proof/Machine/Starts.lean ====
section
/-! DEFINITION. Starts by a time compare (R48, R259, R294, R303). -/
namespace Sys2Proof.Machine

/-- A sequencer whose start source is TIME: its compare instant has passed, at its arm already or since. -/
def seqTimeStart (q : Nat) (s : State) : State :=
  let v := s.seqAt q
  if v.state = .armed ∧ startSrc s q = 6 ∧ tsPassed (s.stamp (startTd s q)) (startTime s q) then
    (s.setSeq q { v with startLate := v.lateStart }).startCommit q
  else s

/-- A TIM unit whose start source is TIME. -/
def timTimeStart (u : Nat) (s : State) : State :=
  let v := s.timAt u
  if v.state = .armed ∧ s.timSrc u = 1 ∧ tsPassed (s.stamp (s.timTd u)) (s.timStartTime u) then
    if v.lateStart then s.timStart u (v.armedAt * 4096) true
    else s.timStart u (s.fineOf (s.timTd u) (s.timStartTime u)) false
  else s

/-- TIME_COMPARE_FIRE (R303). -/
def execTimeCompareFire (u : Starter) (s : State) : Res :=
  match u with
  | .seq q => .next (seqTimeStart q s)
  | .ms i => .next (s.strTimeStart (.ms i))
  | .ss i => .next (s.strTimeStart (.ss i))
  | .tim u => .next (timTimeStart u s)

end Sys2Proof.Machine
end

