-- ==== Sys2Proof/Machine/Dispatch.lean ====
section
/-! DEFINITION. The dispatch of a command to its meaning: one arm for each constructor. -/
namespace Sys2Proof.Machine

/-- The effect of one command on everything but the queue. -/
def exec (i : Instr) (s : State) : Host.Outcome State Fault Refusal :=
  match i with
  | .arm q => Sys2Proof.Machine.execArm q s
  | .castHeaderReadDone q res => Sys2Proof.Machine.execCastHeaderReadDone q res s
  | .prefillComplete q => Sys2Proof.Machine.execPrefillComplete q s
  | .start q => Sys2Proof.Machine.execStart q s
  | .abort q => Sys2Proof.Machine.execAbort q s
  | .clear q => Sys2Proof.Machine.execClear q s
  | .pause q => Sys2Proof.Machine.execPause q s
  | .resume q => Sys2Proof.Machine.execResume q s
  | .siteRetire q w bits => Sys2Proof.Machine.execSiteRetire q w bits s
  | .jumpReq q slot => Sys2Proof.Machine.execJumpReq q slot s
  | .strmWr q lo hi => Sys2Proof.Machine.execStrmWr q lo hi s
  | .markIdRead q path => Sys2Proof.Machine.execMarkIdRead q path s
  | .fetchComplete q what res n => Sys2Proof.Machine.execFetchComplete q what res n s
  | .autoResume q => Sys2Proof.Machine.execAutoResume q s
  | .fillVector q => Sys2Proof.Machine.execFillVector q s
  | .emit q => Sys2Proof.Machine.execEmit q s
  | .rpt q => Sys2Proof.Machine.execRpt q s
  | .loop q => Sys2Proof.Machine.execLoop q s
  | .endl q => Sys2Proof.Machine.execEndl q s
  | .call q => Sys2Proof.Machine.execCall q s
  | .ret q => Sys2Proof.Machine.execRet q s
  | .jmp q => Sys2Proof.Machine.execJmp q s
  | .jif q => Sys2Proof.Machine.execJif q s
  | .matchRun q => Sys2Proof.Machine.execMatchRun q s
  | .waitRun q => Sys2Proof.Machine.execWaitRun q s
  | .waitEnd q => Sys2Proof.Machine.execWaitEnd q s
  | .markRun q => Sys2Proof.Machine.execMarkRun q s
  | .tset q => Sys2Proof.Machine.execTset q s
  | .apg q => Sys2Proof.Machine.execApg q s
  | .smask q => Sys2Proof.Machine.execSmask q s
  | .align q => Sys2Proof.Machine.execAlign q s
  | .stop q => Sys2Proof.Machine.execStop q s
  | .alignRelease g => Sys2Proof.Machine.execAlignRelease g s
  | .alignTimeout g => Sys2Proof.Machine.execAlignTimeout g s
  | .arrive port g => Sys2Proof.Machine.execArrive port g s
  | .release port g t => Sys2Proof.Machine.execRelease port g t s
  | .cancel port g => Sys2Proof.Machine.execCancel port g s
  | .timeCompareFire u => Sys2Proof.Machine.execTimeCompareFire u s
  | .trigInEdge line rising => Sys2Proof.Machine.execTrigInEdge line rising s
  | .capCommit q obs => Sys2Proof.Machine.execCapCommit q obs s
  | .captureWriteComplete site res => Sys2Proof.Machine.execCaptureWriteComplete site res s
  | .tssTableWrite off lo hi => Sys2Proof.Machine.execTssTableWrite off lo hi s
  | .apgTableWrite off lo hi => Sys2Proof.Machine.execApgTableWrite off lo hi s
  | .push => Sys2Proof.Machine.execPush s
  | .closeBatch => Sys2Proof.Machine.execCloseBatch s
  | .discard => Sys2Proof.Machine.execDiscard s
  | .applyIdRead path => Sys2Proof.Machine.execApplyIdRead path s
  | .bankWake b => Sys2Proof.Machine.execBankWake b s
  | .bankSleep b => Sys2Proof.Machine.execBankSleep b s
  | .bankOff b => Sys2Proof.Machine.execBankOff b s
  | .bankStart b => Sys2Proof.Machine.execBankStart b s
  | .bankWakeDone b => Sys2Proof.Machine.execBankWakeDone b s
  | .bankPowerUpDone b => Sys2Proof.Machine.execBankPowerUpDone b s
  | .bankEntryEnd b => Sys2Proof.Machine.execBankEntryEnd b s
  | .calRelease t => Sys2Proof.Machine.execCalRelease t s
  | .triggerFire u => Sys2Proof.Machine.execTriggerFire u s
  | .pulseEnd line => Sys2Proof.Machine.execPulseEnd line s
  | .xtAssertEnd line => Sys2Proof.Machine.execXtAssertEnd line s
  | .holdoffEnd u => Sys2Proof.Machine.execHoldoffEnd u s
  | .unitArm u => Sys2Proof.Machine.execUnitArm u s
  | .unitEnable u => Sys2Proof.Machine.execUnitEnable u s
  | .force units => Sys2Proof.Machine.execForce units s
  | .flagSet flags => Sys2Proof.Machine.execFlagSet flags s
  | .flagClear flags => Sys2Proof.Machine.execFlagClear flags s
  | .dispatch => Sys2Proof.Machine.execDispatch s
  | .workBlockLoaded e res => Sys2Proof.Machine.execWorkBlockLoaded e res s
  | .add e => Sys2Proof.Machine.execAdd e s
  | .sub e => Sys2Proof.Machine.execSub e s
  | .andOp e => Sys2Proof.Machine.execAndOp e s
  | .orOp e => Sys2Proof.Machine.execOrOp e s
  | .xorOp e => Sys2Proof.Machine.execXorOp e s
  | .shl e => Sys2Proof.Machine.execShl e s
  | .shr e => Sys2Proof.Machine.execShr e s
  | .sar e => Sys2Proof.Machine.execSar e s
  | .mul e => Sys2Proof.Machine.execMul e s
  | .minOp e => Sys2Proof.Machine.execMinOp e s
  | .maxOp e => Sys2Proof.Machine.execMaxOp e s
  | .cmp e => Sys2Proof.Machine.execCmp e s
  | .popc e => Sys2Proof.Machine.execPopc e s
  | .ctz e => Sys2Proof.Machine.execCtz e s
  | .bitx e => Sys2Proof.Machine.execBitx e s
  | .ldi e => Sys2Proof.Machine.execLdi e s
  | .ldih e => Sys2Proof.Machine.execLdih e s
  | .br e => Sys2Proof.Machine.execBr e s
  | .weCall e => Sys2Proof.Machine.execWeCall e s
  | .weRet e => Sys2Proof.Machine.execWeRet e s
  | .djnz e => Sys2Proof.Machine.execDjnz e s
  | .ld e => Sys2Proof.Machine.execLd e s
  | .st e => Sys2Proof.Machine.execSt e s
  | .ldh e => Sys2Proof.Machine.execLdh e s
  | .sth e => Sys2Proof.Machine.execSth e s
  | .hrd e => Sys2Proof.Machine.execHrd e s
  | .hwr e => Sys2Proof.Machine.execHwr e s
  | .hwait e => Sys2Proof.Machine.execHwait e s
  | .doneTask e => Sys2Proof.Machine.execDoneTask e s
  | .post e => Sys2Proof.Machine.execPost e s
  | .weTime e => Sys2Proof.Machine.execWeTime e s
  | .bmscan e => Sys2Proof.Machine.execBmscan e s
  | .lcmust e => Sys2Proof.Machine.execLcmust e s
  | .cdec e => Sys2Proof.Machine.execCdec e s
  | .hbmTransferComplete e tag res => Sys2Proof.Machine.execHbmTransferComplete e tag res s
  | .watchdogExpiry e => Sys2Proof.Machine.execWatchdogExpiry e s
  | .taskTimeLimit x => Sys2Proof.Machine.execTaskTimeLimit x s
  | .controlStoreReloaded e => Sys2Proof.Machine.execControlStoreReloaded e s
  | .offline e off => Sys2Proof.Machine.execOffline e off s
  | .lmData e write path => Sys2Proof.Machine.execLmData e write path s
  | .csData e hi lo => Sys2Proof.Machine.execCsData e hi lo s
  | .copyRetry c => Sys2Proof.Machine.execCopyRetry c s
  | .copyComplete c res => Sys2Proof.Machine.execCopyComplete c res s
  | .copyLinkTimeout c => Sys2Proof.Machine.execCopyLinkTimeout c s
  | .submit p lo hi => Sys2Proof.Machine.execSubmit p lo hi s
  | .descriptorReadDone p res => Sys2Proof.Machine.execDescriptorReadDone p res s
  | .taskCancel => Sys2Proof.Machine.execTaskCancel s
  | .delayRelease td => Sys2Proof.Machine.execDelayRelease td s
  | .heldRelease t => Sys2Proof.Machine.execHeldRelease t s
  | .taskComplete x => Sys2Proof.Machine.execTaskComplete x s
  | .completionRecordWrite t => Sys2Proof.Machine.execCompletionRecordWrite t s
  | .streamArm m => Sys2Proof.Machine.execStreamArm m s
  | .streamArmAck m => Sys2Proof.Machine.execStreamArmAck m s
  | .streamStart m => Sys2Proof.Machine.execStreamStart m s
  | .streamStop m => Sys2Proof.Machine.execStreamStop m s
  | .streamClear m => Sys2Proof.Machine.execStreamClear m s
  | .resync k => Sys2Proof.Machine.execResync k s
  | .converterSwitch k => Sys2Proof.Machine.execConverterSwitch k s
  | .switchEffect k => Sys2Proof.Machine.execSwitchEffect k s
  | .streamFrame pl words crcOk => Sys2Proof.Machine.execStreamFrame pl words crcOk s
  | .msfOutputWrite k res => Sys2Proof.Machine.execMsfOutputWrite k res s
  | .swRetry k => Sys2Proof.Machine.execSwRetry k s
  | .sourceSampleOutput k => Sys2Proof.Machine.execSourceSampleOutput k s
  | .sampleFetchComplete k res => Sys2Proof.Machine.execSampleFetchComplete k res s
  | .swapReq k target fadeM1 => Sys2Proof.Machine.execSwapReq k target fadeM1 s
  | .coefData k v => Sys2Proof.Machine.execCoefData k v s
  | .timArm u => Sys2Proof.Machine.execTimArm u s
  | .timStart u => Sys2Proof.Machine.execTimStart u s
  | .timAbort u => Sys2Proof.Machine.execTimAbort u s
  | .timClear u => Sys2Proof.Machine.execTimClear u s
  | .timEdge u kind index rising tick vern => Sys2Proof.Machine.execTimEdge u kind index rising tick vern s
  | .timHoldoffEnd u src => Sys2Proof.Machine.execTimHoldoffEnd u src s
  | .timReady u => Sys2Proof.Machine.execTimReady u s
  | .shotTimeout u => Sys2Proof.Machine.execShotTimeout u s
  | .gateClose u => Sys2Proof.Machine.execGateClose u s
  | .timComplete u => Sys2Proof.Machine.execTimComplete u s
  | .timeLoad td => Sys2Proof.Machine.execTimeLoad td s
  | .pairSwitch td => Sys2Proof.Machine.execPairSwitch td s
  | .rephase => Sys2Proof.Machine.execRephase s
  | .syncPulse off => Sys2Proof.Machine.execSyncPulse off s
  | .ptmExchange td theta => Sys2Proof.Machine.execPtmExchange td theta s
  | .updateMissed td => Sys2Proof.Machine.execUpdateMissed td s
  | .ttSync port td t1 fine => Sys2Proof.Machine.execTtSync port td t1 fine s
  | .ttDreq port td fine => Sys2Proof.Machine.execTtDreq port td fine s
  | .ttDresp port td t4 => Sys2Proof.Machine.execTtDresp port td t4 s
  | .calRun => Sys2Proof.Machine.execCalRun s
  | .calAbort => Sys2Proof.Machine.execCalAbort s
  | .extData v => Sys2Proof.Machine.execExtData v s
  | .calMeasurementStart t => Sys2Proof.Machine.execCalMeasurementStart t s
  | .calMeasurementDone m temp resid => Sys2Proof.Machine.execCalMeasurementDone m temp resid s
  | .burn path => Sys2Proof.Machine.execBurn path s
  | .fuseWordProgrammed ok => Sys2Proof.Machine.execFuseWordProgrammed ok s
  | .bufData v => Sys2Proof.Machine.execBufData v s
  | .hbmRequest port addr owner => Sys2Proof.Machine.execHbmRequest port addr owner s
  | .or64 site res => Sys2Proof.Machine.execOr64 site res s
  | .addsat15 site res => Sys2Proof.Machine.execAddsat15 site res s
  | .requestIssue pc => Sys2Proof.Machine.execRequestIssue pc s
  | .hbmRequestComplete id res ce => Sys2Proof.Machine.execHbmRequestComplete id res ce s
  | .refresh pc => Sys2Proof.Machine.execRefresh pc s
  | .stackTempRead st temp => Sys2Proof.Machine.execStackTempRead st temp s
  | .selfRefreshEntry st => Sys2Proof.Machine.execSelfRefreshEntry st s
  | .scrub addr ce ue => Sys2Proof.Machine.execScrub addr ce ue s
  | .freqReq st rate => Sys2Proof.Machine.execFreqReq st rate s
  | .hbmTrainingStepEnd st rep => Sys2Proof.Machine.execHbmTrainingStepEnd st rep s
  | .pcFail pc => Sys2Proof.Machine.execPcFail pc s
  | .flitReceive port bytes => Sys2Proof.Machine.execFlitReceive port bytes s
  | .replayTimeout port => Sys2Proof.Machine.execReplayTimeout port s
  | .laneFailure port lane => Sys2Proof.Machine.execLaneFailure port lane s
  | .spareReq port mask => Sys2Proof.Machine.execSpareReq port mask s
  | .spareMarkEnd port => Sys2Proof.Machine.execSpareMarkEnd port s
  | .linkLost port => Sys2Proof.Machine.execLinkLost port s
  | .linkRestart l => Sys2Proof.Machine.execLinkRestart l s
  | .hello port verMax chipId => Sys2Proof.Machine.execHello port verMax chipId s
  | .trainingStepTimeout l => Sys2Proof.Machine.execTrainingStepTimeout l s
  | .absentProbe l => Sys2Proof.Machine.execAbsentProbe l s
  | .retrain l => Sys2Proof.Machine.execRetrain l s
  | .rateReq port rate => Sys2Proof.Machine.execRateReq port rate s
  | .mboxMessage port words => Sys2Proof.Machine.execMboxMessage port words s
  | .heartbeat pl => Sys2Proof.Machine.execHeartbeat pl s
  | .hbAck pl seq status crcOk => Sys2Proof.Machine.execHbAck pl seq status crcOk s
  | .heartbeatPauseEnd pl => Sys2Proof.Machine.execHeartbeatPauseEnd pl s
  | .ctrlResp pl seq crcOk => Sys2Proof.Machine.execCtrlResp pl seq crcOk s
  | .ctrlResend pl => Sys2Proof.Machine.execCtrlResend pl s
  | .desc pl d crcOk => Sys2Proof.Machine.execDesc pl d crcOk s
  | .updateFrame pl => Sys2Proof.Machine.execUpdateFrame pl s
  | .bar4Access off write len res => Sys2Proof.Machine.execBar4Access off write len res s
  | .bar4Retry => Sys2Proof.Machine.execBar4Retry s
  | .pcieLinkDown => Sys2Proof.Machine.execPcieLinkDown s
  | .pcieLinkUp width speed => Sys2Proof.Machine.execPcieLinkUp width speed s
  | .pcieReset => Sys2Proof.Machine.execPcieReset s
  | .registerWrite bar2 addr lo hi path => Sys2Proof.Machine.execRegisterWrite bar2 addr lo hi path s
  | .lowWordRead bar2 addr path => Sys2Proof.Machine.execLowWordRead bar2 addr path s
  | .pageSoftReset page => Sys2Proof.Machine.execPageSoftReset page s
  | .freeze page on => Sys2Proof.Machine.execFreeze page on s
  | .errorClear page => Sys2Proof.Machine.execErrorClear page s
  | .evtRawClear page bits => Sys2Proof.Machine.execEvtRawClear page bits s
  | .evtMaskWrite page v => Sys2Proof.Machine.execEvtMaskWrite page v s
  | .powerOnReset => Sys2Proof.Machine.execPowerOnReset s
  | .chipReset key => Sys2Proof.Machine.execChipReset key s
  | .resetN => Sys2Proof.Machine.execResetN s
  | .railFault rail => Sys2Proof.Machine.execRailFault rail s
  | .mgtWatchdog => Sys2Proof.Machine.execMgtWatchdog s
  | .refclkLoss => Sys2Proof.Machine.execRefclkLoss s
  | .refclkDetect => Sys2Proof.Machine.execRefclkDetect s
  | .bootDone => Sys2Proof.Machine.execBootDone s
  | .tempWarn temp => Sys2Proof.Machine.execTempWarn temp s
  | .doorbell => Sys2Proof.Machine.execDoorbell s
  | .mboxAck => Sys2Proof.Machine.execMboxAck s
  | .versions => Sys2Proof.Machine.execVersions s
  | .temps => Sys2Proof.Machine.execTemps s
  | .updOpen => Sys2Proof.Machine.execUpdOpen s
  | .updData => Sys2Proof.Machine.execUpdData s
  | .updCommit => Sys2Proof.Machine.execUpdCommit s
  | .updAbort => Sys2Proof.Machine.execUpdAbort s
  | .updPin => Sys2Proof.Machine.execUpdPin s
  | .updStatus => Sys2Proof.Machine.execUpdStatus s
  | .epochBump => Sys2Proof.Machine.execEpochBump s
  | .revoke => Sys2Proof.Machine.execRevoke s
  | .fuseBuf => Sys2Proof.Machine.execFuseBuf s
  | .fuseBurn => Sys2Proof.Machine.execFuseBurn s
  | .sessionTimeout => Sys2Proof.Machine.execSessionTimeout s
  | .linkTrainingStepEnd l fom partner => Sys2Proof.Machine.execLinkTrainingStepEnd l fom partner s
  | .receiverLossOfLock pl => Sys2Proof.Machine.execReceiverLossOfLock pl s
  | .vqpsLoss => Sys2Proof.Machine.execVqpsLoss s
  | .railPowerGood rail => Sys2Proof.Machine.execRailPowerGood rail s
  | .resetNRelease => Sys2Proof.Machine.execResetNRelease s
  | .vddAuxLoss => Sys2Proof.Machine.execVddAuxLoss s
  | .pllStop => Sys2Proof.Machine.execPllStop s
  | .selfRefreshExit st => Sys2Proof.Machine.execSelfRefreshExit st s
  | .flashProgramComplete ok => Sys2Proof.Machine.execFlashProgramComplete ok s
  | .ttSyncSend port td => Sys2Proof.Machine.execTtSyncSend port td s
  | .fwReady => Sys2Proof.Machine.execFwReady s

end Sys2Proof.Machine
end

