-- ==== Sys2Proof/Machine/Tick.lean ====
section
/-! DEFINITION. One PFCLK edge: what happens at a tick whatever is commanded. A step on an empty queue is one edge. -/
namespace Sys2Proof.Machine

/-- Conditions of trigger units are kept while a sample may still see them (R210). -/
def State.dropConds (s : State) : State :=
  { s with trg := { s.trg with conds := s.trg.conds.filter (fun c => s.now ≤ c.1) } }

/-- Successors of a task that failed in the cycle before complete with CANCELLED_UPSTREAM (R245). -/
def State.schCascades (s : State) : State :=
  let due := s.sch.cascades.filter (fun x => x.1 ≤ s.now)
  let s := { s with sch := { s.sch with cascades := s.sch.cascades.filter (fun x => ¬ x.1 ≤ s.now) } }
  foldState due (fun x s => match s.named x.2 with
    | some j => if (s.taskAt j).state = .waiting then s.completeTask j .cancelledUpstream else s
    | none => s) s

/-- The completion point of a task lies in the cycle of the boundary or write that ends it (R231, R236): reports that no
TASK_COMPLETE has delivered act before that cycle is over. -/
def State.reportTick (s : State) : State :=
  foldState (s.sch.execs.map Prod.fst) (fun x s =>
    let n := (s.execAt x).lost
    let s := if n = 0 then s else
      let s := s.setExec x { s.execAt x with lost := 0 }
      { s with sch := { s.sch with stale := sat32 (s.sch.stale + n) } }
    match (s.execAt x).ended with
    | some (st, prog, result) => s.execEnds x st prog result
    | none => s) s

/-- The cycle begins: prefetched tasks start (R249), completion points of the cycle before no longer meet a cancel (R251),
and a domain that has stepped back will tick again (R247). -/
def State.taskTick (s : State) : State :=
  let s := foldState (s.sch.execs.map Prod.fst) (fun x s => s.promote x) s
  { s with sch := { s.sch with ends := s.sch.ends.filter (fun e => s.now ≤ e.1),
                               ticks := (List.range 4).map (fun d => min (s.sch.ticks.getD d 0) (s.micros d)) } }

/-- STRETCH_COUNT counts the cycles in which a lockstep set is stalled (R71). -/
def State.stretchTick (s : State) : State :=
  foldState (s.seq.map Prod.fst) (fun q s =>
    if (s.seqAt q).compat ∧ (s.seqAt q).state = .running ∧ s.setStalled q then
      s.modSeq q (fun v => { v with stretch := sat32 (v.stretch + 1) }) else s) s

/-- Channels of bursts whose cause committed in an earlier cycle: no further vector issues, so their entries into the plinth
state are fixed (R42, R186). -/
def State.parkTick (s : State) : State :=
  foldState (s.seq.map Prod.fst) (fun q s =>
    match (s.seqAt q).ending with
    | some (_, e) => if e < s.now then s.park q else s
    | none => s) s

/-- The vectors that are due in the cycle that begins, of every sequencer: they issue before the commands of the cycle act. -/
def State.issueTick (s : State) : State := foldState (s.seq.map Prod.fst) (fun q s => s.seqCycle q) s

/-- What the edge changes in units other than sequencers: time base, corrections and table changes that settle, received
levels, links, boot, soft resets that end, trigger lines. -/
def State.unitTick (s : State) : State :=
  (((((((((((s.timeEdge.calSettle).calSettleUnits).tssSettle).schCascades).taskTick).xtTick).plTick).bootTick).schTick).dropConds).trigTick)

/-- One PFCLK edge: the cycle that ends brings its final states (R42, R67), then the next one begins. -/
def State.edge (s : State) : State :=
  let s := s.redoTick.timTick.reportTick.finishCycle
  let s := { s with now := s.now + 1 }
  (((s.unitTick.parkTick).stretchTick).issueTick).portTick

end Sys2Proof.Machine
end

