-- ==== Sys2Proof/Safety.lean ====
section
/-! DEFINITION. What counts as a safe run, in the terms claims use: the invariant of the memories, a step that goes on, and
what a command leaves as it was.
The hypotheses of statements about pattern instructions and engines stand here under a name. -/
namespace Sys2Proof.Machine

/-- The invariant of every state a run can reach: HBM is in canonical form. -/
def State.Inv (s : State) : Prop := s.hbmWf = true

/-- A step that goes on. -/
def Goes (s t : State) : Prop := step s = .next t

/-- The clock, the queue of commands and every byte of HBM are as they were. -/
structure Calm (s t : State) : Prop where
  now : t.now = s.now
  pending : t.pending = s.pending
  hbm : t.hbm = s.hbm
  hbmLost : t.hbmLost = s.hbmLost

/-- Unit `k` of a kind becomes `v` and every other unit of the kind stays as it was. -/
def Becomes {α : Type} (unit : State → Nat → α) (k : Nat) (v : α) (s t : State) : Prop :=
  unit t k = v ∧ ∀ j, j ≠ k → unit t j = unit s j

/-- From `s` to `t` no byte of HBM changes but those of the `n` device addresses from `a` upward. -/
def StoresOnly (a n : Nat) (s t : State) : Prop :=
  ∀ k, (∀ j < n, ∀ x, s.locate (a + j) = some x → hbmKey x ≠ k) → t.hbmGet k = s.hbmGet k

/-- Decoded instruction `d` of opcode `op` is next at sequencer `q`, its first slot has come, and it meets no fault there. -/
structure Takes (q op : Nat) (d : Decoded) (rest : List Decoded) (s : State) : Prop where
  first : (s.seqAt q).slotOpen s.now = true
  idle : (s.seqAt q).run = none
  awake : (s.seqAt q).waitUntil = none
  flows : s.setStalled q = false
  front : (s.seqAt q).queue = d :: rest
  decoded : d.edge < s.now
  opcode : (PatInstr.ofWord d.word).op = op
  goesOn : ((s.beforeVector q).seqAt q).slotOpen (s.beforeVector q).now = true
  legal : faultKind ((s.beforeVector q).seqAt q).cast { (s.beforeVector q).seqAt q with pc := d.idx } (PatInstr.ofWord d.word) = none

/-- The next vector of run `r` of sequencer `q` is due and issues: `w` is the state with all that falls on it. -/
structure Issues (q : Nat) (r : Run) (s w : State) : Prop where
  run : (s.seqAt q).run = some r
  due : s.slotDue q = true
  goesOn : ((s.beforeVector q).seqAt q).slotOpen (s.beforeVector q).now = true
  set : (s.beforeVector q).setLacks q = none
  vector : w = slotVector q r (s.beforeVector q)
  issued : (w.seqAt q).runPos = ((s.beforeVector q).seqAt q).runPos + 1

/-- That vector is the last of its run, of an instruction of opcode `op`: `u` is the state behind the run's own operation, its AS and
the segment's end, in which no cause stands against its control action. -/
structure EndsRun (q op : Nat) (r : Run) (s u : State) : Prop where
  last : ∃ w, Issues q r s w ∧ (w.seqAt q).runPos = r.n ∧ u = runEnd q (PatInstr.ofWord r.word) r w
  opcode : (PatInstr.ofWord r.word).op = op
  goesOn : (u.seqAt q).unended u.now = true

/-- Command `c` takes an instruction whose one vector ends its run in state `u`. -/
def TakesOne (q op : Nat) (d : Decoded) (s u : State) : Prop :=
  d.run.n = 1 ∧ ∃ rest, Takes q op d rest s ∧ EndsRun q op d.run ((s.beforeVector q).startRun q d rest) u

/-- Engine `e` is about to execute instruction `i` of opcode `op`, and no abort or time limit is due at the boundary behind it. -/
structure AtInstr (e op : Nat) (i : WInstr) (s : State) : Prop where
  runs : s.weRuns e = true
  inRange : (s.weAt e).idx < (s.weAt e).progLen
  fetch : (s.weAt e).fetch = i
  opcode : i.op = op
  reserved : i.res = 0
  noAbort : s.abortDue e = false
  noLimit : (s.weAt e).limitHit = false
  noStore : (s.weAt e).cs = []

/-- An engine behind the boundary of an instruction that goes on at index `n`. -/
def We.atBoundary (w : We) (n now : Nat) : We := { w with idx := n, pc := n, instrCount := w.instrCount + 1, boundary := now }

/-- The command goes on, changes engine `e` alone, and leaves it at the boundary before index `n` with the rest as in `w`. -/
def WeGoes (c : Instr) (e : Nat) (w : We) (n : Nat) (s : State) : Prop :=
  ∃ t, exec c s = .next t ∧ t = { s with we := t.we } ∧ Becomes State.weAt e (w.atBoundary n s.now) s t

/-- From `s` a chip reset, or a loss of power, with its cause (R403): every register, table and unit is at its reset value, HBM
contents are free, an update session has failed; fuses, flash, the pins' levels, BOOT_FAILS and the pin record stay. -/
structure Cold (phase : ChipPhase) (cause : Word32) (s t : State) : Prop where
  fields : t = { State.reset with
    pending := s.pending, now := s.now, freeCtr := t.freeCtr, outbox := s.outbox, hostOut := s.hostOut, hbmLost := t.hbmLost,
    hbmBad := s.hbmBad, fuse := { words := t.fuse.words }, mgt := {
      phase := phase, rails := s.mgt.rails, resetN := s.mgt.resetN, refclk := s.mgt.refclk, cause := cause,
      fails := s.mgt.fails, pin := s.mgt.pin, flash := s.mgt.flash, sess := t.mgt.sess } }
  session : s.mgt.sess.active = true → t.mgt.sess.state = .failed ∧ t.mgt.sess.reason = .reset
  fuses : s.fuse.burn = none → t.fuse.words = s.fuse.words
  contents : ∀ k < 64 * pcBytes, t.hbmGet k = Config.lostByte (sget 0 s.hbmLost (k / pcBytes)) k

/-- The only waiting request is command `c` of the host, of a known length, arrived in an earlier cycle, and the agent runs. -/
structure Asked (c : Nat) (r : MboxReq) (s : State) : Prop where
  head : s.mgt.waiting = [r]
  host : r.src = none
  cmd : r.cmd = c
  known : s.mgt.knows c = true
  length : lenOk r = true
  earlier : r.edge < s.now
  agent : s.mgt.agent = true

/-- The management island after it answered request `r` of the host with a status and payload words (R395). -/
def Mgt.answered (m : Mgt) (r : MboxReq) (status : Nat) (pay : List Word32) (now : Nat) : Mgt :=
  { m with waiting := [], mboxBusy := false, rspValid := true, rspEdge := now + 1,
           rsp := BitVec.ofNat 32 (status * 2 ^ 24 + pay.length * 2 ^ 16 + r.tag) :: pay }

/-- Beside the management island, only the events of pages and the messages they send change. -/
def MgtOnly (s t : State) : Prop :=
  t = { s with mgt := t.mgt, hdr := t.hdr, outbox := t.outbox, pcieHeld := t.pcieHeld, msixPend := t.msixPend }

end Sys2Proof.Machine
end

