-- ==== Sys2Proof/Certificates/Slice0/Obligations.lean ====
section
/-! DEFINITION. The statements for the provers. Each docstring names the rules of spec/ it formalises. -/
open Sys2Proof Sys2Proof.Machine

/-- Host commands to a sequencer whose page is READY: ARM is taken up when the sequencer is not in progress and reads the cast
header, CLEAR takes a final state to IDLE, PAUSE stays pending outside HOLD, RESUME lets the next vector issue 4 PFCLK
edges later, SITE_RETIRE queues the owned sites it names. Nothing but that sequencer changes.
Starting and ending a burst from the host, for a sequencer in no lockstep set and no align group: START of an ARMED
sequencer makes it RUNNING with its first vector 4 PFCLK edges later, and retirements written before it are due at once (R23,
R48, R52); ABORT of a RUNNING sequencer commits the ending cause HOST_ABORT (R42, R66); in a starvation HOLD with AUTO_RESUME
and a full lead the sequencer goes on by itself (R128). -/
def Obligations.SequencerCommands : Prop :=
  (∀ (q : Fin 64) (w : Fin 4) (bits : Word32) (s : State), s.ready (pgSeq q) = true →
      ((s.seqAt q).inProgress = false → ∃ t, exec (.arm q) s = .next t ∧ t = { s with seq := t.seq } ∧
        Becomes State.seqAt q { s.seqAt q with state := .idle, arming := .header, preState := (s.seqAt q).state,
                                               cmdStat := 0x1D00, armEdge := s.now + 1 } s t) ∧
      ((s.seqAt q).state = .done ∨ (s.seqAt q).state = .aborted ∨ (s.seqAt q).state = .faulted →
        ∃ t, exec (.clear q) s = .next t ∧ t = { s with seq := t.seq } ∧
          Becomes State.seqAt q { s.seqAt q with state := .idle, endCause := .none, cmdStat := 0x1C00 } s t) ∧
      ((s.seqAt q).state = .armed ∨ (s.seqAt q).state = .running →
        ∃ t, exec (.pause q) s = .next t ∧ t = { s with seq := t.seq } ∧
          Becomes State.seqAt q { s.seqAt q with pausePend := true, cmdStat := 0x1B00 } s t) ∧
      ((s.seqAt q).state = .hold → (s.seqAt q).ending = none →
        ∃ t, exec (.resume q) s = .next t ∧ t = { s with seq := t.seq } ∧
          Becomes State.seqAt q { s.seqAt q with
            state := .running, cmdStat := 0x1A00, pauseHold := false, starveHold := false,
            issueFrom := s.now + 4, genBase := (s.now + 4) * 4096, genNext := 0 } s t) ∧
      ((s.seqAt q).engaged = true → (bits.zeroExtend 128 <<< (32 * w.val)) &&& (s.seqAt q).owned ≠ 0 →
        ∃ t, exec (.siteRetire q w bits) s = .next t ∧ t = { s with seq := t.seq } ∧
          Becomes State.seqAt q { s.seqAt q with
            retireReq := (s.seqAt q).retireReq ++ [(s.now, (bits.zeroExtend 128 <<< (32 * w.val)) &&& (s.seqAt q).owned)] } s t)) ∧
  (∀ (q : Fin 64) (s : State), s.lockstep q = [q.val] →
      (s.ready (pgSeq q) = true → (s.seqAt q).state = .armed → ∃ t, exec (.start q) s = .next t ∧ t = { s with seq := t.seq } ∧
        Becomes State.seqAt q { s.seqAt q with
          state := .running, cmdStat := 0x1E00, issueFrom := s.now + 4, genBase := (s.now + 4) * 4096, genNext := 0,
          rotation := [(s.seqAt q).cast.idleTs], rotPos := 0, markDue := true,
          retireReq := (s.seqAt q).retireReq.map (fun x => (0, x.2)) } s t) ∧
      (s.ready (pgSeq q) = true → (s.seqAt q).state = .running → (s.seqAt q).ending = none → s.groupOf q = none →
        ∃ t, exec (.abort q) s = .next t ∧ t = { s with seq := t.seq } ∧
        Becomes State.seqAt q { s.seqAt q with
          cmdStat := 0x1F00, ending := some (.hostAbort, s.now), endCond := s.now, endVaddr := (s.seqAt q).pc } s t) ∧
      ((s.seqAt q).state = .hold → (s.seqAt q).starveHold = true → (s.seqAt q).pauseHold = false →
        (s.seqAt q).pausePend = false → (s.seqAt q).ending = none → (s.reg (pgSeq q) 0x200).getLsbD 28 = true →
        (s.seqAt q).leadFull = true → ∃ t, exec (.autoResume q) s = .next t ∧ t = { s with seq := t.seq } ∧
        Becomes State.seqAt q { s.seqAt q with
          state := .running, starveHold := false, issueFrom := s.now + 4, genBase := (s.now + 4) * 4096, genNext := 0 } s t))

/-- An arm, whose header reads complete in a later cycle than its own: a refused one leaves the state it came from, with the code in
CMD_STAT and the error in the page header (R45); an accepted one starts the prefill under the cast that was read (R46); with
the lead, the head buffers and the decoded queue full, no calibration on its banks, the PE links up and a start source other
than ALIGN the sequencer enters ARMED (R118). -/
def Obligations.ArmingOfASequencer : Prop :=
  ∀ (q : Fin 64) (res : HbmStatus) (s : State),
    (∀ code info, (s.seqAt q).arming = .header → (s.seqAt q).armEdge ≤ s.now → armCheck q res s = .refused code info →
      ∃ t, exec (.castHeaderReadDone q res) s = .next t ∧ t = { s with seq := t.seq, hdr := t.hdr, align := t.align } ∧
        Becomes State.seqAt q { s.seqAt q with
          state := (s.seqAt q).preState, arming := .none, cmdStat := cmdStatus 29 code } s t ∧
        (t.hdrAt (pgSeq q)).error = true) ∧
    (∀ c, (s.seqAt q).arming = .header → (s.seqAt q).armEdge ≤ s.now → armCheck q res s = .ok c →
      c.chans.any (fun ch => s.chanInUse ch) = false →
      ∃ t, exec (.castHeaderReadDone q res) s = .next t ∧ (t.seqAt q).arming = .prefill ∧ (t.seqAt q).cast = c ∧
        (t.seqAt q).owned = siteMask (s.ownedSites q) ∧ (t.seqAt q).compat = decide (c.version = 2) ∧
        t.hbm = s.hbm ∧ t.pending = s.pending ∧ ∀ k, k ≠ q.val → t.seqAt k = s.seqAt k) ∧
    ((s.seqAt q).arming = .prefill → s.prefilled q = true → (s.seqAt q).ending = none →
      (∀ b < 16, (s.seqAt q).usesBank b = true → (s.bankAt b).calBusy = false) → s.peDown q = false → startSrc s q ≠ 7 →
      ∃ t, exec (.prefillComplete q) s = .next t ∧ t = { s with seq := t.seq } ∧
        Becomes State.seqAt q { s.seqAt q with
          state := .armed, arming := .none,
          lateStart := decide (startSrc s q = 6 ∧ tsPassed (s.stamp (startTd s q)) (startTime s q) = true) } s t)

/-- Vector data and marks of a sequencer: a completed vector fetch adds vectors behind those of the lead, at most up to LEAD (R118);
STRM_WR commits a byte count that does not fall back and fits the window (R120); a read of MARK_ID gives and removes the head
mark (R112); a jump request with a usable slot becomes pending for the segment of the first vector issued in its cycle, else
of the last one issued (R113, R114). -/
def Obligations.SequencerDataAndMarks : Prop :=
  ∀ (q : Fin 64) (s : State),
    (∀ n res, (s.seqAt q).engaged = true → (s.seqAt q).arming ≠ .prefill → (s.seqAt q).resetPend = false →
      (s.seqAt q).stalled = false → (s.seqAt q).jump = none → (s.seqAt q).vfs.lead.path.jif = none →
      let old := (s.seqAt q).vfs.lead
      let room := min n (64 * (s.seqAt q).leadCfg - old.vecs.length)
      ∃ t, exec (.fetchComplete q .vectors res n) s = .next t ∧ t = { s with seq := t.seq, merge := t.merge } ∧
        (t.seqAt q).vfs.lead.vecs = (s.grow q res room old).1.vecs ∧
        (∃ new, (t.seqAt q).vfs.lead.vecs = old.vecs ++ new ∧ new.length ≤ room) ∧ ∀ k, k ≠ q.val → t.seqAt k = s.seqAt k) ∧
    (∀ lo : Word32, s.ready (pgSeq q) = true →
      let n := lo.toNat + 2 ^ 32 * s.regN (pgSeq q) 0x224
      s.strmWrOf q ≤ n → n ≤ s.strmRelOf q + s.strmBytes q →
      ∃ t, exec (.strmWr q lo none) s = .next t ∧ t = { s with seq := t.seq } ∧
        Becomes State.seqAt q { s.seqAt q with
          strmWr := n, strmEdge := s.now + 1,
          strmOld := if (s.seqAt q).strmEdge = s.now + 1 then (s.seqAt q).strmOld else (s.seqAt q).strmWr } s t) ∧
    (∀ m l p, (s.seqAt q).marks = m :: l → ∃ t, exec (.markIdRead q p) s = .next t ∧
      t = { s with seq := t.seq, hostOut := t.hostOut } ∧ t.hostOut = BitVec.ofNat 64 (2 ^ 31 + m.id.toNat) ∧
      Becomes State.seqAt q { s.seqAt q with marks := l, markTs := m.ts } s t) ∧
    (∀ slot : Fin 4, s.ready (pgSeq q) = true → (s.seqAt q).state = .running → (s.seqAt q).jump = none →
      (s.setReg (pgSeq q) 0x238 (BitVec.ofNat 32 slot)).jumpUsable q slot = true →
      let j : JumpReq := { slot := slot, edge := s.now, decided := decide ((s.seqAt q).decEdge = s.now + 1),
                           seg := if (s.seqAt q).cycEdge = s.now + 1 then (s.seqAt q).cycSeg else (s.seqAt q).segCur }
      ∃ t, exec (.jumpReq q slot) s = .next t ∧ t = { s with seq := t.seq, regs := t.regs } ∧
        (t.seqAt q).jump.map (fun x => { x with led := false }) = some j ∧ (∀ k, k ≠ q.val → t.seqAt k = s.seqAt k) ∧
        ((s.seqAt q).decEdge ≠ s.now + 1 → t.seqAt q = { s.seqAt q with jump := some j }))

/-- A pattern instruction taken from the decoded queue begins its run, and the vectors that are due in the cycle issue (R75, R79). A
vector that the lead gives without falling below GUARD, of a legal period, counts in VEC_COUNT and moves the period generator
on by that period (R39, R125).
EMIT, RPT, LOOP, TSET, APG, SMASK and MARK go on with the next instruction behind the last vector of their run, whichever cycle
it issues in, and behind their one vector in the cycle of the command; TSET leaves its list as the rotation (R78), SMASK the
new mask state (R93). A pending PAUSE may hold the sequencer there; of the rest of the device at most the idle pins of that
HOLD change.
A fill vector repeats the last vector: it counts no vector and steps the period generator by the period of that vector's
timing set (R39, R81). -/
def Obligations.PatternRunsGoOn : Prop :=
  (∀ (q : Fin 64) (d : Decoded) (rest : List Decoded) (s : State),
      let begun := fun (c : Instr) (op : Nat) => Takes q op d rest s →
        exec c s = .next (issueSlots q vectorsPerCycle ((s.beforeVector q).startRun q d rest))
      begun (.emit q) opEmit ∧ begun (.rpt q) opRpt ∧ begun (.loop q) opLoop ∧ begun (.endl q) opEndl ∧
      begun (.call q) opCall ∧ begun (.ret q) opRet ∧ begun (.jmp q) opJmp ∧ begun (.jif q) opJif ∧
      begun (.waitRun q) opWait ∧ begun (.markRun q) opMark ∧ begun (.tset q) opTset ∧ begun (.apg q) opApg ∧
      begun (.smask q) opSmask ∧ begun (.align q) opAlign ∧ begun (.stop q) opStop ∧ begun (.matchRun q) opMatch) ∧
  (∀ (x : VecCtx) (r : Run) (pos : Nat) (need : Bool) (h : Held) (f : Vfs) (s : State), x.fill = false →
      s.askLead x.q r x.off pos need = .issue h f false → periodLegal (hdrPeriod (s.tssHeader x.ts x.q)) = true →
      let t := runVector x r pos need s
      (t.seqAt x.q).vecCount = (s.seqAt x.q).vecCount + 1 ∧ (t.seqAt x.q).ord = (s.seqAt x.q).ord + 1 ∧
      (t.seqAt x.q).runPos = (s.seqAt x.q).runPos + 1 ∧
      (t.seqAt x.q).genNext = (s.seqAt x.q).genNext + hdrPeriod (s.tssHeader x.ts x.q) ∧ t.hbm = s.hbm) ∧
  (∀ (q : Fin 64) (r : Run) (d : Decoded) (s u : State),
      let i := PatInstr.ofWord r.word
      let v := u.seqAt q
      let next := fun (w : Seq) (t : State) => t = { u with seq := t.seq, chan := t.chan } ∧ (t.seqAt q).run = none ∧
        (t.seqAt q).pc = v.pc + 1 ∧ (t.seqAt q).loops = v.loops ∧ (t.seqAt q).calls = v.calls ∧
        (t.seqAt q).rotation = w.rotation ∧ (t.seqAt q).rotPos = w.rotPos ∧ (t.seqAt q).smask = w.smask ∧
        ∀ j, j ≠ q.val → t.seqAt j = u.seqAt j
      let completes := fun (c : Instr) (op : Nat) (w : Seq) =>
        (EndsRun q op r s u → next w (slotStep q s)) ∧
        (r = d.run → TakesOne q op d s u → ∃ t, exec c s = .next t ∧ next w t)
      completes (.emit q) opEmit v ∧ completes (.rpt q) opRpt v ∧ completes (.loop q) opLoop v ∧
      completes (.markRun q) opMark v ∧ completes (.apg q) opApg v ∧
      completes (.tset q) opTset { v with rotation := i.tsetList, rotPos := 0 } ∧
      completes (.smask q) opSmask { v with smask := smaskNew i (v.owned &&& v.active) v.smask }) ∧
  (∀ (q : Fin 64) (l : LastVec) (s : State), (s.seqAt q).last = some l → s.fillDue q = true →
      let u := s.beforeVector q
      (u.seqAt q).slotOpen u.now = true → periodLegal (hdrPeriod (u.tssHeader l.ts q)) = true →
      ∃ t, exec (.fillVector q) s = .next t ∧ (t.seqAt q).vecCount = (u.seqAt q).vecCount ∧
        (t.seqAt q).ord = (u.seqAt q).ord + 1 ∧
        (t.seqAt q).genNext = (u.seqAt q).genNext + hdrPeriod (u.tssHeader l.ts q) ∧
        (t.seqAt q).last = some { l with addr := capAddr u q } ∧
        (t.seqAt q).pc = (u.seqAt q).pc ∧ t.hbm = u.hbm ∧ t.tss = u.tss ∧ t.regs = u.regs ∧ ∀ j, j ≠ q.val → t.seqAt j = u.seqAt j)

/-- JMP, CALL, RET and ENDL go where R83 and R85 say, behind the last vector of their run, whichever cycle it issues in, and
behind their one vector in the cycle of the command: JMP to its target; CALL to its target with the return index pushed; RET
to the popped index; ENDL back to its LOOP while its count lasts and behind itself when it is used up. JIF is evaluated when
the cycle of its first vector is over, and then goes to its target when its condition is true and on when it is not (R80, R86).
WAIT, WAIT_END, ALIGN, STOP and MATCH (R55, R57, R66, R89 to R91, R95): WAIT stands at the next index until WAIT_END finds its
instant passed; ALIGN of a group on this chip leaves the sequencer waiting, counts its arrival and fixes the release edge 4
PFCLK edges after the last one, and without a group acts as EMIT; STOP commits the ending cause STOP; a MATCH that is decided
when a repetition completes goes on with its outcome recorded, an undecided one begins the next repetition. -/
def Obligations.PatternControlFlow : Prop :=
  (∀ (q : Fin 64) (r : Run) (d : Decoded) (s u : State),
      let i := PatInstr.ofWord r.word
      let v := u.seqAt q
      let goes := fun (pc : Nat) (calls : List Nat) (loops : List LoopEnt) (t : State) =>
        t = { u with seq := t.seq, chan := t.chan } ∧ (t.seqAt q).run = none ∧ (t.seqAt q).pc = pc ∧
          (t.seqAt q).calls = calls ∧ (t.seqAt q).loops = loops ∧ ∀ j, j ≠ q.val → t.seqAt j = u.seqAt j
      let completes := fun (c : Instr) (op : Nat) (P : State → Prop) =>
        (EndsRun q op r s u → P (slotStep q s)) ∧ (r = d.run → TakesOne q op d s u → ∃ t, exec c s = .next t ∧ P t)
      completes (.jmp q) opJmp (goes i.target v.calls v.loops) ∧
      completes (.call q) opCall (goes i.target ((v.pc + 1) :: v.calls) v.loops) ∧
      (∀ n l, v.calls = n :: l → completes (.ret q) opRet (goes n l v.loops)) ∧
      (∀ l rest, v.loops = l :: rest → l.remaining ≤ 1 → completes (.endl q) opEndl (goes (v.pc + 1) v.calls rest)) ∧
      (∀ l rest, v.loops = l :: rest → 1 < l.remaining →
        let back := { l with remaining := l.remaining - 1, lastIdx := v.pc, again := true,
                             replay := replayable (u.staticIdx q r.seg r.off + i.owned - l.start) }
        completes (.endl q) opEndl (goes l.idx v.calls (back :: rest))) ∧
      completes (.waitRun q) opWait (fun t => t = { u with seq := t.seq } ∧
        Becomes State.seqAt q { v with pc := v.pc + 1, run := none, runPos := 0, pzWait := i.pz } u t) ∧
      (∀ g, u.groupOf q = some g → (u.alignAt g).closed = false → u.groupX g = false →
        let a := (u.alignAt g).arrived ++ [q.val]
        completes (.align q) opAlign (fun t => t = { u with seq := t.seq, align := t.align } ∧
          Becomes State.seqAt q { v with pc := v.pc + 1, run := none, runPos := 0, waitAlign := true, pzWait := i.pz } u t ∧
          (t.alignAt g).opened = true ∧ (t.alignAt g).arrived = a ∧
          (t.alignAt g).releaseEdge =
            if (u.members g).all (fun n => a.contains n) then some (u.now + 4) else (u.alignAt g).releaseEdge)) ∧
      (u.groupOf q = none → completes (.align q) opAlign (goes (v.pc + 1) v.calls v.loops)) ∧
      (v.state = .running → v.ending = none → u.lockstep q = [q.val] → u.groupOf q = none →
        completes (.stop q) opStop (fun t => t = { u with seq := t.seq } ∧
          Becomes State.seqAt q { v with run := none, runPos := 0, ending := some (.stop, u.now), endCond := u.now,
                                         endVaddr := v.pc } u t))) ∧
  (∀ (q : Fin 64) (d : Decoded) (rest : List Decoded) (s u : State),
      (Takes q opJif d rest s → Issues q d.run ((s.beforeVector q).startRun q d rest) u → (u.seqAt q).runPos = d.run.n →
        (u.seqAt q).jifTaken = none →
        let t := runEnd q (PatInstr.ofWord d.word) d.run u
        t.slotDue q = false → exec (.jif q) s = .next t) ∧
      (∀ r, (s.seqAt q).run = some r → (s.seqAt q).jifEdge ≠ 0 → (s.seqAt q).jifEdge ≤ s.now → (s.seqAt q).runPos = r.n →
        (s.seqAt q).unended s.now = true →
        let i := PatInstr.ofWord r.word
        ((s.jifEval q).seqAt q).pc = (if jifTrue (s.seqAt q) i.jcond then i.target else (s.seqAt q).pc + 1) ∧
        ((s.jifEval q).seqAt q).run = none ∧ ∀ j, j ≠ q.val → (s.jifEval q).seqAt j = s.seqAt j) ∧
      (∀ e x, (s.seqAt q).waitUntil = some (e, x) → (s.seqAt q).slotOpen s.now = true → (s.seqAt q).run = none →
        (s.seqAt q).pzWait = false → (x : Int) ≤ s.slotTime5 q e →
        ∃ t, exec (.waitEnd q) s = .next t ∧ t = { s with seq := t.seq } ∧
          Becomes State.seqAt q { s.seqAt q with waitUntil := none, pzWait := false } s t)) ∧
  (∀ (q : Fin 64) (d : Decoded) (rest : List Decoded) (r : Run) (m : MatchRun) (s w : State),
      (Takes q opMatch d rest s → Issues q d.run ((s.beforeVector q).startRun q d rest) w → (w.seqAt q).runPos = d.run.n →
        (w.seqAt q).matchRun = some m → m.decided = none →
        let u := w.modSeq q (fun v => { v with runPos := 0, matchRun := some { m with reps := m.reps + 1 } })
        u.slotDue q = false → exec (.matchRun q) s = .next u) ∧
      (Issues q r s w → (w.seqAt q).runPos = r.n → (PatInstr.ofWord r.word).op = opMatch → (w.seqAt q).matchRun = some m →
        (m.decided = none → slotStep q s =
          w.modSeq q (fun v => { v with runPos := 0, matchRun := some { m with reps := m.reps + 1 } })) ∧
        (∀ met, m.decided = some met → (PatInstr.ofWord r.word).as = false →
          let u := segmentEnd q r (PatInstr.ofWord r.word).owned w
          (u.seqAt q).unended u.now = true →
          let t := slotStep q s
          t = { u with seq := t.seq, chan := t.chan } ∧ (t.seqAt q).pc = (u.seqAt q).pc + 1 ∧ (t.seqAt q).matched = met ∧
          (t.seqAt q).matchRun = none ∧ (t.seqAt q).run = none ∧ ∀ j, j ≠ q.val → t.seqAt j = u.seqAt j)))

/-- A release edge that is due lets every waiting member of the group go on: its next vector may issue 4 PFCLK edges later, and the
group is as never opened (R57, R58).
Messages of a barrier over chips: the master notes the port whose chip has arrived (R59); a member chip that receives
RELEASE in time releases at the instant it names (R59, R60).
A barrier that times out, is cancelled by a port or is released too late ends its waiting members, here
ones in no lockstep set, with the cause ALIGN_TIMEOUT, ALIGN_CANCELLED or ALIGN_LATE and is closed (R60 to R62, R64); RUNNING
members enter FAULTED once the cycle of the cause is over and their vectors have committed (R67). -/
def Obligations.AlignBarriers : Prop :=
  (∀ (g : BitVec 8) (s : State), (s.alignAt g.toNat).opened = true → s.releaseDue g.toNat = true → (s.waiting g.toNat).Nodup →
      (∀ q ∈ s.waiting g.toNat, (s.seqAt q).state = .running ∧ (s.seqAt q).ending = none ∧ (s.seqAt q).waitAlign = true ∧
        (s.seqAt q).pzWait = false) →
      ∃ t, exec (.alignRelease g) s = .next t ∧ t = { s with seq := t.seq, align := t.align } ∧
        Becomes State.alignAt g.toNat {} s t ∧
        (∀ q ∈ s.waiting g.toNat, t.seqAt q = { s.seqAt q with
          waitAlign := false, pzWait := false, issueFrom := s.now + 4, genBase := (s.now + 4) * 4096, genNext := 0 }) ∧
        ∀ q, q ∉ s.waiting g.toNat → t.seqAt q = s.seqAt q) ∧
  (∀ (g : BitVec 8) (port : Fin 6) (T : Word64) (s : State), s.groupX g.toNat = true →
      (s.members g.toNat ≠ [] → s.groupMaster g.toNat = true → (s.groupPorts g.toNat).getLsbD port = true →
        (s.alignAt g.toNat).closed = false → ∃ t, exec (.arrive port g) s = .next t ∧
        t = { s with align := t.align, zp := t.zp, outbox := t.outbox } ∧ (t.alignAt g.toNat).opened = true ∧
        (t.alignAt g.toNat).ports = setBit (s.alignAt g.toNat).ports port ∧
        (t.alignAt g.toNat).arrived = (s.alignAt g.toNat).arrived ∧ ∀ j, j ≠ g.toNat → t.alignAt j = s.alignAt j) ∧
      ((s.alignAt g.toNat).opened = true → s.groupMaster g.toNat = false →
        (lowestPort (s.groupPorts g.toNat)).getLsbD port = true → (s.alignAt g.toNat).releaseT = none →
        tsBefore (s.stamp (s.groupTd g.toNat)) T = false → ∃ t, exec (.release port g T) s = .next t ∧
        t = { s with align := t.align } ∧
        Becomes State.alignAt g.toNat { s.alignAt g.toNat with releaseT := some T.toNat } s t)) ∧
  (∀ (g : BitVec 8) (port : Fin 6) (T : Word64) (s : State), (s.alignAt g.toNat).opened = true →
      s.waiting g.toNat ≠ [] → (s.waiting g.toNat).Nodup →
      (∀ q ∈ s.waiting g.toNat, q < 64 ∧ s.groupOf q = some g.toNat ∧ s.lockstep q = [q] ∧ (s.seqAt q).state = .running ∧
        (s.seqAt q).ending = none) →
      let faulted := fun (c : Instr) (cause : EndCause) => ∃ t, exec c s = .next t ∧
        t = { s with seq := t.seq, align := t.align, zp := t.zp, outbox := t.outbox } ∧ (t.alignAt g.toNat).closed = true ∧
        (∀ q ∈ s.waiting g.toNat, t.seqAt q = { s.seqAt q with
          ending := some (cause, s.now), endCond := s.now, endVaddr := (s.seqAt q).pc }) ∧
        ∀ q, q ∉ s.waiting g.toNat → t.seqAt q = s.seqAt q
      (s.releaseDue g.toNat = false → 0 < s.groupTimeout g.toNat →
        (s.alignAt g.toNat).openEdge + s.groupTimeout g.toNat * 400 ≤ s.now →
        faulted (.alignTimeout g) .alignTimeout) ∧
      (s.releaseDue g.toNat = false → s.groupX g.toNat = true → (s.groupPorts g.toNat).getLsbD port = true →
        faulted (.cancel port g) .alignCancelled) ∧
      (s.groupX g.toNat = true → s.groupMaster g.toNat = false → (lowestPort (s.groupPorts g.toNat)).getLsbD port = true →
        (s.alignAt g.toNat).releaseT = none → tsBefore (s.stamp (s.groupTd g.toNat)) T = true →
        faulted (.release port g T) .alignLate))

/-- Start events: an edge of a TRIG_IN ball becomes a trigger condition of its cycle and starts an ARMED sequencer that selects that
edge (R48, R210); a time compare that has passed starts the ARMED sequencer that waits for it (R47, R48, R303). -/
def Obligations.StartEventsStartSequencers : Prop :=
  ∀ (q : Fin 64) (line : Fin 4) (rising : Bool) (s : State),
    (∃ t, exec (.trigInEdge line rising) s = .next t ∧ t = { s with seq := t.seq, trg := t.trg } ∧
      t.trg.trigIn = (if rising then setBit s.trg.trigIn line else clrBit s.trg.trigIn line) ∧
      t.trg.conds = s.trg.conds ++ [(s.now, .trigIn line rising)] ∧
      ((s.seqAt q).state = .armed → startSrc s q = line.val + 1 → startFalling s q = (!rising) → s.lockstep q = [q.val] →
        t.seqAt q = { s.seqAt q with
          state := .running, issueFrom := s.now + 4, genBase := (s.now + 4) * 4096, genNext := 0,
          rotation := [(s.seqAt q).cast.idleTs], rotPos := 0, markDue := true,
          retireReq := (s.seqAt q).retireReq.map (fun x => (0, x.2)) })) ∧
    ((s.seqAt q).state = .armed → startSrc s q = 6 → tsPassed (s.stamp (startTd s q)) (startTime s q) = true →
      s.lockstep q = [q.val] → ∃ t, exec (.timeCompareFire (.seq q)) s = .next t ∧ t = { s with seq := t.seq } ∧
      Becomes State.seqAt q { s.seqAt q with
        state := .running, startLate := (s.seqAt q).lateStart, issueFrom := s.now + 4, genBase := (s.now + 4) * 4096,
        genNext := 0, rotation := [(s.seqAt q).cast.idleTs], rotPos := 0, markDue := true,
        retireReq := (s.seqAt q).retireReq.map (fun x => (0, x.2)) } s t)

/-- A commit of a vector outside MATCH and maquette mode counts it in FAIL_VEC of exactly the owned sites with a failing judged
compare (R195, R196), and takes the vector out of flight. -/
def Obligations.CommitCountsFailingVectors : Prop :=
  ∀ (q : Fin 64) (obs : List ChanObs) (r : VecRec) (rest : List VecRec) (s : State),
    (s.seqAt q).inflight = r :: rest → r.commitAt ≤ s.now → r.rep = none → (s.seqAt q).maquette = false →
    let js := (r.events.filter (fun e => e.mode ≠ 4 ∧ ¬ e.dropped)).map (judgeEvent s (foundRefs s r obs) obs false)
    ∃ t, exec (.capCommit q obs) s = .next t ∧ t.hbm = s.hbm ∧
      (t.seqAt q).inflight = rest ∧
      ∀ i < 128, (t.capAt i).failVec = (s.capAt i).failVec +
        (if (s.seqAt q).owned.getLsbD i ∧ (failSites s r js).getLsbD i then 1 else 0)

/-- Requests of the capture contexts that complete: the first complete item of a context leaves its queue and its bytes are in HBM;
OR64 leaves the old word OR the mask of the first bitmap update that waits for it; ADDSAT15 leaves the saturating sum with all
that the update adds to its counter. No byte outside the ones written changes (R200, R201, R208, R348). The reply to a
request made before a reset of the page is counted as stale and touches no item of the queue (R32).
ADDSAT15 saturates at 0x7FFF, keeps MUST once set and sets it above a non-zero threshold (R348). -/
def Obligations.CaptureRequestsWriteHbm : Prop :=
  (∀ (site : Fin 128) (s : State),
      (∀ a d vc rest, (s.capAt site).old = [] →
        takeFirst CapItem.complete (s.capAt site).queue = some (.cw a d vc, rest) → s.writeBreaks a d.length = none →
        (s.hbmHeal a d.length).readStatus a d.length = .ok →
        ∃ t, exec (.captureWriteComplete site .ok) s = .next t ∧ (t.capAt site).queue = rest ∧
          t.hbm = (s.hbmWrite a d).hbm ∧ StoresOnly a d.length s t) ∧
      (∀ b, firstBm (fun b => !b.ored) (s.capAt site).queue = some b → s.writeBreaks b.addr 8 = none →
        (s.hbmHeal b.addr 8).readStatus b.addr 8 = .ok →
        ∃ t, exec (.or64 site .ok) s = .next t ∧
          t.hbm = (s.hbmWrite b.addr (leBytes 8 (BitVec.ofNat 64 (s.hbmNat b.addr 8) ||| b.f).toNat)).hbm ∧
          (t.capAt site).queue = setFirstBm (fun b => !b.ored)
            { b with ored := true, ctrs := lineCtrs b (b.f &&& ~~~ BitVec.ofNat 64 (s.hbmNat b.addr 8)) } (s.capAt site).queue ∧
          StoresOnly b.addr 8 s t) ∧
      (∀ b c l, firstBm (fun b => b.ored && !b.ctrs.isEmpty) (s.capAt site).queue = some b → b.ctrs = c :: l →
        s.writeBreaks c.addr 2 = none → (s.hbmHeal c.addr 2).readStatus c.addr 2 = .ok →
        ∃ t, exec (.addsat15 site .ok) s = .next t ∧
          t.hbm = (s.hbmWrite c.addr (leBytes 2 (addSat15 (s.hbmNat c.addr 2) c.n c.thr))).hbm ∧
          (t.capAt site).queue = setFirstBm (fun b => b.ored && !b.ctrs.isEmpty) { b with ctrs := l } (s.capAt site).queue ∧
          StoresOnly c.addr 2 s t) ∧
      (∀ it rest res, (s.capAt site).old = it :: rest → res ≠ .reset →
        ∃ t, exec (.captureWriteComplete site res) s = .next t ∧ (t.capAt site).old = rest ∧
          (t.capAt site).queue = (s.capAt site).queue ∧ (t.capAt site).stale = sat32 ((s.capAt site).stale + 1))) ∧
  (∀ h n thr : Nat, h < 65536 → addSat15 h n thr < 65536 ∧ addSat15 h n thr % 32768 = min 32767 (h % 32768 + n) ∧
      (32768 ≤ addSat15 h n thr ↔ 32768 ≤ h ∨ (thr ≠ 0 ∧ thr < min 32767 (h % 32768 + n))))

/-- Commands to a bank whose page is READY, from each state in which R187 gives them an effect at once: a bank that is ON goes to
PENDING_OFF (ENTERING when nothing uses it) and back, a WAKE in SLEEP is queued, an OFF in SLEEP takes effect in the commit cycle.
The ramps of a bank: a queued start whose turn has come makes a sleeping bank WAKING for 20 µs; its end makes it ON; a power-up
ends in SLEEP; the entry of a PENDING_OFF bank ends in its TARGET state (R187, R188). -/
def Obligations.BankPowerStates : Prop :=
  (∀ (b : Fin 16) (s : State), s.ready (pgBank b) = true →
      let bank := fun (c : Instr) (v : Bank) => ∃ t, exec c s = .next t ∧
        t = { s with bank := t.bank, bankQueue := t.bankQueue, cal := { s.cal with wanted := t.cal.wanted } } ∧
        Becomes State.bankAt b v s t
      ((s.bankAt b).state = .on → bank (.bankSleep b) { s.bankAt b with
        state := .pendingOff, target := .sleep, entering := decide (s.bankUsers b = []), due := s.now + 800, reqEdge := s.now + 1 }) ∧
      ((s.bankAt b).state = .on → bank (.bankOff b) { s.bankAt b with
        state := .pendingOff, target := .off, entering := decide (s.bankUsers b = []), due := s.now + 800, reqEdge := s.now + 1 }) ∧
      ((s.bankAt b).state = .pendingOff → bank (.bankWake b) { s.bankAt b with
        state := .on, target := .none, entering := false }) ∧
      ((s.bankAt b).state = .sleep → bank (.bankWake b) { s.bankAt b with queued := true }) ∧
      ((s.bankAt b).state = .sleep → bank (.bankOff b) { s.bankAt b with state := .off, queued := false, target := .none }) ∧
      ((s.bankAt b).state = .off → (s.bankAt b).powering = false → (s.bankAt b).queued = false →
        bank (.bankSleep b) { s.bankAt b with queued := true, target := .sleep })) ∧
  (∀ (b : Fin 16) (s : State),
      (s.startDue b = true → (s.bankAt b).state = .sleep → ∃ t, exec (.bankStart b) s = .next t ∧
        t = { s with bank := t.bank, bankQueue := t.bankQueue, bankLastStart := some s.now } ∧
        Becomes State.bankAt b { s.bankAt b with
          state := .waking, queued := false, target := .none, due := s.now + 8000 } s t) ∧
      ((s.bankAt b).state = .waking → (s.bankAt b).target = .none → (s.bankAt b).due ≤ s.now →
        ∃ t, exec (.bankWakeDone b) s = .next t ∧ t = { s with bank := t.bank } ∧
          Becomes State.bankAt b { s.bankAt b with
            state := .on, wakeCount := sat32 ((s.bankAt b).wakeCount + 1) } s t) ∧
      ((s.bankAt b).powering = true → (s.bankAt b).target = .none → (s.bankAt b).due ≤ s.now →
        ∃ t, exec (.bankPowerUpDone b) s = .next t ∧ t = { s with bank := t.bank, chan := t.chan } ∧
          Becomes State.bankAt b { s.bankAt b with state := .sleep, powering := false } s t) ∧
      ((s.bankAt b).state = .pendingOff → (s.bankAt b).entering = true → (s.bankAt b).due ≤ s.now →
        (s.bankAt b).calBusy = false → ∃ t, exec (.bankEntryEnd b) s = .next t ∧ t = { s with bank := t.bank, chan := t.chan } ∧
          Becomes State.bankAt b { s.bankAt b with
            state := if (s.bankAt b).target = .off then .off else .sleep, target := .none, entering := false } s t))

/-- Commands to the trigger matrix on a READY page: enabling a unit arms it and clears its records (R214, R218), ARM outside
hold-off arms an enabled unit, in both cases behind the sample of this cycle (R215); FORCE makes the HOST condition of the units it names true in this cycle (R210), FLAG_SET and
FLAG_CLEAR change the flags that a read then shows, a set winning over a clear (R88).
A trigger unit and the lines: an armed unit that nothing has written in this cycle, outside hold-off and with a true enabled condition, fires, counts and notes the mask
(R211); a hold-off whose instant has come ends (R213); a TRIG_OUT pulse and an XT assertion end when their time is over (R111, R212). -/
def Obligations.TriggerUnits : Prop :=
  (∀ (u : Fin 16) (units : BitVec 16) (f : BitVec 8) (s : State), s.ready pgTrg = true →
      ((s.unitAt u).enabled = false → ∃ t, exec (.unitEnable u) s = .next t ∧ t = { s with trg := t.trg, regs := t.regs } ∧
        Becomes State.unitAt u { enabled := true, armed := true, sampled := (s.unitAt u).sampled } s t ∧
        bit (t.reg pgTrg (0x400 + 0x40 * u.val)) 31 = true ∧ uctrlAt t u = uctrlAt s u) ∧
      ((s.unitAt u).enabled = true → (s.unitAt u).inHoldoff = false → ∃ t, exec (.unitArm u) s = .next t ∧
        t = { s with trg := t.trg } ∧ Becomes State.unitAt u { s.unitAt u with armed := true } s t ∧ uctrlAt t u = uctrlAt s u) ∧
      (∃ t, exec (.force units) s = .next t ∧ t = { s with trg := { s.trg with conds := t.trg.conds } } ∧
        t.trg.conds = s.trg.conds ++ (setBits units).map (fun n => (s.now, .host n))) ∧
      (∃ t, exec (.flagSet f) s = .next t ∧ t = { s with trg := t.trg } ∧ t.trg.flagsNow = s.trg.flagsNow ||| f) ∧
      (s.trg.flagEdge < s.now → ∃ t, exec (.flagClear f) s = .next t ∧ t = { s with trg := t.trg } ∧
        t.trg.flagsNow = s.trg.flagsNow &&& ~~~ f)) ∧
  (∀ (u : Fin 16) (line : Fin 4) (x : Fin 8) (s : State),
      (s.unitWas u = none → bit (uctrlAt s u) 31 = true → (s.unitAt u).armed = true → (s.unitAt u).inHoldoff = false →
        (s.unitAt u).sampled ≠ s.now + 1 → condMask u s ≠ 0 → ∃ t, exec (.triggerFire u) s = .next t ∧
        (t.unitAt u).causeMask = condMask u s ∧ (t.unitAt u).fireCount = sat32 ((s.unitAt u).fireCount + 1) ∧
        (t.unitAt u).armed = (!bit (uctrlAt s u) 25) ∧ (t.unitAt u).inHoldoff = bit (uctrlAt s u) 0 ∧ t.hbm = s.hbm ∧
        ∀ j, j ≠ u.val → t.unitAt j = s.unitAt j) ∧
      (holdoffOver u s = true → ∃ t, exec (.holdoffEnd u) s = .next t ∧ t = { s with trg := t.trg } ∧
        Becomes State.unitAt u { s.unitAt u with
          inHoldoff := false, armed := (s.unitAt u).armed || (s.unitAt u).armPend, armPend := false } s t) ∧
      (s.trg.out.getLsbD line = true → s.trg.outEnd.getD line 0 ≤ s.now →
        exec (.pulseEnd line) s = .next { s with trg := { s.trg with out := clrBit s.trg.out line } }) ∧
      (s.trg.xtOut.getLsbD x = true → s.trg.xtEnd.getD x 0 ≤ s.now → ∃ t, exec (.xtAssertEnd x) s = .next t ∧
        t = { s with trg := { s.trg with xtOut := clrBit s.trg.xtOut x }, outbox := t.outbox }))

/-- A word written to the TSS table outside any use, or in the cycle of the arm that begins the use, goes into the defined bits of
word `w` of the entry or header that R148 places at its offset, and nothing else changes; in use it stops as undefined
behaviour (R148, R150, R396).
A word written to the tables of APG `q` while its sequencer is not in progress, or in the cycle of its arm, goes to that word
alone; while it is in progress the write is ignored and the APG page records ASSIGN_BUSY (R135, R146). -/
def Obligations.TableWrites : Prop :=
  (∀ (n : Fin 131072) (w : Fin 8) (h : Fin 16384) (x : Fin 2) (v : Word32) (s : State),
      let off := BitVec.ofNat 23 (32 * n.val + 4 * w.val)
      let hoff := BitVec.ofNat 23 (0x400000 + 8 * h.val + 4 * x.val)
      (s.chanInUse (n.val % 512) = false ∨ s.chanArmedNow (n.val % 512) = true → ∃ t, exec (.tssTableWrite off v none) s = .next t ∧
        t = { s with tss := { s.tss with entries := t.tss.entries } } ∧
        ∀ m, sget 0 t.tss.entries m = if m = n.val then setWord (sget 0 s.tss.entries m) w v &&& entryMask
          else sget 0 s.tss.entries m) ∧
      (s.inProgress (h.val % 64) = false ∨ s.tookUp (h.val % 64) = true → ∃ t, exec (.tssTableWrite hoff v none) s = .next t ∧
        t = { s with tss := { s.tss with headers := t.tss.headers } } ∧
        ∀ m, sget 0 t.tss.headers m = if m = h.val then setWord (sget 0 s.tss.headers m) x v &&& headerMask
          else sget 0 s.tss.headers m) ∧
      (s.chanInUse (n.val % 512) = true → s.chanArmedNow (n.val % 512) = false →
        exec (.tssTableWrite off v none) s = .fault (.undefinedBehaviour 4)) ∧
      (s.inProgress (h.val % 64) = true → s.tookUp (h.val % 64) = false →
        exec (.tssTableWrite hoff v none) s = .fault (.undefinedBehaviour 4))) ∧
  (∀ (q : Fin 64) (k : Fin 2560) (v : Word32) (s : State),
      let a := 0x600000 + 0x4000 * q.val + 4 * k.val
      (s.inProgress q = false ∨ s.tookUp q = true → ∃ t, exec (.apgTableWrite (BitVec.ofNat 23 a) v none) s = .next t ∧
        t = { s with apgTab := t.apgTab } ∧
        ∀ m, sget 0 t.apgTab m = if m = a then v &&& apgTabMask a else sget 0 s.apgTab m) ∧
      (s.inProgress q = true → s.tookUp q = false → ∃ t, exec (.apgTableWrite (BitVec.ofNat 23 a) v none) s = .next t ∧
        t = { s with hdr := t.hdr } ∧ (t.hdrAt (pgApg q)).error = true))

/-- The staged commit path on a READY control block: PUSH takes a slot of the open batch, refuses a header target above 63 before it
looks at the space, and refuses a push with no free slot; CLOSE gives the open batch the next identity and hands its items
over to the sequencers that own them, and in the cycle of an accepted arm applies them at once; DISCARD empties the open batch; APPLY_ID gives, latches and removes the head record (R166, R167, R169 to
R171). -/
def Obligations.StagedCommitPath : Prop :=
  ∀ (path : Path) (r : ApplyRec) (l : List ApplyRec) (s : State),
    (s.ready pgTss = true →
      ((stagedItem s).header = true ∧ 63 < (stagedItem s).index → exec .push s = .next { s with tss := { s.tss with
        refused := sat32 (s.tss.refused + 1), cmd := 2 } }) ∧
      (((stagedItem s).header = true → (stagedItem s).index ≤ 63) → s.tss.free = 0 → exec .push s = .next { s with tss := { s.tss with
        refused := sat32 (s.tss.refused + 1), cmd := 1 } }) ∧
      (((stagedItem s).header = true → (stagedItem s).index ≤ 63) → 0 < s.tss.free → exec .push s = .next { s with tss := { s.tss with
        openItems := s.tss.openItems ++ [stagedItem s], cmd := 0 } }) ∧
      (s.tss.openItems ≠ [] → (∀ q, (s.seqAt q).acceptEdge ≠ s.now + 1 ∧ (s.seqAt q).finalEdge ≠ s.now + 1) →
        ∃ t, exec .closeBatch s = .next t ∧ t = { s with tss := { s.tss with
        openItems := [], lastBatch := s.tss.nextBatch, cmd := 0, parts := t.tss.parts,
        nextBatch := if s.tss.nextBatch = 65535 then 1 else s.tss.nextBatch + 1 } } ∧
        ∃ ps, t.tss.parts = s.tss.parts ++ ps ∧ (∀ p ∈ ps, p.batch = s.tss.nextBatch ∧ p.edge = s.now) ∧
          ∀ i o, (∃ p ∈ ps, p.seq = o ∧ i ∈ p.items) ↔ (i ∈ s.tss.openItems ∧ itemOwner s i = o)) ∧
      (∀ i q, s.tss.openItems = [i] → itemOwner s i = some q → (s.seqAt q).acceptEdge = s.now + 1 →
        (∀ p ∈ s.tss.parts, p.seq ≠ some q) → ∃ t, exec .closeBatch s = .next t ∧ t = { s with tss := t.tss } ∧
        t.tss.openItems = [] ∧ t.tss.parts = s.tss.parts ∧ t.tss.entries = (applyItem i s.tss).entries ∧
        t.tss.headers = (applyItem i s.tss).headers) ∧
      exec .discard s = .next { s with tss := { s.tss with openItems := [], cmd := 0 } }) ∧
    (s.tss.log = r :: l → exec (.applyIdRead path) s = .next { s with
      tss := { s.tss with log := l, applyVec := r.vec, applySeg := r.seg }, hostOut := r.id.zeroExtend 64 }) ∧
    (s.tss.log = [] → exec (.applyIdRead path) s = .next { s with hostOut := 0 })

/-- Submission: a write of SUBPp_ADDR_LO takes the address and makes the port PENDING, or is ignored with SUB_BUSY while it is PENDING; a
descriptor read that fails ends with FETCH_ERR, one that finds RESERVE entries or fewer free with TABLE_FULL; an accepted
descriptor that waits takes the lowest free entry as WAITING with the next generation (R238 to R241). -/
def Obligations.TaskSubmission : Prop :=
  ∀ (p : Fin 8) (lo : Word32) (res : HbmStatus) (s : State), s.schResetting = false →
    (s.ready pgSch = true → (s.portAt p).pending = false → ∃ t, exec (.submit p lo none) s = .next t ∧
      t = { s with sch := t.sch, regs := t.regs } ∧
      Becomes State.portAt p { s.portAt p with
        pending := true, addr := lo.toNat + 2 ^ 32 * s.regN pgSch (0x204 + 0x10 * p.val), edge := s.now, finals := [] } s t) ∧
    (s.ready pgSch = true → (s.portAt p).pending = true → ∃ t, exec (.submit p lo none) s = .next t ∧
      t = { s with hdr := t.hdr } ∧ (t.hdrAt pgSch).error = true) ∧
    ((s.portAt p).pending = true → worstOf res (s.readStatus (s.portAt p).addr 64) ≠ .ok →
      ∃ t, exec (.descriptorReadDone p res) s = .next t ∧ t = { s with sch := { s.sch with ports := t.sch.ports } } ∧
      Becomes State.portAt p { s.portAt p with pending := false, code := 2, finals := [] } s t) ∧
    ((s.portAt p).pending = true → worstOf res (s.readStatus (s.portAt p).addr 64) = .ok → s.freeEntries ≤ s.reserve →
      ∃ t, exec (.descriptorReadDone p res) s = .next t ∧
      t = { s with sch := { s.sch with ports := t.sch.ports, tableFull := sat32 (s.sch.tableFull + 1) } } ∧
      Becomes State.portAt p { s.portAt p with pending := false, code := 1, finals := [] } s t) ∧
    (∀ i, let d := Desc.ofBytes (s.hbmRead (s.portAt p).addr 64)
      let g := if (s.taskAt i).gen ≥ 65535 then 1 else (s.taskAt i).gen + 1
      (s.portAt p).pending = true → worstOf res (s.readStatus (s.portAt p).addr 64) = .ok → s.reserve < s.freeEntries →
      s.freeIndex = some i → d.bad = false → d.dep ≠ 0 → firstFinal d (s.portAt p).finals = none →
      ∃ t, exec (.descriptorReadDone p res) s = .next t ∧ t = { s with sch := t.sch } ∧
      Becomes State.taskAt i {
        state := .waiting, gen := g, cfg := d.cfg, dep := d.dep, subEdge := (s.portAt p).edge, block := d.block,
        execMask := d.execMask, release := d.release, tag := d.tag, succs := (s.goodSuccs d.succs).eraseDups } s t ∧
      Becomes State.portAt p { s.portAt p with pending := false, code := 0, id := i + 2 ^ 14 * g, finals := [] } s t)

/-- Dispatch, at most once in a fabric cycle: the first ready task, in the order of R248, for which an eligible executor has a slot goes to the running slot of
that executor, or to its prefetch slot.
The slot a task goes to is on an executor of its EXEC_MASK that is not offline or retired, the lowest-numbered one with a free
running slot that no prefetched task is about to enter, and the lowest-numbered busy one with a free prefetch slot only when
there is none (R248, R249). -/
def Obligations.TaskDispatch : Prop :=
  (∀ (i x : Nat) (s : State), s.schResetting = false → (s.sch.dispEdge = s.now → s.sch.dispCount < 2) →
      s.readyList.find? (fun j => (s.slotFor (s.taskAt j)).isSome) = some i →
      (s.slotFor (s.taskAt i) = some (x, true) → ∃ t, exec .dispatch s = .next t ∧
        t = { s with sch := t.sch, we := t.we, ce := t.ce } ∧
        Becomes State.taskAt i { s.taskAt i with state := .running, executor := x } s t ∧
        Becomes State.execAt x { s.execAt x with running := some i, startAt := s.now, abort := none, ended := none } s t) ∧
      (s.slotFor (s.taskAt i) = some (x, false) → ∃ t, exec .dispatch s = .next t ∧ t = { s with sch := t.sch } ∧
        Becomes State.taskAt i { s.taskAt i with state := .prefetched, executor := x } s t ∧
        Becomes State.execAt x { s.execAt x with prefetch := some i } s t)) ∧
  (∀ (t : Task) (x : Nat) (s : State),
      (s.slotFor t = some (x, true) → x ∈ execCodes t ∧ s.eligible x = true ∧ (s.execAt x).running = none ∧
        (s.execAt x).prefetch = none ∧
        ∀ y ∈ execCodes t, y < x → s.eligible y = true → (s.execAt y).running ≠ none ∨ (s.execAt y).prefetch ≠ none) ∧
      (s.slotFor t = some (x, false) → x ∈ execCodes t ∧ s.eligible x = true ∧ (s.execAt x).running ≠ none ∧
        (s.execAt x).prefetch = none ∧
        (∀ y ∈ execCodes t, s.eligible y = true → (s.execAt y).running ≠ none ∨ (s.execAt y).prefetch ≠ none) ∧
        ∀ y ∈ execCodes t, y < x → s.eligible y = true → (s.execAt y).prefetch ≠ none))

/-- Release of tasks: at a whole microsecond of a domain a due task leaves the delay list, and a HELD task whose contexts are
all drained leaves HELD; a task of an executor class that is not wholly retired becomes READY (R243, R247, R209).
Completion: the end an executor has reached completes its running task and frees the slot, and a free slot takes the prefetched task
when the next cycle begins (R244, R249); a completing task whose ring has room sends its 32-byte record, moves the tail and frees its entry (R254, R255). -/
def Obligations.TaskReleaseAndCompletion : Prop :=
  (∀ (td : Fin 4) (i : Fin 16384) (s : State),
      let runs := fun (v : Task) => (cfgKind v.cfg = 1 ∨ cfgKind v.cfg = 2) ∧ ∃ x ∈ execCodes v, (s.execAt x).retired = false
      (s.sch.ticks.getD td 0 < s.micros td → (s.sch.tasks.filter (fun e =>
          e.2.state = .delayed ∧ cfgTd e.2.cfg = td.val ∧ tsPassed (shortTs (s.micros td * 400 * 2 ^ 40)) e.2.release)).map
          Prod.fst = [i.val] → (s.taskAt i).state = .delayed → cfgEvent (s.taskAt i).cfg = false → runs (s.taskAt i) →
        ∃ t, exec (.delayRelease td) s = .next t ∧ t = { s with sch := { s.sch with ticks := t.sch.ticks, tasks := t.sch.tasks } } ∧
        t.sch.ticks = s.sch.ticks.set td (s.micros td) ∧
        Becomes State.taskAt i { s.taskAt i with state := .ready, entered := s.now + 1, head := 0 } s t) ∧
      ((s.taskAt i).state = .held → s.ctxWaits (s.taskAt i) = false → runs (s.taskAt i) →
        ∃ t, exec (.heldRelease i) s = .next t ∧ t = { s with sch := { s.sch with tasks := t.sch.tasks } } ∧
        Becomes State.taskAt i { s.taskAt i with state := .ready, entered := s.now + 1, head := 0 } s t)) ∧
  (∀ (x : ExecId) (i : Fin 16384) (prog result : Nat) (st : TaskStatus) (s : State),
      ((s.execAt (execCode x)).running = some i.val → (s.execAt (execCode x)).ended = some (st, prog, result) →
        (s.execAt (execCode x)).abort = none → (s.execAt (execCode x)).lost = 0 → (s.taskAt i).succs = [] →
        ∃ t, exec (.taskComplete x) s = .next t ∧ t = { s with sch := t.sch, we := t.we, ce := t.ce } ∧
        Becomes State.taskAt i { s.taskAt i with
          state := if cfgNorec (s.taskAt i).cfg then .free else .completing, status := st, prog := prog, result := result,
          ts := s.stamp (fld (s.reg pgSch 0x100) 16 2) } s t ∧
        Becomes State.execAt (execCode x) { s.execAt (execCode x) with running := none, ended := none } s t) ∧
      ((s.execAt (execCode x)).running = none → (s.execAt (execCode x)).prefetch = some i.val →
        let t := s.promote (execCode x)
        Becomes State.taskAt i { s.taskAt i with state := .running, executor := execCode x } s t ∧
        Becomes State.execAt (execCode x) { s.execAt (execCode x) with
          running := some i.val, prefetch := none, startAt := s.now, abort := none, ended := none } s t) ∧
      (let v := s.taskAt i
        let r := cfgRing v.cfg
        v.state = .completing → s.ringOpen r = true → s.pcie.up = true → ∃ t l, exec (.completionRecordWrite i) s = .next t ∧
        t = { s with sch := t.sch, hdr := t.hdr, outbox := t.outbox, msixPend := t.msixPend } ∧
        t.outbox = s.outbox ++ .host (s.reg64 pgSch (0x300 + 0x20 * r) +
          32 * (s.sch.tails.getD r 0 % s.regN pgSch (0x308 + 0x20 * r))) (recordBytesOf i v) :: l ∧
        t.sch.tails = s.sch.tails.set r ((s.sch.tails.getD r 0 + 1) % 2 ^ 32) ∧
        Becomes State.taskAt i { v with state := .free } s t))

/-- Cancel: an identity that names no task answers NOT_FOUND; a READY task without successors completes as CANCELLED; a running task is
asked to abort and the answer waits for the outcome; one that entered the running slot in this very cycle completes as
CANCELLED, and one whose completion point is in this cycle, or that has reached its end, answers ABORT_LATE (R250, R251). -/
def Obligations.TaskCancel : Prop :=
  ∀ (i : Nat) (s : State), s.ready pgSch = true →
    (s.sch.ends.contains (s.now, s.regN pgSch 0x108) = true → s.named (s.regN pgSch 0x108) = none →
      exec .taskCancel s = .next { s with sch := { s.sch with cancelCode := 3, cancelPending := none } }) ∧
    (s.sch.ends.contains (s.now, s.regN pgSch 0x108) = false →
    (s.named (s.regN pgSch 0x108) = none → exec .taskCancel s = .next { s with sch := { s.sch with
      cancelCode := 4, cancelPending := none } }) ∧
    (s.named (s.regN pgSch 0x108) = some i → (s.taskAt i).state = .ready → (s.taskAt i).succs = [] →
      (s.execAt (s.taskAt i).executor).prefetch ≠ some i → (s.execAt (s.taskAt i).executor).running ≠ some i → ∃ t, exec .taskCancel s = .next t ∧
      t = { s with sch := { s.sch with tasks := t.sch.tasks, cancelCode := 0, cancelPending := none } } ∧
      Becomes State.taskAt i { s.taskAt i with
        state := if cfgNorec (s.taskAt i).cfg then .free else .completing, status := .cancelled,
        ts := s.stamp (fld (s.reg pgSch 0x100) 16 2) } s t) ∧
    (s.named (s.regN pgSch 0x108) = some i → (s.taskAt i).state = .running →
      (s.execAt (s.taskAt i).executor).startAt ≠ s.now → (s.execAt (s.taskAt i).executor).ended = none → (s.execAt (s.taskAt i).executor).abort = none →
      ∃ t, exec .taskCancel s = .next t ∧ t = { s with sch := { s.sch with
        execs := t.sch.execs, cancelCode := 1, cancelPending := some (s.regN pgSch 0x108) } } ∧
      Becomes State.execAt (s.taskAt i).executor { s.execAt (s.taskAt i).executor with abort := some s.now } s t) ∧
    (s.named (s.regN pgSch 0x108) = some i → (s.taskAt i).state = .running →
      (s.execAt (s.taskAt i).executor).startAt = s.now → (s.taskAt i).succs = [] →
      (s.execAt (s.taskAt i).executor).prefetch = none → (s.execAt (s.taskAt i).executor).running = some i →
      ∃ t, exec .taskCancel s = .next t ∧ t = { s with sch := t.sch, we := t.we, ce := t.ce } ∧ t.sch.cancelCode = 0 ∧
      (t.taskAt i).status = .cancelled ∧ (t.execAt (s.taskAt i).executor).running = none) ∧
    (s.named (s.regN pgSch 0x108) = some i → (s.taskAt i).state = .running →
      (s.execAt (s.taskAt i).executor).startAt ≠ s.now → (s.execAt (s.taskAt i).executor).ended ≠ none →
      ∃ t, exec .taskCancel s = .next t ∧ t = { s with sch := { s.sch with
        tasks := t.sch.tasks, cancelCode := 3, cancelPending := none } } ∧
      Becomes State.taskAt i { s.taskAt i with abortLate := true } s t))

/-- The arithmetic and logic instructions of a worker write RD, set Z and N, set C as R224 says and leave Q; G0 discards the write
(R224, R225).
BITX, LDI, LDIH and TIME: BITX gives the trailing zeros in RD and RA without its lowest 1 bit, RA's result standing where the two
are one register; the loads and TIME leave the flags (R224, R225). -/
def Obligations.WorkerArithmetic : Prop :=
  (∀ (e : Fin 24) (i : WInstr) (s : State),
      let w := s.weAt e
      let a := w.reg i.ra
      let b := w.opB i
      let n := w.idx + 1
      let sh := (b &&& 63).toNat
      let res := fun (r : Word64) (c : Bool) =>
        { w.setReg i.rd r with flags := { z := decide (r = 0), n := r.getLsbD 63, c := c, q := w.flags.q } }
      (AtInstr e 0x01 i s → WeGoes (.add e) e (res (a + b) (decide (2 ^ 64 ≤ a.toNat + b.toNat))) n s) ∧
      (AtInstr e 0x02 i s → WeGoes (.sub e) e (res (a - b) (decide (b.toNat ≤ a.toNat))) n s) ∧
      (AtInstr e 0x03 i s → WeGoes (.andOp e) e (res (a &&& b) false) n s) ∧
      (AtInstr e 0x04 i s → WeGoes (.orOp e) e (res (a ||| b) false) n s) ∧
      (AtInstr e 0x05 i s → WeGoes (.xorOp e) e (res (a ^^^ b) false) n s) ∧
      (AtInstr e 0x06 i s → WeGoes (.shl e) e (res (a <<< sh) false) n s) ∧
      (AtInstr e 0x07 i s → WeGoes (.shr e) e (res (a >>> sh) false) n s) ∧
      (AtInstr e 0x08 i s → WeGoes (.sar e) e (res (a.sshiftRight sh) false) n s) ∧
      (AtInstr e 0x09 i s → WeGoes (.mul e) e (res (a * b) false) n s) ∧
      (AtInstr e 0x0A i s → WeGoes (.minOp e) e (res (BitVec.ofNat 64 (min a.toNat b.toNat)) false) n s) ∧
      (AtInstr e 0x0B i s → WeGoes (.maxOp e) e (res (BitVec.ofNat 64 (max a.toNat b.toNat)) false) n s) ∧
      (AtInstr e 0x0C i s → WeGoes (.cmp e) e { w with flags := (res (a - b) (decide (b.toNat ≤ a.toNat))).flags } n s) ∧
      (AtInstr e 0x0D i s → WeGoes (.popc e) e (res (popCount a) false) n s) ∧
      (AtInstr e 0x0E i s → WeGoes (.ctz e) e (res (trailing a) false) n s)) ∧
  (∀ (e : Fin 24) (i : WInstr) (s : State),
      let w := s.weAt e
      let a := w.reg i.ra
      let n := w.idx + 1
      (AtInstr e 0x0F i s → WeGoes (.bitx e) e { (w.setReg i.rd (trailing a)).setReg i.ra (a &&& (a - 1)) with
        flags := { z := decide (a = 0), n := a.getLsbD 63, c := false, q := w.flags.q } } n s) ∧
      (AtInstr e 0x10 i s → WeGoes (.ldi e) e (w.setReg i.rd (i.imm.signExtend 64)) n s) ∧
      (AtInstr e 0x11 i s → WeGoes (.ldih e) e (w.setReg i.rd (i.imm ++ (w.reg i.rd).extractLsb' 0 32)) n s) ∧
      (AtInstr e 0x52 i s → WeGoes (.weTime e) e (w.setReg i.rd (s.stamp (i.imm.toNat % 4))) n s))

/-- Branches of a worker: BR goes to its target when the condition holds, CALL leaves the return index in G31, RET goes to it,
DJNZ counts down and goes on at its target while the result is not 0 (R224, R225). -/
def Obligations.WorkerBranches : Prop :=
  ∀ (e : Fin 24) (i : WInstr) (s : State),
    let w := s.weAt e
    let target := i.imm.toNat % 8192
    (∀ b, AtInstr e 0x20 i s → w.flags.holds i.cond = some b → WeGoes (.br e) e w (if b then target else w.idx + 1) s) ∧
    (AtInstr e 0x21 i s → WeGoes (.weCall e) e (w.setReg 31 (BitVec.ofNat 64 (w.idx + 1))) target s) ∧
    (AtInstr e 0x22 i s → WeGoes (.weRet e) e w ((w.reg 31).toNat % 8192) s) ∧
    (AtInstr e 0x23 i s → i.ra ≠ 0 → WeGoes (.djnz e) e (w.setReg i.ra (w.reg i.ra - 1))
      (if w.reg i.ra = 1 then w.idx + 1 else target) s) ∧
    (AtInstr e 0x23 i s → i.ra = 0 → WeGoes (.djnz e) e w (w.idx + 1) s)

/-- Local memory of a worker: an aligned access inside local memory, a store outside the program region, moves 8 or 2 bytes,
little-endian, and no other byte changes (R220, R225).
Transfers and ends of a worker: a legal transfer on a free tag is accepted when the WE port has room, and refused with Q set when it
has none; HWAIT with no tag outstanding gives the highest status; DONE with nothing outstanding ends the task (R221, R222, R226, R231). -/
def Obligations.WorkerLoadsStoresAndTransfers : Prop :=
  (∀ (e : Fin 24) (i : WInstr) (s : State),
      let w := s.weAt e
      let a := (w.reg i.ra + i.imm.signExtend 64).toNat
      let fits := fun (n : Nat) => a + n ≤ 0x80000 ∧ a % n = 0
      (AtInstr e 0x30 i s → fits 8 → WeGoes (.ld e) e (w.setReg i.rd (BitVec.ofNat 64 (mreadLe w.lm a 8))) (w.idx + 1) s) ∧
      (AtInstr e 0x32 i s → fits 2 → WeGoes (.ldh e) e (w.setReg i.rd (BitVec.ofNat 64 (mreadLe w.lm a 2))) (w.idx + 1) s) ∧
      (AtInstr e 0x31 i s → fits 8 → 0x10000 ≤ a →
        WeGoes (.st e) e { w with lm := mwrite w.lm a (leBytes 8 (w.reg i.rb).toNat) } (w.idx + 1) s) ∧
      (AtInstr e 0x33 i s → fits 2 → 0x10000 ≤ a →
        WeGoes (.sth e) e { w with lm := mwrite w.lm a (leBytes 2 (w.reg i.rb).toNat) } (w.idx + 1) s)) ∧
  (∀ (e : Fin 24) (i : WInstr) (s : State),
      let w := s.weAt e
      let lm := (w.reg i.rd).toNat
      let hbm := (w.reg i.ra).toNat
      let len := (w.reg i.rb).toNat
      let tag := i.imm.toNat % 16
      let legal := 64 ≤ len ∧ len ≤ 65536 ∧ len % 64 = 0 ∧ lm % 64 = 0 ∧ hbm % 64 = 0 ∧ lm + len ≤ 0x80000 ∧
        (∀ t ∈ w.transfers, t.tag ≠ tag)
      let accepted := fun (wr : Bool) => { w with
        flags := { w.flags with q := false },
        transfers := w.transfers ++ [{ tag := tag, write := wr, lm := lm, hbm := hbm, len := len }] }
      let refused := fun (c : Instr) => ∃ t, exec c s = .next t ∧ t = { s with we := t.we, hmc := { s.hmc with ports := t.hmc.ports } } ∧
        Becomes State.weAt e (We.atBoundary { w with
          flags := { w.flags with q := true }, hbmRefused := sat32 (w.hbmRefused + 1) } (w.idx + 1) s.now) s t
      (AtInstr e 0x40 i s → legal → 0x10000 ≤ lm → s.portFull 5 = false → WeGoes (.hrd e) e (accepted false) (w.idx + 1) s) ∧
      (AtInstr e 0x41 i s → legal → s.portFull 5 = false → WeGoes (.hwr e) e (accepted true) (w.idx + 1) s) ∧
      (AtInstr e 0x40 i s → legal → 0x10000 ≤ lm → s.portFull 5 = true → refused (.hrd e)) ∧
      (AtInstr e 0x41 i s → legal → s.portFull 5 = true → refused (.hwr e)) ∧
      (AtInstr e 0x42 i s → (∀ t ∈ w.transfers, i.imm.getLsbD t.tag = false) → ∃ v : Nat,
        WeGoes (.hwait e) e (w.setReg i.rd (BitVec.ofNat 64 v)) (w.idx + 1) s ∧
        (∀ t < 16, i.imm.getLsbD t = true → sget 0 w.tagStat t ≤ v) ∧
        (v = 0 ∨ ∃ t < 16, i.imm.getLsbD t = true ∧ sget 0 w.tagStat t = v)) ∧
      (AtInstr e 0x50 i s → w.transfers = [] → ∃ t, exec (.doneTask e) s = .next t ∧
        t = { s with we := t.we, sch := { s.sch with execs := t.sch.execs } } ∧
        Becomes State.weAt e { w.atBoundary w.idx s.now with ending := some (.done (i.imm.extractLsb' 0 8) (w.reg i.ra)) } s t ∧
        Becomes State.execAt e { s.execAt e with ended := some (.complete, i.imm.toNat % 256, (w.reg i.ra).toNat) } s t))

/-- The repair primitives and POST: BMSCAN finds the first of eight non-zero words or moves on by 64; LCMUST collects sixteen MUST bits; CDEC
lowers a counter and clears MUST at or below the threshold; POST with no free entry sets Q and counts the refusal, and otherwise takes an
entry as posted and leaves its identity in the descriptor (R223, R225, R241, R242). -/
def Obligations.WorkerRepairAndPost : Prop :=
  ∀ (e : Fin 24) (i : WInstr) (s : State),
    let w := s.weAt e
    let a := (w.reg i.ra).toNat
    let word := fun (k : Nat) => mreadLe w.lm (a + 8 * k) 8
    let n := w.idx + 1
    (∀ k < 8, AtInstr e 0x60 i s → a + 64 ≤ 0x80000 → a % 8 = 0 → word k ≠ 0 → (∀ j < k, word j = 0) → WeGoes (.bmscan e) e
      { w.setReg i.rd (BitVec.ofNat 64 (a + 8 * k)) with flags := { w.flags with z := false } } n s) ∧
    (AtInstr e 0x60 i s → a + 64 ≤ 0x80000 → a % 8 = 0 → (∀ k < 8, word k = 0) → WeGoes (.bmscan e) e
      { w.setReg i.ra (w.reg i.ra + 64) with flags := { w.flags with z := true } } n s) ∧
    (AtInstr e 0x61 i s → a + 32 ≤ 0x80000 → a % 2 = 0 → ∃ m : Nat, m < 65536 ∧
      (∀ k < 16, m.testBit k = decide (32768 ≤ mreadLe w.lm (a + 2 * k) 2)) ∧ WeGoes (.lcmust e) e
      { w.setReg i.rd (BitVec.ofNat 64 m) with flags := { w.flags with z := decide (m = 0) } } n s) ∧
    (AtInstr e 0x62 i s → 0x10000 ≤ a → a + 2 ≤ 0x80000 → a % 2 = 0 →
      let h := mreadLe w.lm a 2
      let count := h % 32768 - (w.reg i.rb).toNat
      let v := count + (if 32768 ≤ h ∧ i.imm.toNat % 32768 < count then 32768 else 0)
      WeGoes (.cdec e) e (We.setReg { w with lm := mwrite w.lm a (leBytes 2 v) } i.rd (BitVec.ofNat 64 v)) n s) ∧
    (AtInstr e 0x51 i s → 0x10000 ≤ a → a + 64 ≤ 0x80000 → s.schResetting = false → s.freeIndex = none → ∃ t, exec (.post e) s = .next t ∧
      t = { s with we := t.we, sch := { s.sch with tableFull := sat32 (s.sch.tableFull + 1) } } ∧
      Becomes State.weAt e (We.atBoundary { w with flags := { w.flags with q := true } } n s.now) s t) ∧
    (∀ k, let d := Desc.ofBytes (mread w.lm a 64)
      let g := if (s.taskAt k).gen ≥ 65535 then 1 else (s.taskAt k).gen + 1
      AtInstr e 0x51 i s → 0x10000 ≤ a → a + 64 ≤ 0x80000 → s.schResetting = false → s.freeIndex = some k → d.bad = false → d.dep ≠ 0 →
      ∃ t, exec (.post e) s = .next t ∧ t = { s with we := t.we, sch := t.sch } ∧
      Becomes State.weAt e (We.atBoundary { w with
        flags := { w.flags with q := false }, lm := mwrite w.lm (a + 0x38) (leBytes 4 (k + 2 ^ 14 * g)) } n s.now) s t ∧
      Becomes State.taskAt k {
        state := .waiting, gen := g, cfg := d.cfg, dep := d.dep, subEdge := s.now, block := d.block, execMask := d.execMask,
        release := d.release, tag := d.tag, succs := (s.goodSuccs d.succs).eraseDups, posted := true } s t)

/-- Stops of a worker program at an instruction boundary: an opcode that is not listed, a set reserved field, an index beyond the program, a
reserved condition and a store into the program region fault with the code of FAULT_INFO; an abort that has committed ends the task as ABORTED
before the time limit does (R225, R229 to R231). -/
def Obligations.WorkerFaults : Prop :=
  ∀ (e : Fin 24) (i : WInstr) (s : State), s.weRuns e = true → (s.weAt e).transfers = [] → (s.weAt e).cs = [] →
    let w := s.weAt e
    let a := (w.reg i.ra + i.imm.signExtend 64).toNat
    let faults := fun (c : Instr) (code : Nat) => ∃ t, exec c s = .next t ∧
      t = { s with we := t.we, sch := { s.sch with execs := t.sch.execs } } ∧
      (t.weAt e).faultInfo = BitVec.ofNat 32 (2 ^ 24 * code + w.idx % 8192) ∧ (t.weAt e).regs = w.regs ∧ (t.weAt e).lm = w.lm ∧
      Becomes State.execAt e { s.execAt e with ended := some (.workerFault, 0, 0) } s t
    (w.progLen ≤ w.idx → faults (.add e) 4) ∧
    (w.idx < w.progLen → w.fetch = i → i.op = 0x12 → faults (.add e) 1) ∧
    (w.idx < w.progLen → w.fetch = i → i.op = 0x01 → i.res ≠ 0 → faults (.add e) 2) ∧
    (w.idx < w.progLen → w.fetch = i → i.op = 0x20 → i.res = 0 → 9 ≤ i.cond → i.cond < 16 → faults (.br e) 3) ∧
    (w.idx < w.progLen → w.fetch = i → i.op = 0x31 → i.res = 0 → a < 0x10000 → faults (.st e) 5) ∧
    (w.idx < w.progLen → w.fetch = i → i.op = 0x30 → i.res = 0 → a + 8 ≤ 0x80000 → a % 8 ≠ 0 → faults (.ld e) 6) ∧
    (w.idx < w.progLen → w.fetch = i → i.op = 0x10 → i.res = 0 → s.abortDue e = true → ∃ t, exec (.ldi e) s = .next t ∧
      Becomes State.execAt e { s.execAt e with ended := some (.aborted, 0, 0) } s t)

/-- The life of a task on a worker engine: the loaded work block starts it at ENTRY with its arguments in G1 to G5 and every other register 0
(R219); a time limit that has elapsed is noted for the next boundary (R230); a watchdog that expires resets the engine, retires it
at the third expiry within a second, and sends a restartable task back to the head of its level (R232, R233); the reload ends with the control store valid (R233).
The service of a worker engine: transfers complete with their data and status, a write touching no other byte of HBM; OFFLINE returns the
prefetched task; LM_DATA reaches the local memory of an engine out of service and else records WE_BUSY; CS_DATA stores a microword while
no task runs (R222, R232, R234, R237). -/
def Obligations.WorkerTasks : Prop :=
  (∀ (e : Fin 24) (i : Nat) (s : State), (s.execAt e).running = some i →
      let w := s.weAt e
      let x := s.execAt e
      let b := s.hbmRead (s.taskAt i).block 64
      let base := field b 0 8
      let len := field b 8 2
      (w.started = false → x.ended = none → x.startAt ≤ s.now → s.readStatus (s.taskAt i).block 64 = .ok →
        s.readStatus base (8 * len) = .ok → len ≤ 8192 → ¬ (w.resident = true ∧ w.progBase = base ∧ w.progLen = len) →
        ∃ t, exec (.workBlockLoaded e .ok) s = .next t ∧ t = { s with we := t.we } ∧ (t.weAt e).started = true ∧
        (t.weAt e).idx = field b 0xA 2 ∧ (t.weAt e).flags = {} ∧ (t.weAt e).progBase = base ∧ (t.weAt e).progLen = len ∧
        (∀ r < 32, (t.weAt e).reg r = if 1 ≤ r ∧ r ≤ 5 then BitVec.ofNat 64 (field b (0x10 + 8 * r) 8) else 0) ∧
        (t.weAt e).lm = mwrite (mwrite w.lm 0 (s.hbmRead base (8 * len))) 0x10000 b ∧ ∀ j, j ≠ e.val → t.weAt j = s.weAt j) ∧
      (w.started = true → w.timeLimit ≠ 0 → w.startAt + w.timeLimit * 400 ≤ s.now → ∃ t, exec (.taskTimeLimit (.we e)) s = .next t ∧
        t = { s with we := t.we } ∧ Becomes State.weAt e { w with limitHit := true } s t) ∧
      (let third : Prop := 3 ≤ ((w.expiries ++ [s.now]).filter (fun y => s.now < y + 400000000)).length
       x.ended = none → x.abort = none → x.prefetch = none → s.schResetting = false → w.boundary + 12800 ≤ s.now →
        w.redispatch = true → w.started = true → (s.taskAt i).redispatched = false →
        (∀ j, (s.taskAt j).state = .ready ∨ j = i →
          ∃ y ∈ execCodes (s.taskAt j), (s.execAt y).retired = false ∧ ¬ (y = e.val ∧ third)) →
        ∃ t, exec (.watchdogExpiry e) s = .next t ∧
        t = { s with we := t.we, sch := t.sch, hmc := t.hmc, hbm := t.hbm, hbmBad := t.hbmBad, freeCtr := t.freeCtr } ∧
        ((∀ tr ∈ w.transfers, tr.write = false) → t.hbm = s.hbm) ∧ (t.execAt e).retired = (x.retired || decide third) ∧
        (t.weAt e).wdogCount = sat32 (w.wdogCount + 1) ∧ (t.weAt e).reloading = true ∧ (t.weAt e).csValid = false ∧
        (t.weAt e).transfers = [] ∧ (t.execAt e).running = none ∧
        Becomes State.taskAt i { s.taskAt i with
          state := .ready, entered := s.now + 1, head := s.sch.returns + 1, executor := 0xFF, redispatched := true } s t) ∧
      (w.reloading = true → ∃ t, exec (.controlStoreReloaded e) s = .next t ∧ t = { s with we := t.we } ∧
        Becomes State.weAt e { w with reloading := false, csValid := true, cs := [] } s t)) ∧
  (∀ (e : Fin 24) (tag : Fin 16) (tr : Transfer) (path : Path) (hi : Word32) (s : State),
      let w := s.weAt e
      let off := s.regN (pgWe e) 0x134 / 8 * 8 % 0x80000
      let arrived := fun (lm : List Host.Cell) => { w with
        lm := lm, tagStat := sput w.tagStat tr.tag 0, transfers := w.transfers.filter (fun x => x.tag ≠ tr.tag) }
      (w.transfers.find? (fun t => t.tag = tag.val) = some tr → tr.write = false → w.ending = none →
        s.readStatus tr.hbm tr.len = .ok → ∃ t, exec (.hbmTransferComplete e tag .ok) s = .next t ∧ t = { s with we := t.we } ∧
        Becomes State.weAt e (arrived (mwrite w.lm tr.lm (s.hbmRead tr.hbm tr.len))) s t) ∧
      (w.transfers.find? (fun t => t.tag = tag.val) = some tr → tr.write = true → w.ending = none →
        s.writeBreaks tr.hbm tr.len = none → (s.hbmHeal tr.hbm tr.len).readStatus tr.hbm tr.len = .ok →
        ∃ t, exec (.hbmTransferComplete e tag .ok) s = .next t ∧ t = { s with we := t.we, hbm := t.hbm, hbmBad := t.hbmBad } ∧
        t.hbm = (s.hbmWrite tr.hbm (mread w.lm tr.lm tr.len)).hbm ∧ StoresOnly tr.hbm tr.len s t ∧
        Becomes State.weAt e (arrived w.lm) s t) ∧
      (w.transfers.find? (fun t => t.tag = tag.val) = none → ∃ t, exec (.hbmTransferComplete e tag .ok) s = .next t ∧
        t = { s with we := t.we } ∧ Becomes State.weAt e { w with stale := sat32 (w.stale + 1) } s t) ∧
      (∀ j, s.ready (pgWe e) = true → s.schResetting = false → (s.execAt e).prefetch = some j → ∃ t, exec (.offline e true) s = .next t ∧
        t = { s with regs := t.regs, we := t.we, sch := { s.sch with
          execs := t.sch.execs, tasks := t.sch.tasks, returns := s.sch.returns + 1 } } ∧
        (t.weAt e).offline = true ∧ (t.execAt e).offline = true ∧ (t.execAt e).prefetch = none ∧
        Becomes State.taskAt j { s.taskAt j with
          state := .ready, entered := s.now + 1, head := s.sch.returns + 1, executor := 0xFF } s t) ∧
      (s.weIdleOff e = true → exec (.lmData e none path) s = .next { s with hostOut := BitVec.ofNat 64 (mreadLe w.lm off 8) }) ∧
      (s.ready (pgWe e) = true → s.weIdleOff e = true → ∃ t, exec (.lmData e (some (hi, none)) path) s = .next t ∧
        t = { s with we := t.we } ∧ Becomes State.weAt e { w with
          lm := mwrite w.lm off (leBytes 8 (hi ++ s.reg (pgWe e) 0x138).toNat) } s t) ∧
      (s.weIdleOff e = false → ∃ t, exec (.lmData e none path) s = .next t ∧ t = { s with hdr := t.hdr } ∧
        (t.hdrAt (pgWe e)).error = true) ∧
      ((s.execAt e).running = none → s.ready (pgWe e) = true → ∃ t, exec (.csData e hi none) s = .next t ∧
        t = { s with we := t.we } ∧ Becomes State.weAt e { w with
          cs := sput w.cs ((s.reg (pgWe e) 0x140).toNat % 16384) (hi.extractLsb' 0 8 ++ s.reg (pgWe e) 0x144) } s t))

/-- Copy engines: 64 ns after a refusal the request is made again through the HA port, and where the port is full again the refusal is
counted at the engine and at the port (R235, R342, R344); a copy or fill within HBM that completes has written its destination and
no other byte, and has ended COMPLETE with its length (R236); 1 ms without a link ends a copy to the host with CE_ERROR and the
count of the bytes it has written (R236, R382). A refused submission of a measure stream is made again in the same way through
the SW port (R269). -/
def Obligations.CopyEngines : Prop :=
  (∀ (c : Fin 8) (a e : Nat) (rest : List (Nat × Nat)) (s : State), (s.ceAt c).retries = (a, e) :: rest → e ≤ s.now →
      (s.portFull 6 = false → ∃ t n, exec (.copyRetry c) s = .next t ∧ t = { s with ce := t.ce, hmc := { s.hmc with
          reqs := s.hmc.reqs ++ [n], nextId := s.hmc.nextId + 1, hstacks := t.hmc.hstacks } } ∧
        Becomes State.ceAt c { s.ceAt c with retries := rest } s t ∧ n.port = 6 ∧ n.addr = a ∧ n.owner = 0x330 + c.val ∧
        n.accepted = s.now ∧ n.issued = false) ∧
      (s.portFull 6 = true → (s.copyRuns c).isSome = true → ∃ t, exec (.copyRetry c) s = .next t ∧
        t = { s with ce := t.ce, hmc := { s.hmc with ports := t.hmc.ports } } ∧
        Becomes State.ceAt c { s.ceAt c with
          refused := sat32 ((s.ceAt c).refused + 1), retries := rest ++ [(a, s.now + 26)] } s t ∧
        Becomes State.hportAt 6 { s.hportAt 6 with refused := sat32 ((s.hportAt 6).refused + 1) } s t)) ∧
  (∀ (m : Fin 64) (a e : Nat) (rest : List (Nat × Nat)) (s : State), (s.msAt m).retries = (a, e) :: rest → e ≤ s.now →
      let q := portNo .sw
      (s.portFull q = false → ∃ t n, exec (.swRetry m) s = .next t ∧ t = { s with ms := t.ms, hmc := { s.hmc with
          reqs := s.hmc.reqs ++ [n], nextId := s.hmc.nextId + 1, hstacks := t.hmc.hstacks } } ∧
        Becomes State.msAt m { s.msAt m with retries := rest } s t ∧ n.port = q ∧ n.addr = a ∧ n.owner = 0x240 + m.val ∧
        n.accepted = s.now ∧ n.issued = false) ∧
      (s.portFull q = true → ∃ t, exec (.swRetry m) s = .next t ∧
        t = { s with ms := t.ms, hmc := { s.hmc with ports := t.hmc.ports } } ∧
        Becomes State.msAt m { s.msAt m with retries := rest ++ [(a, s.now + 26)] } s t ∧
        Becomes State.hportAt q { s.hportAt q with refused := sat32 ((s.hportAt q).refused + 1) } s t)) ∧
  (∀ (c : Fin 8) (i : Nat) (s : State), s.copyRuns c = some i →
      let b := s.copyBlock c
      let l := if b.fill then b.fillBytes else s.hbmRead b.src b.len
      (b.dstSpace = 0 → (b.fill = true ∨ (b.srcSpace = 0 ∧ s.readStatus b.src b.len = .ok)) → s.writeBreaks b.dst b.len = none →
        (s.ceAt c).blockStatus = .ok → copyRefused b (s.ceAt c).offMask = false → s.abortDue (0x20 + c) = false →
        (s.hbmHeal b.dst b.len).readStatus b.dst b.len = .ok → ∃ t, exec (.copyComplete c .ok) s = .next t ∧
        t = { s with ce := t.ce, sch := { s.sch with execs := t.sch.execs }, hbm := t.hbm, hbmBad := t.hbmBad } ∧
        t.hbm = (s.hbmWrite b.dst l).hbm ∧ StoresOnly b.dst b.len s t ∧
        Becomes State.execAt (0x20 + c) { s.execAt (0x20 + c) with ended := some (.complete, 0, b.len) } s t ∧
        Becomes State.ceAt c { s.ceAt c with bytes := b.len, status := 0 } s t) ∧
      (s.pcie.up = false → b.dstSpace = 1 → s.pcie.downAt + 400000 ≤ s.now →
        (s.execAt (0x20 + c)).startAt + 400000 ≤ s.now →
        ∃ t l, exec (.copyLinkTimeout c) s = .next t ∧ l.length ≤ b.len ∧
        t = { s with ce := t.ce, sch := { s.sch with execs := t.sch.execs }, freeCtr := t.freeCtr, pcieHeld := t.pcieHeld } ∧
        t.pcieHeld = s.pcieHeld ++ [.host b.dst l] ∧
        Becomes State.execAt (0x20 + c) { s.execAt (0x20 + c) with ended := some (.ceError, 0, l.length) } s t ∧
        Becomes State.ceAt c { s.ceAt c with bytes := l.length, status := 6 } s t))

/-- Commands to a stream on a READY page: an arm that passes the checks of R258 waits for the PE's acknowledge, and one for a converter in
use is refused with its error; the acknowledge of a measure stream enters ARMED; START of an ARMED stream makes it RUNNING from the first
grid index at or after the instant (R259, R260); STOP ends it as ABORTED by HOST_STOP (R261); CLEAR takes a final state to IDLE (R257).
A measure stream: RESYNC of a RUNNING stream adds a reset at its instant (R264); a converter switch waits and asks the PE (R266); at
its boundary the new converter is in force and the chain restarts with the settle count of the preset (R265, R266). -/
def Obligations.StreamCommands : Prop :=
  (∀ (i : Fin 64) (m : StreamId) (s : State), s.ready (pgStr m) = true →
      let v := s.msAt i
      let u := s.ssAt i
      ((s.runAt m).inProgress = false → s.convBusy m (s.strConv m) = false → (s.plAt (s.strPl m)).state = .up →
        s.strCfgBad m = none → s.cal.stagedConv.find? (fun x => x.1 = strNo m) = none → ∃ t, exec (.streamArm m) s = .next t ∧
        t = { s with ms := t.ms, ss := t.ss, regs := t.regs, pl := t.pl, outbox := t.outbox, freeCtr := t.freeCtr } ∧
        (t.runAt m).arming = true ∧ (t.runAt m).acked = false ∧ (t.runAt m).state = (s.runAt m).state ∧
        ∀ n, n ≠ m → t.runAt n = s.runAt n) ∧
      ((s.runAt m).inProgress = false → s.convBusy m (s.strConv m) = true → ∃ t, exec (.streamArm m) s = .next t ∧
        t = { s with ms := t.ms, ss := t.ss, hdr := t.hdr } ∧ (t.runAt m).cmd = 0x10 ∧ (t.runAt m).arming = (s.runAt m).arming ∧
        (t.hdrAt (pgStr m)).error = true) ∧
      (v.run.arming = true → v.run.held = false → ∃ t, exec (.streamArmAck (.ms i)) s = .next t ∧ t = { s with ms := t.ms } ∧
        (t.msAt i).run.state = .armed ∧ (t.msAt i).run.arming = false ∧ (t.msAt i).run.armedAt = s.now ∧
        ∀ j, j ≠ i.val → t.msAt j = s.msAt j) ∧
      ((s.runAt m).state = .armed → ∃ t, exec (.streamStart m) s = .next t ∧ t = { s with ms := t.ms, ss := t.ss } ∧
        (t.runAt m).state = .running ∧ (t.runAt m).cmd = 0 ∧ (t.runAt m).startAt = some (s.now * 4096) ∧
        (t.runAt m).next = s.gridFrom m (s.now * 4096) ∧ ∀ n, n ≠ m → t.runAt n = s.runAt n) ∧
      ((s.runAt m).inProgress = true → ∃ t, exec (.streamStop m) s = .next t ∧
        t = { s with ms := t.ms, ss := t.ss, pl := t.pl, outbox := t.outbox } ∧ (t.runAt m).state = .aborted ∧
        (t.runAt m).cause = .hostStop ∧ (t.runAt m).cmd = 0 ∧ ∀ n, n ≠ m → t.runAt n = s.runAt n) ∧
      ((s.runAt m).state = .done ∨ (s.runAt m).state = .aborted ∨ (s.runAt m).state = .faulted → ∃ t,
        exec (.streamClear m) s = .next t ∧ t = { s with ms := t.ms, ss := t.ss } ∧ t.runAt m = { s.runAt m with
          state := .idle, cause := .none, cmd := 0 } ∧ ∀ n, n ≠ m → t.runAt n = s.runAt n) ∧
      (u.run.arming = true → u.run.held = false → u.prefilled = false → ∃ t, exec (.streamArmAck (.ss i)) s = .next t ∧
        t = { s with ss := t.ss } ∧ Becomes State.ssAt i { u with run := { u.run with acked := true } } s t)) ∧
  (∀ (i : Fin 64) (c e : Nat) (s : State), (s.msAt i).run.state = .running →
      let v := s.msAt i
      (s.ready (pgMsf i) = true → ∃ t, exec (.resync i) s = .next t ∧ t = { s with ms := t.ms } ∧
        Becomes State.msAt i { v with resets := v.resets ++ [s.now * 4096] } s t) ∧
      (s.ready (pgMsf i) = true → s.convBusy (.ms i) ((s.reg (pgMsf i) 0x110).toNat / 2 ^ 24 % 4) = false → ∃ t,
        exec (.converterSwitch i) s = .next t ∧ t = { s with ms := t.ms, pl := t.pl, outbox := t.outbox } ∧
        Becomes State.msAt i { v with
          switch := some ((s.reg (pgMsf i) 0x110).toNat / 2 ^ 24 % 4, s.now), run := { v.run with cmd := 0 } } s t) ∧
      (v.switch = some (c, e) → c < 4 → s.switchDue i v.run.next = true → s.gridAt (.ms i) v.run.next ≤ s.now * 4096 → ∃ t,
        exec (.switchEffect i) s = .next t ∧ t = { s with ms := t.ms, regs := t.regs } ∧ t.strConv (.ms i) = c ∧
        (t.msAt i).switch = none ∧ (t.msAt i).chain = [] ∧ (t.msAt i).resyncOut = v.out ∧
        (t.msAt i).unsettled = settleCount (s.msPreset i) + (s.reg (pgMsf i) 0x10C).toNat / 2 ^ 16 % 256 ∧
        ∀ j, j ≠ i.val → t.msAt j = s.msAt j))

/-- Samples of a measure stream: a frame with a bad CRC is only counted; a sample in sequence that ends no span joins the chain corrected by
offset and gain (R262, R278); a block of outputs that may go is written to the ring and to no other byte, in words of four bytes
(R263, R269).
A source stream: a fetched granule adds its 32 samples (R270, R271); at its grid instant a RUNNING stream sends the saturated sample and moves the
phase on by RATIO (R272 to R274); SWAP_REQ starts a cross-fade to the other bank or does nothing for the active one (R275); COEF_DATA writes a
tap of a bank not in use and else records its error (R276). -/
def Obligations.StreamSamples : Prop :=
  (∀ (i : Fin 64) (pl : Fin 32) (h w : Word32) (words : List Word32) (blk : List (Nat × Word32)) (s : State),
      let v := s.msAt i
      let base := s.reg64 (pgMsf i) 0x130
      let n := s.regN (pgMsf i) 0x138 * 1024
      let x := (w.extractLsb' 0 18).toInt
      (∃ t, exec (.streamFrame pl words false) s = .next t ∧ t = { s with pl := t.pl } ∧
        Becomes State.plAt pl { s.plAt pl with crcErr := sat32 ((s.plAt pl).crcErr + 1) } s t) ∧
      (h.toNat / 2 ^ 24 = 0x21 → h.toNat / 2 ^ 16 % 16 = 0 → h.toNat / 2 ^ 22 % 4 = s.strConv (.ms i) → s.strPl (.ms i) = pl.val →
        (s.plAt pl).state = .up → v.run.state = .running → s.gridOfSeq i (h.toNat % 65536) = v.run.next → v.switch = none →
        (∀ j : Fin 64, j ≠ i → (s.msAt j).run.state ≠ .running ∧ (s.msAt j).run.stopEdge ≠ s.now + 1) →
        (∀ r ∈ v.resets, s.gridAt (.ms i) v.run.next < r) → v.chain ≠ [] → v.chain.length % s.msDec i ≠ 0 →
        (v.chain.length + 1) % s.msDec i ≠ 0 → (s.reg (pgMsf i) 0x124).getLsbD 31 = false →
        ∃ t, exec (.streamFrame pl [h, w] true) s = .next t ∧ t = { s with ms := t.ms } ∧
        Becomes State.msAt i { v with
          chain := v.chain ++ [((roundDiv ((x - v.run.corrOfs) * v.run.corrGain) (2 ^ 18) : Int) : Rat)],
          run := { v.run with next := v.run.next + 1 }, ovr := v.ovr || w.getLsbD 31 } s t) ∧
      (s.msReady i = some blk → 0 < n → s.writeBreaks base (4 * n) = none → s.readStatus base (4 * n) = .ok →
        ∃ t, exec (.msfOutputWrite i .ok) s = .next t ∧ t = { s with ms := t.ms, hbm := t.hbm } ∧ StoresOnly base (4 * n) s t ∧
        (∀ k y, blk = [(k, y)] → t.hbm = (s.hbmWrite (base + 4 * (k % n)) (leBytes 4 y.toNat)).hbm) ∧
        Becomes State.msAt i { v with buf := v.buf.drop blk.length, outWr := v.outWr + 4 * blk.length } s t)) ∧
  (∀ (i : Fin 64) (target : Bool) (l : BitVec 16) (c : Word32) (s : State),
      let u := s.ssAt i
      let a := s.regN (pgSsg i) 0x130 % 512
      (∀ addr len plays nxt fin, u.run.inProgress = true → u.run.arming = false → u.fetched = false →
        u.seg = some (addr, len, plays, nxt, fin) → u.pos + 32 < len → u.buf.length + 32 ≤ ssBuffer + 7 →
        s.readStatus (addr + 2 * u.pos) 64 = .ok → ∃ t, exec (.sampleFetchComplete i .ok) s = .next t ∧ t = { s with ss := t.ss } ∧
        Becomes State.ssAt i { u with buf := u.buf ++ samplesOf (s.hbmRead (addr + 2 * u.pos) 64), pos := u.pos + 32 } s t) ∧
      (u.run.state = .running → u.run.startAt ≠ none → s.gridAt (.ss i) u.run.next ≤ s.now * 4096 → u.run.held = false →
        u.samples % s.frameLen (.ss i) ≠ 0 → u.swaps = [] → u.starved = false → u.fetched = false → ∃ t msg,
        exec (.sourceSampleOutput i) s = .next t ∧ t = { s with ss := t.ss, pl := t.pl, outbox := s.outbox ++ [msg] } ∧
        (t.ssAt i).last = clampInt (-32768) 32767 u.corrected ∧ (t.ssAt i).samples = u.samples + 1 ∧
        (t.ssAt i).run.next = u.run.next + 1 ∧ (t.ssAt i).acc = u.acc + s.reg64 (pgSsg i) 0x144 ∧
        (t.ssAt i).fade = u.fade.advance ∧ ∀ j, j ≠ i.val → t.ssAt j = s.ssAt j) ∧
      (s.ready (pgSsg i) = true → u.markEdge ≠ s.now + 1 → u.fade.fade = none → target ≠ u.fade.active → ∃ t,
        exec (.swapReq i target l) s = .next t ∧ t = { s with ss := t.ss, regs := t.regs } ∧
        (t.ssAt i).fade = { u.fade with fade := some (target, 0, l.toNat + 1) } ∧ ∀ j, j ≠ i.val → t.ssAt j = s.ssAt j) ∧
      (s.ready (pgSsg i) = true → u.markEdge ≠ s.now + 1 → u.fade.fade = none → target = u.fade.active → ∃ t,
        exec (.swapReq i target l) s = .next t ∧ t = { s with ss := t.ss, regs := t.regs } ∧
        (t.ssAt i).fade = { u.fade with noop := true } ∧ ∀ j, j ≠ i.val → t.ssAt j = s.ssAt j) ∧
      (c.toNat < 2 ^ 18 → s.ready (pgSsg i) = true → u.fade.busy (decide (256 ≤ a)) = false → ∃ t,
        exec (.coefData i c) s = .next t ∧ t = { s with ss := t.ss, regs := t.regs } ∧
        Becomes State.ssAt i { u with taps := sput u.taps a (c.extractLsb' 0 18).toInt } s t) ∧
      (c.toNat < 2 ^ 18 → s.ready (pgSsg i) = true → u.fade.busy (decide (256 ≤ a)) = true → ∃ t,
        exec (.coefData i c) s = .next t ∧ t = { s with hdr := t.hdr } ∧ (t.hdrAt (pgSsg i)).error = true))

/-- Commands to an interval unit on a READY page: an accepted arm clears results and flags and enters ARMED, one in progress is refused
as NOT_IDLE (R293); START of an ARMED unit makes it RUNNING at its instant (R294); ABORT before the completion point discards
the shot in progress and reports over the shots completed as PARTIAL (R295); CLEAR takes a final state to IDLE. -/
def Obligations.IntervalUnitCommands : Prop :=
  ∀ (u : Fin 32) (s : State), s.ready (pgTim u) = true →
    let v := s.timAt u
    (v.inProgress = false → s.timCfgBad u = false → s.timCalBusy u = false → s.cal.stagedTim.find? (fun x => x.1 = u.val) = none →
      ∃ t, exec (.timArm u) s = .next t ∧ t = { s with tim := t.tim } ∧ Becomes State.timAt u {
        state := .armed, armedAt := s.now, doneEdge := v.doneEdge, tab := v.tab, taps := v.taps, sync := v.sync,
        lateStart := decide (s.timSrc u = 1 ∧ tsPassed (s.stamp (s.timTd u)) (s.timStartTime u) = true) } s t) ∧
    (v.inProgress = true → ∃ t, exec (.timArm u) s = .next t ∧ t = { s with tim := t.tim, hdr := t.hdr } ∧
      Becomes State.timAt u { v with cmd := 4 } s t ∧ (t.hdrAt (pgTim u)).error = true) ∧
    (v.state = .armed → ∃ t, exec (.timStart u) s = .next t ∧ t = { s with tim := t.tim } ∧ Becomes State.timAt u { v with
      cmd := 0, state := .running, startAt := some (s.now * 4096), startLate := false, est := s.xoEst,
      firstTs := if s.timFreq u then s.stampAt (s.timTd u) (s.now * 4096) else v.firstTs } s t) ∧
    (v.inProgress = true → s.timDue u = false → s.timFreq u = false → ∃ t, exec (.timAbort u) s = .next t ∧
      t = { s with tim := t.tim } ∧ Becomes State.timAt u { v with
        state := .aborted, cause := .hostAbort, partialRes := true, shot := none, doneAt := none, cmd := 0,
        mean := if v.shots = 0 then 0 else (100 * v.s1 + v.shots) / (2 * v.shots),
        sdev := if v.shots = 0 then 0 else sampleDev v.shots v.s1 v.s2,
        minR := if v.shots = 0 then 0 else v.minX, maxR := if v.shots = 0 then 0 else v.maxX } s t) ∧
    (v.state = .done ∨ v.state = .aborted → ∃ t, exec (.timClear u) s = .next t ∧ t = { s with tim := t.tim } ∧
      Becomes State.timAt u { v with state := .idle, cause := .none, cmd := 0 } s t)

/-- Edges at a RUNNING unit, on the tap that CMP_SWAP gives them (R179): the first start edge of a ready unit opens a shot; a stop edge 20 ps or more after it, the last to be skipped
being skipped, ends the shot with its interval in the sums (R286, R288, R289); in frequency mode an edge within the gate counts (R291).
What a RUNNING unit does by itself: a hold-off or the 256 ns behind a shot end at their instants (R285, R286); a shot that times out is
discarded and counted, and ends the measurement at MISS_LIMIT (R287); the gate closes (R291); at the completion point the results are
written and the unit enters DONE (R289, R290).
SDEV is 50 times the sample deviation, rounded half up, and 0 for fewer than two shots (R289). -/
def Obligations.IntervalUnitMeasures : Prop :=
  (∀ (u : Fin 32) (kind : Fin 16) (index : Fin 512) (rising : Bool) (tick : Nat) (vern : Fin 625) (t0 : Nat) (s : State),
      let v := s.timAt u
      let raw := 625 * (tick : Int) - vern.val
      let k := s.tapKind kind index
      let x := v.edgeAt k tick vern
      let a := selMatch (s.reg (pgTim u) 0x110) k index rising
      let b := selMatch (s.reg (pgTim u) 0x114) k index rising
      v.state = .running → v.startAt = some t0 → s.tapLive k index rising tick = true →
      (s.timFreq u = false → s.oneSource u = false → a = true → b = false → v.shot = none → v.doneAt = none → v.readyAt = none →
        v.hold = [none, none] → v.gotFirst = true → atOrAfter x t0 = true → ∃ t, exec (.timEdge u kind index rising tick vern) s = .next t ∧
        t = { s with tim := t.tim } ∧ Becomes State.timAt u { v with
          shot := some (x, raw), stops := 0,
          hold := [some (raw + 625 * ((s.reg (pgTim u) 0x110).toNat % 65536 : Nat)), none] } s t) ∧
      (∀ x0 raw0, s.timFreq u = false → s.oneSource u = false → a = false → b = true → v.shot = some (x0, raw0) → raw0 + 40 ≤ raw →
        v.hold.getD 1 none = none → v.stops = s.timSkip u → ∃ t, exec (.timEdge u kind index rising tick vern) s = .next t ∧
        t = { s with tim := t.tim } ∧ (t.timAt u).shot = none ∧ (t.timAt u).shots = v.shots + 1 ∧
        (t.timAt u).s1 = v.s1 + (x - x0).toNat ∧ (t.timAt u).s2 = v.s2 + (x - x0).toNat * (x - x0).toNat ∧
        (t.timAt u).maxX = max v.maxX (x - x0).toNat ∧ (t.timAt u).readyAt = some (raw + 512000) ∧
        ∀ j, j ≠ u.val → t.timAt j = s.timAt j) ∧
      (s.timFreq u = true → a = true → v.prev = none → v.hold.getD 0 none = none → atOrAfter x t0 = true → x * 4096 < s.gateEnd u t0 →
        v.gateClosed = false → ∃ t, exec (.timEdge u kind index rising tick vern) s = .next t ∧ t = { s with tim := t.tim } ∧
        (t.timAt u).edges = v.edges + 1 ∧ (t.timAt u).last = x ∧ (t.timAt u).first = (if v.edges = 0 then x else v.first) ∧
        ∀ j, j ≠ u.val → t.timAt j = s.timAt j)) ∧
  (∀ (u : Fin 32) (src : Fin 2) (at_ x : Int) (t0 : Nat) (s : State),
      let v := s.timAt u
      let now := (s.now : Int) * 5000
      (v.hold.getD src none = some at_ → at_ ≤ now → ∃ t, exec (.timHoldoffEnd u src) s = .next t ∧ t = { s with tim := t.tim } ∧
        Becomes State.timAt u { v with hold := v.hold.set src none } s t) ∧
      (v.readyAt = some at_ → at_ ≤ now → ∃ t, exec (.timReady u) s = .next t ∧ t = { s with tim := t.tim } ∧
        Becomes State.timAt u { v with readyAt := none } s t) ∧
      (v.shot = some (x, at_) → v.state = .running → at_ + (s.timReg u 0x11C : Int) * 2000000 ≤ now → s.timReg u 0x120 = 0 →
        ∃ t, exec (.shotTimeout u) s = .next t ∧ t = { s with tim := t.tim } ∧
        Becomes State.timAt u { v with shot := none, missed := sat32 (v.missed + 1), readyAt := none } s t) ∧
      (v.shot = some (x, at_) → v.state = .running → at_ + (s.timReg u 0x11C : Int) * 2000000 ≤ now → s.timFreq u = false →
        0 < s.timReg u 0x120 → s.timReg u 0x120 ≤ sat32 (v.missed + 1) → ∃ t, exec (.shotTimeout u) s = .next t ∧
        t = { s with tim := t.tim } ∧ (t.timAt u).state = .done ∧ (t.timAt u).cause = .missLimit ∧
        (t.timAt u).missed = sat32 (v.missed + 1) ∧ ∀ j, j ≠ u.val → t.timAt j = s.timAt j) ∧
      (v.startAt = some t0 → v.state = .running → s.timFreq u = true → v.gateClosed = false → s.gateEnd u t0 ≤ now * 4096 →
        ∃ t e, exec (.gateClose u) s = .next t ∧ t = { s with tim := t.tim } ∧
        Becomes State.timAt u { v with gateClosed := true, doneAt := some e } s t ∧
        (0 ≤ s.gateEnd u t0 → s.gateEnd u t0 + 600000 * 4096 ≤ (e : Int) * 5000 * 4096 ∧
          ((e : Int) - 1) * 5000 * 4096 < s.gateEnd u t0 + 600000 * 4096)) ∧
      (s.timDue u = true → s.timFreq u = false → 0 < v.shots → ∃ t, exec (.timComplete u) s = .next t ∧ t = { s with tim := t.tim } ∧
        Becomes State.timAt u { v with
          state := .done, cause := .complete, partialRes := false, shot := none, doneAt := none, doneEdge := s.now + 1,
          mean := (100 * v.s1 + v.shots) / (2 * v.shots), sdev := sampleDev v.shots v.s1 v.s2, minR := v.minX, maxR := v.maxX } s t)) ∧
  (∀ k s1 s2 : Nat, s1 * s1 ≤ k * s2 → 10000 * (k * s2 - s1 * s1) < 2 ^ 192 →
      let r := sampleDev k s1 s2
      (k < 2 → r = 0) ∧
      (2 ≤ k → 10000 * (k * s2 - s1 * s1) < (2 * r + 1) * (2 * r + 1) * (k * (k - 1)) ∧
        (0 < r → (2 * r - 1) * (2 * r - 1) * (k * (k - 1)) ≤ 10000 * (k * s2 - s1 * s1))))

/-- Steering of a domain outside a redundant pair: an update with offset θ steps the domain, or moves its integrator and its rate within SLEW_MAX, and counts toward
LOCKED (R307, R308); a missed interval is counted and the third in a row leads to HOLDOVER at the last rate (R307); a TT_DRESP that closes an exchange
gives OFFSET and DELAY (R305). -/
def Obligations.DomainSteering : Prop :=
  ∀ (d : Fin 4) (port : Fin 6) (θ : Int) (t1 t2 t3 t4 : Word64) (s : State), s.pairEn d = false →
    let v := s.tdAt d
    let cfg := s.reg (pgTime d) 0x100
    let pll := s.reg (pgTime d) 0x170
    let lim : Int := (s.regN (pgTime d) 0x168 : Int) * 2 ^ 41
    let slew : Int := (s.regN (pgTime d) 0x16C : Int) * 2 ^ 40 / 10 ^ 9
    let integ := v.integ - θ >>> (pll.toNat % 256)
    let near := decide ((θ.natAbs : Int) * 5 < 2 ^ 41)
    let a := (t2 - t1).toInt * 1562500
    let b := (t4 - t3).toInt * 1562500
    (s.tdSrc d = 2 → ¬ (cfg.getLsbD 8 = true ∧ lim < (θ.natAbs : Int) * 5) → v.state ≠ .holdover → ∃ t,
      exec (.ptmExchange d (some θ)) s = .next t ∧ t = { s with td := t.td, pcie := { s.pcie with ptmOn := true, ptmValid := true } } ∧
      Becomes State.tdAt d { v with
        integ := integ, rate := clampInt (-slew) slew (integ - θ >>> (pll.toNat / 256 % 256)),
        good := if near then v.good + 1 else 0, missRun := 0, offset := centiPs θ,
        state := if near ∧ 7 ≤ v.good then .locked else .acquire } s t) ∧
    (s.tdSrc d = 2 → cfg.getLsbD 8 = true → lim < (θ.natAbs : Int) * 5 → ∃ t,
      exec (.ptmExchange d (some θ)) s = .next t ∧ t = { s with td := t.td, pcie := { s.pcie with ptmOn := true, ptmValid := true } } ∧
      (t.tdAt d).t = ((v.t : Int) - θ).toNat ∧ (t.tdAt d).stepCount = sat32 (v.stepCount + 1) ∧ (t.tdAt d).rate = v.rate ∧
      ∀ j, j ≠ d.val → t.tdAt j = s.tdAt j) ∧
    (s.steered d = true → v.missRun < 2 → ∃ t, exec (.updateMissed d) s = .next t ∧ t = { s with td := t.td } ∧
      Becomes State.tdAt d { v with missed := sat32 (v.missed + 1), missRun := v.missRun + 1, exch := none } s t) ∧
    (s.steered d = true → 2 ≤ v.missRun → cfg.getLsbD 9 = false → ∃ t, exec (.updateMissed d) s = .next t ∧ t = { s with td := t.td } ∧
      Becomes State.tdAt d { v with
        missed := sat32 (v.missed + 1), missRun := v.missRun + 1, exch := none, state := .holdover } s t) ∧
    (s.timePort port = true → s.tdSrc d = 3 → s.tdPort d = port.val → v.exch = some (t1, t2, t3) → ∃ t,
      exec (.ttDresp port d t4) s = .next t ∧ t = { s with td := t.td } ∧ (t.tdAt d).exch = none ∧
      (t.tdAt d).delay = centiPs ((a + b) / 2) ∧
      (t.tdAt d).offset = centiPs ((a - b) / 2 - ofCentiPs (s.reg (pgTime d) 0x150).toInt) ∧
      ∀ j, j ≠ d.val → t.tdAt j = s.tdAt j)

/-- Messages of two-way transfer: a master sends TT_SYNC on a port it serves; a member keeps t1, t2 and t3 and answers with TT_DREQ; the master answers
that with TT_DRESP, which carries its time at the arrival (R305, R376). -/
def Obligations.TimeTransferMessages : Prop :=
  ∀ (d : Fin 4) (port : Fin 6) (t1 : Word64) (fine : Fin 4096) (s : State), s.timePort port = true →
    (s.servesTd d port = true → ∃ t x, exec (.ttSyncSend port d) s = .next t ∧
      t = { s with freeCtr := s.freeCtr + 1, outbox := s.outbox ++ [.zp port (.ttSync d x)] }) ∧
    (s.tdSrc d = 3 → s.tdPort d = port.val → ∃ t t3, exec (.ttSync port d t1 fine) s = .next t ∧
      t = { s with freeCtr := s.freeCtr + 1, td := t.td, outbox := s.outbox ++ [.zp port (.ttDreq d)] } ∧
      Becomes State.tdAt d { s.tdAt d with exch := some (t1, s.ownStamp d fine, t3) } s t) ∧
    (s.servesTd d port = true → (s.zpAt port).waiting = [] → (s.zpAt port).canSend = true → ∃ t,
      exec (.ttDreq port d fine) s = .next t ∧ t = { s with zp := t.zp, outbox := s.outbox ++
        [.zp port (.ttDresp d (s.stampAt d (s.now * 4096 + fine.val)))] } ∧
      (t.zpAt port).txSeq = ((s.zpAt port).txSeq + 1) % 4096 ∧ ∀ j, j ≠ port.val → t.zpAt j = s.zpAt j)

/-- Commands to the time base: LOAD arms the load of a GRID domain, which a pulse later in its cycle serves (R306); a pair with a LOCKED standby exchanges its roles with OFS less D, and one
without records PAIR_NOT_LOCKED (R310); REPHASE is taken when nothing runs and else refused (R300); the first SYNC pulse with
the PLL locked, or one that follows a REPHASE, fixes the phase, and a pulse lets the loads armed before it take effect at the next
edge (R299, R300, R306).
At one PFCLK edge a domain that is free-running advances by 2^40 + RATE_FREE units of 2.5 ns / 2^40, a steered one by 2^40 + RATE, and a loaded GRID
domain by 2^40; a GRID domain that waits stands still, and one whose load is due takes LOAD_TIME (R302, R306). -/
def Obligations.TimeBase : Prop :=
  (∀ (d : Fin 4) (off : Fin 4096) (s : State),
      let p := s.pairAt (d.val / 2)
      let idle := (∀ q < 64, s.inProgress q = false) ∧ s.anyStream = false ∧ s.anyTim = false
      let v := s.tdAt d
      let at_ := s.now * 4096 + off.val
      (s.ready (pgTime d) = true → s.tdSrc d = 1 → ∃ t, exec (.timeLoad d) s = .next t ∧ t = { s with td := t.td } ∧
        Becomes State.tdAt d (if s.pulsed = true then { v with loadPending := false, loadEdge := s.now + 1, loadAt := some (s.now + 1) }
          else { v with loadPending := true, loadEdge := s.now + 1 }) s t) ∧
      (s.ready (pgTime d) = true → s.pairEn d = true → p.switchEdge ≠ s.now + 1 → s.standbyLocked (d.val / 2) = true → ∃ t,
        exec (.pairSwitch d) s = .next t ∧ t = { s with pair := t.pair } ∧ (t.pairAt (d.val / 2)).activeOdd = !p.activeOdd ∧
        (t.pairAt (d.val / 2)).ofs = p.ofs - p.diff ∧ (t.pairAt (d.val / 2)).switchCount = sat32 (p.switchCount + 1) ∧
        ∀ j, j ≠ d.val / 2 → t.pairAt j = s.pairAt j) ∧
      (s.ready (pgTime d) = true → s.pairEn d = true → p.switchEdge ≠ s.now + 1 → s.standbyLocked (d.val / 2) = false → ∃ t,
        exec (.pairSwitch d) s = .next t ∧ t = { s with hdr := t.hdr } ∧ (t.hdrAt (pgTime d)).error = true) ∧
      (s.ready (pgTime 0) = true → idle → s.pulsed = false →
        exec .rephase s = .next { s with sync := { s.sync with rephase := true, rephaseEdge := s.now + 1 } }) ∧
      (s.ready (pgTime 0) = true → idle → s.pulsed = true → s.sync.pulseAt = some at_ → ∃ t, exec .rephase s = .next t ∧
        t = { s with sync := t.sync, cal := { s.cal with syncDue := true } } ∧ t.sync.rephase = false ∧
        t.sync.phase = off.val % 512 ∧ t.sync.origin = s.now + 1 ∧ t.sync.slips = s.sync.slips) ∧
      (s.ready (pgTime 0) = true → ¬ idle → ∃ t, exec .rephase s = .next t ∧ t = { s with hdr := t.hdr } ∧
        (t.hdrAt (pgTime 0)).error = true) ∧
      (s.mgt.pllLocked = true → (s.sync.fixed = false ∨ (s.sync.rephase = true ∧ s.follows at_ s.sync.rephaseEdge = true)) → ∃ t, exec (.syncPulse off) s = .next t ∧
        t = { s with td := t.td, sync := t.sync, cal := { s.cal with syncDue := true } } ∧ t.sync.fixed = true ∧ t.sync.rephase = false ∧
        t.sync.phase = off.val % 512 ∧ t.sync.origin = s.now + 1 ∧ t.sync.slips = s.sync.slips ∧
        t.sync.pulseAt = some at_ ∧
        ∀ j < 4, t.tdAt j = if (s.tdAt j).loadPending = true ∧ s.follows at_ (s.tdAt j).loadEdge = true then
          { s.tdAt j with loadPending := false, loadAt := some (s.now + 1) } else s.tdAt j)) ∧
  (∀ (d : Fin 4) (s : State),
      let v := s.tdAt d
      let t := s.timeEdge.tdAt d
      (v.loadAt = some s.now → t.t = s.loadTime d ∧ t.loaded = true) ∧
      (v.loadAt ≠ some s.now → s.tdSrc d = 1 → v.loaded = false → t = v) ∧
      (v.loadAt ≠ some s.now → s.tdSrc d = 1 → v.loaded = true → t.t = v.t + 2 ^ 40) ∧
      (v.loadAt ≠ some s.now → s.steered d = true → t.t = ((v.t : Int) + 2 ^ 40 + v.rate).toNat) ∧
      (v.loadAt ≠ some s.now → s.tdSrc d = 0 → t.t = ((v.t : Int) + 2 ^ 40 + (s.reg (pgTime d) 0x144).toInt).toNat))

/-- Commands of the calibration unit on a READY page: RUN of a target that is free starts it, of one that is not free waits as PENDING, and of a target that
does not exist answers BAD_TARGET (R319); ABORT with nothing running answers its code; EXT_DATA keeps the value and stages it (R317), and in
the cycle of the channel's final state the value enters force at once (R327). -/
def Obligations.CalibrationCommands : Prop :=
  ∀ (v : Word32) (s : State), s.ready pgCal = true →
    let w := s.reg pgCal 0x10C
    let k := w.toNat / 2 ^ 28
    let i := w.toNat % 65536
    let x := s.reg pgCal 0x180
    let c := x.toNat % 512
    (targetOk k i = false → exec .calRun s = .next { s with cal := { s.cal with cmdStat := 3 } }) ∧
    (targetOk k i = true → k ≠ 3 → s.cal.running = none → s.calFree k i = true → ∃ t, exec .calRun s = .next t ∧
      t = { s with cal := t.cal, bank := t.bank, ms := t.ms, ss := t.ss } ∧ t.cal.running = some (k, i) ∧ t.cal.cmdStat = 0 ∧
      ∀ b, calBank k i = some b → Becomes State.bankAt b { s.bankAt b with calBusy := true } s t) ∧
    (targetOk k i = true → k ≠ 3 → (s.cal.running ≠ none ∨ s.calFree k i = false) → ∃ t, exec .calRun s = .next t ∧
      t = { s with cal := t.cal } ∧ t.cal.running = s.cal.running ∧ t.cal.runReq = some (k, i) ∧ t.cal.cmdStat = 2 ∧
      (t.fig k i).pending = true) ∧
    (s.cal.running = none → exec .calAbort s = .next { s with cal := { s.cal with cmdStat := 1 } }) ∧
    (∀ b, s.cal.running = some (1, b) → ∃ t, exec .calAbort s = .next t ∧ t = { s with cal := t.cal, bank := t.bank } ∧
      t.cal.running = none ∧ t.cal.cmdStat = 0 ∧
      Becomes State.bankAt (b / 32) { s.bankAt (b / 32) with calBusy := false } s t) ∧
    (v.toNat < 65536 → x.toNat / 65536 % 4 ≠ 3 → (s.chanInUse c = true ∨ s.chanFinalNow c = none) →
      ∃ t, exec (.extData v) s = .next t ∧ t = { s with cal := t.cal } ∧
      t.cal.ext = sput s.cal.ext (3 * c + x.toNat / 65536 % 4) (v.extractLsb' 0 16) ∧ t.cal.terms = s.cal.terms ∧
      { term := .ext (x.toNat / 65536 % 4) (v.extractLsb' 0 16).toInt, edge := s.now, atArm := s.chanArmedNow c } ∈ t.stagedOf c) ∧
    (v.toNat < 65536 → x.toNat / 65536 % 4 ≠ 3 → s.chanInUse c = false → (s.chanFinalNow c).isSome = true →
      ∃ t, exec (.extData v) s = .next t ∧ t = { s with cal := t.cal, chan := t.chan, sync := { s.sync with corr := t.sync.corr } } ∧
      t.stagedOf c = [] ∧ [(t.terms c).extDat, (t.terms c).extEn, (t.terms c).extCmp].getD (x.toNat / 65536 % 4) 0 =
        (v.extractLsb' 0 16).toInt)

/-- Measurements of the calibration unit: a free, scheduled target that nothing stands before is taken, which makes a bank CAL_BUSY (R318, R319); a
bank that is wanted is given up (R189); a deskew result is staged for its channel, its figures are kept and the bank is given up (R327, R329).
Corrections of a channel are the sums of their terms, saturated to 16 bits (R317). -/
def Obligations.CalibrationMeasurements : Prop :=
  (∀ (tg : CalTarget) (d e c temp : Int) (resid i : Nat) (s : State),
      let k := tg.kind
      let n := tg.index
      (s.ready pgCal = true → targetOk k n = true → k ≠ 3 → s.cal.running = none → s.calFree k n = true → s.calScheduled k n = true →
        s.calBefore k n = false → ∃ t, exec (.calMeasurementStart tg) s = .next t ∧
        t = { s with cal := t.cal, bank := t.bank, ms := t.ms, ss := t.ss } ∧ t.cal.running = some (k, n) ∧
        ∀ b, calBank k n = some b → Becomes State.bankAt b { s.bankAt b with calBusy := true } s t) ∧
      (∀ b, s.cal.running = some (k, n) → calBank k n = some b → s.calWanted k n = true → ∃ t, exec (.calRelease tg) s = .next t ∧
        t = { s with cal := { s.cal with running := none, wanted := false }, bank := t.bank } ∧
        Becomes State.bankAt b { s.bankAt b with calBusy := false } s t) ∧
      (s.cal.running = some (1, i) → (s.chanInUse i = true ∨ s.chanFinalNow i = none) → ∃ t, exec (.calMeasurementDone (.deskew d e c) temp resid) s = .next t ∧
        t = { s with cal := t.cal, bank := t.bank, freeCtr := t.freeCtr } ∧ t.cal.running = none ∧
        { term := .deskew d e c, edge := s.now, atArm := s.chanArmedNow i } ∈ t.stagedOf i ∧ (t.fig 1 i).temp = temp ∧ (t.fig 1 i).value = resid ∧
        (t.fig 1 i).last = some s.now ∧ t.cal.terms = s.cal.terms ∧
        Becomes State.bankAt (i / 32) { s.bankAt (i / 32) with calBusy := false } s t)) ∧
  (∀ (c : Nat) (s : State),
      let t := s.terms c
      let v := (s.recorr c).chanAt c
      v.corrDat.toInt = max (-32768) (min 32767 (s.bankRef c 0 + t.onDat + t.extDat + t.sync)) ∧
      v.corrEn.toInt = max (-32768) (min 32767 (s.bankRef c 1 + t.onEn + t.extEn + t.sync)) ∧
      v.corrCmp.toInt = max (-32768) (min 32767 (s.bankRef c 2 + t.onCmp + t.extCmp + t.sync + t.align)) ∧
      ∀ j, j ≠ c → (s.recorr c).chanAt j = s.chanAt j)

/-- Fuses: BUF_DATA fills the payload buffer and moves its address on (R335); a burn is refused while one runs, for want of room, without VQPS and for
a bad length, in this order (assumption 109), and otherwise takes the next blocks and leaves every fuse word for its steps (R332, R335); a word that
has had its 10 µs and reads back is in the fuses, the last one ending the burn; the loss of VQPS ends a burn and clears no fuse (R332). -/
def Obligations.FuseRecords : Prop :=
  ∀ (path : Path) (v : Word32) (s : State),
    let f := s.fuse
    let a := (s.reg pgFuse 0x128).toNat % 512
    let len := (s.reg pgFuse 0x110).toNat / 65536 % 256
    let refused := fun (code : Nat) => exec (.burn path) s = .next { s with fuse := { f with cmdStat := code } }
    (s.ready pgFuse = true → ∃ t, exec (.bufData v) s = .next t ∧ t = { s with regs := t.regs, fuse := { f with buf := t.fuse.buf } } ∧
      (∀ j, sget 0 t.fuse.buf j = if j = a then v else sget 0 f.buf j) ∧ (t.reg pgFuse 0x128).toNat = (a + 1) % 512) ∧
    (s.ready pgFuse = true → f.burn ≠ none → refused 1) ∧
    (s.ready pgFuse = true → f.burn = none → f.free < len + 1 → refused 2) ∧
    (s.ready pgFuse = true → f.burn = none → len + 1 ≤ f.free → s.vqps = false → refused 3) ∧
    (s.ready pgFuse = true → f.burn = none → len + 1 ≤ f.free → s.vqps = true → (len = 0 ∨ 64 < len) → refused 4) ∧
    (s.ready pgFuse = true → f.burn = none → len + 1 ≤ f.free → s.vqps = true → 0 < len → len ≤ 64 → ∃ t b,
      exec (.burn path) s = .next t ∧ t = { s with fuse := { f with
        free := f.free - (len + 1), burnBlock := 184 - f.free, burn := some b } } ∧ b.block = 184 - f.free ∧
      b.words.length = 8 * len + 5 ∧ b.words.getLast? = some (576 + 8 * (184 - f.free) + 7, 0x5AC396E1)) ∧
    (∀ b n w l e, f.burn = some { block := b, words := (n, w) :: l, edge := e } → s.fuseWord n ||| w = w → e + 4000 ≤ s.now → ∃ t,
      exec (.fuseWordProgrammed true) s = .next t ∧ t = { s with fuse := t.fuse } ∧
      (∀ j, t.fuseWord j = if j = n then w else s.fuseWord j) ∧
      (l = [] → t.fuse.burn = none ∧ t.fuse.cmdStat = 0) ∧
      (l ≠ [] → t.fuse.burn = some { block := b, words := l, edge := s.now })) ∧
    (∃ t, exec .vqpsLoss s = .next t ∧ t = { s with mgt := { s.mgt with rails := t.mgt.rails }, fuse := t.fuse, freeCtr := t.freeCtr } ∧
      t.fuse.burn = none ∧ t.vqps = false ∧ ∀ j, s.fuseWord j &&& ~~~ (t.fuseWord j) = 0)

/-- Requests: an accepted one enters its queue with the place its address has under the map in force (R341); a full port of copy, worker or stream
kind counts a refusal, and any other submitter waits (R342, R344); the issued request opens its row (R347); a completed one, which
waits for earlier requests to its block, leaves with its latency counted (R346, R347).
The request a pseudo-channel issues is one of its queue that can issue, and no other that can issue ranks above it by age, urgency and
port (R345, R347). -/
def Obligations.HbmRequests : Prop :=
  (∀ (port : HbmPort) (addr : Nat) (owner : BitVec 16) (pc : Fin 64) (id : Nat) (r : HbmReq) (s : State),
      let q := portNo port
      (s.portFull q = false → ∃ t n, exec (.hbmRequest port addr owner) s = .next t ∧ t = { s with hmc := { s.hmc with
          reqs := s.hmc.reqs ++ [n], nextId := s.hmc.nextId + 1, hstacks := t.hmc.hstacks } } ∧
        n.id = s.hmc.nextId ∧ n.port = q ∧ n.addr = addr ∧ n.loc = s.locate addr ∧ n.owner = owner.toNat ∧ n.accepted = s.now ∧
        n.issued = false ∧ (n.loc = none → n.forced = some (.unmapped, s.now))) ∧
      (s.portFull q = true → portMayRefuse port = true → ∃ t, exec (.hbmRequest port addr owner) s = .next t ∧
        t = { s with hmc := { s.hmc with ports := t.hmc.ports }, ce := t.ce, ms := t.ms } ∧
        Becomes State.hportAt q { s.hportAt q with refused := sat32 ((s.hportAt q).refused + 1) } s t) ∧
      (s.portFull q = true → portMayRefuse port = false → exec (.hbmRequest port addr owner) s = .next s) ∧
      (s.nextIssue pc = some r → ∃ t, exec (.requestIssue pc) s = .next t ∧
        t = { s with hmc := { s.hmc with reqs := t.hmc.reqs, pcs := t.hmc.pcs } } ∧ t.hmc.reqs.length = s.hmc.reqs.length ∧
        (∀ x ∈ t.hmc.reqs, x.id = r.id → x.issued = true) ∧
        Becomes State.pcAt pc { s.pcAt pc with
          lastBank := r.bank, openRow := sput (s.pcAt pc).openRow r.bank r.row } s t) ∧
      (∀ x, s.hmc.reqs.find? (fun y => y.id = id) = some r → r.issued = true → r.forced = none → r.stale = false → r.loc = some x →
        (s.stackAt (x.1 / 32)).changing = false → s.blockOrdered r = false → ∃ t, exec (.hbmRequestComplete id .ok false) s = .next t ∧
        t = { s with hmc := { s.hmc with
          reqs := s.hmc.reqs.filter (fun y => y.id ≠ r.id), ports := t.hmc.ports, hstacks := t.hmc.hstacks } } ∧
        (t.hportAt r.port).served = (s.hportAt r.port).served + 1 ∧
        (t.hportAt r.port).maxLat = max (s.hportAt r.port).maxLat (sat32 ((s.now - r.accepted) * 5 / 2)) ∧
        (t.hportAt r.port).refused = (s.hportAt r.port).refused ∧ ∀ j, j ≠ r.port → t.hportAt j = s.hportAt j)) ∧
  (∀ (pc : Nat) (r : HbmReq) (s : State), s.nextIssue pc = some r →
      r ∈ s.pcQueue pc ∧ s.canIssue pc (s.pcQueue pc) r = true ∧
      ∀ x ∈ s.pcQueue pc, s.canIssue pc (s.pcQueue pc) x = true → x.better s.now r = false)

/-- The service of the stacks: a refresh that is due moves to the next bank (R349); a temperature of 95 °C gives factor 4 and HOT, one of 85 °C factor 2; an idle
stack enters self-refresh and a request takes it out (R350); a scrub counts and writes nothing but the
corrected block (R352), and an uncorrectable block is the pseudo-channel's failure where UE_LIMIT of them fall in one second (R358).
Rates, training and failures: FREQ_REQ is refused while a burst runs and else starts a change that holds later requests (R355); a training step ends with
the next step, and a report without failures puts the pseudo-channels that trained into service (R353, R356); a failing pseudo-channel leaves service, its
requests will complete with RESET and no other pseudo-channel changes (R358). -/
def Obligations.HbmServiceAndTraining : Prop :=
  (∀ (pc : Fin 64) (st : Fin 2) (temp : Int) (addr : Nat) (x : Nat × Nat) (s : State),
      let v := s.pcAt pc
      let stack := fun (n : Nat) => 32 * st.val ≤ n ∧ n < 32 * st.val + 32
      (v.state = .inService → v.refAt + 1560 / v.refMult ≤ s.now → ∃ t, exec (.refresh pc) s = .next t ∧
        t = { s with hmc := { s.hmc with pcs := t.hmc.pcs } } ∧
        Becomes State.pcAt pc { v with refAt := v.refAt + 1560 / v.refMult, refBank := (v.refBank + 1) % 48 } s t) ∧
      (∃ t, exec (.stackTempRead st temp) s = .next t ∧ t = { s with hmc := { s.hmc with pcs := t.hmc.pcs, hot := t.hmc.hot } } ∧
        (∀ n, stack n → t.pcAt n = { s.pcAt n with
          temp := temp, refMult := if temp ≥ 95 then 4 else if temp ≥ 85 then 2 else 1 }) ∧
        (∀ n, ¬ stack n → t.pcAt n = s.pcAt n) ∧ (temp ≥ 95 → t.hmc.hot = true)) ∧
      ((s.reg pgHmc 0x100).getLsbD 31 = true → (s.stackAt st).selfRefresh = false → (s.stackAt st).changing = false →
        (s.stackAt st).training = false → s.stackUsed st = false →
        (s.stackAt st).lastReq + (s.reg pgHmc 0x100).toNat % 65536 * 400 ≤ s.now → ∃ t, exec (.selfRefreshEntry st) s = .next t ∧
        t = { s with hmc := { s.hmc with pcs := t.hmc.pcs, hstacks := t.hmc.hstacks } } ∧
        Becomes State.stackAt st { s.stackAt st with selfRefresh := true } s t ∧
        (∀ n, stack n → (s.pcAt n).state = .inService → t.pcAt n = { s.pcAt n with state := .selfRefresh })) ∧
      ((s.stackAt st).selfRefresh = true → (s.stackAt st).training = false → s.stackUsed st = true → ∃ t, exec (.selfRefreshExit st) s = .next t ∧
        t = { s with hmc := { s.hmc with pcs := t.hmc.pcs, hstacks := t.hmc.hstacks } } ∧
        Becomes State.stackAt st { s.stackAt st with selfRefresh := false } s t ∧
        (∀ n, stack n → (s.pcAt n).state = .selfRefresh → t.pcAt n = { s.pcAt n with
          state := .inService, refAt := s.now })) ∧
      (s.locate addr = some x → (s.pcAt x.1).state = .inService → s.hbmBad.contains (hbmKey x / 64) = false → ∃ t,
        exec (.scrub addr true false) s = .next t ∧ t = { s with hmc := { s.hmc with pcs := t.hmc.pcs } } ∧
        Becomes State.pcAt x.1 { s.pcAt x.1 with ceCount := sat32 ((s.pcAt x.1).ceCount + 1), ceAddr := addr } s t) ∧
      (let recent := s.now :: (s.pcAt x.1).ueEdges.filter (fun e => s.now < e + 400000000)
       s.locate addr = some x → (s.pcAt x.1).state = .inService → ∃ t, exec (.scrub addr false true) s = .next t ∧
        t.hbm = s.hbm ∧ t.hbmBad.contains (hbmKey x / 64) = true ∧
        Becomes State.pcAt x.1 { s.pcAt x.1 with
          ueCount := sat32 ((s.pcAt x.1).ueCount + 1), ueAddr := addr, ueEdges := recent,
          state := if (s.reg pgHmc 0x120).toNat ≤ recent.length then .failed else .inService } s t)) ∧
  (∀ (st : Fin 2) (rate : Fin 4) (rep : TrainRep) (pc : Fin 64) (q : Fin 64) (s : State),
      let v := s.stackAt st
      let stack := fun (n : Nat) => 32 * st.val ≤ n ∧ n < 32 * st.val + 32
      (s.ready pgHmc = true → s.inProgress q = true → ∃ t, exec (.freqReq st rate) s = .next t ∧
        t = { s with regs := t.regs, hmc := { s.hmc with freqStat := 3 } }) ∧
      (s.ready pgHmc = true → (∀ n < 64, s.inProgress n = false) → s.anyStream = false → v.stepEdge ≠ s.now + 1 → v.training = false →
        (s.stackAt 0).changing = false → (s.stackAt 1).changing = false →
        (∃ r ∈ s.hmc.reqs, r.id < s.hmc.nextId ∧ r.loc.map (fun x => x.1 / 32) = some st.val) → ∃ t,
        exec (.freqReq st rate) s = .next t ∧ t = { s with regs := t.regs, hmc := { s.hmc with freqStat := 1, hstacks := t.hmc.hstacks } } ∧
        Becomes State.stackAt st { v with
          changing := true, target := rate, holdFrom := s.hmc.nextId } s t) ∧
      (v.training = true → v.deferred = none → ∃ t, exec (.hbmTrainingStepEnd st none) s = .next t ∧
        t = { s with hmc := { s.hmc with hstacks := t.hmc.hstacks } } ∧
        Becomes State.stackAt st { v with step := v.step + 1, stepEdge := s.now + 1 } s t) ∧
      (v.training = true → v.deferred = none → rep.failed = 0 → s.mgt.stage ≠ .hbm →
        (∀ n, stack n → (s.hdrAt (pgPc n)).busy = false ∧ (s.pcAt n).state ≠ .failed) → ∃ t, exec (.hbmTrainingStepEnd st (some rep)) s = .next t ∧
        t = { s with hmc := { s.hmc with
          pcs := t.hmc.pcs, hstacks := t.hmc.hstacks, freqStat := if v.changing then 0 else s.hmc.freqStat,
          degraded := t.hmc.degraded, pcOk := t.hmc.pcOk } } ∧
        Becomes State.stackAt st { v with
          training := false, changing := false, selfRefresh := false, step := 0, stepEdge := s.now + 1 } s t ∧
        (∀ n, stack n → (s.pcAt n).state = .training → (t.pcAt n).state = .inService ∧ t.hmc.pcOk.getLsbD n = true) ∧
        (∀ n, ¬ stack n → t.pcAt n = s.pcAt n)) ∧
      ((s.pcAt pc).state = .inService ∨ (s.pcAt pc).state = .selfRefresh → ∃ t, exec (.pcFail pc) s = .next t ∧
        t = { s with hmc := { s.hmc with
          pcs := t.hmc.pcs, reqs := t.hmc.reqs, degraded := true, pcOk := clrBit s.hmc.pcOk pc.val } } ∧
        Becomes State.pcAt pc { s.pcAt pc with state := .failed } s t ∧
        (∀ r ∈ t.hmc.reqs, r.loc.map Prod.fst = some pc.val → r.forced ≠ none)))

/-- Training of a port: the third HELLO in a row fixes the version and ends step 1 (R364, R365); a step that ends leads to the next, and step 6 to UP or UP_HALF with
64 credits of each kind (R364, R369); a step that lasts too long starts a new attempt, and the third failure in step 1 leaves the port ABSENT, which
probes with HELLO (R366); RETRAIN starts a fresh attempt, a rate asked for in ABSENT is stored (R368), and a lost port trains again after its pause (R372).
The lane map of R367: full width with no failed data lane; the spare for exactly one while S works; half width while four data lanes work; else none. -/
def Obligations.ZheindTraining : Prop :=
  (∀ (p : Fin 6) (ver : Fin 256) (chip : Word32) (fom : List Nat) (partner : BitVec 9) (rate : Bool) (s : State),
      let v := s.zpAt p
      let hello := OutMsg.zp p (.hello (s.zpVerMax p) (s.reg pgChip 0x104))
      (v.state = .training → v.step = 1 → v.hellos = 2 → ∃ t, exec (.hello p ver chip) s = .next t ∧ t = { s with zp := t.zp } ∧
        Becomes State.zpAt p { v with
          hellos := 3, step := 2, stepAt := s.now, stepEdge := s.now + 1, partnerVer := ver, partnerId := chip,
          version := min (s.zpVerMax p) ver, rate25 := if min (s.zpVerMax p) ver.val = 1 then true else v.rate25 } s t) ∧
      (v.state = .training → v.step = 3 → v.rateDefer = none → ∃ t, exec (.linkTrainingStepEnd (.zp p) fom partner) s = .next t ∧
        t = { s with zp := t.zp } ∧ Becomes State.zpAt p { v with step := 4, stepAt := s.now, stepEdge := s.now + 1 } s t) ∧
      (v.state = .training → v.step = 6 → v.rateDefer = none → v.kept = [] → v.waiting = [] → ∃ t,
        exec (.linkTrainingStepEnd (.zp p) fom partner) s = .next t ∧
        t = { s with zp := t.zp, trg := t.trg, hdr := t.hdr, freeCtr := t.freeCtr, outbox := t.outbox, msixPend := t.msixPend,
                     pcieHeld := t.pcieHeld } ∧
        (t.zpAt p).state = (if v.rxHalf = true ∨ v.txHalf = true then .upHalf else .up) ∧ (t.zpAt p).step = 7 ∧
        (t.zpAt p).attempts = 0 ∧ (t.zpAt p).credMsg = 64 ∧ (t.zpAt p).credData = 64 ∧ ∀ j, j ≠ p.val → t.zpAt j = s.zpAt j) ∧
      (v.state = .training → 2 ≤ v.step → v.stepAt + 80000 ≤ s.now → v.retrain = false → v.attempts < 2 → ∃ t,
        exec (.trainingStepTimeout (.zp p)) s = .next t ∧ t = { s with zp := t.zp, outbox := s.outbox ++ [hello] } ∧
        (t.zpAt p).state = .training ∧ (t.zpAt p).step = 1 ∧ (t.zpAt p).attempts = v.attempts + 1 ∧ (t.zpAt p).attemptAt = s.now ∧
        ∀ j, j ≠ p.val → t.zpAt j = s.zpAt j) ∧
      (v.state = .training → v.step = 1 → v.attemptAt + 800000 ≤ s.now → v.retrain = false → v.lateFail = false → 2 ≤ v.attempts → ∃ t,
        exec (.trainingStepTimeout (.zp p)) s = .next t ∧
        t = { s with zp := t.zp, hdr := t.hdr, outbox := t.outbox, msixPend := t.msixPend, pcieHeld := t.pcieHeld } ∧
        (t.zpAt p).state = .absent ∧ (t.hdrAt (pgZp p)).evtRaw.getLsbD 4 = true ∧ ∀ j, j ≠ p.val → t.zpAt j = s.zpAt j) ∧
      (v.state = .absent → v.probeAt ≤ s.now → ∃ t, exec (.absentProbe (.zp p)) s = .next t ∧
        t = { s with zp := t.zp, outbox := s.outbox ++ [.zp p (.hello (s.zpVerMax p) v.ownId)] } ∧
        Becomes State.zpAt p { v with probeAt := s.now + 40000000 } s t) ∧
      (s.ready (pgZp p) = true → s.zpOn p = true → v.state = .down → v.retrain = false → v.restartAt = 0 → ∃ t, exec (.retrain (.zp p)) s = .next t ∧
        t = { s with zp := t.zp, outbox := s.outbox ++ [hello] } ∧ (t.zpAt p).state = .training ∧ (t.zpAt p).step = 1 ∧
        (t.zpAt p).attempts = 0 ∧ ∀ j, j ≠ p.val → t.zpAt j = s.zpAt j) ∧
      (s.ready (pgZp p) = true → v.state = .absent → s.zpVerMax p ≠ 1 → v.stepEdge ≠ s.now + 1 → ∃ t, exec (.rateReq p rate) s = .next t ∧
        t = { s with zp := t.zp, regs := t.regs } ∧ Becomes State.zpAt p { v with rateNext := some rate, rateStat := .done } s t) ∧
      (s.zpOn p = true → v.restartAt ≠ 0 → v.restartAt ≤ s.now → v.state = .training → ∃ t, exec (.linkRestart (.zp p)) s = .next t ∧
        t = { s with zp := t.zp, outbox := s.outbox ++ [hello] } ∧ (t.zpAt p).state = .training ∧ (t.zpAt p).step = 1 ∧
        (t.zpAt p).restartAt = 0 ∧ ∀ j, j ≠ p.val → t.zpAt j = s.zpAt j)) ∧
  (∀ failed : BitVec 9,
      let n := ((List.range 8).filter (fun k => failed.getLsbD k)).length
      laneMap failed = if n = 0 then some (false, false) else if n = 1 ∧ failed.getLsbD 8 = false then some (true, false)
        else if n ≤ 4 then some (false, true) else none)

/-- Flits and lanes of a port that is up: a bad flit is counted and refused with one NAK; an IDLE flit brings credits, XT levels and acknowledges; 4 µs without progress
replay what is kept (R369); a first failed lane asks for a sparing, the sender moves to the new map, marks it for 2 µs and holds new traffic, the
receiver counts the sparing and sends a NAK when the mark ends, and the sender counts it at that NAK (R371); a lost port
drops its flits, stops for 4 µs and reports LINK_LOST (R372). -/
def Obligations.ZheindService : Prop :=
  ∀ (p : Fin 6) (b : List Byte) (lane : Fin 9) (mask : BitVec 9) (m : Bool × Bool) (s : State), (s.zpAt p).isUp = true →
    let v := s.zpAt p
    let f := Flit.ofBytes b
    let evt := fun (t : State) => { s with zp := t.zp, hdr := t.hdr, outbox := t.outbox, msixPend := t.msixPend, pcieHeld := t.pcieHeld }
    (flitGood b = false → v.refusing = false → ∃ t, exec (.flitReceive p b) s = .next t ∧
      t = { s with zp := t.zp, outbox := s.outbox ++ [.zp p (.nak ((v.rxSeq + 4095) % 4096))] } ∧
      Becomes State.zpAt p { v with crcErr := sat32 (v.crcErr + 1), refusing := true } s t) ∧
    (flitGood b = true → f.kind = 0 → f.nak = false → v.txSparing = false → v.waiting = [] → ∃ t, exec (.flitReceive p b) s = .next t ∧
      t = { s with zp := t.zp, trg := t.trg } ∧ (t.zpAt p).xtRx = f.xt ∧ (t.zpAt p).credMsg = v.credMsg + f.credMsg ∧
      (t.zpAt p).credData = v.credData + f.credData ∧ (t.zpAt p).kept = ackKept f.ack v.kept ∧ (t.zpAt p).rxSeq = v.rxSeq ∧
      ∀ j, j ≠ p.val → t.zpAt j = s.zpAt j) ∧
    (flitGood b = true → f.kind = 0 → f.nak = true → v.txSparing = true → v.markEnd = none → ackKept f.ack v.kept = [] →
      v.waiting = [] → ∃ t, exec (.flitReceive p b) s = .next t ∧
      t = { s with zp := t.zp, trg := t.trg, hdr := t.hdr, outbox := t.outbox, msixPend := t.msixPend, pcieHeld := t.pcieHeld } ∧
      (t.zpAt p).txSparing = false ∧ (t.zpAt p).spareCount = sat32 (v.spareCount + 1) ∧ (t.zpAt p).kept = [] ∧
      (t.hdrAt (pgZp p)).evtRaw.getLsbD (if v.txHalf then 2 else 1) = true ∧ ∀ j, j ≠ p.val → t.zpAt j = s.zpAt j) ∧
    (v.kept ≠ [] → v.markEnd = none → v.ackAt + 1600 ≤ s.now → (∀ k ∈ v.kept, k.replays < 8) → ∃ t,
      exec (.replayTimeout p) s = .next t ∧
      t = { s with zp := t.zp, outbox := s.outbox ++ v.kept.map (fun k => .zp p k.msg) } ∧
      Becomes State.zpAt p { v with
        kept := v.kept.map (fun k => { k with replays := k.replays + 1 }), replayCount := sat32 (v.replayCount + v.kept.length),
        ackAt := s.now } s t) ∧
    (v.version = 2 → v.rxFailed = 0 → lane ≠ 8 → ∃ t, exec (.laneFailure p lane) s = .next t ∧
      t = { s with zp := t.zp, outbox := s.outbox ++ [.zp p (.spareReq (BitVec.twoPow 9 lane))] } ∧
      Becomes State.zpAt p { v with rxFailed := BitVec.twoPow 9 lane, rxSparing := true } s t) ∧
    (v.version = 2 → laneMap mask = some m → ∃ t, exec (.spareReq p mask) s = .next t ∧ t = { s with zp := t.zp } ∧
      Becomes State.zpAt p { v with
        txFailed := mask, txSpare := m.1, txHalf := m.2, txSparing := true, markEnd := some (s.now + 800),
        state := if v.rxHalf = true ∨ m.2 = true then .upHalf else .up } s t) ∧
    (∀ e, v.markEnd = some e → e ≤ s.now → ∃ t, exec (.spareMarkEnd p) s = .next t ∧ t = { s with zp := t.zp } ∧
      Becomes State.zpAt p { v with markEnd := none, ackAt := s.now } s t) ∧
    (v.markEnd = none → v.rxSparing = true → laneMap v.rxFailed = some m → ∃ t, exec (.spareMarkEnd p) s = .next t ∧ t = evt t ∧
      (t.hdrAt (pgZp p)).evtRaw.getLsbD (if m.2 then 2 else 1) = true ∧
      OutMsg.zp p (.nak ((v.rxSeq + 4095) % 4096)) ∈ t.outbox ∧
      Becomes State.zpAt p { v with
        rxSparing := false, rxSpare := m.1, rxHalf := m.2, spareCount := sat32 (v.spareCount + 1), refusing := true,
        state := if m.2 = true ∨ v.txHalf = true then .upHalf else .up } s t) ∧
    (s.align = [] → (∀ d < 4, s.tdSrc d ≠ 3) → ∃ t, exec (.linkLost p) s = .next t ∧ (t.zpAt p).state = .training ∧
      (t.zpAt p).step = 0 ∧ (t.zpAt p).kept = [] ∧ (t.zpAt p).lostCount = sat32 (v.lostCount + 1) ∧
      (t.zpAt p).restartAt = s.now + 1600 ∧ (t.hdrAt (pgZp p)).evtRaw.getLsbD 3 = true ∧ t.td = s.td ∧ t.hbm = s.hbm ∧
      ∀ j, j ≠ p.val → t.zpAt j = s.zpAt j)

/-- Frames of a PE link: a heartbeat that is due goes out with the next HB_SEQ, and its echo ends the count of misses (R379); a CTRL_RESP takes its frame
from the list, and one for a frame that a loss of the link dropped is stale (R378, R379); a CTRL frame without an answer for 4 µs is sent again (R378); a bad CRC is only counted (R378).
The life of a PE link: a receiver that locks ends step 1 (R377); a descriptor of protocol 2 with the booted firmware brings the link UP (R380); in VERSION the next 32
words of the PE component go out (R406); a loss of lock with no user of the link makes it LOST for 16 µs, after which it trains again (R379). -/
def Obligations.PeLinks : Prop :=
  (∀ (j : Fin 32) (st : BitVec 8) (n : Fin 4096) (f : CtrlFrame) (hb : BitVec 16) (s : State),
      let v := s.plAt j
      (v.state = .up → v.hbEdge = 0 → (v.hbSent = false ∨ (v.hbAcked = true ∧ v.hbAt + 400 ≤ s.now)) → ∃ t, exec (.heartbeat j) s = .next t ∧
        t = { s with pl := t.pl, outbox := s.outbox ++
          [.pe j (frameWords 1 v.txSeq [BitVec.ofNat 32 ((v.hbSeq + 1) % 65536)])] } ∧
        Becomes State.plAt j { v with
          hbSeq := (v.hbSeq + 1) % 65536, hbSent := true, hbAcked := false, hbAt := s.now, txSeq := (v.txSeq + 1) % 4096 } s t) ∧
      (v.state = .up → v.hbSent = true → v.hbEdge = 0 → hb.toNat = v.hbSeq → ∃ t, exec (.hbAck j hb st true) s = .next t ∧
        t = { s with pl := t.pl } ∧ Becomes State.plAt j { v with hbAcked := true, hbMiss := 0, peStatus := st.toNat } s t) ∧
      (f ∈ v.ctrl → f.seq = n.val → ∃ t, exec (.ctrlResp j n true) s = .next t ∧ t = { s with pl := t.pl } ∧
        Becomes State.plAt j { v with ctrl := v.ctrl.filter (fun g => g.seq ≠ n.val) } s t) ∧
      ((∀ g ∈ v.ctrl, g.seq ≠ n.val) → n.val ∈ v.lostCtrl → ∃ t, exec (.ctrlResp j n true) s = .next t ∧ t = { s with pl := t.pl } ∧
        Becomes State.plAt j { v with stale := sat32 (v.stale + 1) } s t) ∧
      ((∀ g ∈ v.ctrl, g.seq ≠ n.val) → n.val ∉ v.lostCtrl → exec (.ctrlResp j n true) s = .next s) ∧
      (v.ctrl.find? (fun g => g.sentAt + 1600 ≤ s.now) = some f → f.resends < 3 → ∃ t, exec (.ctrlResend j) s = .next t ∧
        t = { s with pl := t.pl, outbox := s.outbox ++ [.peCtrl j f.seq f.op] } ∧ Becomes State.plAt j { v with
          ctrlRetry := sat32 (v.ctrlRetry + 1),
          ctrl := v.ctrl.map (fun g => if g.seq = f.seq then { g with resends := g.resends + 1, sentAt := s.now } else g) } s t) ∧
      (∃ t, exec (.ctrlResp j n false) s = .next t ∧ t = { s with pl := t.pl } ∧
        Becomes State.plAt j { v with crcErr := sat32 (v.crcErr + 1) } s t)) ∧
  (∀ (j : Fin 32) (d : PeDesc) (fom : List Nat) (partner : BitVec 9) (s : State),
      let v := s.plAt j
      let w := s.mgt.peWords
      (v.state = .training → ∃ t, exec (.linkTrainingStepEnd (.pl j) fom partner) s = .next t ∧ t = { s with pl := t.pl } ∧
        Becomes State.plAt j { v with locked := true } s t) ∧
      (v.state = .training → v.locked = true → d.major = 2 → d.fw = s.mgt.peVer → ∃ t, exec (.desc j d true) s = .next t ∧
        t = { s with pl := t.pl } ∧ (t.plAt j).state = .up ∧ (t.plAt j).protoMajor = 2 ∧ (t.plAt j).peFw = d.fw ∧
        (t.plAt j).attempts = 0 ∧ (t.plAt j).hbMiss = 0 ∧ ∀ k, k ≠ j.val → t.plAt k = s.plAt k) ∧
      (v.state = .version → v.updSent + 32 < w.length → ∃ t, exec (.updateFrame j) s = .next t ∧
        t = { s with pl := t.pl, outbox := s.outbox ++ [.pe j (frameWords 7 v.txSeq ((w.drop v.updSent).take 32))] } ∧
        Becomes State.plAt j { v with updSent := v.updSent + 32, txSeq := (v.txSeq + 1) % 4096 } s t) ∧
      (v.state = .up → (∀ q < 64, ∀ c ∈ (s.seqAt q).cast.chans, c / 16 ≠ j.val) → (∀ m, s.strPl m ≠ j.val) → ∃ t,
        exec (.receiverLossOfLock j) s = .next t ∧ t = { s with pl := t.pl } ∧ Becomes State.plAt j { v with
          state := .lost, lostCount := sat32 (v.lostCount + 1), ctrl := [],
          lostCtrl := (v.lostCtrl ++ v.ctrl.map (fun f => f.seq)).eraseDups, hbSent := false, hbAcked := true, hbEdge := 0,
          attempts := 0, answered := false, locked := false, pauseEnd := s.now + 6400 } s t) ∧
      (v.state = .lost → v.pauseEnd ≠ 0 → v.pauseEnd ≤ s.now → s.plOn j = true → ∃ t, exec (.heartbeatPauseEnd j) s = .next t ∧
        t = { s with pl := t.pl } ∧ Becomes State.plAt j { v with
          state := .training, locked := false, attemptAt := s.now, updSent := 0, pauseEnd := 0 } s t))

/-- The endpoint: a BAR4 read sends its data, a BAR4 write changes its bytes and no other, a full HA port makes the access wait until its retry
(R344, R381); a link that is lost masks every vector and drops the reads that wait, and one that returns sends what was held, in order (R382); PERST_N resets the endpoint only (R407). -/
def Obligations.PcieEndpoint : Prop :=
  ∀ (off : BitVec 32) (l : List Byte) (n : Nat) (width : Fin 17) (speed : Fin 6) (b : Bar4Retry) (rest : List Bar4Retry) (s : State),
    let a := (s.reg pgPcie 0x104).toNat % 1024 * 2 ^ 26 + off.toNat
    let lost := fun (c : Instr) (kept : List Bar4Retry) => exec c s = .next { s with
      msixOn := 0, msixPend := 0, pcie := { s.pcie with
        up := false, width := 0, speed := 0, downCount := sat32 (s.pcie.downCount + 1), downAt := s.now, ptmOn := false,
        ptmValid := false, bar4 := kept } }
    (s.pcie.up = true → s.portFull 6 = false → s.readStatus a n = .ok →
      exec (.bar4Access off none n .ok) s = .next { s with outbox := s.outbox ++ [.bar4 (some (s.hbmRead a n))] }) ∧
    (s.pcie.up = true → s.portFull 6 = false → s.writeBreaks a l.length = none → (s.hbmHeal a l.length).readStatus a l.length = .ok → ∃ t,
      exec (.bar4Access off (some l) n .ok) s = .next t ∧ t = { s with hbm := t.hbm, hbmBad := t.hbmBad } ∧
      t.hbm = (s.hbmWrite a l).hbm ∧ StoresOnly a l.length s t) ∧
    (s.pcie.up = true → s.portFull 6 = true → ∃ t, exec (.bar4Access off none n .ok) s = .next t ∧
      t = { s with hmc := { s.hmc with ports := t.hmc.ports }, pcie := { s.pcie with
        bar4 := s.pcie.bar4 ++ [{ off := a, write := none, len := n, res := .ok, at_ := s.now }] } } ∧
      (t.hportAt 6).refused = sat32 ((s.hportAt 6).refused + 1)) ∧
    (s.pcie.bar4 = b :: rest → b.at_ + 26 ≤ s.now → s.portFull 6 = false → b.write = none → b.res = .ok →
      s.readStatus b.off b.len = .ok →
      exec .bar4Retry s = .next { s with
        outbox := s.outbox ++ [.bar4 (some (s.hbmRead b.off b.len))], pcie := { s.pcie with bar4 := rest } }) ∧
    (s.pcie.bar4 = b :: rest → b.at_ + 26 ≤ s.now → s.portFull 6 = false → b.write = some l → b.res = .ok →
      (s.hbmHeal b.off l.length).readStatus b.off l.length = .ok → ∃ t, exec .bar4Retry s = .next t ∧
      t = { s with hbm := t.hbm, hbmBad := t.hbmBad, pcie := { s.pcie with bar4 := rest } } ∧
      t.hbm = (s.hbmWrite b.off l).hbm ∧ StoresOnly b.off l.length s t) ∧
    (s.pcie.up = true → lost .pcieLinkDown (s.pcie.bar4.filter (fun x => x.write.isSome)) ∧ lost .pcieReset []) ∧
    (s.pcie.up = false → s.mgt.phase ≠ .unpowered → s.mgt.phase ≠ .reset → s.mgt.refclk = true →
      exec (.pcieLinkUp width speed) s = .next { s with
        pcie := { s.pcie with up := true, width := width, speed := speed }, outbox := s.outbox ++ s.pcieHeld, pcieHeld := [] })

/-- Commands of a page header on a page of the map: a write of EVT_RAW clears the bits it names unless their event falls in the
same cycle (R391), EVT_MASK is stored (R391), a write of 1 to ERROR clears the error registers unless an error falls in the same
cycle (R385), FREEZE is set, and cleared (R387). Every other field of that header and every other page stays. On any other page the
command is undefined behaviour (R384).
SOFT_RESET of a page: ignored while one runs and before boot has brought the page up; one that the unit's chapter ignores
while its unit is in use records ASSIGN_BUSY and changes nothing else; of an APG, CAP or UPD page the registers return to
their reset values and the header to its own, with EVT_MASK kept (R386).
In the cycle of a reset of its page a command acts and the reset runs again at the end of the cycle, which `redo` notes (R386). -/
def Obligations.PageHeaderCommands : Prop :=
  (∀ (page : BitVec 16) (s : State),
      let u := s.redoReset page.toNat
      (pageExists page.toNat = true →
        (∀ bits : Word32, ∃ t, exec (.evtRawClear page bits) s = .next t ∧
          t = { s with redo := u.redo, hdr := t.hdr, outbox := t.outbox, pcieHeld := t.pcieHeld, msixPend := t.msixPend } ∧
          Becomes State.hdrAt page.toNat { s.hdrAt page.toNat with
            evtRaw := (s.hdrAt page.toNat).evtRaw &&& ~~~ (bits &&& ~~~ (if (s.hdrAt page.toNat).evtEdge = s.now + 1 then
              (s.hdrAt page.toNat).evtNow else 0)) } s t) ∧
        (∀ v : Word32, ∃ t, exec (.evtMaskWrite page v) s = .next t ∧
          t = { s with redo := u.redo, hdr := t.hdr, outbox := t.outbox, pcieHeld := t.pcieHeld, msixPend := t.msixPend } ∧
          Becomes State.hdrAt page.toNat { s.hdrAt page.toNat with evtMask := v } s t) ∧
        (∃ t, exec (.errorClear page) s = .next t ∧ t = { s with redo := u.redo, hdr := t.hdr } ∧
          (∀ c i, (s.hdrAt page.toNat).errCyc = some (s.now, c, i) → (t.hdrAt page.toNat).error = true ∧
            (t.hdrAt page.toNat).errCode = c ∧ (t.hdrAt page.toNat).errInfo = i) ∧
          ((∀ e c i, (s.hdrAt page.toNat).errCyc = some (e, c, i) → e ≠ s.now) →
            Becomes State.hdrAt page.toNat { s.hdrAt page.toNat with error := false, errCode := 0, errInfo := 0 } s t)) ∧
        ((s.hdrAt page.toNat).freeze = false → ∃ t, exec (.freeze page true) s = .next t ∧ t = { s with redo := u.redo, hdr := t.hdr } ∧
          (t.hdrAt page.toNat).freeze = true ∧ ∀ off ∈ roOffsets page.toNat, t.readReg page.toNat off = s.liveReg page.toNat off) ∧
        ((s.hdrAt page.toNat).freeze = true → ∃ t, exec (.freeze page false) s = .next t ∧ t = { s with redo := u.redo, hdr := t.hdr } ∧
          Becomes State.hdrAt page.toNat { s.hdrAt page.toNat with freeze := false, thawEdge := s.now + 1 } s t)) ∧
      (pageExists page.toNat = false →
        ∀ c ∈ [Instr.errorClear page, .freeze page true, .freeze page false, .pageSoftReset page, .evtRawClear page 0, .evtMaskWrite page 0],
          exec c s = .fault (.undefinedBehaviour 1))) ∧
  (∀ (page : BitVec 16) (s : State), pageExists page.toNat = true →
      let u := s.redoReset page.toNat
      ((s.hdrAt page.toNat).busy = true ∨ (s.hdrAt page.toNat).up = false → exec (.pageSoftReset page) s = .next u) ∧
      ((s.hdrAt page.toNat).busy = false → (s.hdrAt page.toNat).up = true → s.resetRefused page.toNat = true →
        exec (.pageSoftReset page) s = .next (u.recordErr page.toNat errAssignBusy) ∧
        u.recordErr page.toNat errAssignBusy = { u with hdr := (u.recordErr page.toNat errAssignBusy).hdr }) ∧
      (0x140 ≤ page.toNat ∧ page.toNat < 0x200 ∨ page.toNat = pgUpd → (s.hdrAt page.toNat).busy = false →
        (s.hdrAt page.toNat).up = true → s.resetRefused page.toNat = false →
        ∃ t, exec (.pageSoftReset page) s = .next t ∧ 
          t = { s with redo := u.redo, hdr := t.hdr, regs := t.regs, latches := t.latches, hmc := t.hmc, cap := t.cap } ∧
          Becomes State.hdrAt page.toNat { up := true, evtMask := (s.hdrAt page.toNat).evtMask, resetEdge := s.now + 1 } s t ∧
          (∀ off < 0x1000, t.reg page.toNat off = resetAt page.toNat off) ∧
          (∀ p off, p ≠ page.toNat → off < 0x1000 → t.reg p off = s.reg p off)))

/-- A 32-bit write of a block register of the SEQ, APG and CAP pages: ignored while READY is 0, but for the cycle of a reset
(R386), and where the register is read-only; undefined behaviour at an offset without a register and with a reserved bit set; with nothing in the chapter's way it
stores the writable bits of the register and changes nothing else, but that MAQUETTE and
MAQ_MATCH of an arm accepted in this cycle follow the write (R74); where the unit is in use the error is recorded and no register
changes (R36, R135, R217, R385). -/
def Obligations.RegisterWrites : Prop :=
  ∀ (page : Fin 0x100) (off : Fin 0xF00) (v : Word32) (path : Path) (s : State), off.val % 4 = 0 →
    ∀ p o, p = page.val + 0x100 → o = off.val + 0x100 →
    let u := s.redoReset p
    let q := s.seqAt (p - 0x100)
    (specAt p o = none → exec (.registerWrite false (BitVec.ofNat 26 (p * 0x1000 + o)) v none path) s = .fault (.undefinedBehaviour 1)) ∧
    (∀ r, specAt p o = some r →
      (v &&& ~~~ (r.rw ||| r.other) ≠ 0 →
        exec (.registerWrite false (BitVec.ofNat 26 (p * 0x1000 + o)) v none path) s = .fault (.undefinedBehaviour 2)) ∧
      (v &&& ~~~ (r.rw ||| r.other) = 0 → (s.ready p = false ∧ s.resetNow p = false) ∨ r.ro = true →
        exec (.registerWrite false (BitVec.ofNat 26 (p * 0x1000 + o)) v none path) s = .next u) ∧
      (v &&& ~~~ (r.rw ||| r.other) = 0 → (s.ready p = true ∨ s.resetNow p = true) → r.ro = false →
        let w := u.setReg p o ((s.reg p o &&& ~~~ r.rw) ||| (v &&& r.rw))
        (s.writeRefused p o v path = none → o ≠ 0x100 ∨ 0x140 ≤ p →
          exec (.registerWrite false (BitVec.ofNat 26 (p * 0x1000 + o)) v none path) s = .next w) ∧
        (s.writeRefused p o v path = none → o = 0x100 → p < 0x140 → ∃ t,
          exec (.registerWrite false (BitVec.ofNat 26 (p * 0x1000 + o)) v none path) s = .next t ∧ t = { w with seq := t.seq } ∧
          Becomes State.seqAt (p - 0x100) (if q.acceptEdge = s.now + 1 then
            { q with maquette := v.getLsbD 0, maqMatch := v.getLsbD 4 } else q) s t) ∧
        (∀ code, s.writeRefused p o v path = some code →
          exec (.registerWrite false (BitVec.ofNat 26 (p * 0x1000 + o)) v none path) s = .next (u.recordErr p code) ∧
          (u.recordErr p code).regs = s.regs ∧ (p < 0x180 → code = errAssignBusy))))

/-- A 32-bit read of a register: the low word of a pair gives the register and loads the latches of its path with the words above it,
a latched word gives the latch of its path where one is loaded, any other register is given as it reads (R387, R389), in BAR0 and
in the TSS control block of BAR2; the TSS and APG tables give their words (R146, R148), the MSI-X table and pending bits theirs
(R391); MARK_ID and APPLY_ID give and remove an entry (R112, R171); LM_DATA of a worker engine in service is ignored with an error
(R237); a read of PAGE_ID of a reserved page gives 0 (R384); a misaligned read is undefined behaviour (R388). -/
def Obligations.RegisterReads : Prop :=
  ∀ (a : BitVec 26) (bar2 : Bool) (path : Path) (s : State),
    let page := if bar2 then pgTss else a.toNat / 0x1000
    let off := a.toNat % 0x1000
    let busy : Prop := 0x310 ≤ page ∧ page < 0x328 ∧ (off = 0x138 ∨ off = 0x13C) ∧ s.weIdleOff (page - 0x310) = false
    let gives := fun (v : Word32) => exec (.lowWordRead bar2 a path) s = .next { s with hostOut := v.zeroExtend 64 }
    (a.toNat % 4 ≠ 0 → exec (.lowWordRead bar2 a path) s = .fault (.undefinedBehaviour 3)) ∧
    (a.toNat % 4 = 0 →
      (pageExists page = true → (off < 0x24 ∨ (specAt page off).isSome = true) → (bar2 = true → a.toNat / 0x1000 = 0x500) →
        (bar2 = false → page ≠ pgTss) →
        (¬ (page = pgTss ∧ off = 0x140) → ¬ (0x100 ≤ page ∧ page < 0x140 ∧ off = 0x268) → ¬ busy →
          ∃ t, exec (.lowWordRead bar2 a path) s = .next t ∧ t = { s with hostOut := t.hostOut, latches := t.latches } ∧
          t.hostOut = (if isLatched page off then sget (s.readReg page off) s.latches (latchKey page off path)
            else s.readReg page off).zeroExtend 64 ∧
          (∀ o ∈ latchedBy page off, sget 0 t.latches (latchKey page o path) = s.readReg page o) ∧
          ∀ k, (∀ o ∈ latchedBy page off, k ≠ latchKey page o path) → sget 0 t.latches k = sget 0 s.latches k) ∧
        (bar2 = true → a.toNat = 0x500140 → exec (.lowWordRead bar2 a path) s = exec (.applyIdRead path) s) ∧
        (∀ q : Fin 64, page = 0x100 + q.val → off = 0x268 →
          exec (.lowWordRead bar2 a path) s = exec (.markIdRead q path) s) ∧
        (busy → ∃ t, exec (.lowWordRead bar2 a path) s = .next t ∧ t = { s with hdr := t.hdr } ∧ (t.hdrAt page).error = true)) ∧
      (bar2 = true → a.toNat < 0x400000 → gives ((sget 0 s.tss.entries (a.toNat / 32)).extractLsb' (8 * (a.toNat % 32)) 32)) ∧
      (bar2 = true → 0x400000 ≤ a.toNat → a.toNat < 0x420000 →
        gives ((sget 0 s.tss.headers ((a.toNat - 0x400000) / 8)).extractLsb' (8 * (a.toNat % 8)) 32)) ∧
      (bar2 = true → (apgTabOwner a.toNat).isSome = true → gives (sget 0 s.apgTab a.toNat)) ∧
      (bar2 = false → page = 0x1008 → off < 256 → gives (s.msixPend.extractLsb' (8 * off) 32)) ∧
      (bar2 = false → 0x1000 ≤ page → page < 0x1008 → off % 16 ≠ 12 → gives (s.reg 0x1000 (a.toNat - 0x1000000))) ∧
      (bar2 = false → pageExists page = false ∨ page = pgTss → ¬ (0x1000 ≤ page ∧ page < 0x1008) → ¬ (page = 0x1008 ∧ off < 256) →
        (off = 0 → gives 0) ∧ (off ≠ 0 → exec (.lowWordRead bar2 a path) s = .fault (.undefinedBehaviour 1))))

/-- Chip resets: a wrong key only records RESET_KEY (R394); the command, RESET_N held low, the watchdog and a rail fault each leave
every register at its reset value with their cause in RST_CAUSE (a rail fault has no bit there), and the device stays in reset
while RESET_N is low or a rail is missing, else boots (R398, R400, R402, R403); before BOOT_DONE the watchdog counts against the
booted slot (R413). -/
def Obligations.ChipResets : Prop :=
  ∀ (key : BitVec 8) (rail : Fin 7) (s : State),
    (s.ready pgRcp = true → key ≠ 0x5A → exec (.chipReset key) s = .next (s.recordErr pgRcp 0x0051) ∧
      s.recordErr pgRcp 0x0051 = { s with hdr := (s.recordErr pgRcp 0x0051).hdr }) ∧
    (s.ready pgRcp = true → key = 0x5A → ∃ u, Cold .reset 4 s u ∧
      (s.mgt.railsGood = false ∨ s.mgt.resetN = true → exec (.chipReset key) s = .next u) ∧
      (s.mgt.railsGood = true → s.mgt.resetN = false → exec (.chipReset key) s = .next u.boot)) ∧
    (s.mgt.phase ≠ .unpowered → ∃ u, Cold .reset 2 { s with mgt := { s.mgt with resetN := true } } u ∧ exec .resetN s = .next u) ∧
    (s.mgt.phase = .unpowered → exec .resetN s = .next { s with mgt := { s.mgt with resetN := true } }) ∧
    (s.mgt.phase = .booting ∨ s.mgt.phase = .up → ∃ u, Cold .reset 8 { s with mgt := { s.mgt with
        fails := if s.mgt.phase = .booting then
          s.mgt.fails.set (b2n s.mgt.bootedB) (min 15 (s.mgt.fails.getD (b2n s.mgt.bootedB) 0 + 1)) else s.mgt.fails } } u ∧
      (s.mgt.railsGood = false ∨ s.mgt.resetN = true → exec .mgtWatchdog s = .next u) ∧
      (s.mgt.railsGood = true → s.mgt.resetN = false → exec .mgtWatchdog s = .next u.boot)) ∧
    (rail.val < 5 → s.mgt.rails.getLsbD rail = true → s.mgt.phase ≠ .unpowered → ∃ v u,
      v = { s with mgt := { s.mgt with rails := clrBit s.mgt.rails rail }, hdr := v.hdr, outbox := v.outbox, pcieHeld := v.pcieHeld,
                   msixPend := v.msixPend } ∧ (v.hdrAt pgRcp).evtRaw = (s.hdrAt pgRcp).evtRaw ||| 2 ∧
      Cold .reset s.mgt.cause v u ∧ exec (.railFault rail) s = .next u) ∧
    (5 ≤ rail.val ∨ s.mgt.rails.getLsbD rail = false → exec (.railFault rail) s = .next s) ∧
    (rail.val < 5 → s.mgt.rails.getLsbD rail = true → s.mgt.phase = .unpowered →
      exec (.railFault rail) s = .next { s with mgt := { s.mgt with rails := clrBit s.mgt.rails rail } })

/-- Power: VDD_AUX reaching power good is a power-on reset with its bit in RST_CAUSE and BOOT_FAILS cleared; its loss leaves the chip
unpowered (R400, R413); the device leaves reset once every rail but VQPS is good and RESET_N is high (R398).
The reference clock and the temperature: a loss of REFCLK clears REFCLK_OK and raises REFCLK_LOST, and 10 µs (4,000 PFCLK edges)
later the PLL stops (R427); TEMP is the hottest sensor, and TEMP_WARN rises as it reaches TEMP_LIMIT (R429). -/
def Obligations.PowerAndClocks : Prop :=
  (∀ (rail : Fin 7) (s : State),
      (∃ u, Cold .reset 1 s u ∧ ∀ v : State, v = { u with mgt := { u.mgt with
          rails := setBit u.mgt.rails 5, fails := [0, 0], sess := {} } } →
        (v.mgt.railsGood = false ∨ s.mgt.resetN = true → exec .powerOnReset s = .next v) ∧
        (v.mgt.railsGood = true → s.mgt.resetN = false → exec .powerOnReset s = .next v.boot)) ∧
      (∃ u, Cold .unpowered 0 s u ∧ exec .vddAuxLoss s =
        .next { u with mgt := { u.mgt with rails := clrBit u.mgt.rails 5, fails := [0, 0], sess := {} } }) ∧
      (∀ v : State, v = { s with mgt := { s.mgt with resetN := false } } →
        (s.mgt.phase = .reset → s.mgt.railsGood = true → exec .resetNRelease s = .next v.boot) ∧
        (s.mgt.phase ≠ .reset ∨ s.mgt.railsGood = false → exec .resetNRelease s = .next v)) ∧
      (rail.val ≠ 5 → ∀ v : State, v = { s with mgt := { s.mgt with rails := setBit s.mgt.rails rail } } →
        (s.mgt.phase = .reset → v.mgt.railsGood = true → s.mgt.resetN = false → exec (.railPowerGood rail) s = .next v.boot) ∧
        (s.mgt.phase ≠ .reset ∨ v.mgt.railsGood = false ∨ s.mgt.resetN = true → exec (.railPowerGood rail) s = .next v)) ∧
      (rail.val = 5 → exec (.railPowerGood rail) s = .next s)) ∧
  (∀ (temp : BitVec 16) (s : State),
      (s.mgt.refclk = true → ∃ t, exec .refclkLoss s = .next t ∧ MgtOnly s t ∧
        t.mgt = { s.mgt with refclk := false, refLost := some s.now } ∧ (t.hdrAt pgRcp).evtRaw = (s.hdrAt pgRcp).evtRaw ||| 1) ∧
      (∀ e, s.mgt.refLost = some e → e + 4000 ≤ s.now →
        exec .pllStop s = .next { s with mgt := { s.mgt with pllLocked := false, refLost := none } }) ∧
      (∃ t, exec (.tempWarn temp) s = .next t ∧ MgtOnly s t ∧ t.mgt = { s.mgt with temp := temp } ∧
        (s.mgt.phase ≠ .unpowered → ((s.reg pgChip 0x11C).extractLsb' 0 16).toInt ≤ temp.toInt →
          s.mgt.temp.toInt < ((s.reg pgChip 0x11C).extractLsb' 0 16).toInt →
          (t.hdrAt pgChip).evtRaw = (s.hdrAt pgChip).evtRaw ||| 2) ∧
        (temp.toInt < ((s.reg pgChip 0x11C).extractLsb' 0 16).toInt → t.hdr = s.hdr)))

/-- Boot: from reset, with a valid slot, management firmware of the chosen slot starts; with none, the device enters recovery
mode, where only the CHIP, RCP, MBOX, UPD and PCIE pages are up (R413, R414). With FW_READY boot waits at CLOCK until REFCLK is present
(R405), and at BOOT_DONE every page is up and BOOT_FAILS of the booted slot is clear (R413). -/
def Obligations.BootStages : Prop :=
  ∀ s : State,
    (s.mgt.phase = .reset → s.mgt.railsGood = true → s.hdr = [] → ∃ t, exec .resetNRelease s = .next t ∧
      (s.bootSlot = none → t.mgt.phase = .recovery ∧ t.mgt.stage = .recovery ∧
        ∀ p, (t.hdrAt p).up = decide (p ∈ [pgChip, pgRcp, pgMbox, pgUpd, pgPcie])) ∧
      (∀ b, s.bootSlot = some b → t.mgt.phase = .booting ∧ t.mgt.stage = .mgt ∧ t.mgt.bootedB = b ∧ t.mgt.fwReady = s.mgt.fwReady)) ∧
    (s.mgt.phase = .booting → s.mgt.stage = .mgt → s.mgt.refclk = false → ∃ t, exec .fwReady s = .next t ∧
      t.mgt.fwReady = true ∧ t.mgt.stage = .clock ∧ t.mgt.pllLocked = s.mgt.pllLocked ∧ (t.hdrAt (pgTime 0)).up = true) ∧
    (s.mgt.phase ≠ .booting ∨ s.mgt.stage ≠ .clock →
      exec .refclkDetect s = .next { s with mgt := { s.mgt with refclk := true } }) ∧
    (s.mgt.phase = .booting → s.mgt.stage = .clock → ∃ t, exec .refclkDetect s = .next t ∧ t.mgt.refclk = true ∧
      t.mgt.pllLocked = true ∧ t.mgt.phase = .booting ∧ (t.hdrAt pgHmc).up = true ∧ ∀ d < 4, (t.hdrAt (pgTime d)).up = true) ∧
    (s.mgt.phase = .booting → s.mgt.stage = .links ∨ s.mgt.stage = .peFw ∨ s.mgt.stage = .banks → ∃ t, exec .bootDone s = .next t ∧
      t.mgt.phase = .up ∧ t.mgt.stage = .done ∧ (∀ p ∈ sources, (t.hdrAt p).up = true) ∧
      t.mgt.fails = s.mgt.fails.set (b2n s.mgt.bootedB) 0 ∧ (t.hdrAt pgChip).evtRaw.getLsbD 0 = true)

/-- The mailbox handshake: a DOORBELL while a request is busy or a response valid is refused with MBOX_BUSY; otherwise REQ_BUSY is set
and the request waits for firmware, in front of those of neighbours of its cycle; an unknown command is answered BAD_CMD; an ACK clears
RSP_VALID, except in the cycle that set it (R395). A neighbour's message joins the queue while its port is UP (R415).
Queries of the host, answered OK with their words: the component versions of the booted bundle, the temperatures, the session's
status; and the pin record, which names slot A, slot B or none and takes no other value (R395, R413, R415). -/
def Obligations.Mailbox : Prop :=
  (∀ (port : Fin 6) (words : List Word32) (s : State),
      let req : MboxReq := { src := none, words := (List.range 16).map (fun i => s.reg pgMbox (0x200 + 4 * i)), edge := s.now }
      (s.ready pgMbox = true → s.mgt.mboxBusy = true ∨ s.mgt.rspValid = true → exec .doorbell s = .next (s.recordErr pgMbox 0x0050) ∧
        s.recordErr pgMbox 0x0050 = { s with hdr := (s.recordErr pgMbox 0x0050).hdr }) ∧
      (s.ready pgMbox = true → s.mgt.mboxBusy = false → s.mgt.rspValid = false →
        (s.mgt.agent = false ∨ (s.mgt.waiting = [] ∧ s.mgt.knows req.cmd = true ∧ lenOk req = true) →
          exec .doorbell s = .next { s with mgt := { s.mgt with
            mboxBusy := true, waiting := s.mgt.waiting.filter (fun x => x.edge ≠ s.now) ++ [req] ++ s.mgt.waiting.filter (fun x => x.edge = s.now) } }) ∧
        (s.mgt.agent = true → s.mgt.waiting = [] → s.mgt.knows req.cmd = false → ∃ t, exec .doorbell s = .next t ∧ MgtOnly s t ∧
          t.mgt = s.mgt.answered req 1 [] s.now)) ∧
      (s.ready pgMbox = true → s.mgt.rspValid = true →
        (s.mgt.rspEdge ≠ s.now + 1 → exec .mboxAck s = .next { s with mgt := { s.mgt with rspValid := false } }) ∧
        (s.mgt.rspEdge = s.now + 1 → exec .mboxAck s = .next s)) ∧
      ((s.zpAt port).isUp = true → s.mgt.agent = false → exec (.mboxMessage port words) s = .next { s with mgt := { s.mgt with
        waiting := s.mgt.waiting ++ [{ src := some port.val, words := words, edge := s.now }] } }) ∧
      ((s.zpAt port).isUp = false → exec (.mboxMessage port words) s = .next s)) ∧
  (∀ (r : MboxReq) (s : State),
      (Asked 1 r s → ∃ t, exec .versions s = .next t ∧ MgtOnly s t ∧ t.mgt = s.mgt.answered r 0
        ((List.range 5).map (fun i => BitVec.ofNat 32 (comp (s.slotHeader s.mgt.bootedB) i 4 4))) s.now) ∧
      (Asked 2 r s → ∃ t, exec .temps s = .next t ∧ MgtOnly s t ∧ t.mgt = s.mgt.answered r 0
        [s.mgt.temp.signExtend 32, BitVec.ofInt 32 (s.pcAt 0).temp, BitVec.ofInt 32 (s.pcAt 32).temp] s.now) ∧
      (Asked 0x25 r s → ∃ t, exec .updStatus s = .next t ∧ MgtOnly s t ∧
        t.mgt = s.mgt.answered r 0 [s.mgt.sess.stat, BitVec.ofNat 32 s.mgt.sess.bytes] s.now) ∧
      (Asked 0x24 r s → ∃ t, exec .updPin s = .next t ∧ MgtOnly s t ∧
        t.mgt = (if r.w 1 = 0 then { s.mgt with pin := some false } else if r.w 1 = 1 then { s.mgt with pin := some true }
          else if r.w 1 = 2 then { s.mgt with pin := none } else s.mgt).answered r (if r.w 1 ≤ 2 then 0 else 5) [] s.now))

/-- Update sessions of the host: the first UPD_OPEN takes the lock, erases the trailer sector of the slot that did not boot and opens
the session; while another source holds the lock 0x20 to 0x23 are answered BUSY, and without a session of its own 0x21 to 0x23
DENIED; UPD_DATA appends the bytes read from HBM; UPD_COMMIT waits for trailer and commit word once the whole payload is programmed;
UPD_ABORT ends the session with reason ABORTED and frees the lock (R415). -/
def Obligations.UpdateSessions : Prop :=
  ∀ (r : MboxReq) (s : State),
    let base := slotBase s.mgt.target
    (Asked 0x20 r s → s.mgt.sess.active = false → ∃ t, exec .updOpen s = .next t ∧
      MgtOnly { s with freeCtr := s.freeCtr + 1 } t ∧
      t.mgt = { s.mgt with
        flash := t.mgt.flash, flashOps := [.erase],
        sess := { state := .receiving, owner := some none, targetB := s.mgt.target, total := (r.w 1).toNat, dataAt := s.now,
                  storeIv := t.mgt.sess.storeIv } }.answered r 0 [] s.now ∧
      (∀ a, t.flashByte a = if a / 65536 = (base + 0xFFFF00) / 65536 then 0xFF else s.flashByte a)) ∧
    (∀ c ∈ [(0x20, Instr.updOpen), (0x21, .updData), (0x22, .updCommit), (0x23, .updAbort)], Asked c.1 r s →
      (∀ p, s.mgt.sess.active = true → s.mgt.sess.owner = some (some p) → ∃ t, exec c.2 s = .next t ∧ MgtOnly s t ∧
        t.mgt = s.mgt.answered r 3 [] s.now) ∧
      (c.1 ≠ 0x20 → s.mgt.sess.active = false → ∃ t, exec c.2 s = .next t ∧ MgtOnly s t ∧ t.mgt = s.mgt.answered r 5 [] s.now ∧
        (t.hdrAt pgUpd).evtRaw.getLsbD 2 = true)) ∧
    (Asked 0x21 r s → s.mgt.sess.state = .receiving → s.mgt.sess.owner = some none →
      s.mgt.sess.received.length + (r.w 3).toNat < 1024 → s.mgt.sess.received.length + (r.w 3).toNat ≤ s.mgt.sess.total →
      s.readStatus (pair64 (r.w 1) (r.w 2)).toNat (r.w 3).toNat = .ok → ∃ t, exec .updData s = .next t ∧ MgtOnly s t ∧
      t.mgt = { s.mgt with sess := { s.mgt.sess with
        received := s.mgt.sess.received ++ s.hbmRead (pair64 (r.w 1) (r.w 2)).toNat (r.w 3).toNat, dataAt := s.now
        } }.answered r 0 [] s.now) ∧
    (Asked 0x22 r s → s.mgt.sess.state = .headerOk → s.mgt.sess.owner = some none → s.mgt.flashOps = [] →
      (s.mgt.sess.bytes = 1024 + payloadBytes s.mgt.sess.header → exec .updCommit s = .next { s with mgt := { s.mgt with
        waiting := [], flashOps := [.trailer, .commit], sess := { s.mgt.sess with state := .committing, commitReq := some r } } }) ∧
      (s.mgt.sess.bytes ≠ 1024 + payloadBytes s.mgt.sess.header → ∃ t, exec .updCommit s = .next t ∧ MgtOnly s t ∧
        t.mgt = s.mgt.answered r 5 [] s.now)) ∧
    (Asked 0x23 r s → s.mgt.sess.state = .receiving ∨ s.mgt.sess.state = .headerOk → s.mgt.sess.owner = some none →
      s.mgt.sess.commitReq = none → ∃ t, exec .updAbort s = .next t ∧ MgtOnly s t ∧
      t.mgt = { s.mgt with
        flashOps := [], sess := { s.mgt.sess with state := .failed, reason := .aborted, owner := none, expect := 0 } }.answered r 0 [] s.now ∧
      (t.hdrAt pgUpd).evtRaw.getLsbD 0 = true)

/-- What the flash and the clock do to a session: the trailer sector's erase and each programmed chunk leave the queue of operations,
a chunk counts into SESS_BYTES, the commit word ends the session DONE and clears BOOT_FAILS of its slot, an error fails it with reason
FLASH (R413, R415); without data for SESS_TIMEOUT seconds it fails with reason TIMEOUT, and not before (R415). -/
def Obligations.SessionProgress : Prop :=
  ∀ (ok : Bool) (l : List FlashOp) (s : State),
    let v := s.mgt.sess
    (s.mgt.flashOps = .erase :: l → exec (.flashProgramComplete true) s = .next { s with mgt := { s.mgt with flashOps := l } }) ∧
    (∀ n, s.mgt.flashOps = .program n :: l → ∃ t, exec (.flashProgramComplete true) s = .next t ∧
      t = { s with mgt := { s.mgt with flash := t.mgt.flash, flashOps := l, sess := { v with bytes := v.bytes + n } } }) ∧
    (s.mgt.flashOps = .trailer :: l → ∃ t, exec (.flashProgramComplete true) s = .next t ∧
      t = { s with mgt := { s.mgt with flash := t.mgt.flash, flashOps := l } }) ∧
    (s.mgt.flashOps = [.commit] → v.commitReq = none → ∃ t, exec (.flashProgramComplete true) s = .next t ∧ MgtOnly s t ∧
      t.mgt = { s.mgt with flash := t.mgt.flash, flashOps := [], fails := s.mgt.fails.set (b2n v.targetB) 0,
                           sess := { v with state := .done, reason := .none, owner := none, expect := 0 } } ∧
      leNat (t.flashRead (slotBase v.targetB + 0xFFFFFC) 4) = 0x3C5AA5C3) ∧
    (s.mgt.flashOps ≠ [] → v.active = true → v.commitReq = none → ∃ t, exec (.flashProgramComplete false) s = .next t ∧ MgtOnly s t ∧
      t.mgt = { s.mgt with flashOps := [], sess := { v with state := .failed, reason := .flash, owner := none, expect := 0 } }) ∧
    (s.mgt.flashOps = [] → exec (.flashProgramComplete ok) s = .next s) ∧
    (v.state = .receiving ∨ v.state = .headerOk → v.commitReq = none →
      (v.dataAt + s.regN pgUpd 0x10C * edgesSec ≤ s.now → ∃ t, exec .sessionTimeout s = .next t ∧ MgtOnly s t ∧
        t.mgt = { s.mgt with flashOps := [], sess := { v with state := .failed, reason := .timeout, owner := none, expect := 0 } }) ∧
      (s.now < v.dataAt + s.regN pgUpd 0x10C * edgesSec → exec .sessionTimeout s = .next s))

/-- Key fuses: EPOCH_BUMP programs the next epoch fuse when the booted slot's EPOCH reaches it, REVOKE the fuse of a slot that is
neither the booted slot's signer nor the last one left; without VQPS both are answered DENIED (R416), and while a burn runs BUSY.
FUSE_BUF fills the burn buffer, FUSE_BURN is refused as R335 says (R415). -/
def Obligations.KeyFuses : Prop :=
  ∀ (r : MboxReq) (s : State),
    let own := s.slotHeader s.mgt.bootedB
    let one := fun (n : Nat) (t : State) => MgtOnly { s with fuse := t.fuse } t ∧ t.fuse = { s.fuse with words := t.fuse.words } ∧
      t.fuseWord (n / 32) = setBit (s.fuseWord (n / 32)) (n % 32) ∧ (∀ k, k ≠ n / 32 → t.fuseWord k = s.fuseWord k) ∧
      t.mgt = s.mgt.answered r 0 [] s.now
    (Asked 0x28 r s → s.fuse.burn = none → s.vqps = true → s.epoch < 64 → s.epoch + 1 ≤ bundleEpoch own →
      ∃ t, exec .epochBump s = .next t ∧ one (18048 + s.epoch) t) ∧
    (Asked 0x29 r s → s.fuse.burn = none → s.vqps = true → (r.w 1).toNat < 3 → (r.w 1).toNat ≠ bundleSigner own →
      (∃ i < 3, i ≠ (r.w 1).toNat ∧ s.revoked.getLsbD i = false) →
      ∃ t, exec .revoke s = .next t ∧ one (18112 + (r.w 1).toNat) t) ∧
    (∀ c ∈ [(0x28, Instr.epochBump), (0x29, .revoke)], Asked c.1 r s →
      (s.fuse.burn = none → s.vqps = false → ∃ t, exec c.2 s = .next t ∧ MgtOnly s t ∧ t.mgt = s.mgt.answered r 5 [] s.now) ∧
      (s.fuse.burn ≠ none → ∃ t, exec c.2 s = .next t ∧ MgtOnly s t ∧ t.mgt = s.mgt.answered r 3 [] s.now)) ∧
    (Asked 0x2A r s → ∃ t, exec .fuseBuf s = .next t ∧ MgtOnly { s with fuse := { s.fuse with buf := t.fuse.buf } } t ∧
      t.mgt = s.mgt.answered r 0 [] s.now ∧
      ∀ i < r.len - 1, sget 0 t.fuse.buf (((r.w 1).toNat + i) % 512) = r.w (2 + i)) ∧
    (Asked 0x2B r s →
      (s.fuse.burn ≠ none → ∃ t, exec .fuseBurn s = .next t ∧ MgtOnly { s with fuse := { s.fuse with cmdStat := 1 } } t ∧
        t.mgt = s.mgt.answered r 3 [] s.now) ∧
      (∀ len, len = (r.w 1).toNat / 65536 % 256 → s.fuse.burn = none → len + 1 ≤ s.fuse.free →
        (s.vqps = false → ∃ t, exec .fuseBurn s = .next t ∧ MgtOnly { s with fuse := { s.fuse with cmdStat := 3 } } t ∧
          t.mgt = s.mgt.answered r 5 [] s.now) ∧
        (s.vqps = true → 0 < len → len ≤ 64 → ∃ t b, exec .fuseBurn s = .next t ∧
          MgtOnly { s with fuse := { s.fuse with free := s.fuse.free - (len + 1), burnBlock := 184 - s.fuse.free, burn := some b } } t ∧
          t.mgt = s.mgt.answered r 0 [] s.now)))

/-- A step with a command in front is that command's effect with the rest of the queue. -/
def Obligations.StepRunsTheFrontCommand : Prop :=
  ∀ (c : Instr) (l : List Instr) (s : State), s.pending = c :: l → step s = exec c { s with pending := l }

/-- On an empty queue a step is one PFCLK edge (the model's choice, assumption 4): the edge count rises by one and the queue stays
empty. -/
def Obligations.IdleStepIsOneEdge : Prop :=
  ∀ s : State, s.pending = [] → ∃ t, step s = .next t ∧ t.now = s.now + 1 ∧ t.pending = []

/-- The header of every page after reset, as a read returns it: PAGE_VER 2.0, PAGE_CTRL with ENABLE alone, no state bit, no event,
every event masked, no error (the common page header's reset column, R384). -/
def Obligations.HeadersAfterReset : Prop :=
  ∀ page, pageExists page = true →
    State.reset.readReg page 4 = 0x200 ∧ State.reset.readReg page 8 = 1 ∧ State.reset.readReg page 0xC = 0 ∧
    State.reset.readReg page 0x10 = 0 ∧ State.reset.readReg page 0x14 = 0xFFFFFFFF ∧ State.reset.readReg page 0x18 = 0 ∧
    State.reset.readReg page 0x1C = 0 ∧ State.reset.readReg page 0x20 = 0

/-- HBM of the state after reset is in canonical form. -/
def Obligations.ResetKeepsTheInvariant : Prop :=
 State.reset.Inv

/-- Every step that goes on keeps HBM in canonical form: its addresses strictly rising, and no entry equal to what an unlisted byte
reads as. -/
def Obligations.StepKeepsTheInvariant : Prop :=
  ∀ s t : State, s.Inv → Goes s t → t.Inv

/-- Of all commands only accesses of registers, tables, control stores and memory, and an accepted arm, can be undefined behaviour;
every other command has an effect in every state (R396: no other act is). No command is ever refused. -/
def Obligations.OnlyListedActsAreUndefined : Prop :=
  ∀ (c : Instr) (s : State),
    (∃ t, exec c s = .next t) ∨ (∃ k, exec c s = .fault (.undefinedBehaviour k) ∧ 1 ≤ k ∧ k ≤ 13 ∧
      (match c with
        | .registerWrite .. | .lowWordRead .. | .pageSoftReset .. | .freeze .. | .errorClear .. | .evtRawClear .. | .evtMaskWrite ..
        | .tssTableWrite .. | .apgTableWrite .. | .extData .. | .coefData .. | .csData .. | .castHeaderReadDone .. | .bar4Access ..
        | .copyComplete .. | .hbmTransferComplete .. | .captureWriteComplete .. | .or64 .. | .addsat15 .. | .msfOutputWrite .. => True
        | _ => False))

/-- The counters of a SEQ page at 0x1A0 to 0x1C8 read 0 behind an accepted arm (R73). -/
def Obligations.AcceptedArmClearsCounters : Prop :=
  ∀ (q : Fin 64) (res : HbmStatus) (c : CastInfo) (s : State),
    (s.seqAt q).arming = .header → (s.seqAt q).armEdge ≤ s.now → armCheck q res s = .ok c → c.chans.any (fun ch => s.chanInUse ch) = false →
    ∃ t, exec (.castHeaderReadDone q res) s = .next t ∧
      ∀ off, 0x1A0 ≤ off → off ≤ 0x1C8 → off % 4 = 0 → t.liveReg (pgSeq q) off = 0

/-- DISCARD empties the open batch and a soft reset of the control block does the same and clears STG_REFUSED; closed batches and
every item staged in them stay, and so do the tables (R170). -/
def Obligations.DiscardKeepsClosedBatches : Prop :=
  ∀ (page : BitVec 16) (s : State), page.toNat = pgTss → s.ready pgTss = true →
    (∃ t, exec .discard s = .next t ∧ t.tss.openItems = [] ∧ t.tss.parts = s.tss.parts ∧ t.tss.log = s.tss.log ∧
      t.tss.entries = s.tss.entries ∧ t.tss.headers = s.tss.headers ∧ t.tss.refused = s.tss.refused) ∧
    (∃ t, exec (.pageSoftReset page) s = .next t ∧ t.tss = { s.tss with openItems := [], refused := 0 })

/-- A soft reset of the HMC page clears the port counters and returns CTRL, SCRUB_PERIOD and UE_LIMIT to their reset values; the
partition map, the rates and every request stay (R360). -/
def Obligations.HmcPageSoftReset : Prop :=
  ∀ (page : BitVec 16) (s : State), page.toNat = pgHmc → s.ready pgHmc = true →
    ∃ t, exec (.pageSoftReset page) s = .next t ∧ t.hmc = { s.hmc with ports := t.hmc.ports } ∧
      (∀ p < 8, t.hportAt p = {}) ∧ t.reg pgHmc 0x100 = resetAt pgHmc 0x100 ∧ t.reg pgHmc 0x11C = resetAt pgHmc 0x11C ∧
      t.reg pgHmc 0x120 = resetAt pgHmc 0x120 ∧ t.hbm = s.hbm ∧
      (∀ p off, off < 0x1000 → ¬ (p = pgHmc ∧ (off = 0x100 ∨ off = 0x11C ∨ off = 0x120)) → t.reg p off = s.reg p off)

/-- Drive and compare ports: high-impedance while the bank is OFF, so in the state after reset, and both pairs driven in every other state
of the bank (R178); termination by bank state and TERM_OFF (R179); a loopback acts only on a channel of an ON bank in no map, a
reserved mode acts as NONE, and PORT drives DAT with EN deasserted and shows no plinth state (R190, R191); a transition whose
instant falls in the cycle that begins changes its port's level and no other port. -/
def Obligations.PortsAndLoopback : Prop :=
  (∀ c, State.reset.portLevel c = .hiZ) ∧
  (∀ (c : Nat) (s : State),
      let bank := (s.bankAt (c / 32)).state
      let mode := (s.reg (pgCh c) 0x10C).toNat % 8
      let stat := s.liveReg (pgCh c) 0x110
      (s.portLevel c = .hiZ ↔ bank = .off) ∧
      (s.termOn c = true ↔ (bank = .sleep ∨ bank = .waking ∨ bank = .on) ∧ (s.reg (pgCh c) 0x104).getLsbD 3 = false) ∧
      (c < 512 → (stat.getLsbD 30 = true ↔ bank = .on ∧ s.chanInUse c = false ∧ 1 ≤ mode ∧ mode ≤ 3)) ∧
      (c < 512 → (stat.getLsbD 31 = true ↔ bank = .off ∨
        ((s.chanAt c).plinth = true ∧ ¬ (bank = .on ∧ s.chanInUse c = false ∧ mode = 3)))) ∧
      (bank = .on → s.chanInUse c = false → mode = 3 → s.portLevel c = .driven (s.chanAt c).datOut false)) ∧
  (∀ (c : Nat) (x : Trans) (s : State), (s.chanAt c).sched = [x] → x.at_ < (s.now + 1) * 4096 → (s.chanAt c).holds x = false →
      (∀ j, j ≠ c → (s.chanAt j).sched = []) →
      s.portTick.outbox = s.outbox ++ [.port c x.en x.lvl x.at_] ∧ (s.portTick.chanAt c).sched = [] ∧
      (s.portTick.chanAt c).enOut = (if x.en then x.lvl else (s.chanAt c).enOut) ∧
      (s.portTick.chanAt c).datOut = (if x.en then (s.chanAt c).datOut else x.lvl) ∧
      ∀ j, j ≠ c → (s.portTick.chanAt j).enOut = (s.chanAt j).enOut ∧ (s.portTick.chanAt j).datOut = (s.chanAt j).datOut)
end

