-- ==== Sys2Proof/Laws/State.lean ====
section
/-! SUPPORT. What each store to a numbered unit leaves unchanged: one lemma per field per update, true by rfl, so that no
later proof unfolds a record update; and what a read of the unit sees after it. -/
namespace Sys2Proof.Machine

/-- A read after a store: the stored value at its key, the old one elsewhere. -/
theorem sget_sput {α : Type} (d : α) (m : Sparse α) (k : Nat) (v : α) (j : Nat) :
    sget d (sput m k v) j = if j = k then v else sget d m j := by
  induction m with
  | nil => by_cases h : k = j <;> simp [sput, sget, h, eq_comm]
  | cons e t ih =>
    obtain ⟨k', v'⟩ := e
    by_cases h1 : k = k'
    · subst h1; by_cases h : k = j
      · simp [sput, sget, h]
      · simp [sput, sget, h, Ne.symm h]
    · by_cases h2 : k < k'
      · by_cases h : k = j
        · subst h; simp [sput, sget, h1, h2]
        · simp [sput, sget, h1, h2, h, Ne.symm h]
      · by_cases h : k = j
        · subst h; simp [sput, sget, h1, h2, ih, Ne.symm h1]
        · simp [sput, sget, h1, h2, ih, Ne.symm h]

variable (s : State)


/-! setSeq -/
@[simp] theorem setSeq_seqAt (k j : Nat) (v : Seq) : (s.setSeq k v).seqAt j = if j = k then v else s.seqAt j := sget_sput _ _ _ _ _
@[simp] theorem setSeq_pending (k : Nat) (v : Seq) : (s.setSeq k v).pending = s.pending := rfl
@[simp] theorem setSeq_now (k : Nat) (v : Seq) : (s.setSeq k v).now = s.now := rfl
@[simp] theorem setSeq_freeCtr (k : Nat) (v : Seq) : (s.setSeq k v).freeCtr = s.freeCtr := rfl
@[simp] theorem setSeq_outbox (k : Nat) (v : Seq) : (s.setSeq k v).outbox = s.outbox := rfl
@[simp] theorem setSeq_hostOut (k : Nat) (v : Seq) : (s.setSeq k v).hostOut = s.hostOut := rfl
@[simp] theorem setSeq_hdr (k : Nat) (v : Seq) : (s.setSeq k v).hdr = s.hdr := rfl
@[simp] theorem setSeq_redo (k : Nat) (v : Seq) : (s.setSeq k v).redo = s.redo := rfl
@[simp] theorem setSeq_msixOn (k : Nat) (v : Seq) : (s.setSeq k v).msixOn = s.msixOn := rfl
@[simp] theorem setSeq_msixPend (k : Nat) (v : Seq) : (s.setSeq k v).msixPend = s.msixPend := rfl
@[simp] theorem setSeq_pcieHeld (k : Nat) (v : Seq) : (s.setSeq k v).pcieHeld = s.pcieHeld := rfl
@[simp] theorem setSeq_regs (k : Nat) (v : Seq) : (s.setSeq k v).regs = s.regs := rfl
@[simp] theorem setSeq_latches (k : Nat) (v : Seq) : (s.setSeq k v).latches = s.latches := rfl
@[simp] theorem setSeq_hbm (k : Nat) (v : Seq) : (s.setSeq k v).hbm = s.hbm := rfl
@[simp] theorem setSeq_hbmBad (k : Nat) (v : Seq) : (s.setSeq k v).hbmBad = s.hbmBad := rfl
@[simp] theorem setSeq_hbmLost (k : Nat) (v : Seq) : (s.setSeq k v).hbmLost = s.hbmLost := rfl
@[simp] theorem setSeq_apg (k : Nat) (v : Seq) : (s.setSeq k v).apg = s.apg := rfl
@[simp] theorem setSeq_apgTab (k : Nat) (v : Seq) : (s.setSeq k v).apgTab = s.apgTab := rfl
@[simp] theorem setSeq_chan (k : Nat) (v : Seq) : (s.setSeq k v).chan = s.chan := rfl
@[simp] theorem setSeq_bank (k : Nat) (v : Seq) : (s.setSeq k v).bank = s.bank := rfl
@[simp] theorem setSeq_bankQueue (k : Nat) (v : Seq) : (s.setSeq k v).bankQueue = s.bankQueue := rfl
@[simp] theorem setSeq_bankLastStart (k : Nat) (v : Seq) : (s.setSeq k v).bankLastStart = s.bankLastStart := rfl
@[simp] theorem setSeq_tss (k : Nat) (v : Seq) : (s.setSeq k v).tss = s.tss := rfl
@[simp] theorem setSeq_cap (k : Nat) (v : Seq) : (s.setSeq k v).cap = s.cap := rfl
@[simp] theorem setSeq_trg (k : Nat) (v : Seq) : (s.setSeq k v).trg = s.trg := rfl
@[simp] theorem setSeq_align (k : Nat) (v : Seq) : (s.setSeq k v).align = s.align := rfl
@[simp] theorem setSeq_merge (k : Nat) (v : Seq) : (s.setSeq k v).merge = s.merge := rfl
@[simp] theorem setSeq_td (k : Nat) (v : Seq) : (s.setSeq k v).td = s.td := rfl
@[simp] theorem setSeq_pair (k : Nat) (v : Seq) : (s.setSeq k v).pair = s.pair := rfl
@[simp] theorem setSeq_sync (k : Nat) (v : Seq) : (s.setSeq k v).sync = s.sync := rfl
@[simp] theorem setSeq_cal (k : Nat) (v : Seq) : (s.setSeq k v).cal = s.cal := rfl
@[simp] theorem setSeq_fuse (k : Nat) (v : Seq) : (s.setSeq k v).fuse = s.fuse := rfl
@[simp] theorem setSeq_sch (k : Nat) (v : Seq) : (s.setSeq k v).sch = s.sch := rfl
@[simp] theorem setSeq_zp (k : Nat) (v : Seq) : (s.setSeq k v).zp = s.zp := rfl
@[simp] theorem setSeq_pl (k : Nat) (v : Seq) : (s.setSeq k v).pl = s.pl := rfl
@[simp] theorem setSeq_pcie (k : Nat) (v : Seq) : (s.setSeq k v).pcie = s.pcie := rfl
@[simp] theorem setSeq_hmc (k : Nat) (v : Seq) : (s.setSeq k v).hmc = s.hmc := rfl
@[simp] theorem setSeq_we (k : Nat) (v : Seq) : (s.setSeq k v).we = s.we := rfl
@[simp] theorem setSeq_ce (k : Nat) (v : Seq) : (s.setSeq k v).ce = s.ce := rfl
@[simp] theorem setSeq_ms (k : Nat) (v : Seq) : (s.setSeq k v).ms = s.ms := rfl
@[simp] theorem setSeq_ss (k : Nat) (v : Seq) : (s.setSeq k v).ss = s.ss := rfl
@[simp] theorem setSeq_tim (k : Nat) (v : Seq) : (s.setSeq k v).tim = s.tim := rfl
@[simp] theorem setSeq_mgt (k : Nat) (v : Seq) : (s.setSeq k v).mgt = s.mgt := rfl
@[simp] theorem setSeq_apgAt (k j : Nat) (v : Seq) : (s.setSeq k v).apgAt j = s.apgAt j := rfl
@[simp] theorem setSeq_chanAt (k j : Nat) (v : Seq) : (s.setSeq k v).chanAt j = s.chanAt j := rfl
@[simp] theorem setSeq_bankAt (k j : Nat) (v : Seq) : (s.setSeq k v).bankAt j = s.bankAt j := rfl
@[simp] theorem setSeq_capAt (k j : Nat) (v : Seq) : (s.setSeq k v).capAt j = s.capAt j := rfl
@[simp] theorem setSeq_alignAt (k j : Nat) (v : Seq) : (s.setSeq k v).alignAt j = s.alignAt j := rfl
@[simp] theorem setSeq_tdAt (k j : Nat) (v : Seq) : (s.setSeq k v).tdAt j = s.tdAt j := rfl
@[simp] theorem setSeq_pairAt (k j : Nat) (v : Seq) : (s.setSeq k v).pairAt j = s.pairAt j := rfl
@[simp] theorem setSeq_hdrAt (k j : Nat) (v : Seq) : (s.setSeq k v).hdrAt j = s.hdrAt j := rfl
@[simp] theorem setSeq_zpAt (k j : Nat) (v : Seq) : (s.setSeq k v).zpAt j = s.zpAt j := rfl
@[simp] theorem setSeq_plAt (k j : Nat) (v : Seq) : (s.setSeq k v).plAt j = s.plAt j := rfl
@[simp] theorem setSeq_weAt (k j : Nat) (v : Seq) : (s.setSeq k v).weAt j = s.weAt j := rfl
@[simp] theorem setSeq_ceAt (k j : Nat) (v : Seq) : (s.setSeq k v).ceAt j = s.ceAt j := rfl
@[simp] theorem setSeq_msAt (k j : Nat) (v : Seq) : (s.setSeq k v).msAt j = s.msAt j := rfl
@[simp] theorem setSeq_ssAt (k j : Nat) (v : Seq) : (s.setSeq k v).ssAt j = s.ssAt j := rfl
@[simp] theorem setSeq_timAt (k j : Nat) (v : Seq) : (s.setSeq k v).timAt j = s.timAt j := rfl
@[simp] theorem setSeq_unitAt (k j : Nat) (v : Seq) : (s.setSeq k v).unitAt j = s.unitAt j := rfl
@[simp] theorem setSeq_pcAt (k j : Nat) (v : Seq) : (s.setSeq k v).pcAt j = s.pcAt j := rfl
@[simp] theorem setSeq_hportAt (k j : Nat) (v : Seq) : (s.setSeq k v).hportAt j = s.hportAt j := rfl
@[simp] theorem setSeq_stackAt (k j : Nat) (v : Seq) : (s.setSeq k v).stackAt j = s.stackAt j := rfl
@[simp] theorem setSeq_taskAt (k j : Nat) (v : Seq) : (s.setSeq k v).taskAt j = s.taskAt j := rfl
@[simp] theorem setSeq_execAt (k j : Nat) (v : Seq) : (s.setSeq k v).execAt j = s.execAt j := rfl
@[simp] theorem setSeq_portAt (k j : Nat) (v : Seq) : (s.setSeq k v).portAt j = s.portAt j := rfl
@[simp] theorem setSeq_reg (k p o : Nat) (v : Seq) : (s.setSeq k v).reg p o = s.reg p o := rfl
@[simp] theorem setSeq_regN (k p o : Nat) (v : Seq) : (s.setSeq k v).regN p o = s.regN p o := rfl
@[simp] theorem setSeq_reg64 (k p o : Nat) (v : Seq) : (s.setSeq k v).reg64 p o = s.reg64 p o := rfl
@[simp] theorem setSeq_ready (k p : Nat) (v : Seq) : (s.setSeq k v).ready p = s.ready p := rfl
@[simp] theorem modSeq_eq (k : Nat) (f : Seq → Seq) : s.modSeq k f = s.setSeq k (f (s.seqAt k)) := rfl

/-! setApg -/
@[simp] theorem setApg_apgAt (k j : Nat) (v : Apg) : (s.setApg k v).apgAt j = if j = k then v else s.apgAt j := sget_sput _ _ _ _ _
@[simp] theorem setApg_pending (k : Nat) (v : Apg) : (s.setApg k v).pending = s.pending := rfl
@[simp] theorem setApg_now (k : Nat) (v : Apg) : (s.setApg k v).now = s.now := rfl
@[simp] theorem setApg_freeCtr (k : Nat) (v : Apg) : (s.setApg k v).freeCtr = s.freeCtr := rfl
@[simp] theorem setApg_outbox (k : Nat) (v : Apg) : (s.setApg k v).outbox = s.outbox := rfl
@[simp] theorem setApg_hostOut (k : Nat) (v : Apg) : (s.setApg k v).hostOut = s.hostOut := rfl
@[simp] theorem setApg_hdr (k : Nat) (v : Apg) : (s.setApg k v).hdr = s.hdr := rfl
@[simp] theorem setApg_redo (k : Nat) (v : Apg) : (s.setApg k v).redo = s.redo := rfl
@[simp] theorem setApg_msixOn (k : Nat) (v : Apg) : (s.setApg k v).msixOn = s.msixOn := rfl
@[simp] theorem setApg_msixPend (k : Nat) (v : Apg) : (s.setApg k v).msixPend = s.msixPend := rfl
@[simp] theorem setApg_pcieHeld (k : Nat) (v : Apg) : (s.setApg k v).pcieHeld = s.pcieHeld := rfl
@[simp] theorem setApg_regs (k : Nat) (v : Apg) : (s.setApg k v).regs = s.regs := rfl
@[simp] theorem setApg_latches (k : Nat) (v : Apg) : (s.setApg k v).latches = s.latches := rfl
@[simp] theorem setApg_hbm (k : Nat) (v : Apg) : (s.setApg k v).hbm = s.hbm := rfl
@[simp] theorem setApg_hbmBad (k : Nat) (v : Apg) : (s.setApg k v).hbmBad = s.hbmBad := rfl
@[simp] theorem setApg_hbmLost (k : Nat) (v : Apg) : (s.setApg k v).hbmLost = s.hbmLost := rfl
@[simp] theorem setApg_seq (k : Nat) (v : Apg) : (s.setApg k v).seq = s.seq := rfl
@[simp] theorem setApg_apgTab (k : Nat) (v : Apg) : (s.setApg k v).apgTab = s.apgTab := rfl
@[simp] theorem setApg_chan (k : Nat) (v : Apg) : (s.setApg k v).chan = s.chan := rfl
@[simp] theorem setApg_bank (k : Nat) (v : Apg) : (s.setApg k v).bank = s.bank := rfl
@[simp] theorem setApg_bankQueue (k : Nat) (v : Apg) : (s.setApg k v).bankQueue = s.bankQueue := rfl
@[simp] theorem setApg_bankLastStart (k : Nat) (v : Apg) : (s.setApg k v).bankLastStart = s.bankLastStart := rfl
@[simp] theorem setApg_tss (k : Nat) (v : Apg) : (s.setApg k v).tss = s.tss := rfl
@[simp] theorem setApg_cap (k : Nat) (v : Apg) : (s.setApg k v).cap = s.cap := rfl
@[simp] theorem setApg_trg (k : Nat) (v : Apg) : (s.setApg k v).trg = s.trg := rfl
@[simp] theorem setApg_align (k : Nat) (v : Apg) : (s.setApg k v).align = s.align := rfl
@[simp] theorem setApg_merge (k : Nat) (v : Apg) : (s.setApg k v).merge = s.merge := rfl
@[simp] theorem setApg_td (k : Nat) (v : Apg) : (s.setApg k v).td = s.td := rfl
@[simp] theorem setApg_pair (k : Nat) (v : Apg) : (s.setApg k v).pair = s.pair := rfl
@[simp] theorem setApg_sync (k : Nat) (v : Apg) : (s.setApg k v).sync = s.sync := rfl
@[simp] theorem setApg_cal (k : Nat) (v : Apg) : (s.setApg k v).cal = s.cal := rfl
@[simp] theorem setApg_fuse (k : Nat) (v : Apg) : (s.setApg k v).fuse = s.fuse := rfl
@[simp] theorem setApg_sch (k : Nat) (v : Apg) : (s.setApg k v).sch = s.sch := rfl
@[simp] theorem setApg_zp (k : Nat) (v : Apg) : (s.setApg k v).zp = s.zp := rfl
@[simp] theorem setApg_pl (k : Nat) (v : Apg) : (s.setApg k v).pl = s.pl := rfl
@[simp] theorem setApg_pcie (k : Nat) (v : Apg) : (s.setApg k v).pcie = s.pcie := rfl
@[simp] theorem setApg_hmc (k : Nat) (v : Apg) : (s.setApg k v).hmc = s.hmc := rfl
@[simp] theorem setApg_we (k : Nat) (v : Apg) : (s.setApg k v).we = s.we := rfl
@[simp] theorem setApg_ce (k : Nat) (v : Apg) : (s.setApg k v).ce = s.ce := rfl
@[simp] theorem setApg_ms (k : Nat) (v : Apg) : (s.setApg k v).ms = s.ms := rfl
@[simp] theorem setApg_ss (k : Nat) (v : Apg) : (s.setApg k v).ss = s.ss := rfl
@[simp] theorem setApg_tim (k : Nat) (v : Apg) : (s.setApg k v).tim = s.tim := rfl
@[simp] theorem setApg_mgt (k : Nat) (v : Apg) : (s.setApg k v).mgt = s.mgt := rfl
@[simp] theorem setApg_seqAt (k j : Nat) (v : Apg) : (s.setApg k v).seqAt j = s.seqAt j := rfl
@[simp] theorem setApg_chanAt (k j : Nat) (v : Apg) : (s.setApg k v).chanAt j = s.chanAt j := rfl
@[simp] theorem setApg_bankAt (k j : Nat) (v : Apg) : (s.setApg k v).bankAt j = s.bankAt j := rfl
@[simp] theorem setApg_capAt (k j : Nat) (v : Apg) : (s.setApg k v).capAt j = s.capAt j := rfl
@[simp] theorem setApg_alignAt (k j : Nat) (v : Apg) : (s.setApg k v).alignAt j = s.alignAt j := rfl
@[simp] theorem setApg_tdAt (k j : Nat) (v : Apg) : (s.setApg k v).tdAt j = s.tdAt j := rfl
@[simp] theorem setApg_pairAt (k j : Nat) (v : Apg) : (s.setApg k v).pairAt j = s.pairAt j := rfl
@[simp] theorem setApg_hdrAt (k j : Nat) (v : Apg) : (s.setApg k v).hdrAt j = s.hdrAt j := rfl
@[simp] theorem setApg_zpAt (k j : Nat) (v : Apg) : (s.setApg k v).zpAt j = s.zpAt j := rfl
@[simp] theorem setApg_plAt (k j : Nat) (v : Apg) : (s.setApg k v).plAt j = s.plAt j := rfl
@[simp] theorem setApg_weAt (k j : Nat) (v : Apg) : (s.setApg k v).weAt j = s.weAt j := rfl
@[simp] theorem setApg_ceAt (k j : Nat) (v : Apg) : (s.setApg k v).ceAt j = s.ceAt j := rfl
@[simp] theorem setApg_msAt (k j : Nat) (v : Apg) : (s.setApg k v).msAt j = s.msAt j := rfl
@[simp] theorem setApg_ssAt (k j : Nat) (v : Apg) : (s.setApg k v).ssAt j = s.ssAt j := rfl
@[simp] theorem setApg_timAt (k j : Nat) (v : Apg) : (s.setApg k v).timAt j = s.timAt j := rfl
@[simp] theorem setApg_unitAt (k j : Nat) (v : Apg) : (s.setApg k v).unitAt j = s.unitAt j := rfl
@[simp] theorem setApg_pcAt (k j : Nat) (v : Apg) : (s.setApg k v).pcAt j = s.pcAt j := rfl
@[simp] theorem setApg_hportAt (k j : Nat) (v : Apg) : (s.setApg k v).hportAt j = s.hportAt j := rfl
@[simp] theorem setApg_stackAt (k j : Nat) (v : Apg) : (s.setApg k v).stackAt j = s.stackAt j := rfl
@[simp] theorem setApg_taskAt (k j : Nat) (v : Apg) : (s.setApg k v).taskAt j = s.taskAt j := rfl
@[simp] theorem setApg_execAt (k j : Nat) (v : Apg) : (s.setApg k v).execAt j = s.execAt j := rfl
@[simp] theorem setApg_portAt (k j : Nat) (v : Apg) : (s.setApg k v).portAt j = s.portAt j := rfl
@[simp] theorem setApg_reg (k p o : Nat) (v : Apg) : (s.setApg k v).reg p o = s.reg p o := rfl
@[simp] theorem setApg_regN (k p o : Nat) (v : Apg) : (s.setApg k v).regN p o = s.regN p o := rfl
@[simp] theorem setApg_reg64 (k p o : Nat) (v : Apg) : (s.setApg k v).reg64 p o = s.reg64 p o := rfl
@[simp] theorem setApg_ready (k p : Nat) (v : Apg) : (s.setApg k v).ready p = s.ready p := rfl

/-! setChan -/
@[simp] theorem setChan_chanAt (k j : Nat) (v : Chan) : (s.setChan k v).chanAt j = if j = k then v else s.chanAt j := sget_sput _ _ _ _ _
@[simp] theorem setChan_pending (k : Nat) (v : Chan) : (s.setChan k v).pending = s.pending := rfl
@[simp] theorem setChan_now (k : Nat) (v : Chan) : (s.setChan k v).now = s.now := rfl
@[simp] theorem setChan_freeCtr (k : Nat) (v : Chan) : (s.setChan k v).freeCtr = s.freeCtr := rfl
@[simp] theorem setChan_outbox (k : Nat) (v : Chan) : (s.setChan k v).outbox = s.outbox := rfl
@[simp] theorem setChan_hostOut (k : Nat) (v : Chan) : (s.setChan k v).hostOut = s.hostOut := rfl
@[simp] theorem setChan_hdr (k : Nat) (v : Chan) : (s.setChan k v).hdr = s.hdr := rfl
@[simp] theorem setChan_redo (k : Nat) (v : Chan) : (s.setChan k v).redo = s.redo := rfl
@[simp] theorem setChan_msixOn (k : Nat) (v : Chan) : (s.setChan k v).msixOn = s.msixOn := rfl
@[simp] theorem setChan_msixPend (k : Nat) (v : Chan) : (s.setChan k v).msixPend = s.msixPend := rfl
@[simp] theorem setChan_pcieHeld (k : Nat) (v : Chan) : (s.setChan k v).pcieHeld = s.pcieHeld := rfl
@[simp] theorem setChan_regs (k : Nat) (v : Chan) : (s.setChan k v).regs = s.regs := rfl
@[simp] theorem setChan_latches (k : Nat) (v : Chan) : (s.setChan k v).latches = s.latches := rfl
@[simp] theorem setChan_hbm (k : Nat) (v : Chan) : (s.setChan k v).hbm = s.hbm := rfl
@[simp] theorem setChan_hbmBad (k : Nat) (v : Chan) : (s.setChan k v).hbmBad = s.hbmBad := rfl
@[simp] theorem setChan_hbmLost (k : Nat) (v : Chan) : (s.setChan k v).hbmLost = s.hbmLost := rfl
@[simp] theorem setChan_seq (k : Nat) (v : Chan) : (s.setChan k v).seq = s.seq := rfl
@[simp] theorem setChan_apg (k : Nat) (v : Chan) : (s.setChan k v).apg = s.apg := rfl
@[simp] theorem setChan_apgTab (k : Nat) (v : Chan) : (s.setChan k v).apgTab = s.apgTab := rfl
@[simp] theorem setChan_bank (k : Nat) (v : Chan) : (s.setChan k v).bank = s.bank := rfl
@[simp] theorem setChan_bankQueue (k : Nat) (v : Chan) : (s.setChan k v).bankQueue = s.bankQueue := rfl
@[simp] theorem setChan_bankLastStart (k : Nat) (v : Chan) : (s.setChan k v).bankLastStart = s.bankLastStart := rfl
@[simp] theorem setChan_tss (k : Nat) (v : Chan) : (s.setChan k v).tss = s.tss := rfl
@[simp] theorem setChan_cap (k : Nat) (v : Chan) : (s.setChan k v).cap = s.cap := rfl
@[simp] theorem setChan_trg (k : Nat) (v : Chan) : (s.setChan k v).trg = s.trg := rfl
@[simp] theorem setChan_align (k : Nat) (v : Chan) : (s.setChan k v).align = s.align := rfl
@[simp] theorem setChan_merge (k : Nat) (v : Chan) : (s.setChan k v).merge = s.merge := rfl
@[simp] theorem setChan_td (k : Nat) (v : Chan) : (s.setChan k v).td = s.td := rfl
@[simp] theorem setChan_pair (k : Nat) (v : Chan) : (s.setChan k v).pair = s.pair := rfl
@[simp] theorem setChan_sync (k : Nat) (v : Chan) : (s.setChan k v).sync = s.sync := rfl
@[simp] theorem setChan_cal (k : Nat) (v : Chan) : (s.setChan k v).cal = s.cal := rfl
@[simp] theorem setChan_fuse (k : Nat) (v : Chan) : (s.setChan k v).fuse = s.fuse := rfl
@[simp] theorem setChan_sch (k : Nat) (v : Chan) : (s.setChan k v).sch = s.sch := rfl
@[simp] theorem setChan_zp (k : Nat) (v : Chan) : (s.setChan k v).zp = s.zp := rfl
@[simp] theorem setChan_pl (k : Nat) (v : Chan) : (s.setChan k v).pl = s.pl := rfl
@[simp] theorem setChan_pcie (k : Nat) (v : Chan) : (s.setChan k v).pcie = s.pcie := rfl
@[simp] theorem setChan_hmc (k : Nat) (v : Chan) : (s.setChan k v).hmc = s.hmc := rfl
@[simp] theorem setChan_we (k : Nat) (v : Chan) : (s.setChan k v).we = s.we := rfl
@[simp] theorem setChan_ce (k : Nat) (v : Chan) : (s.setChan k v).ce = s.ce := rfl
@[simp] theorem setChan_ms (k : Nat) (v : Chan) : (s.setChan k v).ms = s.ms := rfl
@[simp] theorem setChan_ss (k : Nat) (v : Chan) : (s.setChan k v).ss = s.ss := rfl
@[simp] theorem setChan_tim (k : Nat) (v : Chan) : (s.setChan k v).tim = s.tim := rfl
@[simp] theorem setChan_mgt (k : Nat) (v : Chan) : (s.setChan k v).mgt = s.mgt := rfl
@[simp] theorem setChan_seqAt (k j : Nat) (v : Chan) : (s.setChan k v).seqAt j = s.seqAt j := rfl
@[simp] theorem setChan_apgAt (k j : Nat) (v : Chan) : (s.setChan k v).apgAt j = s.apgAt j := rfl
@[simp] theorem setChan_bankAt (k j : Nat) (v : Chan) : (s.setChan k v).bankAt j = s.bankAt j := rfl
@[simp] theorem setChan_capAt (k j : Nat) (v : Chan) : (s.setChan k v).capAt j = s.capAt j := rfl
@[simp] theorem setChan_alignAt (k j : Nat) (v : Chan) : (s.setChan k v).alignAt j = s.alignAt j := rfl
@[simp] theorem setChan_tdAt (k j : Nat) (v : Chan) : (s.setChan k v).tdAt j = s.tdAt j := rfl
@[simp] theorem setChan_pairAt (k j : Nat) (v : Chan) : (s.setChan k v).pairAt j = s.pairAt j := rfl
@[simp] theorem setChan_hdrAt (k j : Nat) (v : Chan) : (s.setChan k v).hdrAt j = s.hdrAt j := rfl
@[simp] theorem setChan_zpAt (k j : Nat) (v : Chan) : (s.setChan k v).zpAt j = s.zpAt j := rfl
@[simp] theorem setChan_plAt (k j : Nat) (v : Chan) : (s.setChan k v).plAt j = s.plAt j := rfl
@[simp] theorem setChan_weAt (k j : Nat) (v : Chan) : (s.setChan k v).weAt j = s.weAt j := rfl
@[simp] theorem setChan_ceAt (k j : Nat) (v : Chan) : (s.setChan k v).ceAt j = s.ceAt j := rfl
@[simp] theorem setChan_msAt (k j : Nat) (v : Chan) : (s.setChan k v).msAt j = s.msAt j := rfl
@[simp] theorem setChan_ssAt (k j : Nat) (v : Chan) : (s.setChan k v).ssAt j = s.ssAt j := rfl
@[simp] theorem setChan_timAt (k j : Nat) (v : Chan) : (s.setChan k v).timAt j = s.timAt j := rfl
@[simp] theorem setChan_unitAt (k j : Nat) (v : Chan) : (s.setChan k v).unitAt j = s.unitAt j := rfl
@[simp] theorem setChan_pcAt (k j : Nat) (v : Chan) : (s.setChan k v).pcAt j = s.pcAt j := rfl
@[simp] theorem setChan_hportAt (k j : Nat) (v : Chan) : (s.setChan k v).hportAt j = s.hportAt j := rfl
@[simp] theorem setChan_stackAt (k j : Nat) (v : Chan) : (s.setChan k v).stackAt j = s.stackAt j := rfl
@[simp] theorem setChan_taskAt (k j : Nat) (v : Chan) : (s.setChan k v).taskAt j = s.taskAt j := rfl
@[simp] theorem setChan_execAt (k j : Nat) (v : Chan) : (s.setChan k v).execAt j = s.execAt j := rfl
@[simp] theorem setChan_portAt (k j : Nat) (v : Chan) : (s.setChan k v).portAt j = s.portAt j := rfl
@[simp] theorem setChan_reg (k p o : Nat) (v : Chan) : (s.setChan k v).reg p o = s.reg p o := rfl
@[simp] theorem setChan_regN (k p o : Nat) (v : Chan) : (s.setChan k v).regN p o = s.regN p o := rfl
@[simp] theorem setChan_reg64 (k p o : Nat) (v : Chan) : (s.setChan k v).reg64 p o = s.reg64 p o := rfl
@[simp] theorem setChan_ready (k p : Nat) (v : Chan) : (s.setChan k v).ready p = s.ready p := rfl
@[simp] theorem modChan_eq (k : Nat) (f : Chan → Chan) : s.modChan k f = s.setChan k (f (s.chanAt k)) := rfl

/-! setBank -/
@[simp] theorem setBank_bankAt (k j : Nat) (v : Bank) : (s.setBank k v).bankAt j = if j = k then v else s.bankAt j := sget_sput _ _ _ _ _
@[simp] theorem setBank_pending (k : Nat) (v : Bank) : (s.setBank k v).pending = s.pending := rfl
@[simp] theorem setBank_now (k : Nat) (v : Bank) : (s.setBank k v).now = s.now := rfl
@[simp] theorem setBank_freeCtr (k : Nat) (v : Bank) : (s.setBank k v).freeCtr = s.freeCtr := rfl
@[simp] theorem setBank_outbox (k : Nat) (v : Bank) : (s.setBank k v).outbox = s.outbox := rfl
@[simp] theorem setBank_hostOut (k : Nat) (v : Bank) : (s.setBank k v).hostOut = s.hostOut := rfl
@[simp] theorem setBank_hdr (k : Nat) (v : Bank) : (s.setBank k v).hdr = s.hdr := rfl
@[simp] theorem setBank_redo (k : Nat) (v : Bank) : (s.setBank k v).redo = s.redo := rfl
@[simp] theorem setBank_msixOn (k : Nat) (v : Bank) : (s.setBank k v).msixOn = s.msixOn := rfl
@[simp] theorem setBank_msixPend (k : Nat) (v : Bank) : (s.setBank k v).msixPend = s.msixPend := rfl
@[simp] theorem setBank_pcieHeld (k : Nat) (v : Bank) : (s.setBank k v).pcieHeld = s.pcieHeld := rfl
@[simp] theorem setBank_regs (k : Nat) (v : Bank) : (s.setBank k v).regs = s.regs := rfl
@[simp] theorem setBank_latches (k : Nat) (v : Bank) : (s.setBank k v).latches = s.latches := rfl
@[simp] theorem setBank_hbm (k : Nat) (v : Bank) : (s.setBank k v).hbm = s.hbm := rfl
@[simp] theorem setBank_hbmBad (k : Nat) (v : Bank) : (s.setBank k v).hbmBad = s.hbmBad := rfl
@[simp] theorem setBank_hbmLost (k : Nat) (v : Bank) : (s.setBank k v).hbmLost = s.hbmLost := rfl
@[simp] theorem setBank_seq (k : Nat) (v : Bank) : (s.setBank k v).seq = s.seq := rfl
@[simp] theorem setBank_apg (k : Nat) (v : Bank) : (s.setBank k v).apg = s.apg := rfl
@[simp] theorem setBank_apgTab (k : Nat) (v : Bank) : (s.setBank k v).apgTab = s.apgTab := rfl
@[simp] theorem setBank_chan (k : Nat) (v : Bank) : (s.setBank k v).chan = s.chan := rfl
@[simp] theorem setBank_bankQueue (k : Nat) (v : Bank) : (s.setBank k v).bankQueue = s.bankQueue := rfl
@[simp] theorem setBank_bankLastStart (k : Nat) (v : Bank) : (s.setBank k v).bankLastStart = s.bankLastStart := rfl
@[simp] theorem setBank_tss (k : Nat) (v : Bank) : (s.setBank k v).tss = s.tss := rfl
@[simp] theorem setBank_cap (k : Nat) (v : Bank) : (s.setBank k v).cap = s.cap := rfl
@[simp] theorem setBank_trg (k : Nat) (v : Bank) : (s.setBank k v).trg = s.trg := rfl
@[simp] theorem setBank_align (k : Nat) (v : Bank) : (s.setBank k v).align = s.align := rfl
@[simp] theorem setBank_merge (k : Nat) (v : Bank) : (s.setBank k v).merge = s.merge := rfl
@[simp] theorem setBank_td (k : Nat) (v : Bank) : (s.setBank k v).td = s.td := rfl
@[simp] theorem setBank_pair (k : Nat) (v : Bank) : (s.setBank k v).pair = s.pair := rfl
@[simp] theorem setBank_sync (k : Nat) (v : Bank) : (s.setBank k v).sync = s.sync := rfl
@[simp] theorem setBank_cal (k : Nat) (v : Bank) : (s.setBank k v).cal = s.cal := rfl
@[simp] theorem setBank_fuse (k : Nat) (v : Bank) : (s.setBank k v).fuse = s.fuse := rfl
@[simp] theorem setBank_sch (k : Nat) (v : Bank) : (s.setBank k v).sch = s.sch := rfl
@[simp] theorem setBank_zp (k : Nat) (v : Bank) : (s.setBank k v).zp = s.zp := rfl
@[simp] theorem setBank_pl (k : Nat) (v : Bank) : (s.setBank k v).pl = s.pl := rfl
@[simp] theorem setBank_pcie (k : Nat) (v : Bank) : (s.setBank k v).pcie = s.pcie := rfl
@[simp] theorem setBank_hmc (k : Nat) (v : Bank) : (s.setBank k v).hmc = s.hmc := rfl
@[simp] theorem setBank_we (k : Nat) (v : Bank) : (s.setBank k v).we = s.we := rfl
@[simp] theorem setBank_ce (k : Nat) (v : Bank) : (s.setBank k v).ce = s.ce := rfl
@[simp] theorem setBank_ms (k : Nat) (v : Bank) : (s.setBank k v).ms = s.ms := rfl
@[simp] theorem setBank_ss (k : Nat) (v : Bank) : (s.setBank k v).ss = s.ss := rfl
@[simp] theorem setBank_tim (k : Nat) (v : Bank) : (s.setBank k v).tim = s.tim := rfl
@[simp] theorem setBank_mgt (k : Nat) (v : Bank) : (s.setBank k v).mgt = s.mgt := rfl
@[simp] theorem setBank_seqAt (k j : Nat) (v : Bank) : (s.setBank k v).seqAt j = s.seqAt j := rfl
@[simp] theorem setBank_apgAt (k j : Nat) (v : Bank) : (s.setBank k v).apgAt j = s.apgAt j := rfl
@[simp] theorem setBank_chanAt (k j : Nat) (v : Bank) : (s.setBank k v).chanAt j = s.chanAt j := rfl
@[simp] theorem setBank_capAt (k j : Nat) (v : Bank) : (s.setBank k v).capAt j = s.capAt j := rfl
@[simp] theorem setBank_alignAt (k j : Nat) (v : Bank) : (s.setBank k v).alignAt j = s.alignAt j := rfl
@[simp] theorem setBank_tdAt (k j : Nat) (v : Bank) : (s.setBank k v).tdAt j = s.tdAt j := rfl
@[simp] theorem setBank_pairAt (k j : Nat) (v : Bank) : (s.setBank k v).pairAt j = s.pairAt j := rfl
@[simp] theorem setBank_hdrAt (k j : Nat) (v : Bank) : (s.setBank k v).hdrAt j = s.hdrAt j := rfl
@[simp] theorem setBank_zpAt (k j : Nat) (v : Bank) : (s.setBank k v).zpAt j = s.zpAt j := rfl
@[simp] theorem setBank_plAt (k j : Nat) (v : Bank) : (s.setBank k v).plAt j = s.plAt j := rfl
@[simp] theorem setBank_weAt (k j : Nat) (v : Bank) : (s.setBank k v).weAt j = s.weAt j := rfl
@[simp] theorem setBank_ceAt (k j : Nat) (v : Bank) : (s.setBank k v).ceAt j = s.ceAt j := rfl
@[simp] theorem setBank_msAt (k j : Nat) (v : Bank) : (s.setBank k v).msAt j = s.msAt j := rfl
@[simp] theorem setBank_ssAt (k j : Nat) (v : Bank) : (s.setBank k v).ssAt j = s.ssAt j := rfl
@[simp] theorem setBank_timAt (k j : Nat) (v : Bank) : (s.setBank k v).timAt j = s.timAt j := rfl
@[simp] theorem setBank_unitAt (k j : Nat) (v : Bank) : (s.setBank k v).unitAt j = s.unitAt j := rfl
@[simp] theorem setBank_pcAt (k j : Nat) (v : Bank) : (s.setBank k v).pcAt j = s.pcAt j := rfl
@[simp] theorem setBank_hportAt (k j : Nat) (v : Bank) : (s.setBank k v).hportAt j = s.hportAt j := rfl
@[simp] theorem setBank_stackAt (k j : Nat) (v : Bank) : (s.setBank k v).stackAt j = s.stackAt j := rfl
@[simp] theorem setBank_taskAt (k j : Nat) (v : Bank) : (s.setBank k v).taskAt j = s.taskAt j := rfl
@[simp] theorem setBank_execAt (k j : Nat) (v : Bank) : (s.setBank k v).execAt j = s.execAt j := rfl
@[simp] theorem setBank_portAt (k j : Nat) (v : Bank) : (s.setBank k v).portAt j = s.portAt j := rfl
@[simp] theorem setBank_reg (k p o : Nat) (v : Bank) : (s.setBank k v).reg p o = s.reg p o := rfl
@[simp] theorem setBank_regN (k p o : Nat) (v : Bank) : (s.setBank k v).regN p o = s.regN p o := rfl
@[simp] theorem setBank_reg64 (k p o : Nat) (v : Bank) : (s.setBank k v).reg64 p o = s.reg64 p o := rfl
@[simp] theorem setBank_ready (k p : Nat) (v : Bank) : (s.setBank k v).ready p = s.ready p := rfl

/-! setCap -/
@[simp] theorem setCap_capAt (k j : Nat) (v : Cap) : (s.setCap k v).capAt j = if j = k then v else s.capAt j := sget_sput _ _ _ _ _
@[simp] theorem setCap_pending (k : Nat) (v : Cap) : (s.setCap k v).pending = s.pending := rfl
@[simp] theorem setCap_now (k : Nat) (v : Cap) : (s.setCap k v).now = s.now := rfl
@[simp] theorem setCap_freeCtr (k : Nat) (v : Cap) : (s.setCap k v).freeCtr = s.freeCtr := rfl
@[simp] theorem setCap_outbox (k : Nat) (v : Cap) : (s.setCap k v).outbox = s.outbox := rfl
@[simp] theorem setCap_hostOut (k : Nat) (v : Cap) : (s.setCap k v).hostOut = s.hostOut := rfl
@[simp] theorem setCap_hdr (k : Nat) (v : Cap) : (s.setCap k v).hdr = s.hdr := rfl
@[simp] theorem setCap_redo (k : Nat) (v : Cap) : (s.setCap k v).redo = s.redo := rfl
@[simp] theorem setCap_msixOn (k : Nat) (v : Cap) : (s.setCap k v).msixOn = s.msixOn := rfl
@[simp] theorem setCap_msixPend (k : Nat) (v : Cap) : (s.setCap k v).msixPend = s.msixPend := rfl
@[simp] theorem setCap_pcieHeld (k : Nat) (v : Cap) : (s.setCap k v).pcieHeld = s.pcieHeld := rfl
@[simp] theorem setCap_regs (k : Nat) (v : Cap) : (s.setCap k v).regs = s.regs := rfl
@[simp] theorem setCap_latches (k : Nat) (v : Cap) : (s.setCap k v).latches = s.latches := rfl
@[simp] theorem setCap_hbm (k : Nat) (v : Cap) : (s.setCap k v).hbm = s.hbm := rfl
@[simp] theorem setCap_hbmBad (k : Nat) (v : Cap) : (s.setCap k v).hbmBad = s.hbmBad := rfl
@[simp] theorem setCap_hbmLost (k : Nat) (v : Cap) : (s.setCap k v).hbmLost = s.hbmLost := rfl
@[simp] theorem setCap_seq (k : Nat) (v : Cap) : (s.setCap k v).seq = s.seq := rfl
@[simp] theorem setCap_apg (k : Nat) (v : Cap) : (s.setCap k v).apg = s.apg := rfl
@[simp] theorem setCap_apgTab (k : Nat) (v : Cap) : (s.setCap k v).apgTab = s.apgTab := rfl
@[simp] theorem setCap_chan (k : Nat) (v : Cap) : (s.setCap k v).chan = s.chan := rfl
@[simp] theorem setCap_bank (k : Nat) (v : Cap) : (s.setCap k v).bank = s.bank := rfl
@[simp] theorem setCap_bankQueue (k : Nat) (v : Cap) : (s.setCap k v).bankQueue = s.bankQueue := rfl
@[simp] theorem setCap_bankLastStart (k : Nat) (v : Cap) : (s.setCap k v).bankLastStart = s.bankLastStart := rfl
@[simp] theorem setCap_tss (k : Nat) (v : Cap) : (s.setCap k v).tss = s.tss := rfl
@[simp] theorem setCap_trg (k : Nat) (v : Cap) : (s.setCap k v).trg = s.trg := rfl
@[simp] theorem setCap_align (k : Nat) (v : Cap) : (s.setCap k v).align = s.align := rfl
@[simp] theorem setCap_merge (k : Nat) (v : Cap) : (s.setCap k v).merge = s.merge := rfl
@[simp] theorem setCap_td (k : Nat) (v : Cap) : (s.setCap k v).td = s.td := rfl
@[simp] theorem setCap_pair (k : Nat) (v : Cap) : (s.setCap k v).pair = s.pair := rfl
@[simp] theorem setCap_sync (k : Nat) (v : Cap) : (s.setCap k v).sync = s.sync := rfl
@[simp] theorem setCap_cal (k : Nat) (v : Cap) : (s.setCap k v).cal = s.cal := rfl
@[simp] theorem setCap_fuse (k : Nat) (v : Cap) : (s.setCap k v).fuse = s.fuse := rfl
@[simp] theorem setCap_sch (k : Nat) (v : Cap) : (s.setCap k v).sch = s.sch := rfl
@[simp] theorem setCap_zp (k : Nat) (v : Cap) : (s.setCap k v).zp = s.zp := rfl
@[simp] theorem setCap_pl (k : Nat) (v : Cap) : (s.setCap k v).pl = s.pl := rfl
@[simp] theorem setCap_pcie (k : Nat) (v : Cap) : (s.setCap k v).pcie = s.pcie := rfl
@[simp] theorem setCap_hmc (k : Nat) (v : Cap) : (s.setCap k v).hmc = s.hmc := rfl
@[simp] theorem setCap_we (k : Nat) (v : Cap) : (s.setCap k v).we = s.we := rfl
@[simp] theorem setCap_ce (k : Nat) (v : Cap) : (s.setCap k v).ce = s.ce := rfl
@[simp] theorem setCap_ms (k : Nat) (v : Cap) : (s.setCap k v).ms = s.ms := rfl
@[simp] theorem setCap_ss (k : Nat) (v : Cap) : (s.setCap k v).ss = s.ss := rfl
@[simp] theorem setCap_tim (k : Nat) (v : Cap) : (s.setCap k v).tim = s.tim := rfl
@[simp] theorem setCap_mgt (k : Nat) (v : Cap) : (s.setCap k v).mgt = s.mgt := rfl
@[simp] theorem setCap_seqAt (k j : Nat) (v : Cap) : (s.setCap k v).seqAt j = s.seqAt j := rfl
@[simp] theorem setCap_apgAt (k j : Nat) (v : Cap) : (s.setCap k v).apgAt j = s.apgAt j := rfl
@[simp] theorem setCap_chanAt (k j : Nat) (v : Cap) : (s.setCap k v).chanAt j = s.chanAt j := rfl
@[simp] theorem setCap_bankAt (k j : Nat) (v : Cap) : (s.setCap k v).bankAt j = s.bankAt j := rfl
@[simp] theorem setCap_alignAt (k j : Nat) (v : Cap) : (s.setCap k v).alignAt j = s.alignAt j := rfl
@[simp] theorem setCap_tdAt (k j : Nat) (v : Cap) : (s.setCap k v).tdAt j = s.tdAt j := rfl
@[simp] theorem setCap_pairAt (k j : Nat) (v : Cap) : (s.setCap k v).pairAt j = s.pairAt j := rfl
@[simp] theorem setCap_hdrAt (k j : Nat) (v : Cap) : (s.setCap k v).hdrAt j = s.hdrAt j := rfl
@[simp] theorem setCap_zpAt (k j : Nat) (v : Cap) : (s.setCap k v).zpAt j = s.zpAt j := rfl
@[simp] theorem setCap_plAt (k j : Nat) (v : Cap) : (s.setCap k v).plAt j = s.plAt j := rfl
@[simp] theorem setCap_weAt (k j : Nat) (v : Cap) : (s.setCap k v).weAt j = s.weAt j := rfl
@[simp] theorem setCap_ceAt (k j : Nat) (v : Cap) : (s.setCap k v).ceAt j = s.ceAt j := rfl
@[simp] theorem setCap_msAt (k j : Nat) (v : Cap) : (s.setCap k v).msAt j = s.msAt j := rfl
@[simp] theorem setCap_ssAt (k j : Nat) (v : Cap) : (s.setCap k v).ssAt j = s.ssAt j := rfl
@[simp] theorem setCap_timAt (k j : Nat) (v : Cap) : (s.setCap k v).timAt j = s.timAt j := rfl
@[simp] theorem setCap_unitAt (k j : Nat) (v : Cap) : (s.setCap k v).unitAt j = s.unitAt j := rfl
@[simp] theorem setCap_pcAt (k j : Nat) (v : Cap) : (s.setCap k v).pcAt j = s.pcAt j := rfl
@[simp] theorem setCap_hportAt (k j : Nat) (v : Cap) : (s.setCap k v).hportAt j = s.hportAt j := rfl
@[simp] theorem setCap_stackAt (k j : Nat) (v : Cap) : (s.setCap k v).stackAt j = s.stackAt j := rfl
@[simp] theorem setCap_taskAt (k j : Nat) (v : Cap) : (s.setCap k v).taskAt j = s.taskAt j := rfl
@[simp] theorem setCap_execAt (k j : Nat) (v : Cap) : (s.setCap k v).execAt j = s.execAt j := rfl
@[simp] theorem setCap_portAt (k j : Nat) (v : Cap) : (s.setCap k v).portAt j = s.portAt j := rfl
@[simp] theorem setCap_reg (k p o : Nat) (v : Cap) : (s.setCap k v).reg p o = s.reg p o := rfl
@[simp] theorem setCap_regN (k p o : Nat) (v : Cap) : (s.setCap k v).regN p o = s.regN p o := rfl
@[simp] theorem setCap_reg64 (k p o : Nat) (v : Cap) : (s.setCap k v).reg64 p o = s.reg64 p o := rfl
@[simp] theorem setCap_ready (k p : Nat) (v : Cap) : (s.setCap k v).ready p = s.ready p := rfl
@[simp] theorem modCap_eq (k : Nat) (f : Cap → Cap) : s.modCap k f = s.setCap k (f (s.capAt k)) := rfl

/-! setAlign -/
@[simp] theorem setAlign_alignAt (k j : Nat) (v : AlignGroup) : (s.setAlign k v).alignAt j = if j = k then v else s.alignAt j := sget_sput _ _ _ _ _
@[simp] theorem setAlign_pending (k : Nat) (v : AlignGroup) : (s.setAlign k v).pending = s.pending := rfl
@[simp] theorem setAlign_now (k : Nat) (v : AlignGroup) : (s.setAlign k v).now = s.now := rfl
@[simp] theorem setAlign_freeCtr (k : Nat) (v : AlignGroup) : (s.setAlign k v).freeCtr = s.freeCtr := rfl
@[simp] theorem setAlign_outbox (k : Nat) (v : AlignGroup) : (s.setAlign k v).outbox = s.outbox := rfl
@[simp] theorem setAlign_hostOut (k : Nat) (v : AlignGroup) : (s.setAlign k v).hostOut = s.hostOut := rfl
@[simp] theorem setAlign_hdr (k : Nat) (v : AlignGroup) : (s.setAlign k v).hdr = s.hdr := rfl
@[simp] theorem setAlign_redo (k : Nat) (v : AlignGroup) : (s.setAlign k v).redo = s.redo := rfl
@[simp] theorem setAlign_msixOn (k : Nat) (v : AlignGroup) : (s.setAlign k v).msixOn = s.msixOn := rfl
@[simp] theorem setAlign_msixPend (k : Nat) (v : AlignGroup) : (s.setAlign k v).msixPend = s.msixPend := rfl
@[simp] theorem setAlign_pcieHeld (k : Nat) (v : AlignGroup) : (s.setAlign k v).pcieHeld = s.pcieHeld := rfl
@[simp] theorem setAlign_regs (k : Nat) (v : AlignGroup) : (s.setAlign k v).regs = s.regs := rfl
@[simp] theorem setAlign_latches (k : Nat) (v : AlignGroup) : (s.setAlign k v).latches = s.latches := rfl
@[simp] theorem setAlign_hbm (k : Nat) (v : AlignGroup) : (s.setAlign k v).hbm = s.hbm := rfl
@[simp] theorem setAlign_hbmBad (k : Nat) (v : AlignGroup) : (s.setAlign k v).hbmBad = s.hbmBad := rfl
@[simp] theorem setAlign_hbmLost (k : Nat) (v : AlignGroup) : (s.setAlign k v).hbmLost = s.hbmLost := rfl
@[simp] theorem setAlign_seq (k : Nat) (v : AlignGroup) : (s.setAlign k v).seq = s.seq := rfl
@[simp] theorem setAlign_apg (k : Nat) (v : AlignGroup) : (s.setAlign k v).apg = s.apg := rfl
@[simp] theorem setAlign_apgTab (k : Nat) (v : AlignGroup) : (s.setAlign k v).apgTab = s.apgTab := rfl
@[simp] theorem setAlign_chan (k : Nat) (v : AlignGroup) : (s.setAlign k v).chan = s.chan := rfl
@[simp] theorem setAlign_bank (k : Nat) (v : AlignGroup) : (s.setAlign k v).bank = s.bank := rfl
@[simp] theorem setAlign_bankQueue (k : Nat) (v : AlignGroup) : (s.setAlign k v).bankQueue = s.bankQueue := rfl
@[simp] theorem setAlign_bankLastStart (k : Nat) (v : AlignGroup) : (s.setAlign k v).bankLastStart = s.bankLastStart := rfl
@[simp] theorem setAlign_tss (k : Nat) (v : AlignGroup) : (s.setAlign k v).tss = s.tss := rfl
@[simp] theorem setAlign_cap (k : Nat) (v : AlignGroup) : (s.setAlign k v).cap = s.cap := rfl
@[simp] theorem setAlign_trg (k : Nat) (v : AlignGroup) : (s.setAlign k v).trg = s.trg := rfl
@[simp] theorem setAlign_merge (k : Nat) (v : AlignGroup) : (s.setAlign k v).merge = s.merge := rfl
@[simp] theorem setAlign_td (k : Nat) (v : AlignGroup) : (s.setAlign k v).td = s.td := rfl
@[simp] theorem setAlign_pair (k : Nat) (v : AlignGroup) : (s.setAlign k v).pair = s.pair := rfl
@[simp] theorem setAlign_sync (k : Nat) (v : AlignGroup) : (s.setAlign k v).sync = s.sync := rfl
@[simp] theorem setAlign_cal (k : Nat) (v : AlignGroup) : (s.setAlign k v).cal = s.cal := rfl
@[simp] theorem setAlign_fuse (k : Nat) (v : AlignGroup) : (s.setAlign k v).fuse = s.fuse := rfl
@[simp] theorem setAlign_sch (k : Nat) (v : AlignGroup) : (s.setAlign k v).sch = s.sch := rfl
@[simp] theorem setAlign_zp (k : Nat) (v : AlignGroup) : (s.setAlign k v).zp = s.zp := rfl
@[simp] theorem setAlign_pl (k : Nat) (v : AlignGroup) : (s.setAlign k v).pl = s.pl := rfl
@[simp] theorem setAlign_pcie (k : Nat) (v : AlignGroup) : (s.setAlign k v).pcie = s.pcie := rfl
@[simp] theorem setAlign_hmc (k : Nat) (v : AlignGroup) : (s.setAlign k v).hmc = s.hmc := rfl
@[simp] theorem setAlign_we (k : Nat) (v : AlignGroup) : (s.setAlign k v).we = s.we := rfl
@[simp] theorem setAlign_ce (k : Nat) (v : AlignGroup) : (s.setAlign k v).ce = s.ce := rfl
@[simp] theorem setAlign_ms (k : Nat) (v : AlignGroup) : (s.setAlign k v).ms = s.ms := rfl
@[simp] theorem setAlign_ss (k : Nat) (v : AlignGroup) : (s.setAlign k v).ss = s.ss := rfl
@[simp] theorem setAlign_tim (k : Nat) (v : AlignGroup) : (s.setAlign k v).tim = s.tim := rfl
@[simp] theorem setAlign_mgt (k : Nat) (v : AlignGroup) : (s.setAlign k v).mgt = s.mgt := rfl
@[simp] theorem setAlign_seqAt (k j : Nat) (v : AlignGroup) : (s.setAlign k v).seqAt j = s.seqAt j := rfl
@[simp] theorem setAlign_apgAt (k j : Nat) (v : AlignGroup) : (s.setAlign k v).apgAt j = s.apgAt j := rfl
@[simp] theorem setAlign_chanAt (k j : Nat) (v : AlignGroup) : (s.setAlign k v).chanAt j = s.chanAt j := rfl
@[simp] theorem setAlign_bankAt (k j : Nat) (v : AlignGroup) : (s.setAlign k v).bankAt j = s.bankAt j := rfl
@[simp] theorem setAlign_capAt (k j : Nat) (v : AlignGroup) : (s.setAlign k v).capAt j = s.capAt j := rfl
@[simp] theorem setAlign_tdAt (k j : Nat) (v : AlignGroup) : (s.setAlign k v).tdAt j = s.tdAt j := rfl
@[simp] theorem setAlign_pairAt (k j : Nat) (v : AlignGroup) : (s.setAlign k v).pairAt j = s.pairAt j := rfl
@[simp] theorem setAlign_hdrAt (k j : Nat) (v : AlignGroup) : (s.setAlign k v).hdrAt j = s.hdrAt j := rfl
@[simp] theorem setAlign_zpAt (k j : Nat) (v : AlignGroup) : (s.setAlign k v).zpAt j = s.zpAt j := rfl
@[simp] theorem setAlign_plAt (k j : Nat) (v : AlignGroup) : (s.setAlign k v).plAt j = s.plAt j := rfl
@[simp] theorem setAlign_weAt (k j : Nat) (v : AlignGroup) : (s.setAlign k v).weAt j = s.weAt j := rfl
@[simp] theorem setAlign_ceAt (k j : Nat) (v : AlignGroup) : (s.setAlign k v).ceAt j = s.ceAt j := rfl
@[simp] theorem setAlign_msAt (k j : Nat) (v : AlignGroup) : (s.setAlign k v).msAt j = s.msAt j := rfl
@[simp] theorem setAlign_ssAt (k j : Nat) (v : AlignGroup) : (s.setAlign k v).ssAt j = s.ssAt j := rfl
@[simp] theorem setAlign_timAt (k j : Nat) (v : AlignGroup) : (s.setAlign k v).timAt j = s.timAt j := rfl
@[simp] theorem setAlign_unitAt (k j : Nat) (v : AlignGroup) : (s.setAlign k v).unitAt j = s.unitAt j := rfl
@[simp] theorem setAlign_pcAt (k j : Nat) (v : AlignGroup) : (s.setAlign k v).pcAt j = s.pcAt j := rfl
@[simp] theorem setAlign_hportAt (k j : Nat) (v : AlignGroup) : (s.setAlign k v).hportAt j = s.hportAt j := rfl
@[simp] theorem setAlign_stackAt (k j : Nat) (v : AlignGroup) : (s.setAlign k v).stackAt j = s.stackAt j := rfl
@[simp] theorem setAlign_taskAt (k j : Nat) (v : AlignGroup) : (s.setAlign k v).taskAt j = s.taskAt j := rfl
@[simp] theorem setAlign_execAt (k j : Nat) (v : AlignGroup) : (s.setAlign k v).execAt j = s.execAt j := rfl
@[simp] theorem setAlign_portAt (k j : Nat) (v : AlignGroup) : (s.setAlign k v).portAt j = s.portAt j := rfl
@[simp] theorem setAlign_reg (k p o : Nat) (v : AlignGroup) : (s.setAlign k v).reg p o = s.reg p o := rfl
@[simp] theorem setAlign_regN (k p o : Nat) (v : AlignGroup) : (s.setAlign k v).regN p o = s.regN p o := rfl
@[simp] theorem setAlign_reg64 (k p o : Nat) (v : AlignGroup) : (s.setAlign k v).reg64 p o = s.reg64 p o := rfl
@[simp] theorem setAlign_ready (k p : Nat) (v : AlignGroup) : (s.setAlign k v).ready p = s.ready p := rfl

/-! setTd -/
@[simp] theorem setTd_tdAt (k j : Nat) (v : TimeDom) : (s.setTd k v).tdAt j = if j = k then v else s.tdAt j := sget_sput _ _ _ _ _
@[simp] theorem setTd_pending (k : Nat) (v : TimeDom) : (s.setTd k v).pending = s.pending := rfl
@[simp] theorem setTd_now (k : Nat) (v : TimeDom) : (s.setTd k v).now = s.now := rfl
@[simp] theorem setTd_freeCtr (k : Nat) (v : TimeDom) : (s.setTd k v).freeCtr = s.freeCtr := rfl
@[simp] theorem setTd_outbox (k : Nat) (v : TimeDom) : (s.setTd k v).outbox = s.outbox := rfl
@[simp] theorem setTd_hostOut (k : Nat) (v : TimeDom) : (s.setTd k v).hostOut = s.hostOut := rfl
@[simp] theorem setTd_hdr (k : Nat) (v : TimeDom) : (s.setTd k v).hdr = s.hdr := rfl
@[simp] theorem setTd_redo (k : Nat) (v : TimeDom) : (s.setTd k v).redo = s.redo := rfl
@[simp] theorem setTd_msixOn (k : Nat) (v : TimeDom) : (s.setTd k v).msixOn = s.msixOn := rfl
@[simp] theorem setTd_msixPend (k : Nat) (v : TimeDom) : (s.setTd k v).msixPend = s.msixPend := rfl
@[simp] theorem setTd_pcieHeld (k : Nat) (v : TimeDom) : (s.setTd k v).pcieHeld = s.pcieHeld := rfl
@[simp] theorem setTd_regs (k : Nat) (v : TimeDom) : (s.setTd k v).regs = s.regs := rfl
@[simp] theorem setTd_latches (k : Nat) (v : TimeDom) : (s.setTd k v).latches = s.latches := rfl
@[simp] theorem setTd_hbm (k : Nat) (v : TimeDom) : (s.setTd k v).hbm = s.hbm := rfl
@[simp] theorem setTd_hbmBad (k : Nat) (v : TimeDom) : (s.setTd k v).hbmBad = s.hbmBad := rfl
@[simp] theorem setTd_hbmLost (k : Nat) (v : TimeDom) : (s.setTd k v).hbmLost = s.hbmLost := rfl
@[simp] theorem setTd_seq (k : Nat) (v : TimeDom) : (s.setTd k v).seq = s.seq := rfl
@[simp] theorem setTd_apg (k : Nat) (v : TimeDom) : (s.setTd k v).apg = s.apg := rfl
@[simp] theorem setTd_apgTab (k : Nat) (v : TimeDom) : (s.setTd k v).apgTab = s.apgTab := rfl
@[simp] theorem setTd_chan (k : Nat) (v : TimeDom) : (s.setTd k v).chan = s.chan := rfl
@[simp] theorem setTd_bank (k : Nat) (v : TimeDom) : (s.setTd k v).bank = s.bank := rfl
@[simp] theorem setTd_bankQueue (k : Nat) (v : TimeDom) : (s.setTd k v).bankQueue = s.bankQueue := rfl
@[simp] theorem setTd_bankLastStart (k : Nat) (v : TimeDom) : (s.setTd k v).bankLastStart = s.bankLastStart := rfl
@[simp] theorem setTd_tss (k : Nat) (v : TimeDom) : (s.setTd k v).tss = s.tss := rfl
@[simp] theorem setTd_cap (k : Nat) (v : TimeDom) : (s.setTd k v).cap = s.cap := rfl
@[simp] theorem setTd_trg (k : Nat) (v : TimeDom) : (s.setTd k v).trg = s.trg := rfl
@[simp] theorem setTd_align (k : Nat) (v : TimeDom) : (s.setTd k v).align = s.align := rfl
@[simp] theorem setTd_merge (k : Nat) (v : TimeDom) : (s.setTd k v).merge = s.merge := rfl
@[simp] theorem setTd_pair (k : Nat) (v : TimeDom) : (s.setTd k v).pair = s.pair := rfl
@[simp] theorem setTd_sync (k : Nat) (v : TimeDom) : (s.setTd k v).sync = s.sync := rfl
@[simp] theorem setTd_cal (k : Nat) (v : TimeDom) : (s.setTd k v).cal = s.cal := rfl
@[simp] theorem setTd_fuse (k : Nat) (v : TimeDom) : (s.setTd k v).fuse = s.fuse := rfl
@[simp] theorem setTd_sch (k : Nat) (v : TimeDom) : (s.setTd k v).sch = s.sch := rfl
@[simp] theorem setTd_zp (k : Nat) (v : TimeDom) : (s.setTd k v).zp = s.zp := rfl
@[simp] theorem setTd_pl (k : Nat) (v : TimeDom) : (s.setTd k v).pl = s.pl := rfl
@[simp] theorem setTd_pcie (k : Nat) (v : TimeDom) : (s.setTd k v).pcie = s.pcie := rfl
@[simp] theorem setTd_hmc (k : Nat) (v : TimeDom) : (s.setTd k v).hmc = s.hmc := rfl
@[simp] theorem setTd_we (k : Nat) (v : TimeDom) : (s.setTd k v).we = s.we := rfl
@[simp] theorem setTd_ce (k : Nat) (v : TimeDom) : (s.setTd k v).ce = s.ce := rfl
@[simp] theorem setTd_ms (k : Nat) (v : TimeDom) : (s.setTd k v).ms = s.ms := rfl
@[simp] theorem setTd_ss (k : Nat) (v : TimeDom) : (s.setTd k v).ss = s.ss := rfl
@[simp] theorem setTd_tim (k : Nat) (v : TimeDom) : (s.setTd k v).tim = s.tim := rfl
@[simp] theorem setTd_mgt (k : Nat) (v : TimeDom) : (s.setTd k v).mgt = s.mgt := rfl
@[simp] theorem setTd_seqAt (k j : Nat) (v : TimeDom) : (s.setTd k v).seqAt j = s.seqAt j := rfl
@[simp] theorem setTd_apgAt (k j : Nat) (v : TimeDom) : (s.setTd k v).apgAt j = s.apgAt j := rfl
@[simp] theorem setTd_chanAt (k j : Nat) (v : TimeDom) : (s.setTd k v).chanAt j = s.chanAt j := rfl
@[simp] theorem setTd_bankAt (k j : Nat) (v : TimeDom) : (s.setTd k v).bankAt j = s.bankAt j := rfl
@[simp] theorem setTd_capAt (k j : Nat) (v : TimeDom) : (s.setTd k v).capAt j = s.capAt j := rfl
@[simp] theorem setTd_alignAt (k j : Nat) (v : TimeDom) : (s.setTd k v).alignAt j = s.alignAt j := rfl
@[simp] theorem setTd_pairAt (k j : Nat) (v : TimeDom) : (s.setTd k v).pairAt j = s.pairAt j := rfl
@[simp] theorem setTd_hdrAt (k j : Nat) (v : TimeDom) : (s.setTd k v).hdrAt j = s.hdrAt j := rfl
@[simp] theorem setTd_zpAt (k j : Nat) (v : TimeDom) : (s.setTd k v).zpAt j = s.zpAt j := rfl
@[simp] theorem setTd_plAt (k j : Nat) (v : TimeDom) : (s.setTd k v).plAt j = s.plAt j := rfl
@[simp] theorem setTd_weAt (k j : Nat) (v : TimeDom) : (s.setTd k v).weAt j = s.weAt j := rfl
@[simp] theorem setTd_ceAt (k j : Nat) (v : TimeDom) : (s.setTd k v).ceAt j = s.ceAt j := rfl
@[simp] theorem setTd_msAt (k j : Nat) (v : TimeDom) : (s.setTd k v).msAt j = s.msAt j := rfl
@[simp] theorem setTd_ssAt (k j : Nat) (v : TimeDom) : (s.setTd k v).ssAt j = s.ssAt j := rfl
@[simp] theorem setTd_timAt (k j : Nat) (v : TimeDom) : (s.setTd k v).timAt j = s.timAt j := rfl
@[simp] theorem setTd_unitAt (k j : Nat) (v : TimeDom) : (s.setTd k v).unitAt j = s.unitAt j := rfl
@[simp] theorem setTd_pcAt (k j : Nat) (v : TimeDom) : (s.setTd k v).pcAt j = s.pcAt j := rfl
@[simp] theorem setTd_hportAt (k j : Nat) (v : TimeDom) : (s.setTd k v).hportAt j = s.hportAt j := rfl
@[simp] theorem setTd_stackAt (k j : Nat) (v : TimeDom) : (s.setTd k v).stackAt j = s.stackAt j := rfl
@[simp] theorem setTd_taskAt (k j : Nat) (v : TimeDom) : (s.setTd k v).taskAt j = s.taskAt j := rfl
@[simp] theorem setTd_execAt (k j : Nat) (v : TimeDom) : (s.setTd k v).execAt j = s.execAt j := rfl
@[simp] theorem setTd_portAt (k j : Nat) (v : TimeDom) : (s.setTd k v).portAt j = s.portAt j := rfl
@[simp] theorem setTd_reg (k p o : Nat) (v : TimeDom) : (s.setTd k v).reg p o = s.reg p o := rfl
@[simp] theorem setTd_regN (k p o : Nat) (v : TimeDom) : (s.setTd k v).regN p o = s.regN p o := rfl
@[simp] theorem setTd_reg64 (k p o : Nat) (v : TimeDom) : (s.setTd k v).reg64 p o = s.reg64 p o := rfl
@[simp] theorem setTd_ready (k p : Nat) (v : TimeDom) : (s.setTd k v).ready p = s.ready p := rfl
@[simp] theorem modTd_eq (k : Nat) (f : TimeDom → TimeDom) : s.modTd k f = s.setTd k (f (s.tdAt k)) := rfl

/-! setPair -/
@[simp] theorem setPair_pairAt (k j : Nat) (v : TimePair) : (s.setPair k v).pairAt j = if j = k then v else s.pairAt j := sget_sput _ _ _ _ _
@[simp] theorem setPair_pending (k : Nat) (v : TimePair) : (s.setPair k v).pending = s.pending := rfl
@[simp] theorem setPair_now (k : Nat) (v : TimePair) : (s.setPair k v).now = s.now := rfl
@[simp] theorem setPair_freeCtr (k : Nat) (v : TimePair) : (s.setPair k v).freeCtr = s.freeCtr := rfl
@[simp] theorem setPair_outbox (k : Nat) (v : TimePair) : (s.setPair k v).outbox = s.outbox := rfl
@[simp] theorem setPair_hostOut (k : Nat) (v : TimePair) : (s.setPair k v).hostOut = s.hostOut := rfl
@[simp] theorem setPair_hdr (k : Nat) (v : TimePair) : (s.setPair k v).hdr = s.hdr := rfl
@[simp] theorem setPair_redo (k : Nat) (v : TimePair) : (s.setPair k v).redo = s.redo := rfl
@[simp] theorem setPair_msixOn (k : Nat) (v : TimePair) : (s.setPair k v).msixOn = s.msixOn := rfl
@[simp] theorem setPair_msixPend (k : Nat) (v : TimePair) : (s.setPair k v).msixPend = s.msixPend := rfl
@[simp] theorem setPair_pcieHeld (k : Nat) (v : TimePair) : (s.setPair k v).pcieHeld = s.pcieHeld := rfl
@[simp] theorem setPair_regs (k : Nat) (v : TimePair) : (s.setPair k v).regs = s.regs := rfl
@[simp] theorem setPair_latches (k : Nat) (v : TimePair) : (s.setPair k v).latches = s.latches := rfl
@[simp] theorem setPair_hbm (k : Nat) (v : TimePair) : (s.setPair k v).hbm = s.hbm := rfl
@[simp] theorem setPair_hbmBad (k : Nat) (v : TimePair) : (s.setPair k v).hbmBad = s.hbmBad := rfl
@[simp] theorem setPair_hbmLost (k : Nat) (v : TimePair) : (s.setPair k v).hbmLost = s.hbmLost := rfl
@[simp] theorem setPair_seq (k : Nat) (v : TimePair) : (s.setPair k v).seq = s.seq := rfl
@[simp] theorem setPair_apg (k : Nat) (v : TimePair) : (s.setPair k v).apg = s.apg := rfl
@[simp] theorem setPair_apgTab (k : Nat) (v : TimePair) : (s.setPair k v).apgTab = s.apgTab := rfl
@[simp] theorem setPair_chan (k : Nat) (v : TimePair) : (s.setPair k v).chan = s.chan := rfl
@[simp] theorem setPair_bank (k : Nat) (v : TimePair) : (s.setPair k v).bank = s.bank := rfl
@[simp] theorem setPair_bankQueue (k : Nat) (v : TimePair) : (s.setPair k v).bankQueue = s.bankQueue := rfl
@[simp] theorem setPair_bankLastStart (k : Nat) (v : TimePair) : (s.setPair k v).bankLastStart = s.bankLastStart := rfl
@[simp] theorem setPair_tss (k : Nat) (v : TimePair) : (s.setPair k v).tss = s.tss := rfl
@[simp] theorem setPair_cap (k : Nat) (v : TimePair) : (s.setPair k v).cap = s.cap := rfl
@[simp] theorem setPair_trg (k : Nat) (v : TimePair) : (s.setPair k v).trg = s.trg := rfl
@[simp] theorem setPair_align (k : Nat) (v : TimePair) : (s.setPair k v).align = s.align := rfl
@[simp] theorem setPair_merge (k : Nat) (v : TimePair) : (s.setPair k v).merge = s.merge := rfl
@[simp] theorem setPair_td (k : Nat) (v : TimePair) : (s.setPair k v).td = s.td := rfl
@[simp] theorem setPair_sync (k : Nat) (v : TimePair) : (s.setPair k v).sync = s.sync := rfl
@[simp] theorem setPair_cal (k : Nat) (v : TimePair) : (s.setPair k v).cal = s.cal := rfl
@[simp] theorem setPair_fuse (k : Nat) (v : TimePair) : (s.setPair k v).fuse = s.fuse := rfl
@[simp] theorem setPair_sch (k : Nat) (v : TimePair) : (s.setPair k v).sch = s.sch := rfl
@[simp] theorem setPair_zp (k : Nat) (v : TimePair) : (s.setPair k v).zp = s.zp := rfl
@[simp] theorem setPair_pl (k : Nat) (v : TimePair) : (s.setPair k v).pl = s.pl := rfl
@[simp] theorem setPair_pcie (k : Nat) (v : TimePair) : (s.setPair k v).pcie = s.pcie := rfl
@[simp] theorem setPair_hmc (k : Nat) (v : TimePair) : (s.setPair k v).hmc = s.hmc := rfl
@[simp] theorem setPair_we (k : Nat) (v : TimePair) : (s.setPair k v).we = s.we := rfl
@[simp] theorem setPair_ce (k : Nat) (v : TimePair) : (s.setPair k v).ce = s.ce := rfl
@[simp] theorem setPair_ms (k : Nat) (v : TimePair) : (s.setPair k v).ms = s.ms := rfl
@[simp] theorem setPair_ss (k : Nat) (v : TimePair) : (s.setPair k v).ss = s.ss := rfl
@[simp] theorem setPair_tim (k : Nat) (v : TimePair) : (s.setPair k v).tim = s.tim := rfl
@[simp] theorem setPair_mgt (k : Nat) (v : TimePair) : (s.setPair k v).mgt = s.mgt := rfl
@[simp] theorem setPair_seqAt (k j : Nat) (v : TimePair) : (s.setPair k v).seqAt j = s.seqAt j := rfl
@[simp] theorem setPair_apgAt (k j : Nat) (v : TimePair) : (s.setPair k v).apgAt j = s.apgAt j := rfl
@[simp] theorem setPair_chanAt (k j : Nat) (v : TimePair) : (s.setPair k v).chanAt j = s.chanAt j := rfl
@[simp] theorem setPair_bankAt (k j : Nat) (v : TimePair) : (s.setPair k v).bankAt j = s.bankAt j := rfl
@[simp] theorem setPair_capAt (k j : Nat) (v : TimePair) : (s.setPair k v).capAt j = s.capAt j := rfl
@[simp] theorem setPair_alignAt (k j : Nat) (v : TimePair) : (s.setPair k v).alignAt j = s.alignAt j := rfl
@[simp] theorem setPair_tdAt (k j : Nat) (v : TimePair) : (s.setPair k v).tdAt j = s.tdAt j := rfl
@[simp] theorem setPair_hdrAt (k j : Nat) (v : TimePair) : (s.setPair k v).hdrAt j = s.hdrAt j := rfl
@[simp] theorem setPair_zpAt (k j : Nat) (v : TimePair) : (s.setPair k v).zpAt j = s.zpAt j := rfl
@[simp] theorem setPair_plAt (k j : Nat) (v : TimePair) : (s.setPair k v).plAt j = s.plAt j := rfl
@[simp] theorem setPair_weAt (k j : Nat) (v : TimePair) : (s.setPair k v).weAt j = s.weAt j := rfl
@[simp] theorem setPair_ceAt (k j : Nat) (v : TimePair) : (s.setPair k v).ceAt j = s.ceAt j := rfl
@[simp] theorem setPair_msAt (k j : Nat) (v : TimePair) : (s.setPair k v).msAt j = s.msAt j := rfl
@[simp] theorem setPair_ssAt (k j : Nat) (v : TimePair) : (s.setPair k v).ssAt j = s.ssAt j := rfl
@[simp] theorem setPair_timAt (k j : Nat) (v : TimePair) : (s.setPair k v).timAt j = s.timAt j := rfl
@[simp] theorem setPair_unitAt (k j : Nat) (v : TimePair) : (s.setPair k v).unitAt j = s.unitAt j := rfl
@[simp] theorem setPair_pcAt (k j : Nat) (v : TimePair) : (s.setPair k v).pcAt j = s.pcAt j := rfl
@[simp] theorem setPair_hportAt (k j : Nat) (v : TimePair) : (s.setPair k v).hportAt j = s.hportAt j := rfl
@[simp] theorem setPair_stackAt (k j : Nat) (v : TimePair) : (s.setPair k v).stackAt j = s.stackAt j := rfl
@[simp] theorem setPair_taskAt (k j : Nat) (v : TimePair) : (s.setPair k v).taskAt j = s.taskAt j := rfl
@[simp] theorem setPair_execAt (k j : Nat) (v : TimePair) : (s.setPair k v).execAt j = s.execAt j := rfl
@[simp] theorem setPair_portAt (k j : Nat) (v : TimePair) : (s.setPair k v).portAt j = s.portAt j := rfl
@[simp] theorem setPair_reg (k p o : Nat) (v : TimePair) : (s.setPair k v).reg p o = s.reg p o := rfl
@[simp] theorem setPair_regN (k p o : Nat) (v : TimePair) : (s.setPair k v).regN p o = s.regN p o := rfl
@[simp] theorem setPair_reg64 (k p o : Nat) (v : TimePair) : (s.setPair k v).reg64 p o = s.reg64 p o := rfl
@[simp] theorem setPair_ready (k p : Nat) (v : TimePair) : (s.setPair k v).ready p = s.ready p := rfl
@[simp] theorem modPair_eq (k : Nat) (f : TimePair → TimePair) : s.modPair k f = s.setPair k (f (s.pairAt k)) := rfl

/-! setHdr -/
@[simp] theorem setHdr_hdrAt (k j : Nat) (v : PageHdr) : (s.setHdr k v).hdrAt j = if j = k then v else s.hdrAt j := sget_sput _ _ _ _ _
@[simp] theorem setHdr_pending (k : Nat) (v : PageHdr) : (s.setHdr k v).pending = s.pending := rfl
@[simp] theorem setHdr_now (k : Nat) (v : PageHdr) : (s.setHdr k v).now = s.now := rfl
@[simp] theorem setHdr_freeCtr (k : Nat) (v : PageHdr) : (s.setHdr k v).freeCtr = s.freeCtr := rfl
@[simp] theorem setHdr_outbox (k : Nat) (v : PageHdr) : (s.setHdr k v).outbox = s.outbox := rfl
@[simp] theorem setHdr_hostOut (k : Nat) (v : PageHdr) : (s.setHdr k v).hostOut = s.hostOut := rfl
@[simp] theorem setHdr_redo (k : Nat) (v : PageHdr) : (s.setHdr k v).redo = s.redo := rfl
@[simp] theorem setHdr_msixOn (k : Nat) (v : PageHdr) : (s.setHdr k v).msixOn = s.msixOn := rfl
@[simp] theorem setHdr_msixPend (k : Nat) (v : PageHdr) : (s.setHdr k v).msixPend = s.msixPend := rfl
@[simp] theorem setHdr_pcieHeld (k : Nat) (v : PageHdr) : (s.setHdr k v).pcieHeld = s.pcieHeld := rfl
@[simp] theorem setHdr_regs (k : Nat) (v : PageHdr) : (s.setHdr k v).regs = s.regs := rfl
@[simp] theorem setHdr_latches (k : Nat) (v : PageHdr) : (s.setHdr k v).latches = s.latches := rfl
@[simp] theorem setHdr_hbm (k : Nat) (v : PageHdr) : (s.setHdr k v).hbm = s.hbm := rfl
@[simp] theorem setHdr_hbmBad (k : Nat) (v : PageHdr) : (s.setHdr k v).hbmBad = s.hbmBad := rfl
@[simp] theorem setHdr_hbmLost (k : Nat) (v : PageHdr) : (s.setHdr k v).hbmLost = s.hbmLost := rfl
@[simp] theorem setHdr_seq (k : Nat) (v : PageHdr) : (s.setHdr k v).seq = s.seq := rfl
@[simp] theorem setHdr_apg (k : Nat) (v : PageHdr) : (s.setHdr k v).apg = s.apg := rfl
@[simp] theorem setHdr_apgTab (k : Nat) (v : PageHdr) : (s.setHdr k v).apgTab = s.apgTab := rfl
@[simp] theorem setHdr_chan (k : Nat) (v : PageHdr) : (s.setHdr k v).chan = s.chan := rfl
@[simp] theorem setHdr_bank (k : Nat) (v : PageHdr) : (s.setHdr k v).bank = s.bank := rfl
@[simp] theorem setHdr_bankQueue (k : Nat) (v : PageHdr) : (s.setHdr k v).bankQueue = s.bankQueue := rfl
@[simp] theorem setHdr_bankLastStart (k : Nat) (v : PageHdr) : (s.setHdr k v).bankLastStart = s.bankLastStart := rfl
@[simp] theorem setHdr_tss (k : Nat) (v : PageHdr) : (s.setHdr k v).tss = s.tss := rfl
@[simp] theorem setHdr_cap (k : Nat) (v : PageHdr) : (s.setHdr k v).cap = s.cap := rfl
@[simp] theorem setHdr_trg (k : Nat) (v : PageHdr) : (s.setHdr k v).trg = s.trg := rfl
@[simp] theorem setHdr_align (k : Nat) (v : PageHdr) : (s.setHdr k v).align = s.align := rfl
@[simp] theorem setHdr_merge (k : Nat) (v : PageHdr) : (s.setHdr k v).merge = s.merge := rfl
@[simp] theorem setHdr_td (k : Nat) (v : PageHdr) : (s.setHdr k v).td = s.td := rfl
@[simp] theorem setHdr_pair (k : Nat) (v : PageHdr) : (s.setHdr k v).pair = s.pair := rfl
@[simp] theorem setHdr_sync (k : Nat) (v : PageHdr) : (s.setHdr k v).sync = s.sync := rfl
@[simp] theorem setHdr_cal (k : Nat) (v : PageHdr) : (s.setHdr k v).cal = s.cal := rfl
@[simp] theorem setHdr_fuse (k : Nat) (v : PageHdr) : (s.setHdr k v).fuse = s.fuse := rfl
@[simp] theorem setHdr_sch (k : Nat) (v : PageHdr) : (s.setHdr k v).sch = s.sch := rfl
@[simp] theorem setHdr_zp (k : Nat) (v : PageHdr) : (s.setHdr k v).zp = s.zp := rfl
@[simp] theorem setHdr_pl (k : Nat) (v : PageHdr) : (s.setHdr k v).pl = s.pl := rfl
@[simp] theorem setHdr_pcie (k : Nat) (v : PageHdr) : (s.setHdr k v).pcie = s.pcie := rfl
@[simp] theorem setHdr_hmc (k : Nat) (v : PageHdr) : (s.setHdr k v).hmc = s.hmc := rfl
@[simp] theorem setHdr_we (k : Nat) (v : PageHdr) : (s.setHdr k v).we = s.we := rfl
@[simp] theorem setHdr_ce (k : Nat) (v : PageHdr) : (s.setHdr k v).ce = s.ce := rfl
@[simp] theorem setHdr_ms (k : Nat) (v : PageHdr) : (s.setHdr k v).ms = s.ms := rfl
@[simp] theorem setHdr_ss (k : Nat) (v : PageHdr) : (s.setHdr k v).ss = s.ss := rfl
@[simp] theorem setHdr_tim (k : Nat) (v : PageHdr) : (s.setHdr k v).tim = s.tim := rfl
@[simp] theorem setHdr_mgt (k : Nat) (v : PageHdr) : (s.setHdr k v).mgt = s.mgt := rfl
@[simp] theorem setHdr_seqAt (k j : Nat) (v : PageHdr) : (s.setHdr k v).seqAt j = s.seqAt j := rfl
@[simp] theorem setHdr_apgAt (k j : Nat) (v : PageHdr) : (s.setHdr k v).apgAt j = s.apgAt j := rfl
@[simp] theorem setHdr_chanAt (k j : Nat) (v : PageHdr) : (s.setHdr k v).chanAt j = s.chanAt j := rfl
@[simp] theorem setHdr_bankAt (k j : Nat) (v : PageHdr) : (s.setHdr k v).bankAt j = s.bankAt j := rfl
@[simp] theorem setHdr_capAt (k j : Nat) (v : PageHdr) : (s.setHdr k v).capAt j = s.capAt j := rfl
@[simp] theorem setHdr_alignAt (k j : Nat) (v : PageHdr) : (s.setHdr k v).alignAt j = s.alignAt j := rfl
@[simp] theorem setHdr_tdAt (k j : Nat) (v : PageHdr) : (s.setHdr k v).tdAt j = s.tdAt j := rfl
@[simp] theorem setHdr_pairAt (k j : Nat) (v : PageHdr) : (s.setHdr k v).pairAt j = s.pairAt j := rfl
@[simp] theorem setHdr_zpAt (k j : Nat) (v : PageHdr) : (s.setHdr k v).zpAt j = s.zpAt j := rfl
@[simp] theorem setHdr_plAt (k j : Nat) (v : PageHdr) : (s.setHdr k v).plAt j = s.plAt j := rfl
@[simp] theorem setHdr_weAt (k j : Nat) (v : PageHdr) : (s.setHdr k v).weAt j = s.weAt j := rfl
@[simp] theorem setHdr_ceAt (k j : Nat) (v : PageHdr) : (s.setHdr k v).ceAt j = s.ceAt j := rfl
@[simp] theorem setHdr_msAt (k j : Nat) (v : PageHdr) : (s.setHdr k v).msAt j = s.msAt j := rfl
@[simp] theorem setHdr_ssAt (k j : Nat) (v : PageHdr) : (s.setHdr k v).ssAt j = s.ssAt j := rfl
@[simp] theorem setHdr_timAt (k j : Nat) (v : PageHdr) : (s.setHdr k v).timAt j = s.timAt j := rfl
@[simp] theorem setHdr_unitAt (k j : Nat) (v : PageHdr) : (s.setHdr k v).unitAt j = s.unitAt j := rfl
@[simp] theorem setHdr_pcAt (k j : Nat) (v : PageHdr) : (s.setHdr k v).pcAt j = s.pcAt j := rfl
@[simp] theorem setHdr_hportAt (k j : Nat) (v : PageHdr) : (s.setHdr k v).hportAt j = s.hportAt j := rfl
@[simp] theorem setHdr_stackAt (k j : Nat) (v : PageHdr) : (s.setHdr k v).stackAt j = s.stackAt j := rfl
@[simp] theorem setHdr_taskAt (k j : Nat) (v : PageHdr) : (s.setHdr k v).taskAt j = s.taskAt j := rfl
@[simp] theorem setHdr_execAt (k j : Nat) (v : PageHdr) : (s.setHdr k v).execAt j = s.execAt j := rfl
@[simp] theorem setHdr_portAt (k j : Nat) (v : PageHdr) : (s.setHdr k v).portAt j = s.portAt j := rfl
@[simp] theorem setHdr_reg (k p o : Nat) (v : PageHdr) : (s.setHdr k v).reg p o = s.reg p o := rfl
@[simp] theorem setHdr_regN (k p o : Nat) (v : PageHdr) : (s.setHdr k v).regN p o = s.regN p o := rfl
@[simp] theorem setHdr_reg64 (k p o : Nat) (v : PageHdr) : (s.setHdr k v).reg64 p o = s.reg64 p o := rfl
@[simp] theorem modHdr_eq (k : Nat) (f : PageHdr → PageHdr) : s.modHdr k f = s.setHdr k (f (s.hdrAt k)) := rfl

/-! setZp -/
@[simp] theorem setZp_zpAt (k j : Nat) (v : Zp) : (s.setZp k v).zpAt j = if j = k then v else s.zpAt j := sget_sput _ _ _ _ _
@[simp] theorem setZp_pending (k : Nat) (v : Zp) : (s.setZp k v).pending = s.pending := rfl
@[simp] theorem setZp_now (k : Nat) (v : Zp) : (s.setZp k v).now = s.now := rfl
@[simp] theorem setZp_freeCtr (k : Nat) (v : Zp) : (s.setZp k v).freeCtr = s.freeCtr := rfl
@[simp] theorem setZp_outbox (k : Nat) (v : Zp) : (s.setZp k v).outbox = s.outbox := rfl
@[simp] theorem setZp_hostOut (k : Nat) (v : Zp) : (s.setZp k v).hostOut = s.hostOut := rfl
@[simp] theorem setZp_hdr (k : Nat) (v : Zp) : (s.setZp k v).hdr = s.hdr := rfl
@[simp] theorem setZp_redo (k : Nat) (v : Zp) : (s.setZp k v).redo = s.redo := rfl
@[simp] theorem setZp_msixOn (k : Nat) (v : Zp) : (s.setZp k v).msixOn = s.msixOn := rfl
@[simp] theorem setZp_msixPend (k : Nat) (v : Zp) : (s.setZp k v).msixPend = s.msixPend := rfl
@[simp] theorem setZp_pcieHeld (k : Nat) (v : Zp) : (s.setZp k v).pcieHeld = s.pcieHeld := rfl
@[simp] theorem setZp_regs (k : Nat) (v : Zp) : (s.setZp k v).regs = s.regs := rfl
@[simp] theorem setZp_latches (k : Nat) (v : Zp) : (s.setZp k v).latches = s.latches := rfl
@[simp] theorem setZp_hbm (k : Nat) (v : Zp) : (s.setZp k v).hbm = s.hbm := rfl
@[simp] theorem setZp_hbmBad (k : Nat) (v : Zp) : (s.setZp k v).hbmBad = s.hbmBad := rfl
@[simp] theorem setZp_hbmLost (k : Nat) (v : Zp) : (s.setZp k v).hbmLost = s.hbmLost := rfl
@[simp] theorem setZp_seq (k : Nat) (v : Zp) : (s.setZp k v).seq = s.seq := rfl
@[simp] theorem setZp_apg (k : Nat) (v : Zp) : (s.setZp k v).apg = s.apg := rfl
@[simp] theorem setZp_apgTab (k : Nat) (v : Zp) : (s.setZp k v).apgTab = s.apgTab := rfl
@[simp] theorem setZp_chan (k : Nat) (v : Zp) : (s.setZp k v).chan = s.chan := rfl
@[simp] theorem setZp_bank (k : Nat) (v : Zp) : (s.setZp k v).bank = s.bank := rfl
@[simp] theorem setZp_bankQueue (k : Nat) (v : Zp) : (s.setZp k v).bankQueue = s.bankQueue := rfl
@[simp] theorem setZp_bankLastStart (k : Nat) (v : Zp) : (s.setZp k v).bankLastStart = s.bankLastStart := rfl
@[simp] theorem setZp_tss (k : Nat) (v : Zp) : (s.setZp k v).tss = s.tss := rfl
@[simp] theorem setZp_cap (k : Nat) (v : Zp) : (s.setZp k v).cap = s.cap := rfl
@[simp] theorem setZp_trg (k : Nat) (v : Zp) : (s.setZp k v).trg = s.trg := rfl
@[simp] theorem setZp_align (k : Nat) (v : Zp) : (s.setZp k v).align = s.align := rfl
@[simp] theorem setZp_merge (k : Nat) (v : Zp) : (s.setZp k v).merge = s.merge := rfl
@[simp] theorem setZp_td (k : Nat) (v : Zp) : (s.setZp k v).td = s.td := rfl
@[simp] theorem setZp_pair (k : Nat) (v : Zp) : (s.setZp k v).pair = s.pair := rfl
@[simp] theorem setZp_sync (k : Nat) (v : Zp) : (s.setZp k v).sync = s.sync := rfl
@[simp] theorem setZp_cal (k : Nat) (v : Zp) : (s.setZp k v).cal = s.cal := rfl
@[simp] theorem setZp_fuse (k : Nat) (v : Zp) : (s.setZp k v).fuse = s.fuse := rfl
@[simp] theorem setZp_sch (k : Nat) (v : Zp) : (s.setZp k v).sch = s.sch := rfl
@[simp] theorem setZp_pl (k : Nat) (v : Zp) : (s.setZp k v).pl = s.pl := rfl
@[simp] theorem setZp_pcie (k : Nat) (v : Zp) : (s.setZp k v).pcie = s.pcie := rfl
@[simp] theorem setZp_hmc (k : Nat) (v : Zp) : (s.setZp k v).hmc = s.hmc := rfl
@[simp] theorem setZp_we (k : Nat) (v : Zp) : (s.setZp k v).we = s.we := rfl
@[simp] theorem setZp_ce (k : Nat) (v : Zp) : (s.setZp k v).ce = s.ce := rfl
@[simp] theorem setZp_ms (k : Nat) (v : Zp) : (s.setZp k v).ms = s.ms := rfl
@[simp] theorem setZp_ss (k : Nat) (v : Zp) : (s.setZp k v).ss = s.ss := rfl
@[simp] theorem setZp_tim (k : Nat) (v : Zp) : (s.setZp k v).tim = s.tim := rfl
@[simp] theorem setZp_mgt (k : Nat) (v : Zp) : (s.setZp k v).mgt = s.mgt := rfl
@[simp] theorem setZp_seqAt (k j : Nat) (v : Zp) : (s.setZp k v).seqAt j = s.seqAt j := rfl
@[simp] theorem setZp_apgAt (k j : Nat) (v : Zp) : (s.setZp k v).apgAt j = s.apgAt j := rfl
@[simp] theorem setZp_chanAt (k j : Nat) (v : Zp) : (s.setZp k v).chanAt j = s.chanAt j := rfl
@[simp] theorem setZp_bankAt (k j : Nat) (v : Zp) : (s.setZp k v).bankAt j = s.bankAt j := rfl
@[simp] theorem setZp_capAt (k j : Nat) (v : Zp) : (s.setZp k v).capAt j = s.capAt j := rfl
@[simp] theorem setZp_alignAt (k j : Nat) (v : Zp) : (s.setZp k v).alignAt j = s.alignAt j := rfl
@[simp] theorem setZp_tdAt (k j : Nat) (v : Zp) : (s.setZp k v).tdAt j = s.tdAt j := rfl
@[simp] theorem setZp_pairAt (k j : Nat) (v : Zp) : (s.setZp k v).pairAt j = s.pairAt j := rfl
@[simp] theorem setZp_hdrAt (k j : Nat) (v : Zp) : (s.setZp k v).hdrAt j = s.hdrAt j := rfl
@[simp] theorem setZp_plAt (k j : Nat) (v : Zp) : (s.setZp k v).plAt j = s.plAt j := rfl
@[simp] theorem setZp_weAt (k j : Nat) (v : Zp) : (s.setZp k v).weAt j = s.weAt j := rfl
@[simp] theorem setZp_ceAt (k j : Nat) (v : Zp) : (s.setZp k v).ceAt j = s.ceAt j := rfl
@[simp] theorem setZp_msAt (k j : Nat) (v : Zp) : (s.setZp k v).msAt j = s.msAt j := rfl
@[simp] theorem setZp_ssAt (k j : Nat) (v : Zp) : (s.setZp k v).ssAt j = s.ssAt j := rfl
@[simp] theorem setZp_timAt (k j : Nat) (v : Zp) : (s.setZp k v).timAt j = s.timAt j := rfl
@[simp] theorem setZp_unitAt (k j : Nat) (v : Zp) : (s.setZp k v).unitAt j = s.unitAt j := rfl
@[simp] theorem setZp_pcAt (k j : Nat) (v : Zp) : (s.setZp k v).pcAt j = s.pcAt j := rfl
@[simp] theorem setZp_hportAt (k j : Nat) (v : Zp) : (s.setZp k v).hportAt j = s.hportAt j := rfl
@[simp] theorem setZp_stackAt (k j : Nat) (v : Zp) : (s.setZp k v).stackAt j = s.stackAt j := rfl
@[simp] theorem setZp_taskAt (k j : Nat) (v : Zp) : (s.setZp k v).taskAt j = s.taskAt j := rfl
@[simp] theorem setZp_execAt (k j : Nat) (v : Zp) : (s.setZp k v).execAt j = s.execAt j := rfl
@[simp] theorem setZp_portAt (k j : Nat) (v : Zp) : (s.setZp k v).portAt j = s.portAt j := rfl
@[simp] theorem setZp_reg (k p o : Nat) (v : Zp) : (s.setZp k v).reg p o = s.reg p o := rfl
@[simp] theorem setZp_regN (k p o : Nat) (v : Zp) : (s.setZp k v).regN p o = s.regN p o := rfl
@[simp] theorem setZp_reg64 (k p o : Nat) (v : Zp) : (s.setZp k v).reg64 p o = s.reg64 p o := rfl
@[simp] theorem setZp_ready (k p : Nat) (v : Zp) : (s.setZp k v).ready p = s.ready p := rfl
@[simp] theorem modZp_eq (k : Nat) (f : Zp → Zp) : s.modZp k f = s.setZp k (f (s.zpAt k)) := rfl

/-! setPl -/
@[simp] theorem setPl_plAt (k j : Nat) (v : Pl) : (s.setPl k v).plAt j = if j = k then v else s.plAt j := sget_sput _ _ _ _ _
@[simp] theorem setPl_pending (k : Nat) (v : Pl) : (s.setPl k v).pending = s.pending := rfl
@[simp] theorem setPl_now (k : Nat) (v : Pl) : (s.setPl k v).now = s.now := rfl
@[simp] theorem setPl_freeCtr (k : Nat) (v : Pl) : (s.setPl k v).freeCtr = s.freeCtr := rfl
@[simp] theorem setPl_outbox (k : Nat) (v : Pl) : (s.setPl k v).outbox = s.outbox := rfl
@[simp] theorem setPl_hostOut (k : Nat) (v : Pl) : (s.setPl k v).hostOut = s.hostOut := rfl
@[simp] theorem setPl_hdr (k : Nat) (v : Pl) : (s.setPl k v).hdr = s.hdr := rfl
@[simp] theorem setPl_redo (k : Nat) (v : Pl) : (s.setPl k v).redo = s.redo := rfl
@[simp] theorem setPl_msixOn (k : Nat) (v : Pl) : (s.setPl k v).msixOn = s.msixOn := rfl
@[simp] theorem setPl_msixPend (k : Nat) (v : Pl) : (s.setPl k v).msixPend = s.msixPend := rfl
@[simp] theorem setPl_pcieHeld (k : Nat) (v : Pl) : (s.setPl k v).pcieHeld = s.pcieHeld := rfl
@[simp] theorem setPl_regs (k : Nat) (v : Pl) : (s.setPl k v).regs = s.regs := rfl
@[simp] theorem setPl_latches (k : Nat) (v : Pl) : (s.setPl k v).latches = s.latches := rfl
@[simp] theorem setPl_hbm (k : Nat) (v : Pl) : (s.setPl k v).hbm = s.hbm := rfl
@[simp] theorem setPl_hbmBad (k : Nat) (v : Pl) : (s.setPl k v).hbmBad = s.hbmBad := rfl
@[simp] theorem setPl_hbmLost (k : Nat) (v : Pl) : (s.setPl k v).hbmLost = s.hbmLost := rfl
@[simp] theorem setPl_seq (k : Nat) (v : Pl) : (s.setPl k v).seq = s.seq := rfl
@[simp] theorem setPl_apg (k : Nat) (v : Pl) : (s.setPl k v).apg = s.apg := rfl
@[simp] theorem setPl_apgTab (k : Nat) (v : Pl) : (s.setPl k v).apgTab = s.apgTab := rfl
@[simp] theorem setPl_chan (k : Nat) (v : Pl) : (s.setPl k v).chan = s.chan := rfl
@[simp] theorem setPl_bank (k : Nat) (v : Pl) : (s.setPl k v).bank = s.bank := rfl
@[simp] theorem setPl_bankQueue (k : Nat) (v : Pl) : (s.setPl k v).bankQueue = s.bankQueue := rfl
@[simp] theorem setPl_bankLastStart (k : Nat) (v : Pl) : (s.setPl k v).bankLastStart = s.bankLastStart := rfl
@[simp] theorem setPl_tss (k : Nat) (v : Pl) : (s.setPl k v).tss = s.tss := rfl
@[simp] theorem setPl_cap (k : Nat) (v : Pl) : (s.setPl k v).cap = s.cap := rfl
@[simp] theorem setPl_trg (k : Nat) (v : Pl) : (s.setPl k v).trg = s.trg := rfl
@[simp] theorem setPl_align (k : Nat) (v : Pl) : (s.setPl k v).align = s.align := rfl
@[simp] theorem setPl_merge (k : Nat) (v : Pl) : (s.setPl k v).merge = s.merge := rfl
@[simp] theorem setPl_td (k : Nat) (v : Pl) : (s.setPl k v).td = s.td := rfl
@[simp] theorem setPl_pair (k : Nat) (v : Pl) : (s.setPl k v).pair = s.pair := rfl
@[simp] theorem setPl_sync (k : Nat) (v : Pl) : (s.setPl k v).sync = s.sync := rfl
@[simp] theorem setPl_cal (k : Nat) (v : Pl) : (s.setPl k v).cal = s.cal := rfl
@[simp] theorem setPl_fuse (k : Nat) (v : Pl) : (s.setPl k v).fuse = s.fuse := rfl
@[simp] theorem setPl_sch (k : Nat) (v : Pl) : (s.setPl k v).sch = s.sch := rfl
@[simp] theorem setPl_zp (k : Nat) (v : Pl) : (s.setPl k v).zp = s.zp := rfl
@[simp] theorem setPl_pcie (k : Nat) (v : Pl) : (s.setPl k v).pcie = s.pcie := rfl
@[simp] theorem setPl_hmc (k : Nat) (v : Pl) : (s.setPl k v).hmc = s.hmc := rfl
@[simp] theorem setPl_we (k : Nat) (v : Pl) : (s.setPl k v).we = s.we := rfl
@[simp] theorem setPl_ce (k : Nat) (v : Pl) : (s.setPl k v).ce = s.ce := rfl
@[simp] theorem setPl_ms (k : Nat) (v : Pl) : (s.setPl k v).ms = s.ms := rfl
@[simp] theorem setPl_ss (k : Nat) (v : Pl) : (s.setPl k v).ss = s.ss := rfl
@[simp] theorem setPl_tim (k : Nat) (v : Pl) : (s.setPl k v).tim = s.tim := rfl
@[simp] theorem setPl_mgt (k : Nat) (v : Pl) : (s.setPl k v).mgt = s.mgt := rfl
@[simp] theorem setPl_seqAt (k j : Nat) (v : Pl) : (s.setPl k v).seqAt j = s.seqAt j := rfl
@[simp] theorem setPl_apgAt (k j : Nat) (v : Pl) : (s.setPl k v).apgAt j = s.apgAt j := rfl
@[simp] theorem setPl_chanAt (k j : Nat) (v : Pl) : (s.setPl k v).chanAt j = s.chanAt j := rfl
@[simp] theorem setPl_bankAt (k j : Nat) (v : Pl) : (s.setPl k v).bankAt j = s.bankAt j := rfl
@[simp] theorem setPl_capAt (k j : Nat) (v : Pl) : (s.setPl k v).capAt j = s.capAt j := rfl
@[simp] theorem setPl_alignAt (k j : Nat) (v : Pl) : (s.setPl k v).alignAt j = s.alignAt j := rfl
@[simp] theorem setPl_tdAt (k j : Nat) (v : Pl) : (s.setPl k v).tdAt j = s.tdAt j := rfl
@[simp] theorem setPl_pairAt (k j : Nat) (v : Pl) : (s.setPl k v).pairAt j = s.pairAt j := rfl
@[simp] theorem setPl_hdrAt (k j : Nat) (v : Pl) : (s.setPl k v).hdrAt j = s.hdrAt j := rfl
@[simp] theorem setPl_zpAt (k j : Nat) (v : Pl) : (s.setPl k v).zpAt j = s.zpAt j := rfl
@[simp] theorem setPl_weAt (k j : Nat) (v : Pl) : (s.setPl k v).weAt j = s.weAt j := rfl
@[simp] theorem setPl_ceAt (k j : Nat) (v : Pl) : (s.setPl k v).ceAt j = s.ceAt j := rfl
@[simp] theorem setPl_msAt (k j : Nat) (v : Pl) : (s.setPl k v).msAt j = s.msAt j := rfl
@[simp] theorem setPl_ssAt (k j : Nat) (v : Pl) : (s.setPl k v).ssAt j = s.ssAt j := rfl
@[simp] theorem setPl_timAt (k j : Nat) (v : Pl) : (s.setPl k v).timAt j = s.timAt j := rfl
@[simp] theorem setPl_unitAt (k j : Nat) (v : Pl) : (s.setPl k v).unitAt j = s.unitAt j := rfl
@[simp] theorem setPl_pcAt (k j : Nat) (v : Pl) : (s.setPl k v).pcAt j = s.pcAt j := rfl
@[simp] theorem setPl_hportAt (k j : Nat) (v : Pl) : (s.setPl k v).hportAt j = s.hportAt j := rfl
@[simp] theorem setPl_stackAt (k j : Nat) (v : Pl) : (s.setPl k v).stackAt j = s.stackAt j := rfl
@[simp] theorem setPl_taskAt (k j : Nat) (v : Pl) : (s.setPl k v).taskAt j = s.taskAt j := rfl
@[simp] theorem setPl_execAt (k j : Nat) (v : Pl) : (s.setPl k v).execAt j = s.execAt j := rfl
@[simp] theorem setPl_portAt (k j : Nat) (v : Pl) : (s.setPl k v).portAt j = s.portAt j := rfl
@[simp] theorem setPl_reg (k p o : Nat) (v : Pl) : (s.setPl k v).reg p o = s.reg p o := rfl
@[simp] theorem setPl_regN (k p o : Nat) (v : Pl) : (s.setPl k v).regN p o = s.regN p o := rfl
@[simp] theorem setPl_reg64 (k p o : Nat) (v : Pl) : (s.setPl k v).reg64 p o = s.reg64 p o := rfl
@[simp] theorem setPl_ready (k p : Nat) (v : Pl) : (s.setPl k v).ready p = s.ready p := rfl
@[simp] theorem modPl_eq (k : Nat) (f : Pl → Pl) : s.modPl k f = s.setPl k (f (s.plAt k)) := rfl

/-! setWe -/
@[simp] theorem setWe_weAt (k j : Nat) (v : We) : (s.setWe k v).weAt j = if j = k then v else s.weAt j := sget_sput _ _ _ _ _
@[simp] theorem setWe_pending (k : Nat) (v : We) : (s.setWe k v).pending = s.pending := rfl
@[simp] theorem setWe_now (k : Nat) (v : We) : (s.setWe k v).now = s.now := rfl
@[simp] theorem setWe_freeCtr (k : Nat) (v : We) : (s.setWe k v).freeCtr = s.freeCtr := rfl
@[simp] theorem setWe_outbox (k : Nat) (v : We) : (s.setWe k v).outbox = s.outbox := rfl
@[simp] theorem setWe_hostOut (k : Nat) (v : We) : (s.setWe k v).hostOut = s.hostOut := rfl
@[simp] theorem setWe_hdr (k : Nat) (v : We) : (s.setWe k v).hdr = s.hdr := rfl
@[simp] theorem setWe_redo (k : Nat) (v : We) : (s.setWe k v).redo = s.redo := rfl
@[simp] theorem setWe_msixOn (k : Nat) (v : We) : (s.setWe k v).msixOn = s.msixOn := rfl
@[simp] theorem setWe_msixPend (k : Nat) (v : We) : (s.setWe k v).msixPend = s.msixPend := rfl
@[simp] theorem setWe_pcieHeld (k : Nat) (v : We) : (s.setWe k v).pcieHeld = s.pcieHeld := rfl
@[simp] theorem setWe_regs (k : Nat) (v : We) : (s.setWe k v).regs = s.regs := rfl
@[simp] theorem setWe_latches (k : Nat) (v : We) : (s.setWe k v).latches = s.latches := rfl
@[simp] theorem setWe_hbm (k : Nat) (v : We) : (s.setWe k v).hbm = s.hbm := rfl
@[simp] theorem setWe_hbmBad (k : Nat) (v : We) : (s.setWe k v).hbmBad = s.hbmBad := rfl
@[simp] theorem setWe_hbmLost (k : Nat) (v : We) : (s.setWe k v).hbmLost = s.hbmLost := rfl
@[simp] theorem setWe_seq (k : Nat) (v : We) : (s.setWe k v).seq = s.seq := rfl
@[simp] theorem setWe_apg (k : Nat) (v : We) : (s.setWe k v).apg = s.apg := rfl
@[simp] theorem setWe_apgTab (k : Nat) (v : We) : (s.setWe k v).apgTab = s.apgTab := rfl
@[simp] theorem setWe_chan (k : Nat) (v : We) : (s.setWe k v).chan = s.chan := rfl
@[simp] theorem setWe_bank (k : Nat) (v : We) : (s.setWe k v).bank = s.bank := rfl
@[simp] theorem setWe_bankQueue (k : Nat) (v : We) : (s.setWe k v).bankQueue = s.bankQueue := rfl
@[simp] theorem setWe_bankLastStart (k : Nat) (v : We) : (s.setWe k v).bankLastStart = s.bankLastStart := rfl
@[simp] theorem setWe_tss (k : Nat) (v : We) : (s.setWe k v).tss = s.tss := rfl
@[simp] theorem setWe_cap (k : Nat) (v : We) : (s.setWe k v).cap = s.cap := rfl
@[simp] theorem setWe_trg (k : Nat) (v : We) : (s.setWe k v).trg = s.trg := rfl
@[simp] theorem setWe_align (k : Nat) (v : We) : (s.setWe k v).align = s.align := rfl
@[simp] theorem setWe_merge (k : Nat) (v : We) : (s.setWe k v).merge = s.merge := rfl
@[simp] theorem setWe_td (k : Nat) (v : We) : (s.setWe k v).td = s.td := rfl
@[simp] theorem setWe_pair (k : Nat) (v : We) : (s.setWe k v).pair = s.pair := rfl
@[simp] theorem setWe_sync (k : Nat) (v : We) : (s.setWe k v).sync = s.sync := rfl
@[simp] theorem setWe_cal (k : Nat) (v : We) : (s.setWe k v).cal = s.cal := rfl
@[simp] theorem setWe_fuse (k : Nat) (v : We) : (s.setWe k v).fuse = s.fuse := rfl
@[simp] theorem setWe_sch (k : Nat) (v : We) : (s.setWe k v).sch = s.sch := rfl
@[simp] theorem setWe_zp (k : Nat) (v : We) : (s.setWe k v).zp = s.zp := rfl
@[simp] theorem setWe_pl (k : Nat) (v : We) : (s.setWe k v).pl = s.pl := rfl
@[simp] theorem setWe_pcie (k : Nat) (v : We) : (s.setWe k v).pcie = s.pcie := rfl
@[simp] theorem setWe_hmc (k : Nat) (v : We) : (s.setWe k v).hmc = s.hmc := rfl
@[simp] theorem setWe_ce (k : Nat) (v : We) : (s.setWe k v).ce = s.ce := rfl
@[simp] theorem setWe_ms (k : Nat) (v : We) : (s.setWe k v).ms = s.ms := rfl
@[simp] theorem setWe_ss (k : Nat) (v : We) : (s.setWe k v).ss = s.ss := rfl
@[simp] theorem setWe_tim (k : Nat) (v : We) : (s.setWe k v).tim = s.tim := rfl
@[simp] theorem setWe_mgt (k : Nat) (v : We) : (s.setWe k v).mgt = s.mgt := rfl
@[simp] theorem setWe_seqAt (k j : Nat) (v : We) : (s.setWe k v).seqAt j = s.seqAt j := rfl
@[simp] theorem setWe_apgAt (k j : Nat) (v : We) : (s.setWe k v).apgAt j = s.apgAt j := rfl
@[simp] theorem setWe_chanAt (k j : Nat) (v : We) : (s.setWe k v).chanAt j = s.chanAt j := rfl
@[simp] theorem setWe_bankAt (k j : Nat) (v : We) : (s.setWe k v).bankAt j = s.bankAt j := rfl
@[simp] theorem setWe_capAt (k j : Nat) (v : We) : (s.setWe k v).capAt j = s.capAt j := rfl
@[simp] theorem setWe_alignAt (k j : Nat) (v : We) : (s.setWe k v).alignAt j = s.alignAt j := rfl
@[simp] theorem setWe_tdAt (k j : Nat) (v : We) : (s.setWe k v).tdAt j = s.tdAt j := rfl
@[simp] theorem setWe_pairAt (k j : Nat) (v : We) : (s.setWe k v).pairAt j = s.pairAt j := rfl
@[simp] theorem setWe_hdrAt (k j : Nat) (v : We) : (s.setWe k v).hdrAt j = s.hdrAt j := rfl
@[simp] theorem setWe_zpAt (k j : Nat) (v : We) : (s.setWe k v).zpAt j = s.zpAt j := rfl
@[simp] theorem setWe_plAt (k j : Nat) (v : We) : (s.setWe k v).plAt j = s.plAt j := rfl
@[simp] theorem setWe_ceAt (k j : Nat) (v : We) : (s.setWe k v).ceAt j = s.ceAt j := rfl
@[simp] theorem setWe_msAt (k j : Nat) (v : We) : (s.setWe k v).msAt j = s.msAt j := rfl
@[simp] theorem setWe_ssAt (k j : Nat) (v : We) : (s.setWe k v).ssAt j = s.ssAt j := rfl
@[simp] theorem setWe_timAt (k j : Nat) (v : We) : (s.setWe k v).timAt j = s.timAt j := rfl
@[simp] theorem setWe_unitAt (k j : Nat) (v : We) : (s.setWe k v).unitAt j = s.unitAt j := rfl
@[simp] theorem setWe_pcAt (k j : Nat) (v : We) : (s.setWe k v).pcAt j = s.pcAt j := rfl
@[simp] theorem setWe_hportAt (k j : Nat) (v : We) : (s.setWe k v).hportAt j = s.hportAt j := rfl
@[simp] theorem setWe_stackAt (k j : Nat) (v : We) : (s.setWe k v).stackAt j = s.stackAt j := rfl
@[simp] theorem setWe_taskAt (k j : Nat) (v : We) : (s.setWe k v).taskAt j = s.taskAt j := rfl
@[simp] theorem setWe_execAt (k j : Nat) (v : We) : (s.setWe k v).execAt j = s.execAt j := rfl
@[simp] theorem setWe_portAt (k j : Nat) (v : We) : (s.setWe k v).portAt j = s.portAt j := rfl
@[simp] theorem setWe_reg (k p o : Nat) (v : We) : (s.setWe k v).reg p o = s.reg p o := rfl
@[simp] theorem setWe_regN (k p o : Nat) (v : We) : (s.setWe k v).regN p o = s.regN p o := rfl
@[simp] theorem setWe_reg64 (k p o : Nat) (v : We) : (s.setWe k v).reg64 p o = s.reg64 p o := rfl
@[simp] theorem setWe_ready (k p : Nat) (v : We) : (s.setWe k v).ready p = s.ready p := rfl
@[simp] theorem modWe_eq (k : Nat) (f : We → We) : s.modWe k f = s.setWe k (f (s.weAt k)) := rfl

/-! setCe -/
@[simp] theorem setCe_ceAt (k j : Nat) (v : Ce) : (s.setCe k v).ceAt j = if j = k then v else s.ceAt j := sget_sput _ _ _ _ _
@[simp] theorem setCe_pending (k : Nat) (v : Ce) : (s.setCe k v).pending = s.pending := rfl
@[simp] theorem setCe_now (k : Nat) (v : Ce) : (s.setCe k v).now = s.now := rfl
@[simp] theorem setCe_freeCtr (k : Nat) (v : Ce) : (s.setCe k v).freeCtr = s.freeCtr := rfl
@[simp] theorem setCe_outbox (k : Nat) (v : Ce) : (s.setCe k v).outbox = s.outbox := rfl
@[simp] theorem setCe_hostOut (k : Nat) (v : Ce) : (s.setCe k v).hostOut = s.hostOut := rfl
@[simp] theorem setCe_hdr (k : Nat) (v : Ce) : (s.setCe k v).hdr = s.hdr := rfl
@[simp] theorem setCe_redo (k : Nat) (v : Ce) : (s.setCe k v).redo = s.redo := rfl
@[simp] theorem setCe_msixOn (k : Nat) (v : Ce) : (s.setCe k v).msixOn = s.msixOn := rfl
@[simp] theorem setCe_msixPend (k : Nat) (v : Ce) : (s.setCe k v).msixPend = s.msixPend := rfl
@[simp] theorem setCe_pcieHeld (k : Nat) (v : Ce) : (s.setCe k v).pcieHeld = s.pcieHeld := rfl
@[simp] theorem setCe_regs (k : Nat) (v : Ce) : (s.setCe k v).regs = s.regs := rfl
@[simp] theorem setCe_latches (k : Nat) (v : Ce) : (s.setCe k v).latches = s.latches := rfl
@[simp] theorem setCe_hbm (k : Nat) (v : Ce) : (s.setCe k v).hbm = s.hbm := rfl
@[simp] theorem setCe_hbmBad (k : Nat) (v : Ce) : (s.setCe k v).hbmBad = s.hbmBad := rfl
@[simp] theorem setCe_hbmLost (k : Nat) (v : Ce) : (s.setCe k v).hbmLost = s.hbmLost := rfl
@[simp] theorem setCe_seq (k : Nat) (v : Ce) : (s.setCe k v).seq = s.seq := rfl
@[simp] theorem setCe_apg (k : Nat) (v : Ce) : (s.setCe k v).apg = s.apg := rfl
@[simp] theorem setCe_apgTab (k : Nat) (v : Ce) : (s.setCe k v).apgTab = s.apgTab := rfl
@[simp] theorem setCe_chan (k : Nat) (v : Ce) : (s.setCe k v).chan = s.chan := rfl
@[simp] theorem setCe_bank (k : Nat) (v : Ce) : (s.setCe k v).bank = s.bank := rfl
@[simp] theorem setCe_bankQueue (k : Nat) (v : Ce) : (s.setCe k v).bankQueue = s.bankQueue := rfl
@[simp] theorem setCe_bankLastStart (k : Nat) (v : Ce) : (s.setCe k v).bankLastStart = s.bankLastStart := rfl
@[simp] theorem setCe_tss (k : Nat) (v : Ce) : (s.setCe k v).tss = s.tss := rfl
@[simp] theorem setCe_cap (k : Nat) (v : Ce) : (s.setCe k v).cap = s.cap := rfl
@[simp] theorem setCe_trg (k : Nat) (v : Ce) : (s.setCe k v).trg = s.trg := rfl
@[simp] theorem setCe_align (k : Nat) (v : Ce) : (s.setCe k v).align = s.align := rfl
@[simp] theorem setCe_merge (k : Nat) (v : Ce) : (s.setCe k v).merge = s.merge := rfl
@[simp] theorem setCe_td (k : Nat) (v : Ce) : (s.setCe k v).td = s.td := rfl
@[simp] theorem setCe_pair (k : Nat) (v : Ce) : (s.setCe k v).pair = s.pair := rfl
@[simp] theorem setCe_sync (k : Nat) (v : Ce) : (s.setCe k v).sync = s.sync := rfl
@[simp] theorem setCe_cal (k : Nat) (v : Ce) : (s.setCe k v).cal = s.cal := rfl
@[simp] theorem setCe_fuse (k : Nat) (v : Ce) : (s.setCe k v).fuse = s.fuse := rfl
@[simp] theorem setCe_sch (k : Nat) (v : Ce) : (s.setCe k v).sch = s.sch := rfl
@[simp] theorem setCe_zp (k : Nat) (v : Ce) : (s.setCe k v).zp = s.zp := rfl
@[simp] theorem setCe_pl (k : Nat) (v : Ce) : (s.setCe k v).pl = s.pl := rfl
@[simp] theorem setCe_pcie (k : Nat) (v : Ce) : (s.setCe k v).pcie = s.pcie := rfl
@[simp] theorem setCe_hmc (k : Nat) (v : Ce) : (s.setCe k v).hmc = s.hmc := rfl
@[simp] theorem setCe_we (k : Nat) (v : Ce) : (s.setCe k v).we = s.we := rfl
@[simp] theorem setCe_ms (k : Nat) (v : Ce) : (s.setCe k v).ms = s.ms := rfl
@[simp] theorem setCe_ss (k : Nat) (v : Ce) : (s.setCe k v).ss = s.ss := rfl
@[simp] theorem setCe_tim (k : Nat) (v : Ce) : (s.setCe k v).tim = s.tim := rfl
@[simp] theorem setCe_mgt (k : Nat) (v : Ce) : (s.setCe k v).mgt = s.mgt := rfl
@[simp] theorem setCe_seqAt (k j : Nat) (v : Ce) : (s.setCe k v).seqAt j = s.seqAt j := rfl
@[simp] theorem setCe_apgAt (k j : Nat) (v : Ce) : (s.setCe k v).apgAt j = s.apgAt j := rfl
@[simp] theorem setCe_chanAt (k j : Nat) (v : Ce) : (s.setCe k v).chanAt j = s.chanAt j := rfl
@[simp] theorem setCe_bankAt (k j : Nat) (v : Ce) : (s.setCe k v).bankAt j = s.bankAt j := rfl
@[simp] theorem setCe_capAt (k j : Nat) (v : Ce) : (s.setCe k v).capAt j = s.capAt j := rfl
@[simp] theorem setCe_alignAt (k j : Nat) (v : Ce) : (s.setCe k v).alignAt j = s.alignAt j := rfl
@[simp] theorem setCe_tdAt (k j : Nat) (v : Ce) : (s.setCe k v).tdAt j = s.tdAt j := rfl
@[simp] theorem setCe_pairAt (k j : Nat) (v : Ce) : (s.setCe k v).pairAt j = s.pairAt j := rfl
@[simp] theorem setCe_hdrAt (k j : Nat) (v : Ce) : (s.setCe k v).hdrAt j = s.hdrAt j := rfl
@[simp] theorem setCe_zpAt (k j : Nat) (v : Ce) : (s.setCe k v).zpAt j = s.zpAt j := rfl
@[simp] theorem setCe_plAt (k j : Nat) (v : Ce) : (s.setCe k v).plAt j = s.plAt j := rfl
@[simp] theorem setCe_weAt (k j : Nat) (v : Ce) : (s.setCe k v).weAt j = s.weAt j := rfl
@[simp] theorem setCe_msAt (k j : Nat) (v : Ce) : (s.setCe k v).msAt j = s.msAt j := rfl
@[simp] theorem setCe_ssAt (k j : Nat) (v : Ce) : (s.setCe k v).ssAt j = s.ssAt j := rfl
@[simp] theorem setCe_timAt (k j : Nat) (v : Ce) : (s.setCe k v).timAt j = s.timAt j := rfl
@[simp] theorem setCe_unitAt (k j : Nat) (v : Ce) : (s.setCe k v).unitAt j = s.unitAt j := rfl
@[simp] theorem setCe_pcAt (k j : Nat) (v : Ce) : (s.setCe k v).pcAt j = s.pcAt j := rfl
@[simp] theorem setCe_hportAt (k j : Nat) (v : Ce) : (s.setCe k v).hportAt j = s.hportAt j := rfl
@[simp] theorem setCe_stackAt (k j : Nat) (v : Ce) : (s.setCe k v).stackAt j = s.stackAt j := rfl
@[simp] theorem setCe_taskAt (k j : Nat) (v : Ce) : (s.setCe k v).taskAt j = s.taskAt j := rfl
@[simp] theorem setCe_execAt (k j : Nat) (v : Ce) : (s.setCe k v).execAt j = s.execAt j := rfl
@[simp] theorem setCe_portAt (k j : Nat) (v : Ce) : (s.setCe k v).portAt j = s.portAt j := rfl
@[simp] theorem setCe_reg (k p o : Nat) (v : Ce) : (s.setCe k v).reg p o = s.reg p o := rfl
@[simp] theorem setCe_regN (k p o : Nat) (v : Ce) : (s.setCe k v).regN p o = s.regN p o := rfl
@[simp] theorem setCe_reg64 (k p o : Nat) (v : Ce) : (s.setCe k v).reg64 p o = s.reg64 p o := rfl
@[simp] theorem setCe_ready (k p : Nat) (v : Ce) : (s.setCe k v).ready p = s.ready p := rfl
@[simp] theorem modCe_eq (k : Nat) (f : Ce → Ce) : s.modCe k f = s.setCe k (f (s.ceAt k)) := rfl

/-! setMs -/
@[simp] theorem setMs_msAt (k j : Nat) (v : Ms) : (s.setMs k v).msAt j = if j = k then v else s.msAt j := sget_sput _ _ _ _ _
@[simp] theorem setMs_pending (k : Nat) (v : Ms) : (s.setMs k v).pending = s.pending := rfl
@[simp] theorem setMs_now (k : Nat) (v : Ms) : (s.setMs k v).now = s.now := rfl
@[simp] theorem setMs_freeCtr (k : Nat) (v : Ms) : (s.setMs k v).freeCtr = s.freeCtr := rfl
@[simp] theorem setMs_outbox (k : Nat) (v : Ms) : (s.setMs k v).outbox = s.outbox := rfl
@[simp] theorem setMs_hostOut (k : Nat) (v : Ms) : (s.setMs k v).hostOut = s.hostOut := rfl
@[simp] theorem setMs_hdr (k : Nat) (v : Ms) : (s.setMs k v).hdr = s.hdr := rfl
@[simp] theorem setMs_redo (k : Nat) (v : Ms) : (s.setMs k v).redo = s.redo := rfl
@[simp] theorem setMs_msixOn (k : Nat) (v : Ms) : (s.setMs k v).msixOn = s.msixOn := rfl
@[simp] theorem setMs_msixPend (k : Nat) (v : Ms) : (s.setMs k v).msixPend = s.msixPend := rfl
@[simp] theorem setMs_pcieHeld (k : Nat) (v : Ms) : (s.setMs k v).pcieHeld = s.pcieHeld := rfl
@[simp] theorem setMs_regs (k : Nat) (v : Ms) : (s.setMs k v).regs = s.regs := rfl
@[simp] theorem setMs_latches (k : Nat) (v : Ms) : (s.setMs k v).latches = s.latches := rfl
@[simp] theorem setMs_hbm (k : Nat) (v : Ms) : (s.setMs k v).hbm = s.hbm := rfl
@[simp] theorem setMs_hbmBad (k : Nat) (v : Ms) : (s.setMs k v).hbmBad = s.hbmBad := rfl
@[simp] theorem setMs_hbmLost (k : Nat) (v : Ms) : (s.setMs k v).hbmLost = s.hbmLost := rfl
@[simp] theorem setMs_seq (k : Nat) (v : Ms) : (s.setMs k v).seq = s.seq := rfl
@[simp] theorem setMs_apg (k : Nat) (v : Ms) : (s.setMs k v).apg = s.apg := rfl
@[simp] theorem setMs_apgTab (k : Nat) (v : Ms) : (s.setMs k v).apgTab = s.apgTab := rfl
@[simp] theorem setMs_chan (k : Nat) (v : Ms) : (s.setMs k v).chan = s.chan := rfl
@[simp] theorem setMs_bank (k : Nat) (v : Ms) : (s.setMs k v).bank = s.bank := rfl
@[simp] theorem setMs_bankQueue (k : Nat) (v : Ms) : (s.setMs k v).bankQueue = s.bankQueue := rfl
@[simp] theorem setMs_bankLastStart (k : Nat) (v : Ms) : (s.setMs k v).bankLastStart = s.bankLastStart := rfl
@[simp] theorem setMs_tss (k : Nat) (v : Ms) : (s.setMs k v).tss = s.tss := rfl
@[simp] theorem setMs_cap (k : Nat) (v : Ms) : (s.setMs k v).cap = s.cap := rfl
@[simp] theorem setMs_trg (k : Nat) (v : Ms) : (s.setMs k v).trg = s.trg := rfl
@[simp] theorem setMs_align (k : Nat) (v : Ms) : (s.setMs k v).align = s.align := rfl
@[simp] theorem setMs_merge (k : Nat) (v : Ms) : (s.setMs k v).merge = s.merge := rfl
@[simp] theorem setMs_td (k : Nat) (v : Ms) : (s.setMs k v).td = s.td := rfl
@[simp] theorem setMs_pair (k : Nat) (v : Ms) : (s.setMs k v).pair = s.pair := rfl
@[simp] theorem setMs_sync (k : Nat) (v : Ms) : (s.setMs k v).sync = s.sync := rfl
@[simp] theorem setMs_cal (k : Nat) (v : Ms) : (s.setMs k v).cal = s.cal := rfl
@[simp] theorem setMs_fuse (k : Nat) (v : Ms) : (s.setMs k v).fuse = s.fuse := rfl
@[simp] theorem setMs_sch (k : Nat) (v : Ms) : (s.setMs k v).sch = s.sch := rfl
@[simp] theorem setMs_zp (k : Nat) (v : Ms) : (s.setMs k v).zp = s.zp := rfl
@[simp] theorem setMs_pl (k : Nat) (v : Ms) : (s.setMs k v).pl = s.pl := rfl
@[simp] theorem setMs_pcie (k : Nat) (v : Ms) : (s.setMs k v).pcie = s.pcie := rfl
@[simp] theorem setMs_hmc (k : Nat) (v : Ms) : (s.setMs k v).hmc = s.hmc := rfl
@[simp] theorem setMs_we (k : Nat) (v : Ms) : (s.setMs k v).we = s.we := rfl
@[simp] theorem setMs_ce (k : Nat) (v : Ms) : (s.setMs k v).ce = s.ce := rfl
@[simp] theorem setMs_ss (k : Nat) (v : Ms) : (s.setMs k v).ss = s.ss := rfl
@[simp] theorem setMs_tim (k : Nat) (v : Ms) : (s.setMs k v).tim = s.tim := rfl
@[simp] theorem setMs_mgt (k : Nat) (v : Ms) : (s.setMs k v).mgt = s.mgt := rfl
@[simp] theorem setMs_seqAt (k j : Nat) (v : Ms) : (s.setMs k v).seqAt j = s.seqAt j := rfl
@[simp] theorem setMs_apgAt (k j : Nat) (v : Ms) : (s.setMs k v).apgAt j = s.apgAt j := rfl
@[simp] theorem setMs_chanAt (k j : Nat) (v : Ms) : (s.setMs k v).chanAt j = s.chanAt j := rfl
@[simp] theorem setMs_bankAt (k j : Nat) (v : Ms) : (s.setMs k v).bankAt j = s.bankAt j := rfl
@[simp] theorem setMs_capAt (k j : Nat) (v : Ms) : (s.setMs k v).capAt j = s.capAt j := rfl
@[simp] theorem setMs_alignAt (k j : Nat) (v : Ms) : (s.setMs k v).alignAt j = s.alignAt j := rfl
@[simp] theorem setMs_tdAt (k j : Nat) (v : Ms) : (s.setMs k v).tdAt j = s.tdAt j := rfl
@[simp] theorem setMs_pairAt (k j : Nat) (v : Ms) : (s.setMs k v).pairAt j = s.pairAt j := rfl
@[simp] theorem setMs_hdrAt (k j : Nat) (v : Ms) : (s.setMs k v).hdrAt j = s.hdrAt j := rfl
@[simp] theorem setMs_zpAt (k j : Nat) (v : Ms) : (s.setMs k v).zpAt j = s.zpAt j := rfl
@[simp] theorem setMs_plAt (k j : Nat) (v : Ms) : (s.setMs k v).plAt j = s.plAt j := rfl
@[simp] theorem setMs_weAt (k j : Nat) (v : Ms) : (s.setMs k v).weAt j = s.weAt j := rfl
@[simp] theorem setMs_ceAt (k j : Nat) (v : Ms) : (s.setMs k v).ceAt j = s.ceAt j := rfl
@[simp] theorem setMs_ssAt (k j : Nat) (v : Ms) : (s.setMs k v).ssAt j = s.ssAt j := rfl
@[simp] theorem setMs_timAt (k j : Nat) (v : Ms) : (s.setMs k v).timAt j = s.timAt j := rfl
@[simp] theorem setMs_unitAt (k j : Nat) (v : Ms) : (s.setMs k v).unitAt j = s.unitAt j := rfl
@[simp] theorem setMs_pcAt (k j : Nat) (v : Ms) : (s.setMs k v).pcAt j = s.pcAt j := rfl
@[simp] theorem setMs_hportAt (k j : Nat) (v : Ms) : (s.setMs k v).hportAt j = s.hportAt j := rfl
@[simp] theorem setMs_stackAt (k j : Nat) (v : Ms) : (s.setMs k v).stackAt j = s.stackAt j := rfl
@[simp] theorem setMs_taskAt (k j : Nat) (v : Ms) : (s.setMs k v).taskAt j = s.taskAt j := rfl
@[simp] theorem setMs_execAt (k j : Nat) (v : Ms) : (s.setMs k v).execAt j = s.execAt j := rfl
@[simp] theorem setMs_portAt (k j : Nat) (v : Ms) : (s.setMs k v).portAt j = s.portAt j := rfl
@[simp] theorem setMs_reg (k p o : Nat) (v : Ms) : (s.setMs k v).reg p o = s.reg p o := rfl
@[simp] theorem setMs_regN (k p o : Nat) (v : Ms) : (s.setMs k v).regN p o = s.regN p o := rfl
@[simp] theorem setMs_reg64 (k p o : Nat) (v : Ms) : (s.setMs k v).reg64 p o = s.reg64 p o := rfl
@[simp] theorem setMs_ready (k p : Nat) (v : Ms) : (s.setMs k v).ready p = s.ready p := rfl
@[simp] theorem modMs_eq (k : Nat) (f : Ms → Ms) : s.modMs k f = s.setMs k (f (s.msAt k)) := rfl

/-! setSs -/
@[simp] theorem setSs_ssAt (k j : Nat) (v : Ss) : (s.setSs k v).ssAt j = if j = k then v else s.ssAt j := sget_sput _ _ _ _ _
@[simp] theorem setSs_pending (k : Nat) (v : Ss) : (s.setSs k v).pending = s.pending := rfl
@[simp] theorem setSs_now (k : Nat) (v : Ss) : (s.setSs k v).now = s.now := rfl
@[simp] theorem setSs_freeCtr (k : Nat) (v : Ss) : (s.setSs k v).freeCtr = s.freeCtr := rfl
@[simp] theorem setSs_outbox (k : Nat) (v : Ss) : (s.setSs k v).outbox = s.outbox := rfl
@[simp] theorem setSs_hostOut (k : Nat) (v : Ss) : (s.setSs k v).hostOut = s.hostOut := rfl
@[simp] theorem setSs_hdr (k : Nat) (v : Ss) : (s.setSs k v).hdr = s.hdr := rfl
@[simp] theorem setSs_redo (k : Nat) (v : Ss) : (s.setSs k v).redo = s.redo := rfl
@[simp] theorem setSs_msixOn (k : Nat) (v : Ss) : (s.setSs k v).msixOn = s.msixOn := rfl
@[simp] theorem setSs_msixPend (k : Nat) (v : Ss) : (s.setSs k v).msixPend = s.msixPend := rfl
@[simp] theorem setSs_pcieHeld (k : Nat) (v : Ss) : (s.setSs k v).pcieHeld = s.pcieHeld := rfl
@[simp] theorem setSs_regs (k : Nat) (v : Ss) : (s.setSs k v).regs = s.regs := rfl
@[simp] theorem setSs_latches (k : Nat) (v : Ss) : (s.setSs k v).latches = s.latches := rfl
@[simp] theorem setSs_hbm (k : Nat) (v : Ss) : (s.setSs k v).hbm = s.hbm := rfl
@[simp] theorem setSs_hbmBad (k : Nat) (v : Ss) : (s.setSs k v).hbmBad = s.hbmBad := rfl
@[simp] theorem setSs_hbmLost (k : Nat) (v : Ss) : (s.setSs k v).hbmLost = s.hbmLost := rfl
@[simp] theorem setSs_seq (k : Nat) (v : Ss) : (s.setSs k v).seq = s.seq := rfl
@[simp] theorem setSs_apg (k : Nat) (v : Ss) : (s.setSs k v).apg = s.apg := rfl
@[simp] theorem setSs_apgTab (k : Nat) (v : Ss) : (s.setSs k v).apgTab = s.apgTab := rfl
@[simp] theorem setSs_chan (k : Nat) (v : Ss) : (s.setSs k v).chan = s.chan := rfl
@[simp] theorem setSs_bank (k : Nat) (v : Ss) : (s.setSs k v).bank = s.bank := rfl
@[simp] theorem setSs_bankQueue (k : Nat) (v : Ss) : (s.setSs k v).bankQueue = s.bankQueue := rfl
@[simp] theorem setSs_bankLastStart (k : Nat) (v : Ss) : (s.setSs k v).bankLastStart = s.bankLastStart := rfl
@[simp] theorem setSs_tss (k : Nat) (v : Ss) : (s.setSs k v).tss = s.tss := rfl
@[simp] theorem setSs_cap (k : Nat) (v : Ss) : (s.setSs k v).cap = s.cap := rfl
@[simp] theorem setSs_trg (k : Nat) (v : Ss) : (s.setSs k v).trg = s.trg := rfl
@[simp] theorem setSs_align (k : Nat) (v : Ss) : (s.setSs k v).align = s.align := rfl
@[simp] theorem setSs_merge (k : Nat) (v : Ss) : (s.setSs k v).merge = s.merge := rfl
@[simp] theorem setSs_td (k : Nat) (v : Ss) : (s.setSs k v).td = s.td := rfl
@[simp] theorem setSs_pair (k : Nat) (v : Ss) : (s.setSs k v).pair = s.pair := rfl
@[simp] theorem setSs_sync (k : Nat) (v : Ss) : (s.setSs k v).sync = s.sync := rfl
@[simp] theorem setSs_cal (k : Nat) (v : Ss) : (s.setSs k v).cal = s.cal := rfl
@[simp] theorem setSs_fuse (k : Nat) (v : Ss) : (s.setSs k v).fuse = s.fuse := rfl
@[simp] theorem setSs_sch (k : Nat) (v : Ss) : (s.setSs k v).sch = s.sch := rfl
@[simp] theorem setSs_zp (k : Nat) (v : Ss) : (s.setSs k v).zp = s.zp := rfl
@[simp] theorem setSs_pl (k : Nat) (v : Ss) : (s.setSs k v).pl = s.pl := rfl
@[simp] theorem setSs_pcie (k : Nat) (v : Ss) : (s.setSs k v).pcie = s.pcie := rfl
@[simp] theorem setSs_hmc (k : Nat) (v : Ss) : (s.setSs k v).hmc = s.hmc := rfl
@[simp] theorem setSs_we (k : Nat) (v : Ss) : (s.setSs k v).we = s.we := rfl
@[simp] theorem setSs_ce (k : Nat) (v : Ss) : (s.setSs k v).ce = s.ce := rfl
@[simp] theorem setSs_ms (k : Nat) (v : Ss) : (s.setSs k v).ms = s.ms := rfl
@[simp] theorem setSs_tim (k : Nat) (v : Ss) : (s.setSs k v).tim = s.tim := rfl
@[simp] theorem setSs_mgt (k : Nat) (v : Ss) : (s.setSs k v).mgt = s.mgt := rfl
@[simp] theorem setSs_seqAt (k j : Nat) (v : Ss) : (s.setSs k v).seqAt j = s.seqAt j := rfl
@[simp] theorem setSs_apgAt (k j : Nat) (v : Ss) : (s.setSs k v).apgAt j = s.apgAt j := rfl
@[simp] theorem setSs_chanAt (k j : Nat) (v : Ss) : (s.setSs k v).chanAt j = s.chanAt j := rfl
@[simp] theorem setSs_bankAt (k j : Nat) (v : Ss) : (s.setSs k v).bankAt j = s.bankAt j := rfl
@[simp] theorem setSs_capAt (k j : Nat) (v : Ss) : (s.setSs k v).capAt j = s.capAt j := rfl
@[simp] theorem setSs_alignAt (k j : Nat) (v : Ss) : (s.setSs k v).alignAt j = s.alignAt j := rfl
@[simp] theorem setSs_tdAt (k j : Nat) (v : Ss) : (s.setSs k v).tdAt j = s.tdAt j := rfl
@[simp] theorem setSs_pairAt (k j : Nat) (v : Ss) : (s.setSs k v).pairAt j = s.pairAt j := rfl
@[simp] theorem setSs_hdrAt (k j : Nat) (v : Ss) : (s.setSs k v).hdrAt j = s.hdrAt j := rfl
@[simp] theorem setSs_zpAt (k j : Nat) (v : Ss) : (s.setSs k v).zpAt j = s.zpAt j := rfl
@[simp] theorem setSs_plAt (k j : Nat) (v : Ss) : (s.setSs k v).plAt j = s.plAt j := rfl
@[simp] theorem setSs_weAt (k j : Nat) (v : Ss) : (s.setSs k v).weAt j = s.weAt j := rfl
@[simp] theorem setSs_ceAt (k j : Nat) (v : Ss) : (s.setSs k v).ceAt j = s.ceAt j := rfl
@[simp] theorem setSs_msAt (k j : Nat) (v : Ss) : (s.setSs k v).msAt j = s.msAt j := rfl
@[simp] theorem setSs_timAt (k j : Nat) (v : Ss) : (s.setSs k v).timAt j = s.timAt j := rfl
@[simp] theorem setSs_unitAt (k j : Nat) (v : Ss) : (s.setSs k v).unitAt j = s.unitAt j := rfl
@[simp] theorem setSs_pcAt (k j : Nat) (v : Ss) : (s.setSs k v).pcAt j = s.pcAt j := rfl
@[simp] theorem setSs_hportAt (k j : Nat) (v : Ss) : (s.setSs k v).hportAt j = s.hportAt j := rfl
@[simp] theorem setSs_stackAt (k j : Nat) (v : Ss) : (s.setSs k v).stackAt j = s.stackAt j := rfl
@[simp] theorem setSs_taskAt (k j : Nat) (v : Ss) : (s.setSs k v).taskAt j = s.taskAt j := rfl
@[simp] theorem setSs_execAt (k j : Nat) (v : Ss) : (s.setSs k v).execAt j = s.execAt j := rfl
@[simp] theorem setSs_portAt (k j : Nat) (v : Ss) : (s.setSs k v).portAt j = s.portAt j := rfl
@[simp] theorem setSs_reg (k p o : Nat) (v : Ss) : (s.setSs k v).reg p o = s.reg p o := rfl
@[simp] theorem setSs_regN (k p o : Nat) (v : Ss) : (s.setSs k v).regN p o = s.regN p o := rfl
@[simp] theorem setSs_reg64 (k p o : Nat) (v : Ss) : (s.setSs k v).reg64 p o = s.reg64 p o := rfl
@[simp] theorem setSs_ready (k p : Nat) (v : Ss) : (s.setSs k v).ready p = s.ready p := rfl
@[simp] theorem modSs_eq (k : Nat) (f : Ss → Ss) : s.modSs k f = s.setSs k (f (s.ssAt k)) := rfl

/-! setTim -/
@[simp] theorem setTim_timAt (k j : Nat) (v : Tim) : (s.setTim k v).timAt j = if j = k then v else s.timAt j := sget_sput _ _ _ _ _
@[simp] theorem setTim_pending (k : Nat) (v : Tim) : (s.setTim k v).pending = s.pending := rfl
@[simp] theorem setTim_now (k : Nat) (v : Tim) : (s.setTim k v).now = s.now := rfl
@[simp] theorem setTim_freeCtr (k : Nat) (v : Tim) : (s.setTim k v).freeCtr = s.freeCtr := rfl
@[simp] theorem setTim_outbox (k : Nat) (v : Tim) : (s.setTim k v).outbox = s.outbox := rfl
@[simp] theorem setTim_hostOut (k : Nat) (v : Tim) : (s.setTim k v).hostOut = s.hostOut := rfl
@[simp] theorem setTim_hdr (k : Nat) (v : Tim) : (s.setTim k v).hdr = s.hdr := rfl
@[simp] theorem setTim_redo (k : Nat) (v : Tim) : (s.setTim k v).redo = s.redo := rfl
@[simp] theorem setTim_msixOn (k : Nat) (v : Tim) : (s.setTim k v).msixOn = s.msixOn := rfl
@[simp] theorem setTim_msixPend (k : Nat) (v : Tim) : (s.setTim k v).msixPend = s.msixPend := rfl
@[simp] theorem setTim_pcieHeld (k : Nat) (v : Tim) : (s.setTim k v).pcieHeld = s.pcieHeld := rfl
@[simp] theorem setTim_regs (k : Nat) (v : Tim) : (s.setTim k v).regs = s.regs := rfl
@[simp] theorem setTim_latches (k : Nat) (v : Tim) : (s.setTim k v).latches = s.latches := rfl
@[simp] theorem setTim_hbm (k : Nat) (v : Tim) : (s.setTim k v).hbm = s.hbm := rfl
@[simp] theorem setTim_hbmBad (k : Nat) (v : Tim) : (s.setTim k v).hbmBad = s.hbmBad := rfl
@[simp] theorem setTim_hbmLost (k : Nat) (v : Tim) : (s.setTim k v).hbmLost = s.hbmLost := rfl
@[simp] theorem setTim_seq (k : Nat) (v : Tim) : (s.setTim k v).seq = s.seq := rfl
@[simp] theorem setTim_apg (k : Nat) (v : Tim) : (s.setTim k v).apg = s.apg := rfl
@[simp] theorem setTim_apgTab (k : Nat) (v : Tim) : (s.setTim k v).apgTab = s.apgTab := rfl
@[simp] theorem setTim_chan (k : Nat) (v : Tim) : (s.setTim k v).chan = s.chan := rfl
@[simp] theorem setTim_bank (k : Nat) (v : Tim) : (s.setTim k v).bank = s.bank := rfl
@[simp] theorem setTim_bankQueue (k : Nat) (v : Tim) : (s.setTim k v).bankQueue = s.bankQueue := rfl
@[simp] theorem setTim_bankLastStart (k : Nat) (v : Tim) : (s.setTim k v).bankLastStart = s.bankLastStart := rfl
@[simp] theorem setTim_tss (k : Nat) (v : Tim) : (s.setTim k v).tss = s.tss := rfl
@[simp] theorem setTim_cap (k : Nat) (v : Tim) : (s.setTim k v).cap = s.cap := rfl
@[simp] theorem setTim_trg (k : Nat) (v : Tim) : (s.setTim k v).trg = s.trg := rfl
@[simp] theorem setTim_align (k : Nat) (v : Tim) : (s.setTim k v).align = s.align := rfl
@[simp] theorem setTim_merge (k : Nat) (v : Tim) : (s.setTim k v).merge = s.merge := rfl
@[simp] theorem setTim_td (k : Nat) (v : Tim) : (s.setTim k v).td = s.td := rfl
@[simp] theorem setTim_pair (k : Nat) (v : Tim) : (s.setTim k v).pair = s.pair := rfl
@[simp] theorem setTim_sync (k : Nat) (v : Tim) : (s.setTim k v).sync = s.sync := rfl
@[simp] theorem setTim_cal (k : Nat) (v : Tim) : (s.setTim k v).cal = s.cal := rfl
@[simp] theorem setTim_fuse (k : Nat) (v : Tim) : (s.setTim k v).fuse = s.fuse := rfl
@[simp] theorem setTim_sch (k : Nat) (v : Tim) : (s.setTim k v).sch = s.sch := rfl
@[simp] theorem setTim_zp (k : Nat) (v : Tim) : (s.setTim k v).zp = s.zp := rfl
@[simp] theorem setTim_pl (k : Nat) (v : Tim) : (s.setTim k v).pl = s.pl := rfl
@[simp] theorem setTim_pcie (k : Nat) (v : Tim) : (s.setTim k v).pcie = s.pcie := rfl
@[simp] theorem setTim_hmc (k : Nat) (v : Tim) : (s.setTim k v).hmc = s.hmc := rfl
@[simp] theorem setTim_we (k : Nat) (v : Tim) : (s.setTim k v).we = s.we := rfl
@[simp] theorem setTim_ce (k : Nat) (v : Tim) : (s.setTim k v).ce = s.ce := rfl
@[simp] theorem setTim_ms (k : Nat) (v : Tim) : (s.setTim k v).ms = s.ms := rfl
@[simp] theorem setTim_ss (k : Nat) (v : Tim) : (s.setTim k v).ss = s.ss := rfl
@[simp] theorem setTim_mgt (k : Nat) (v : Tim) : (s.setTim k v).mgt = s.mgt := rfl
@[simp] theorem setTim_seqAt (k j : Nat) (v : Tim) : (s.setTim k v).seqAt j = s.seqAt j := rfl
@[simp] theorem setTim_apgAt (k j : Nat) (v : Tim) : (s.setTim k v).apgAt j = s.apgAt j := rfl
@[simp] theorem setTim_chanAt (k j : Nat) (v : Tim) : (s.setTim k v).chanAt j = s.chanAt j := rfl
@[simp] theorem setTim_bankAt (k j : Nat) (v : Tim) : (s.setTim k v).bankAt j = s.bankAt j := rfl
@[simp] theorem setTim_capAt (k j : Nat) (v : Tim) : (s.setTim k v).capAt j = s.capAt j := rfl
@[simp] theorem setTim_alignAt (k j : Nat) (v : Tim) : (s.setTim k v).alignAt j = s.alignAt j := rfl
@[simp] theorem setTim_tdAt (k j : Nat) (v : Tim) : (s.setTim k v).tdAt j = s.tdAt j := rfl
@[simp] theorem setTim_pairAt (k j : Nat) (v : Tim) : (s.setTim k v).pairAt j = s.pairAt j := rfl
@[simp] theorem setTim_hdrAt (k j : Nat) (v : Tim) : (s.setTim k v).hdrAt j = s.hdrAt j := rfl
@[simp] theorem setTim_zpAt (k j : Nat) (v : Tim) : (s.setTim k v).zpAt j = s.zpAt j := rfl
@[simp] theorem setTim_plAt (k j : Nat) (v : Tim) : (s.setTim k v).plAt j = s.plAt j := rfl
@[simp] theorem setTim_weAt (k j : Nat) (v : Tim) : (s.setTim k v).weAt j = s.weAt j := rfl
@[simp] theorem setTim_ceAt (k j : Nat) (v : Tim) : (s.setTim k v).ceAt j = s.ceAt j := rfl
@[simp] theorem setTim_msAt (k j : Nat) (v : Tim) : (s.setTim k v).msAt j = s.msAt j := rfl
@[simp] theorem setTim_ssAt (k j : Nat) (v : Tim) : (s.setTim k v).ssAt j = s.ssAt j := rfl
@[simp] theorem setTim_unitAt (k j : Nat) (v : Tim) : (s.setTim k v).unitAt j = s.unitAt j := rfl
@[simp] theorem setTim_pcAt (k j : Nat) (v : Tim) : (s.setTim k v).pcAt j = s.pcAt j := rfl
@[simp] theorem setTim_hportAt (k j : Nat) (v : Tim) : (s.setTim k v).hportAt j = s.hportAt j := rfl
@[simp] theorem setTim_stackAt (k j : Nat) (v : Tim) : (s.setTim k v).stackAt j = s.stackAt j := rfl
@[simp] theorem setTim_taskAt (k j : Nat) (v : Tim) : (s.setTim k v).taskAt j = s.taskAt j := rfl
@[simp] theorem setTim_execAt (k j : Nat) (v : Tim) : (s.setTim k v).execAt j = s.execAt j := rfl
@[simp] theorem setTim_portAt (k j : Nat) (v : Tim) : (s.setTim k v).portAt j = s.portAt j := rfl
@[simp] theorem setTim_reg (k p o : Nat) (v : Tim) : (s.setTim k v).reg p o = s.reg p o := rfl
@[simp] theorem setTim_regN (k p o : Nat) (v : Tim) : (s.setTim k v).regN p o = s.regN p o := rfl
@[simp] theorem setTim_reg64 (k p o : Nat) (v : Tim) : (s.setTim k v).reg64 p o = s.reg64 p o := rfl
@[simp] theorem setTim_ready (k p : Nat) (v : Tim) : (s.setTim k v).ready p = s.ready p := rfl
@[simp] theorem modTim_eq (k : Nat) (f : Tim → Tim) : s.modTim k f = s.setTim k (f (s.timAt k)) := rfl

/-! setUnit -/
@[simp] theorem setUnit_unitAt (k j : Nat) (v : TrgUnit) : (s.setUnit k v).unitAt j = if j = k then v else s.unitAt j := sget_sput _ _ _ _ _
@[simp] theorem setUnit_pending (k : Nat) (v : TrgUnit) : (s.setUnit k v).pending = s.pending := rfl
@[simp] theorem setUnit_now (k : Nat) (v : TrgUnit) : (s.setUnit k v).now = s.now := rfl
@[simp] theorem setUnit_freeCtr (k : Nat) (v : TrgUnit) : (s.setUnit k v).freeCtr = s.freeCtr := rfl
@[simp] theorem setUnit_outbox (k : Nat) (v : TrgUnit) : (s.setUnit k v).outbox = s.outbox := rfl
@[simp] theorem setUnit_hostOut (k : Nat) (v : TrgUnit) : (s.setUnit k v).hostOut = s.hostOut := rfl
@[simp] theorem setUnit_hdr (k : Nat) (v : TrgUnit) : (s.setUnit k v).hdr = s.hdr := rfl
@[simp] theorem setUnit_redo (k : Nat) (v : TrgUnit) : (s.setUnit k v).redo = s.redo := rfl
@[simp] theorem setUnit_msixOn (k : Nat) (v : TrgUnit) : (s.setUnit k v).msixOn = s.msixOn := rfl
@[simp] theorem setUnit_msixPend (k : Nat) (v : TrgUnit) : (s.setUnit k v).msixPend = s.msixPend := rfl
@[simp] theorem setUnit_pcieHeld (k : Nat) (v : TrgUnit) : (s.setUnit k v).pcieHeld = s.pcieHeld := rfl
@[simp] theorem setUnit_regs (k : Nat) (v : TrgUnit) : (s.setUnit k v).regs = s.regs := rfl
@[simp] theorem setUnit_latches (k : Nat) (v : TrgUnit) : (s.setUnit k v).latches = s.latches := rfl
@[simp] theorem setUnit_hbm (k : Nat) (v : TrgUnit) : (s.setUnit k v).hbm = s.hbm := rfl
@[simp] theorem setUnit_hbmBad (k : Nat) (v : TrgUnit) : (s.setUnit k v).hbmBad = s.hbmBad := rfl
@[simp] theorem setUnit_hbmLost (k : Nat) (v : TrgUnit) : (s.setUnit k v).hbmLost = s.hbmLost := rfl
@[simp] theorem setUnit_seq (k : Nat) (v : TrgUnit) : (s.setUnit k v).seq = s.seq := rfl
@[simp] theorem setUnit_apg (k : Nat) (v : TrgUnit) : (s.setUnit k v).apg = s.apg := rfl
@[simp] theorem setUnit_apgTab (k : Nat) (v : TrgUnit) : (s.setUnit k v).apgTab = s.apgTab := rfl
@[simp] theorem setUnit_chan (k : Nat) (v : TrgUnit) : (s.setUnit k v).chan = s.chan := rfl
@[simp] theorem setUnit_bank (k : Nat) (v : TrgUnit) : (s.setUnit k v).bank = s.bank := rfl
@[simp] theorem setUnit_bankQueue (k : Nat) (v : TrgUnit) : (s.setUnit k v).bankQueue = s.bankQueue := rfl
@[simp] theorem setUnit_bankLastStart (k : Nat) (v : TrgUnit) : (s.setUnit k v).bankLastStart = s.bankLastStart := rfl
@[simp] theorem setUnit_tss (k : Nat) (v : TrgUnit) : (s.setUnit k v).tss = s.tss := rfl
@[simp] theorem setUnit_cap (k : Nat) (v : TrgUnit) : (s.setUnit k v).cap = s.cap := rfl
@[simp] theorem setUnit_align (k : Nat) (v : TrgUnit) : (s.setUnit k v).align = s.align := rfl
@[simp] theorem setUnit_merge (k : Nat) (v : TrgUnit) : (s.setUnit k v).merge = s.merge := rfl
@[simp] theorem setUnit_td (k : Nat) (v : TrgUnit) : (s.setUnit k v).td = s.td := rfl
@[simp] theorem setUnit_pair (k : Nat) (v : TrgUnit) : (s.setUnit k v).pair = s.pair := rfl
@[simp] theorem setUnit_sync (k : Nat) (v : TrgUnit) : (s.setUnit k v).sync = s.sync := rfl
@[simp] theorem setUnit_cal (k : Nat) (v : TrgUnit) : (s.setUnit k v).cal = s.cal := rfl
@[simp] theorem setUnit_fuse (k : Nat) (v : TrgUnit) : (s.setUnit k v).fuse = s.fuse := rfl
@[simp] theorem setUnit_sch (k : Nat) (v : TrgUnit) : (s.setUnit k v).sch = s.sch := rfl
@[simp] theorem setUnit_zp (k : Nat) (v : TrgUnit) : (s.setUnit k v).zp = s.zp := rfl
@[simp] theorem setUnit_pl (k : Nat) (v : TrgUnit) : (s.setUnit k v).pl = s.pl := rfl
@[simp] theorem setUnit_pcie (k : Nat) (v : TrgUnit) : (s.setUnit k v).pcie = s.pcie := rfl
@[simp] theorem setUnit_hmc (k : Nat) (v : TrgUnit) : (s.setUnit k v).hmc = s.hmc := rfl
@[simp] theorem setUnit_we (k : Nat) (v : TrgUnit) : (s.setUnit k v).we = s.we := rfl
@[simp] theorem setUnit_ce (k : Nat) (v : TrgUnit) : (s.setUnit k v).ce = s.ce := rfl
@[simp] theorem setUnit_ms (k : Nat) (v : TrgUnit) : (s.setUnit k v).ms = s.ms := rfl
@[simp] theorem setUnit_ss (k : Nat) (v : TrgUnit) : (s.setUnit k v).ss = s.ss := rfl
@[simp] theorem setUnit_tim (k : Nat) (v : TrgUnit) : (s.setUnit k v).tim = s.tim := rfl
@[simp] theorem setUnit_mgt (k : Nat) (v : TrgUnit) : (s.setUnit k v).mgt = s.mgt := rfl
@[simp] theorem setUnit_seqAt (k j : Nat) (v : TrgUnit) : (s.setUnit k v).seqAt j = s.seqAt j := rfl
@[simp] theorem setUnit_apgAt (k j : Nat) (v : TrgUnit) : (s.setUnit k v).apgAt j = s.apgAt j := rfl
@[simp] theorem setUnit_chanAt (k j : Nat) (v : TrgUnit) : (s.setUnit k v).chanAt j = s.chanAt j := rfl
@[simp] theorem setUnit_bankAt (k j : Nat) (v : TrgUnit) : (s.setUnit k v).bankAt j = s.bankAt j := rfl
@[simp] theorem setUnit_capAt (k j : Nat) (v : TrgUnit) : (s.setUnit k v).capAt j = s.capAt j := rfl
@[simp] theorem setUnit_alignAt (k j : Nat) (v : TrgUnit) : (s.setUnit k v).alignAt j = s.alignAt j := rfl
@[simp] theorem setUnit_tdAt (k j : Nat) (v : TrgUnit) : (s.setUnit k v).tdAt j = s.tdAt j := rfl
@[simp] theorem setUnit_pairAt (k j : Nat) (v : TrgUnit) : (s.setUnit k v).pairAt j = s.pairAt j := rfl
@[simp] theorem setUnit_hdrAt (k j : Nat) (v : TrgUnit) : (s.setUnit k v).hdrAt j = s.hdrAt j := rfl
@[simp] theorem setUnit_zpAt (k j : Nat) (v : TrgUnit) : (s.setUnit k v).zpAt j = s.zpAt j := rfl
@[simp] theorem setUnit_plAt (k j : Nat) (v : TrgUnit) : (s.setUnit k v).plAt j = s.plAt j := rfl
@[simp] theorem setUnit_weAt (k j : Nat) (v : TrgUnit) : (s.setUnit k v).weAt j = s.weAt j := rfl
@[simp] theorem setUnit_ceAt (k j : Nat) (v : TrgUnit) : (s.setUnit k v).ceAt j = s.ceAt j := rfl
@[simp] theorem setUnit_msAt (k j : Nat) (v : TrgUnit) : (s.setUnit k v).msAt j = s.msAt j := rfl
@[simp] theorem setUnit_ssAt (k j : Nat) (v : TrgUnit) : (s.setUnit k v).ssAt j = s.ssAt j := rfl
@[simp] theorem setUnit_timAt (k j : Nat) (v : TrgUnit) : (s.setUnit k v).timAt j = s.timAt j := rfl
@[simp] theorem setUnit_pcAt (k j : Nat) (v : TrgUnit) : (s.setUnit k v).pcAt j = s.pcAt j := rfl
@[simp] theorem setUnit_hportAt (k j : Nat) (v : TrgUnit) : (s.setUnit k v).hportAt j = s.hportAt j := rfl
@[simp] theorem setUnit_stackAt (k j : Nat) (v : TrgUnit) : (s.setUnit k v).stackAt j = s.stackAt j := rfl
@[simp] theorem setUnit_taskAt (k j : Nat) (v : TrgUnit) : (s.setUnit k v).taskAt j = s.taskAt j := rfl
@[simp] theorem setUnit_execAt (k j : Nat) (v : TrgUnit) : (s.setUnit k v).execAt j = s.execAt j := rfl
@[simp] theorem setUnit_portAt (k j : Nat) (v : TrgUnit) : (s.setUnit k v).portAt j = s.portAt j := rfl
@[simp] theorem setUnit_reg (k p o : Nat) (v : TrgUnit) : (s.setUnit k v).reg p o = s.reg p o := rfl
@[simp] theorem setUnit_regN (k p o : Nat) (v : TrgUnit) : (s.setUnit k v).regN p o = s.regN p o := rfl
@[simp] theorem setUnit_reg64 (k p o : Nat) (v : TrgUnit) : (s.setUnit k v).reg64 p o = s.reg64 p o := rfl
@[simp] theorem setUnit_ready (k p : Nat) (v : TrgUnit) : (s.setUnit k v).ready p = s.ready p := rfl

/-! setPc -/
@[simp] theorem setPc_pcAt (k j : Nat) (v : PcUnit) : (s.setPc k v).pcAt j = if j = k then v else s.pcAt j := sget_sput _ _ _ _ _
@[simp] theorem setPc_pending (k : Nat) (v : PcUnit) : (s.setPc k v).pending = s.pending := rfl
@[simp] theorem setPc_now (k : Nat) (v : PcUnit) : (s.setPc k v).now = s.now := rfl
@[simp] theorem setPc_freeCtr (k : Nat) (v : PcUnit) : (s.setPc k v).freeCtr = s.freeCtr := rfl
@[simp] theorem setPc_outbox (k : Nat) (v : PcUnit) : (s.setPc k v).outbox = s.outbox := rfl
@[simp] theorem setPc_hostOut (k : Nat) (v : PcUnit) : (s.setPc k v).hostOut = s.hostOut := rfl
@[simp] theorem setPc_hdr (k : Nat) (v : PcUnit) : (s.setPc k v).hdr = s.hdr := rfl
@[simp] theorem setPc_redo (k : Nat) (v : PcUnit) : (s.setPc k v).redo = s.redo := rfl
@[simp] theorem setPc_msixOn (k : Nat) (v : PcUnit) : (s.setPc k v).msixOn = s.msixOn := rfl
@[simp] theorem setPc_msixPend (k : Nat) (v : PcUnit) : (s.setPc k v).msixPend = s.msixPend := rfl
@[simp] theorem setPc_pcieHeld (k : Nat) (v : PcUnit) : (s.setPc k v).pcieHeld = s.pcieHeld := rfl
@[simp] theorem setPc_regs (k : Nat) (v : PcUnit) : (s.setPc k v).regs = s.regs := rfl
@[simp] theorem setPc_latches (k : Nat) (v : PcUnit) : (s.setPc k v).latches = s.latches := rfl
@[simp] theorem setPc_hbm (k : Nat) (v : PcUnit) : (s.setPc k v).hbm = s.hbm := rfl
@[simp] theorem setPc_hbmBad (k : Nat) (v : PcUnit) : (s.setPc k v).hbmBad = s.hbmBad := rfl
@[simp] theorem setPc_hbmLost (k : Nat) (v : PcUnit) : (s.setPc k v).hbmLost = s.hbmLost := rfl
@[simp] theorem setPc_seq (k : Nat) (v : PcUnit) : (s.setPc k v).seq = s.seq := rfl
@[simp] theorem setPc_apg (k : Nat) (v : PcUnit) : (s.setPc k v).apg = s.apg := rfl
@[simp] theorem setPc_apgTab (k : Nat) (v : PcUnit) : (s.setPc k v).apgTab = s.apgTab := rfl
@[simp] theorem setPc_chan (k : Nat) (v : PcUnit) : (s.setPc k v).chan = s.chan := rfl
@[simp] theorem setPc_bank (k : Nat) (v : PcUnit) : (s.setPc k v).bank = s.bank := rfl
@[simp] theorem setPc_bankQueue (k : Nat) (v : PcUnit) : (s.setPc k v).bankQueue = s.bankQueue := rfl
@[simp] theorem setPc_bankLastStart (k : Nat) (v : PcUnit) : (s.setPc k v).bankLastStart = s.bankLastStart := rfl
@[simp] theorem setPc_tss (k : Nat) (v : PcUnit) : (s.setPc k v).tss = s.tss := rfl
@[simp] theorem setPc_cap (k : Nat) (v : PcUnit) : (s.setPc k v).cap = s.cap := rfl
@[simp] theorem setPc_trg (k : Nat) (v : PcUnit) : (s.setPc k v).trg = s.trg := rfl
@[simp] theorem setPc_align (k : Nat) (v : PcUnit) : (s.setPc k v).align = s.align := rfl
@[simp] theorem setPc_merge (k : Nat) (v : PcUnit) : (s.setPc k v).merge = s.merge := rfl
@[simp] theorem setPc_td (k : Nat) (v : PcUnit) : (s.setPc k v).td = s.td := rfl
@[simp] theorem setPc_pair (k : Nat) (v : PcUnit) : (s.setPc k v).pair = s.pair := rfl
@[simp] theorem setPc_sync (k : Nat) (v : PcUnit) : (s.setPc k v).sync = s.sync := rfl
@[simp] theorem setPc_cal (k : Nat) (v : PcUnit) : (s.setPc k v).cal = s.cal := rfl
@[simp] theorem setPc_fuse (k : Nat) (v : PcUnit) : (s.setPc k v).fuse = s.fuse := rfl
@[simp] theorem setPc_sch (k : Nat) (v : PcUnit) : (s.setPc k v).sch = s.sch := rfl
@[simp] theorem setPc_zp (k : Nat) (v : PcUnit) : (s.setPc k v).zp = s.zp := rfl
@[simp] theorem setPc_pl (k : Nat) (v : PcUnit) : (s.setPc k v).pl = s.pl := rfl
@[simp] theorem setPc_pcie (k : Nat) (v : PcUnit) : (s.setPc k v).pcie = s.pcie := rfl
@[simp] theorem setPc_we (k : Nat) (v : PcUnit) : (s.setPc k v).we = s.we := rfl
@[simp] theorem setPc_ce (k : Nat) (v : PcUnit) : (s.setPc k v).ce = s.ce := rfl
@[simp] theorem setPc_ms (k : Nat) (v : PcUnit) : (s.setPc k v).ms = s.ms := rfl
@[simp] theorem setPc_ss (k : Nat) (v : PcUnit) : (s.setPc k v).ss = s.ss := rfl
@[simp] theorem setPc_tim (k : Nat) (v : PcUnit) : (s.setPc k v).tim = s.tim := rfl
@[simp] theorem setPc_mgt (k : Nat) (v : PcUnit) : (s.setPc k v).mgt = s.mgt := rfl
@[simp] theorem setPc_seqAt (k j : Nat) (v : PcUnit) : (s.setPc k v).seqAt j = s.seqAt j := rfl
@[simp] theorem setPc_apgAt (k j : Nat) (v : PcUnit) : (s.setPc k v).apgAt j = s.apgAt j := rfl
@[simp] theorem setPc_chanAt (k j : Nat) (v : PcUnit) : (s.setPc k v).chanAt j = s.chanAt j := rfl
@[simp] theorem setPc_bankAt (k j : Nat) (v : PcUnit) : (s.setPc k v).bankAt j = s.bankAt j := rfl
@[simp] theorem setPc_capAt (k j : Nat) (v : PcUnit) : (s.setPc k v).capAt j = s.capAt j := rfl
@[simp] theorem setPc_alignAt (k j : Nat) (v : PcUnit) : (s.setPc k v).alignAt j = s.alignAt j := rfl
@[simp] theorem setPc_tdAt (k j : Nat) (v : PcUnit) : (s.setPc k v).tdAt j = s.tdAt j := rfl
@[simp] theorem setPc_pairAt (k j : Nat) (v : PcUnit) : (s.setPc k v).pairAt j = s.pairAt j := rfl
@[simp] theorem setPc_hdrAt (k j : Nat) (v : PcUnit) : (s.setPc k v).hdrAt j = s.hdrAt j := rfl
@[simp] theorem setPc_zpAt (k j : Nat) (v : PcUnit) : (s.setPc k v).zpAt j = s.zpAt j := rfl
@[simp] theorem setPc_plAt (k j : Nat) (v : PcUnit) : (s.setPc k v).plAt j = s.plAt j := rfl
@[simp] theorem setPc_weAt (k j : Nat) (v : PcUnit) : (s.setPc k v).weAt j = s.weAt j := rfl
@[simp] theorem setPc_ceAt (k j : Nat) (v : PcUnit) : (s.setPc k v).ceAt j = s.ceAt j := rfl
@[simp] theorem setPc_msAt (k j : Nat) (v : PcUnit) : (s.setPc k v).msAt j = s.msAt j := rfl
@[simp] theorem setPc_ssAt (k j : Nat) (v : PcUnit) : (s.setPc k v).ssAt j = s.ssAt j := rfl
@[simp] theorem setPc_timAt (k j : Nat) (v : PcUnit) : (s.setPc k v).timAt j = s.timAt j := rfl
@[simp] theorem setPc_unitAt (k j : Nat) (v : PcUnit) : (s.setPc k v).unitAt j = s.unitAt j := rfl
@[simp] theorem setPc_hportAt (k j : Nat) (v : PcUnit) : (s.setPc k v).hportAt j = s.hportAt j := rfl
@[simp] theorem setPc_stackAt (k j : Nat) (v : PcUnit) : (s.setPc k v).stackAt j = s.stackAt j := rfl
@[simp] theorem setPc_taskAt (k j : Nat) (v : PcUnit) : (s.setPc k v).taskAt j = s.taskAt j := rfl
@[simp] theorem setPc_execAt (k j : Nat) (v : PcUnit) : (s.setPc k v).execAt j = s.execAt j := rfl
@[simp] theorem setPc_portAt (k j : Nat) (v : PcUnit) : (s.setPc k v).portAt j = s.portAt j := rfl
@[simp] theorem setPc_reg (k p o : Nat) (v : PcUnit) : (s.setPc k v).reg p o = s.reg p o := rfl
@[simp] theorem setPc_regN (k p o : Nat) (v : PcUnit) : (s.setPc k v).regN p o = s.regN p o := rfl
@[simp] theorem setPc_reg64 (k p o : Nat) (v : PcUnit) : (s.setPc k v).reg64 p o = s.reg64 p o := rfl
@[simp] theorem setPc_ready (k p : Nat) (v : PcUnit) : (s.setPc k v).ready p = s.ready p := rfl
@[simp] theorem modPc_eq (k : Nat) (f : PcUnit → PcUnit) : s.modPc k f = s.setPc k (f (s.pcAt k)) := rfl

/-! setHport -/
@[simp] theorem setHport_hportAt (k j : Nat) (v : HPort) : (s.setHport k v).hportAt j = if j = k then v else s.hportAt j := sget_sput _ _ _ _ _
@[simp] theorem setHport_pending (k : Nat) (v : HPort) : (s.setHport k v).pending = s.pending := rfl
@[simp] theorem setHport_now (k : Nat) (v : HPort) : (s.setHport k v).now = s.now := rfl
@[simp] theorem setHport_freeCtr (k : Nat) (v : HPort) : (s.setHport k v).freeCtr = s.freeCtr := rfl
@[simp] theorem setHport_outbox (k : Nat) (v : HPort) : (s.setHport k v).outbox = s.outbox := rfl
@[simp] theorem setHport_hostOut (k : Nat) (v : HPort) : (s.setHport k v).hostOut = s.hostOut := rfl
@[simp] theorem setHport_hdr (k : Nat) (v : HPort) : (s.setHport k v).hdr = s.hdr := rfl
@[simp] theorem setHport_redo (k : Nat) (v : HPort) : (s.setHport k v).redo = s.redo := rfl
@[simp] theorem setHport_msixOn (k : Nat) (v : HPort) : (s.setHport k v).msixOn = s.msixOn := rfl
@[simp] theorem setHport_msixPend (k : Nat) (v : HPort) : (s.setHport k v).msixPend = s.msixPend := rfl
@[simp] theorem setHport_pcieHeld (k : Nat) (v : HPort) : (s.setHport k v).pcieHeld = s.pcieHeld := rfl
@[simp] theorem setHport_regs (k : Nat) (v : HPort) : (s.setHport k v).regs = s.regs := rfl
@[simp] theorem setHport_latches (k : Nat) (v : HPort) : (s.setHport k v).latches = s.latches := rfl
@[simp] theorem setHport_hbm (k : Nat) (v : HPort) : (s.setHport k v).hbm = s.hbm := rfl
@[simp] theorem setHport_hbmBad (k : Nat) (v : HPort) : (s.setHport k v).hbmBad = s.hbmBad := rfl
@[simp] theorem setHport_hbmLost (k : Nat) (v : HPort) : (s.setHport k v).hbmLost = s.hbmLost := rfl
@[simp] theorem setHport_seq (k : Nat) (v : HPort) : (s.setHport k v).seq = s.seq := rfl
@[simp] theorem setHport_apg (k : Nat) (v : HPort) : (s.setHport k v).apg = s.apg := rfl
@[simp] theorem setHport_apgTab (k : Nat) (v : HPort) : (s.setHport k v).apgTab = s.apgTab := rfl
@[simp] theorem setHport_chan (k : Nat) (v : HPort) : (s.setHport k v).chan = s.chan := rfl
@[simp] theorem setHport_bank (k : Nat) (v : HPort) : (s.setHport k v).bank = s.bank := rfl
@[simp] theorem setHport_bankQueue (k : Nat) (v : HPort) : (s.setHport k v).bankQueue = s.bankQueue := rfl
@[simp] theorem setHport_bankLastStart (k : Nat) (v : HPort) : (s.setHport k v).bankLastStart = s.bankLastStart := rfl
@[simp] theorem setHport_tss (k : Nat) (v : HPort) : (s.setHport k v).tss = s.tss := rfl
@[simp] theorem setHport_cap (k : Nat) (v : HPort) : (s.setHport k v).cap = s.cap := rfl
@[simp] theorem setHport_trg (k : Nat) (v : HPort) : (s.setHport k v).trg = s.trg := rfl
@[simp] theorem setHport_align (k : Nat) (v : HPort) : (s.setHport k v).align = s.align := rfl
@[simp] theorem setHport_merge (k : Nat) (v : HPort) : (s.setHport k v).merge = s.merge := rfl
@[simp] theorem setHport_td (k : Nat) (v : HPort) : (s.setHport k v).td = s.td := rfl
@[simp] theorem setHport_pair (k : Nat) (v : HPort) : (s.setHport k v).pair = s.pair := rfl
@[simp] theorem setHport_sync (k : Nat) (v : HPort) : (s.setHport k v).sync = s.sync := rfl
@[simp] theorem setHport_cal (k : Nat) (v : HPort) : (s.setHport k v).cal = s.cal := rfl
@[simp] theorem setHport_fuse (k : Nat) (v : HPort) : (s.setHport k v).fuse = s.fuse := rfl
@[simp] theorem setHport_sch (k : Nat) (v : HPort) : (s.setHport k v).sch = s.sch := rfl
@[simp] theorem setHport_zp (k : Nat) (v : HPort) : (s.setHport k v).zp = s.zp := rfl
@[simp] theorem setHport_pl (k : Nat) (v : HPort) : (s.setHport k v).pl = s.pl := rfl
@[simp] theorem setHport_pcie (k : Nat) (v : HPort) : (s.setHport k v).pcie = s.pcie := rfl
@[simp] theorem setHport_we (k : Nat) (v : HPort) : (s.setHport k v).we = s.we := rfl
@[simp] theorem setHport_ce (k : Nat) (v : HPort) : (s.setHport k v).ce = s.ce := rfl
@[simp] theorem setHport_ms (k : Nat) (v : HPort) : (s.setHport k v).ms = s.ms := rfl
@[simp] theorem setHport_ss (k : Nat) (v : HPort) : (s.setHport k v).ss = s.ss := rfl
@[simp] theorem setHport_tim (k : Nat) (v : HPort) : (s.setHport k v).tim = s.tim := rfl
@[simp] theorem setHport_mgt (k : Nat) (v : HPort) : (s.setHport k v).mgt = s.mgt := rfl
@[simp] theorem setHport_seqAt (k j : Nat) (v : HPort) : (s.setHport k v).seqAt j = s.seqAt j := rfl
@[simp] theorem setHport_apgAt (k j : Nat) (v : HPort) : (s.setHport k v).apgAt j = s.apgAt j := rfl
@[simp] theorem setHport_chanAt (k j : Nat) (v : HPort) : (s.setHport k v).chanAt j = s.chanAt j := rfl
@[simp] theorem setHport_bankAt (k j : Nat) (v : HPort) : (s.setHport k v).bankAt j = s.bankAt j := rfl
@[simp] theorem setHport_capAt (k j : Nat) (v : HPort) : (s.setHport k v).capAt j = s.capAt j := rfl
@[simp] theorem setHport_alignAt (k j : Nat) (v : HPort) : (s.setHport k v).alignAt j = s.alignAt j := rfl
@[simp] theorem setHport_tdAt (k j : Nat) (v : HPort) : (s.setHport k v).tdAt j = s.tdAt j := rfl
@[simp] theorem setHport_pairAt (k j : Nat) (v : HPort) : (s.setHport k v).pairAt j = s.pairAt j := rfl
@[simp] theorem setHport_hdrAt (k j : Nat) (v : HPort) : (s.setHport k v).hdrAt j = s.hdrAt j := rfl
@[simp] theorem setHport_zpAt (k j : Nat) (v : HPort) : (s.setHport k v).zpAt j = s.zpAt j := rfl
@[simp] theorem setHport_plAt (k j : Nat) (v : HPort) : (s.setHport k v).plAt j = s.plAt j := rfl
@[simp] theorem setHport_weAt (k j : Nat) (v : HPort) : (s.setHport k v).weAt j = s.weAt j := rfl
@[simp] theorem setHport_ceAt (k j : Nat) (v : HPort) : (s.setHport k v).ceAt j = s.ceAt j := rfl
@[simp] theorem setHport_msAt (k j : Nat) (v : HPort) : (s.setHport k v).msAt j = s.msAt j := rfl
@[simp] theorem setHport_ssAt (k j : Nat) (v : HPort) : (s.setHport k v).ssAt j = s.ssAt j := rfl
@[simp] theorem setHport_timAt (k j : Nat) (v : HPort) : (s.setHport k v).timAt j = s.timAt j := rfl
@[simp] theorem setHport_unitAt (k j : Nat) (v : HPort) : (s.setHport k v).unitAt j = s.unitAt j := rfl
@[simp] theorem setHport_pcAt (k j : Nat) (v : HPort) : (s.setHport k v).pcAt j = s.pcAt j := rfl
@[simp] theorem setHport_stackAt (k j : Nat) (v : HPort) : (s.setHport k v).stackAt j = s.stackAt j := rfl
@[simp] theorem setHport_taskAt (k j : Nat) (v : HPort) : (s.setHport k v).taskAt j = s.taskAt j := rfl
@[simp] theorem setHport_execAt (k j : Nat) (v : HPort) : (s.setHport k v).execAt j = s.execAt j := rfl
@[simp] theorem setHport_portAt (k j : Nat) (v : HPort) : (s.setHport k v).portAt j = s.portAt j := rfl
@[simp] theorem setHport_reg (k p o : Nat) (v : HPort) : (s.setHport k v).reg p o = s.reg p o := rfl
@[simp] theorem setHport_regN (k p o : Nat) (v : HPort) : (s.setHport k v).regN p o = s.regN p o := rfl
@[simp] theorem setHport_reg64 (k p o : Nat) (v : HPort) : (s.setHport k v).reg64 p o = s.reg64 p o := rfl
@[simp] theorem setHport_ready (k p : Nat) (v : HPort) : (s.setHport k v).ready p = s.ready p := rfl

/-! setStack -/
@[simp] theorem setStack_stackAt (k j : Nat) (v : HbmStack) : (s.setStack k v).stackAt j = if j = k then v else s.stackAt j := sget_sput _ _ _ _ _
@[simp] theorem setStack_pending (k : Nat) (v : HbmStack) : (s.setStack k v).pending = s.pending := rfl
@[simp] theorem setStack_now (k : Nat) (v : HbmStack) : (s.setStack k v).now = s.now := rfl
@[simp] theorem setStack_freeCtr (k : Nat) (v : HbmStack) : (s.setStack k v).freeCtr = s.freeCtr := rfl
@[simp] theorem setStack_outbox (k : Nat) (v : HbmStack) : (s.setStack k v).outbox = s.outbox := rfl
@[simp] theorem setStack_hostOut (k : Nat) (v : HbmStack) : (s.setStack k v).hostOut = s.hostOut := rfl
@[simp] theorem setStack_hdr (k : Nat) (v : HbmStack) : (s.setStack k v).hdr = s.hdr := rfl
@[simp] theorem setStack_redo (k : Nat) (v : HbmStack) : (s.setStack k v).redo = s.redo := rfl
@[simp] theorem setStack_msixOn (k : Nat) (v : HbmStack) : (s.setStack k v).msixOn = s.msixOn := rfl
@[simp] theorem setStack_msixPend (k : Nat) (v : HbmStack) : (s.setStack k v).msixPend = s.msixPend := rfl
@[simp] theorem setStack_pcieHeld (k : Nat) (v : HbmStack) : (s.setStack k v).pcieHeld = s.pcieHeld := rfl
@[simp] theorem setStack_regs (k : Nat) (v : HbmStack) : (s.setStack k v).regs = s.regs := rfl
@[simp] theorem setStack_latches (k : Nat) (v : HbmStack) : (s.setStack k v).latches = s.latches := rfl
@[simp] theorem setStack_hbm (k : Nat) (v : HbmStack) : (s.setStack k v).hbm = s.hbm := rfl
@[simp] theorem setStack_hbmBad (k : Nat) (v : HbmStack) : (s.setStack k v).hbmBad = s.hbmBad := rfl
@[simp] theorem setStack_hbmLost (k : Nat) (v : HbmStack) : (s.setStack k v).hbmLost = s.hbmLost := rfl
@[simp] theorem setStack_seq (k : Nat) (v : HbmStack) : (s.setStack k v).seq = s.seq := rfl
@[simp] theorem setStack_apg (k : Nat) (v : HbmStack) : (s.setStack k v).apg = s.apg := rfl
@[simp] theorem setStack_apgTab (k : Nat) (v : HbmStack) : (s.setStack k v).apgTab = s.apgTab := rfl
@[simp] theorem setStack_chan (k : Nat) (v : HbmStack) : (s.setStack k v).chan = s.chan := rfl
@[simp] theorem setStack_bank (k : Nat) (v : HbmStack) : (s.setStack k v).bank = s.bank := rfl
@[simp] theorem setStack_bankQueue (k : Nat) (v : HbmStack) : (s.setStack k v).bankQueue = s.bankQueue := rfl
@[simp] theorem setStack_bankLastStart (k : Nat) (v : HbmStack) : (s.setStack k v).bankLastStart = s.bankLastStart := rfl
@[simp] theorem setStack_tss (k : Nat) (v : HbmStack) : (s.setStack k v).tss = s.tss := rfl
@[simp] theorem setStack_cap (k : Nat) (v : HbmStack) : (s.setStack k v).cap = s.cap := rfl
@[simp] theorem setStack_trg (k : Nat) (v : HbmStack) : (s.setStack k v).trg = s.trg := rfl
@[simp] theorem setStack_align (k : Nat) (v : HbmStack) : (s.setStack k v).align = s.align := rfl
@[simp] theorem setStack_merge (k : Nat) (v : HbmStack) : (s.setStack k v).merge = s.merge := rfl
@[simp] theorem setStack_td (k : Nat) (v : HbmStack) : (s.setStack k v).td = s.td := rfl
@[simp] theorem setStack_pair (k : Nat) (v : HbmStack) : (s.setStack k v).pair = s.pair := rfl
@[simp] theorem setStack_sync (k : Nat) (v : HbmStack) : (s.setStack k v).sync = s.sync := rfl
@[simp] theorem setStack_cal (k : Nat) (v : HbmStack) : (s.setStack k v).cal = s.cal := rfl
@[simp] theorem setStack_fuse (k : Nat) (v : HbmStack) : (s.setStack k v).fuse = s.fuse := rfl
@[simp] theorem setStack_sch (k : Nat) (v : HbmStack) : (s.setStack k v).sch = s.sch := rfl
@[simp] theorem setStack_zp (k : Nat) (v : HbmStack) : (s.setStack k v).zp = s.zp := rfl
@[simp] theorem setStack_pl (k : Nat) (v : HbmStack) : (s.setStack k v).pl = s.pl := rfl
@[simp] theorem setStack_pcie (k : Nat) (v : HbmStack) : (s.setStack k v).pcie = s.pcie := rfl
@[simp] theorem setStack_we (k : Nat) (v : HbmStack) : (s.setStack k v).we = s.we := rfl
@[simp] theorem setStack_ce (k : Nat) (v : HbmStack) : (s.setStack k v).ce = s.ce := rfl
@[simp] theorem setStack_ms (k : Nat) (v : HbmStack) : (s.setStack k v).ms = s.ms := rfl
@[simp] theorem setStack_ss (k : Nat) (v : HbmStack) : (s.setStack k v).ss = s.ss := rfl
@[simp] theorem setStack_tim (k : Nat) (v : HbmStack) : (s.setStack k v).tim = s.tim := rfl
@[simp] theorem setStack_mgt (k : Nat) (v : HbmStack) : (s.setStack k v).mgt = s.mgt := rfl
@[simp] theorem setStack_seqAt (k j : Nat) (v : HbmStack) : (s.setStack k v).seqAt j = s.seqAt j := rfl
@[simp] theorem setStack_apgAt (k j : Nat) (v : HbmStack) : (s.setStack k v).apgAt j = s.apgAt j := rfl
@[simp] theorem setStack_chanAt (k j : Nat) (v : HbmStack) : (s.setStack k v).chanAt j = s.chanAt j := rfl
@[simp] theorem setStack_bankAt (k j : Nat) (v : HbmStack) : (s.setStack k v).bankAt j = s.bankAt j := rfl
@[simp] theorem setStack_capAt (k j : Nat) (v : HbmStack) : (s.setStack k v).capAt j = s.capAt j := rfl
@[simp] theorem setStack_alignAt (k j : Nat) (v : HbmStack) : (s.setStack k v).alignAt j = s.alignAt j := rfl
@[simp] theorem setStack_tdAt (k j : Nat) (v : HbmStack) : (s.setStack k v).tdAt j = s.tdAt j := rfl
@[simp] theorem setStack_pairAt (k j : Nat) (v : HbmStack) : (s.setStack k v).pairAt j = s.pairAt j := rfl
@[simp] theorem setStack_hdrAt (k j : Nat) (v : HbmStack) : (s.setStack k v).hdrAt j = s.hdrAt j := rfl
@[simp] theorem setStack_zpAt (k j : Nat) (v : HbmStack) : (s.setStack k v).zpAt j = s.zpAt j := rfl
@[simp] theorem setStack_plAt (k j : Nat) (v : HbmStack) : (s.setStack k v).plAt j = s.plAt j := rfl
@[simp] theorem setStack_weAt (k j : Nat) (v : HbmStack) : (s.setStack k v).weAt j = s.weAt j := rfl
@[simp] theorem setStack_ceAt (k j : Nat) (v : HbmStack) : (s.setStack k v).ceAt j = s.ceAt j := rfl
@[simp] theorem setStack_msAt (k j : Nat) (v : HbmStack) : (s.setStack k v).msAt j = s.msAt j := rfl
@[simp] theorem setStack_ssAt (k j : Nat) (v : HbmStack) : (s.setStack k v).ssAt j = s.ssAt j := rfl
@[simp] theorem setStack_timAt (k j : Nat) (v : HbmStack) : (s.setStack k v).timAt j = s.timAt j := rfl
@[simp] theorem setStack_unitAt (k j : Nat) (v : HbmStack) : (s.setStack k v).unitAt j = s.unitAt j := rfl
@[simp] theorem setStack_pcAt (k j : Nat) (v : HbmStack) : (s.setStack k v).pcAt j = s.pcAt j := rfl
@[simp] theorem setStack_hportAt (k j : Nat) (v : HbmStack) : (s.setStack k v).hportAt j = s.hportAt j := rfl
@[simp] theorem setStack_taskAt (k j : Nat) (v : HbmStack) : (s.setStack k v).taskAt j = s.taskAt j := rfl
@[simp] theorem setStack_execAt (k j : Nat) (v : HbmStack) : (s.setStack k v).execAt j = s.execAt j := rfl
@[simp] theorem setStack_portAt (k j : Nat) (v : HbmStack) : (s.setStack k v).portAt j = s.portAt j := rfl
@[simp] theorem setStack_reg (k p o : Nat) (v : HbmStack) : (s.setStack k v).reg p o = s.reg p o := rfl
@[simp] theorem setStack_regN (k p o : Nat) (v : HbmStack) : (s.setStack k v).regN p o = s.regN p o := rfl
@[simp] theorem setStack_reg64 (k p o : Nat) (v : HbmStack) : (s.setStack k v).reg64 p o = s.reg64 p o := rfl
@[simp] theorem setStack_ready (k p : Nat) (v : HbmStack) : (s.setStack k v).ready p = s.ready p := rfl
@[simp] theorem modStack_eq (k : Nat) (f : HbmStack → HbmStack) : s.modStack k f = s.setStack k (f (s.stackAt k)) := rfl

/-! setTask -/
@[simp] theorem setTask_taskAt (k j : Nat) (v : Task) : (s.setTask k v).taskAt j = if j = k then v else s.taskAt j := sget_sput _ _ _ _ _
@[simp] theorem setTask_pending (k : Nat) (v : Task) : (s.setTask k v).pending = s.pending := rfl
@[simp] theorem setTask_now (k : Nat) (v : Task) : (s.setTask k v).now = s.now := rfl
@[simp] theorem setTask_freeCtr (k : Nat) (v : Task) : (s.setTask k v).freeCtr = s.freeCtr := rfl
@[simp] theorem setTask_outbox (k : Nat) (v : Task) : (s.setTask k v).outbox = s.outbox := rfl
@[simp] theorem setTask_hostOut (k : Nat) (v : Task) : (s.setTask k v).hostOut = s.hostOut := rfl
@[simp] theorem setTask_hdr (k : Nat) (v : Task) : (s.setTask k v).hdr = s.hdr := rfl
@[simp] theorem setTask_redo (k : Nat) (v : Task) : (s.setTask k v).redo = s.redo := rfl
@[simp] theorem setTask_msixOn (k : Nat) (v : Task) : (s.setTask k v).msixOn = s.msixOn := rfl
@[simp] theorem setTask_msixPend (k : Nat) (v : Task) : (s.setTask k v).msixPend = s.msixPend := rfl
@[simp] theorem setTask_pcieHeld (k : Nat) (v : Task) : (s.setTask k v).pcieHeld = s.pcieHeld := rfl
@[simp] theorem setTask_regs (k : Nat) (v : Task) : (s.setTask k v).regs = s.regs := rfl
@[simp] theorem setTask_latches (k : Nat) (v : Task) : (s.setTask k v).latches = s.latches := rfl
@[simp] theorem setTask_hbm (k : Nat) (v : Task) : (s.setTask k v).hbm = s.hbm := rfl
@[simp] theorem setTask_hbmBad (k : Nat) (v : Task) : (s.setTask k v).hbmBad = s.hbmBad := rfl
@[simp] theorem setTask_hbmLost (k : Nat) (v : Task) : (s.setTask k v).hbmLost = s.hbmLost := rfl
@[simp] theorem setTask_seq (k : Nat) (v : Task) : (s.setTask k v).seq = s.seq := rfl
@[simp] theorem setTask_apg (k : Nat) (v : Task) : (s.setTask k v).apg = s.apg := rfl
@[simp] theorem setTask_apgTab (k : Nat) (v : Task) : (s.setTask k v).apgTab = s.apgTab := rfl
@[simp] theorem setTask_chan (k : Nat) (v : Task) : (s.setTask k v).chan = s.chan := rfl
@[simp] theorem setTask_bank (k : Nat) (v : Task) : (s.setTask k v).bank = s.bank := rfl
@[simp] theorem setTask_bankQueue (k : Nat) (v : Task) : (s.setTask k v).bankQueue = s.bankQueue := rfl
@[simp] theorem setTask_bankLastStart (k : Nat) (v : Task) : (s.setTask k v).bankLastStart = s.bankLastStart := rfl
@[simp] theorem setTask_tss (k : Nat) (v : Task) : (s.setTask k v).tss = s.tss := rfl
@[simp] theorem setTask_cap (k : Nat) (v : Task) : (s.setTask k v).cap = s.cap := rfl
@[simp] theorem setTask_trg (k : Nat) (v : Task) : (s.setTask k v).trg = s.trg := rfl
@[simp] theorem setTask_align (k : Nat) (v : Task) : (s.setTask k v).align = s.align := rfl
@[simp] theorem setTask_merge (k : Nat) (v : Task) : (s.setTask k v).merge = s.merge := rfl
@[simp] theorem setTask_td (k : Nat) (v : Task) : (s.setTask k v).td = s.td := rfl
@[simp] theorem setTask_pair (k : Nat) (v : Task) : (s.setTask k v).pair = s.pair := rfl
@[simp] theorem setTask_sync (k : Nat) (v : Task) : (s.setTask k v).sync = s.sync := rfl
@[simp] theorem setTask_cal (k : Nat) (v : Task) : (s.setTask k v).cal = s.cal := rfl
@[simp] theorem setTask_fuse (k : Nat) (v : Task) : (s.setTask k v).fuse = s.fuse := rfl
@[simp] theorem setTask_zp (k : Nat) (v : Task) : (s.setTask k v).zp = s.zp := rfl
@[simp] theorem setTask_pl (k : Nat) (v : Task) : (s.setTask k v).pl = s.pl := rfl
@[simp] theorem setTask_pcie (k : Nat) (v : Task) : (s.setTask k v).pcie = s.pcie := rfl
@[simp] theorem setTask_hmc (k : Nat) (v : Task) : (s.setTask k v).hmc = s.hmc := rfl
@[simp] theorem setTask_we (k : Nat) (v : Task) : (s.setTask k v).we = s.we := rfl
@[simp] theorem setTask_ce (k : Nat) (v : Task) : (s.setTask k v).ce = s.ce := rfl
@[simp] theorem setTask_ms (k : Nat) (v : Task) : (s.setTask k v).ms = s.ms := rfl
@[simp] theorem setTask_ss (k : Nat) (v : Task) : (s.setTask k v).ss = s.ss := rfl
@[simp] theorem setTask_tim (k : Nat) (v : Task) : (s.setTask k v).tim = s.tim := rfl
@[simp] theorem setTask_mgt (k : Nat) (v : Task) : (s.setTask k v).mgt = s.mgt := rfl
@[simp] theorem setTask_seqAt (k j : Nat) (v : Task) : (s.setTask k v).seqAt j = s.seqAt j := rfl
@[simp] theorem setTask_apgAt (k j : Nat) (v : Task) : (s.setTask k v).apgAt j = s.apgAt j := rfl
@[simp] theorem setTask_chanAt (k j : Nat) (v : Task) : (s.setTask k v).chanAt j = s.chanAt j := rfl
@[simp] theorem setTask_bankAt (k j : Nat) (v : Task) : (s.setTask k v).bankAt j = s.bankAt j := rfl
@[simp] theorem setTask_capAt (k j : Nat) (v : Task) : (s.setTask k v).capAt j = s.capAt j := rfl
@[simp] theorem setTask_alignAt (k j : Nat) (v : Task) : (s.setTask k v).alignAt j = s.alignAt j := rfl
@[simp] theorem setTask_tdAt (k j : Nat) (v : Task) : (s.setTask k v).tdAt j = s.tdAt j := rfl
@[simp] theorem setTask_pairAt (k j : Nat) (v : Task) : (s.setTask k v).pairAt j = s.pairAt j := rfl
@[simp] theorem setTask_hdrAt (k j : Nat) (v : Task) : (s.setTask k v).hdrAt j = s.hdrAt j := rfl
@[simp] theorem setTask_zpAt (k j : Nat) (v : Task) : (s.setTask k v).zpAt j = s.zpAt j := rfl
@[simp] theorem setTask_plAt (k j : Nat) (v : Task) : (s.setTask k v).plAt j = s.plAt j := rfl
@[simp] theorem setTask_weAt (k j : Nat) (v : Task) : (s.setTask k v).weAt j = s.weAt j := rfl
@[simp] theorem setTask_ceAt (k j : Nat) (v : Task) : (s.setTask k v).ceAt j = s.ceAt j := rfl
@[simp] theorem setTask_msAt (k j : Nat) (v : Task) : (s.setTask k v).msAt j = s.msAt j := rfl
@[simp] theorem setTask_ssAt (k j : Nat) (v : Task) : (s.setTask k v).ssAt j = s.ssAt j := rfl
@[simp] theorem setTask_timAt (k j : Nat) (v : Task) : (s.setTask k v).timAt j = s.timAt j := rfl
@[simp] theorem setTask_unitAt (k j : Nat) (v : Task) : (s.setTask k v).unitAt j = s.unitAt j := rfl
@[simp] theorem setTask_pcAt (k j : Nat) (v : Task) : (s.setTask k v).pcAt j = s.pcAt j := rfl
@[simp] theorem setTask_hportAt (k j : Nat) (v : Task) : (s.setTask k v).hportAt j = s.hportAt j := rfl
@[simp] theorem setTask_stackAt (k j : Nat) (v : Task) : (s.setTask k v).stackAt j = s.stackAt j := rfl
@[simp] theorem setTask_execAt (k j : Nat) (v : Task) : (s.setTask k v).execAt j = s.execAt j := rfl
@[simp] theorem setTask_portAt (k j : Nat) (v : Task) : (s.setTask k v).portAt j = s.portAt j := rfl
@[simp] theorem setTask_reg (k p o : Nat) (v : Task) : (s.setTask k v).reg p o = s.reg p o := rfl
@[simp] theorem setTask_regN (k p o : Nat) (v : Task) : (s.setTask k v).regN p o = s.regN p o := rfl
@[simp] theorem setTask_reg64 (k p o : Nat) (v : Task) : (s.setTask k v).reg64 p o = s.reg64 p o := rfl
@[simp] theorem setTask_ready (k p : Nat) (v : Task) : (s.setTask k v).ready p = s.ready p := rfl

/-! setExec -/
@[simp] theorem setExec_execAt (k j : Nat) (v : ExecSlots) : (s.setExec k v).execAt j = if j = k then v else s.execAt j := sget_sput _ _ _ _ _
@[simp] theorem setExec_pending (k : Nat) (v : ExecSlots) : (s.setExec k v).pending = s.pending := rfl
@[simp] theorem setExec_now (k : Nat) (v : ExecSlots) : (s.setExec k v).now = s.now := rfl
@[simp] theorem setExec_freeCtr (k : Nat) (v : ExecSlots) : (s.setExec k v).freeCtr = s.freeCtr := rfl
@[simp] theorem setExec_outbox (k : Nat) (v : ExecSlots) : (s.setExec k v).outbox = s.outbox := rfl
@[simp] theorem setExec_hostOut (k : Nat) (v : ExecSlots) : (s.setExec k v).hostOut = s.hostOut := rfl
@[simp] theorem setExec_hdr (k : Nat) (v : ExecSlots) : (s.setExec k v).hdr = s.hdr := rfl
@[simp] theorem setExec_redo (k : Nat) (v : ExecSlots) : (s.setExec k v).redo = s.redo := rfl
@[simp] theorem setExec_msixOn (k : Nat) (v : ExecSlots) : (s.setExec k v).msixOn = s.msixOn := rfl
@[simp] theorem setExec_msixPend (k : Nat) (v : ExecSlots) : (s.setExec k v).msixPend = s.msixPend := rfl
@[simp] theorem setExec_pcieHeld (k : Nat) (v : ExecSlots) : (s.setExec k v).pcieHeld = s.pcieHeld := rfl
@[simp] theorem setExec_regs (k : Nat) (v : ExecSlots) : (s.setExec k v).regs = s.regs := rfl
@[simp] theorem setExec_latches (k : Nat) (v : ExecSlots) : (s.setExec k v).latches = s.latches := rfl
@[simp] theorem setExec_hbm (k : Nat) (v : ExecSlots) : (s.setExec k v).hbm = s.hbm := rfl
@[simp] theorem setExec_hbmBad (k : Nat) (v : ExecSlots) : (s.setExec k v).hbmBad = s.hbmBad := rfl
@[simp] theorem setExec_hbmLost (k : Nat) (v : ExecSlots) : (s.setExec k v).hbmLost = s.hbmLost := rfl
@[simp] theorem setExec_seq (k : Nat) (v : ExecSlots) : (s.setExec k v).seq = s.seq := rfl
@[simp] theorem setExec_apg (k : Nat) (v : ExecSlots) : (s.setExec k v).apg = s.apg := rfl
@[simp] theorem setExec_apgTab (k : Nat) (v : ExecSlots) : (s.setExec k v).apgTab = s.apgTab := rfl
@[simp] theorem setExec_chan (k : Nat) (v : ExecSlots) : (s.setExec k v).chan = s.chan := rfl
@[simp] theorem setExec_bank (k : Nat) (v : ExecSlots) : (s.setExec k v).bank = s.bank := rfl
@[simp] theorem setExec_bankQueue (k : Nat) (v : ExecSlots) : (s.setExec k v).bankQueue = s.bankQueue := rfl
@[simp] theorem setExec_bankLastStart (k : Nat) (v : ExecSlots) : (s.setExec k v).bankLastStart = s.bankLastStart := rfl
@[simp] theorem setExec_tss (k : Nat) (v : ExecSlots) : (s.setExec k v).tss = s.tss := rfl
@[simp] theorem setExec_cap (k : Nat) (v : ExecSlots) : (s.setExec k v).cap = s.cap := rfl
@[simp] theorem setExec_trg (k : Nat) (v : ExecSlots) : (s.setExec k v).trg = s.trg := rfl
@[simp] theorem setExec_align (k : Nat) (v : ExecSlots) : (s.setExec k v).align = s.align := rfl
@[simp] theorem setExec_merge (k : Nat) (v : ExecSlots) : (s.setExec k v).merge = s.merge := rfl
@[simp] theorem setExec_td (k : Nat) (v : ExecSlots) : (s.setExec k v).td = s.td := rfl
@[simp] theorem setExec_pair (k : Nat) (v : ExecSlots) : (s.setExec k v).pair = s.pair := rfl
@[simp] theorem setExec_sync (k : Nat) (v : ExecSlots) : (s.setExec k v).sync = s.sync := rfl
@[simp] theorem setExec_cal (k : Nat) (v : ExecSlots) : (s.setExec k v).cal = s.cal := rfl
@[simp] theorem setExec_fuse (k : Nat) (v : ExecSlots) : (s.setExec k v).fuse = s.fuse := rfl
@[simp] theorem setExec_zp (k : Nat) (v : ExecSlots) : (s.setExec k v).zp = s.zp := rfl
@[simp] theorem setExec_pl (k : Nat) (v : ExecSlots) : (s.setExec k v).pl = s.pl := rfl
@[simp] theorem setExec_pcie (k : Nat) (v : ExecSlots) : (s.setExec k v).pcie = s.pcie := rfl
@[simp] theorem setExec_hmc (k : Nat) (v : ExecSlots) : (s.setExec k v).hmc = s.hmc := rfl
@[simp] theorem setExec_we (k : Nat) (v : ExecSlots) : (s.setExec k v).we = s.we := rfl
@[simp] theorem setExec_ce (k : Nat) (v : ExecSlots) : (s.setExec k v).ce = s.ce := rfl
@[simp] theorem setExec_ms (k : Nat) (v : ExecSlots) : (s.setExec k v).ms = s.ms := rfl
@[simp] theorem setExec_ss (k : Nat) (v : ExecSlots) : (s.setExec k v).ss = s.ss := rfl
@[simp] theorem setExec_tim (k : Nat) (v : ExecSlots) : (s.setExec k v).tim = s.tim := rfl
@[simp] theorem setExec_mgt (k : Nat) (v : ExecSlots) : (s.setExec k v).mgt = s.mgt := rfl
@[simp] theorem setExec_seqAt (k j : Nat) (v : ExecSlots) : (s.setExec k v).seqAt j = s.seqAt j := rfl
@[simp] theorem setExec_apgAt (k j : Nat) (v : ExecSlots) : (s.setExec k v).apgAt j = s.apgAt j := rfl
@[simp] theorem setExec_chanAt (k j : Nat) (v : ExecSlots) : (s.setExec k v).chanAt j = s.chanAt j := rfl
@[simp] theorem setExec_bankAt (k j : Nat) (v : ExecSlots) : (s.setExec k v).bankAt j = s.bankAt j := rfl
@[simp] theorem setExec_capAt (k j : Nat) (v : ExecSlots) : (s.setExec k v).capAt j = s.capAt j := rfl
@[simp] theorem setExec_alignAt (k j : Nat) (v : ExecSlots) : (s.setExec k v).alignAt j = s.alignAt j := rfl
@[simp] theorem setExec_tdAt (k j : Nat) (v : ExecSlots) : (s.setExec k v).tdAt j = s.tdAt j := rfl
@[simp] theorem setExec_pairAt (k j : Nat) (v : ExecSlots) : (s.setExec k v).pairAt j = s.pairAt j := rfl
@[simp] theorem setExec_hdrAt (k j : Nat) (v : ExecSlots) : (s.setExec k v).hdrAt j = s.hdrAt j := rfl
@[simp] theorem setExec_zpAt (k j : Nat) (v : ExecSlots) : (s.setExec k v).zpAt j = s.zpAt j := rfl
@[simp] theorem setExec_plAt (k j : Nat) (v : ExecSlots) : (s.setExec k v).plAt j = s.plAt j := rfl
@[simp] theorem setExec_weAt (k j : Nat) (v : ExecSlots) : (s.setExec k v).weAt j = s.weAt j := rfl
@[simp] theorem setExec_ceAt (k j : Nat) (v : ExecSlots) : (s.setExec k v).ceAt j = s.ceAt j := rfl
@[simp] theorem setExec_msAt (k j : Nat) (v : ExecSlots) : (s.setExec k v).msAt j = s.msAt j := rfl
@[simp] theorem setExec_ssAt (k j : Nat) (v : ExecSlots) : (s.setExec k v).ssAt j = s.ssAt j := rfl
@[simp] theorem setExec_timAt (k j : Nat) (v : ExecSlots) : (s.setExec k v).timAt j = s.timAt j := rfl
@[simp] theorem setExec_unitAt (k j : Nat) (v : ExecSlots) : (s.setExec k v).unitAt j = s.unitAt j := rfl
@[simp] theorem setExec_pcAt (k j : Nat) (v : ExecSlots) : (s.setExec k v).pcAt j = s.pcAt j := rfl
@[simp] theorem setExec_hportAt (k j : Nat) (v : ExecSlots) : (s.setExec k v).hportAt j = s.hportAt j := rfl
@[simp] theorem setExec_stackAt (k j : Nat) (v : ExecSlots) : (s.setExec k v).stackAt j = s.stackAt j := rfl
@[simp] theorem setExec_taskAt (k j : Nat) (v : ExecSlots) : (s.setExec k v).taskAt j = s.taskAt j := rfl
@[simp] theorem setExec_portAt (k j : Nat) (v : ExecSlots) : (s.setExec k v).portAt j = s.portAt j := rfl
@[simp] theorem setExec_reg (k p o : Nat) (v : ExecSlots) : (s.setExec k v).reg p o = s.reg p o := rfl
@[simp] theorem setExec_regN (k p o : Nat) (v : ExecSlots) : (s.setExec k v).regN p o = s.regN p o := rfl
@[simp] theorem setExec_reg64 (k p o : Nat) (v : ExecSlots) : (s.setExec k v).reg64 p o = s.reg64 p o := rfl
@[simp] theorem setExec_ready (k p : Nat) (v : ExecSlots) : (s.setExec k v).ready p = s.ready p := rfl

/-! setPort -/
@[simp] theorem setPort_portAt (k j : Nat) (v : SubPort) : (s.setPort k v).portAt j = if j = k then v else s.portAt j := sget_sput _ _ _ _ _
@[simp] theorem setPort_pending (k : Nat) (v : SubPort) : (s.setPort k v).pending = s.pending := rfl
@[simp] theorem setPort_now (k : Nat) (v : SubPort) : (s.setPort k v).now = s.now := rfl
@[simp] theorem setPort_freeCtr (k : Nat) (v : SubPort) : (s.setPort k v).freeCtr = s.freeCtr := rfl
@[simp] theorem setPort_outbox (k : Nat) (v : SubPort) : (s.setPort k v).outbox = s.outbox := rfl
@[simp] theorem setPort_hostOut (k : Nat) (v : SubPort) : (s.setPort k v).hostOut = s.hostOut := rfl
@[simp] theorem setPort_hdr (k : Nat) (v : SubPort) : (s.setPort k v).hdr = s.hdr := rfl
@[simp] theorem setPort_redo (k : Nat) (v : SubPort) : (s.setPort k v).redo = s.redo := rfl
@[simp] theorem setPort_msixOn (k : Nat) (v : SubPort) : (s.setPort k v).msixOn = s.msixOn := rfl
@[simp] theorem setPort_msixPend (k : Nat) (v : SubPort) : (s.setPort k v).msixPend = s.msixPend := rfl
@[simp] theorem setPort_pcieHeld (k : Nat) (v : SubPort) : (s.setPort k v).pcieHeld = s.pcieHeld := rfl
@[simp] theorem setPort_regs (k : Nat) (v : SubPort) : (s.setPort k v).regs = s.regs := rfl
@[simp] theorem setPort_latches (k : Nat) (v : SubPort) : (s.setPort k v).latches = s.latches := rfl
@[simp] theorem setPort_hbm (k : Nat) (v : SubPort) : (s.setPort k v).hbm = s.hbm := rfl
@[simp] theorem setPort_hbmBad (k : Nat) (v : SubPort) : (s.setPort k v).hbmBad = s.hbmBad := rfl
@[simp] theorem setPort_hbmLost (k : Nat) (v : SubPort) : (s.setPort k v).hbmLost = s.hbmLost := rfl
@[simp] theorem setPort_seq (k : Nat) (v : SubPort) : (s.setPort k v).seq = s.seq := rfl
@[simp] theorem setPort_apg (k : Nat) (v : SubPort) : (s.setPort k v).apg = s.apg := rfl
@[simp] theorem setPort_apgTab (k : Nat) (v : SubPort) : (s.setPort k v).apgTab = s.apgTab := rfl
@[simp] theorem setPort_chan (k : Nat) (v : SubPort) : (s.setPort k v).chan = s.chan := rfl
@[simp] theorem setPort_bank (k : Nat) (v : SubPort) : (s.setPort k v).bank = s.bank := rfl
@[simp] theorem setPort_bankQueue (k : Nat) (v : SubPort) : (s.setPort k v).bankQueue = s.bankQueue := rfl
@[simp] theorem setPort_bankLastStart (k : Nat) (v : SubPort) : (s.setPort k v).bankLastStart = s.bankLastStart := rfl
@[simp] theorem setPort_tss (k : Nat) (v : SubPort) : (s.setPort k v).tss = s.tss := rfl
@[simp] theorem setPort_cap (k : Nat) (v : SubPort) : (s.setPort k v).cap = s.cap := rfl
@[simp] theorem setPort_trg (k : Nat) (v : SubPort) : (s.setPort k v).trg = s.trg := rfl
@[simp] theorem setPort_align (k : Nat) (v : SubPort) : (s.setPort k v).align = s.align := rfl
@[simp] theorem setPort_merge (k : Nat) (v : SubPort) : (s.setPort k v).merge = s.merge := rfl
@[simp] theorem setPort_td (k : Nat) (v : SubPort) : (s.setPort k v).td = s.td := rfl
@[simp] theorem setPort_pair (k : Nat) (v : SubPort) : (s.setPort k v).pair = s.pair := rfl
@[simp] theorem setPort_sync (k : Nat) (v : SubPort) : (s.setPort k v).sync = s.sync := rfl
@[simp] theorem setPort_cal (k : Nat) (v : SubPort) : (s.setPort k v).cal = s.cal := rfl
@[simp] theorem setPort_fuse (k : Nat) (v : SubPort) : (s.setPort k v).fuse = s.fuse := rfl
@[simp] theorem setPort_zp (k : Nat) (v : SubPort) : (s.setPort k v).zp = s.zp := rfl
@[simp] theorem setPort_pl (k : Nat) (v : SubPort) : (s.setPort k v).pl = s.pl := rfl
@[simp] theorem setPort_pcie (k : Nat) (v : SubPort) : (s.setPort k v).pcie = s.pcie := rfl
@[simp] theorem setPort_hmc (k : Nat) (v : SubPort) : (s.setPort k v).hmc = s.hmc := rfl
@[simp] theorem setPort_we (k : Nat) (v : SubPort) : (s.setPort k v).we = s.we := rfl
@[simp] theorem setPort_ce (k : Nat) (v : SubPort) : (s.setPort k v).ce = s.ce := rfl
@[simp] theorem setPort_ms (k : Nat) (v : SubPort) : (s.setPort k v).ms = s.ms := rfl
@[simp] theorem setPort_ss (k : Nat) (v : SubPort) : (s.setPort k v).ss = s.ss := rfl
@[simp] theorem setPort_tim (k : Nat) (v : SubPort) : (s.setPort k v).tim = s.tim := rfl
@[simp] theorem setPort_mgt (k : Nat) (v : SubPort) : (s.setPort k v).mgt = s.mgt := rfl
@[simp] theorem setPort_seqAt (k j : Nat) (v : SubPort) : (s.setPort k v).seqAt j = s.seqAt j := rfl
@[simp] theorem setPort_apgAt (k j : Nat) (v : SubPort) : (s.setPort k v).apgAt j = s.apgAt j := rfl
@[simp] theorem setPort_chanAt (k j : Nat) (v : SubPort) : (s.setPort k v).chanAt j = s.chanAt j := rfl
@[simp] theorem setPort_bankAt (k j : Nat) (v : SubPort) : (s.setPort k v).bankAt j = s.bankAt j := rfl
@[simp] theorem setPort_capAt (k j : Nat) (v : SubPort) : (s.setPort k v).capAt j = s.capAt j := rfl
@[simp] theorem setPort_alignAt (k j : Nat) (v : SubPort) : (s.setPort k v).alignAt j = s.alignAt j := rfl
@[simp] theorem setPort_tdAt (k j : Nat) (v : SubPort) : (s.setPort k v).tdAt j = s.tdAt j := rfl
@[simp] theorem setPort_pairAt (k j : Nat) (v : SubPort) : (s.setPort k v).pairAt j = s.pairAt j := rfl
@[simp] theorem setPort_hdrAt (k j : Nat) (v : SubPort) : (s.setPort k v).hdrAt j = s.hdrAt j := rfl
@[simp] theorem setPort_zpAt (k j : Nat) (v : SubPort) : (s.setPort k v).zpAt j = s.zpAt j := rfl
@[simp] theorem setPort_plAt (k j : Nat) (v : SubPort) : (s.setPort k v).plAt j = s.plAt j := rfl
@[simp] theorem setPort_weAt (k j : Nat) (v : SubPort) : (s.setPort k v).weAt j = s.weAt j := rfl
@[simp] theorem setPort_ceAt (k j : Nat) (v : SubPort) : (s.setPort k v).ceAt j = s.ceAt j := rfl
@[simp] theorem setPort_msAt (k j : Nat) (v : SubPort) : (s.setPort k v).msAt j = s.msAt j := rfl
@[simp] theorem setPort_ssAt (k j : Nat) (v : SubPort) : (s.setPort k v).ssAt j = s.ssAt j := rfl
@[simp] theorem setPort_timAt (k j : Nat) (v : SubPort) : (s.setPort k v).timAt j = s.timAt j := rfl
@[simp] theorem setPort_unitAt (k j : Nat) (v : SubPort) : (s.setPort k v).unitAt j = s.unitAt j := rfl
@[simp] theorem setPort_pcAt (k j : Nat) (v : SubPort) : (s.setPort k v).pcAt j = s.pcAt j := rfl
@[simp] theorem setPort_hportAt (k j : Nat) (v : SubPort) : (s.setPort k v).hportAt j = s.hportAt j := rfl
@[simp] theorem setPort_stackAt (k j : Nat) (v : SubPort) : (s.setPort k v).stackAt j = s.stackAt j := rfl
@[simp] theorem setPort_taskAt (k j : Nat) (v : SubPort) : (s.setPort k v).taskAt j = s.taskAt j := rfl
@[simp] theorem setPort_execAt (k j : Nat) (v : SubPort) : (s.setPort k v).execAt j = s.execAt j := rfl
@[simp] theorem setPort_reg (k p o : Nat) (v : SubPort) : (s.setPort k v).reg p o = s.reg p o := rfl
@[simp] theorem setPort_regN (k p o : Nat) (v : SubPort) : (s.setPort k v).regN p o = s.regN p o := rfl
@[simp] theorem setPort_reg64 (k p o : Nat) (v : SubPort) : (s.setPort k v).reg64 p o = s.reg64 p o := rfl
@[simp] theorem setPort_ready (k p : Nat) (v : SubPort) : (s.setPort k v).ready p = s.ready p := rfl

/-! setReg -/
@[simp] theorem setReg_pending (p o : Nat) (v : Word32) : (s.setReg p o v).pending = s.pending := rfl
@[simp] theorem setReg_now (p o : Nat) (v : Word32) : (s.setReg p o v).now = s.now := rfl
@[simp] theorem setReg_freeCtr (p o : Nat) (v : Word32) : (s.setReg p o v).freeCtr = s.freeCtr := rfl
@[simp] theorem setReg_outbox (p o : Nat) (v : Word32) : (s.setReg p o v).outbox = s.outbox := rfl
@[simp] theorem setReg_hostOut (p o : Nat) (v : Word32) : (s.setReg p o v).hostOut = s.hostOut := rfl
@[simp] theorem setReg_hdr (p o : Nat) (v : Word32) : (s.setReg p o v).hdr = s.hdr := rfl
@[simp] theorem setReg_redo (p o : Nat) (v : Word32) : (s.setReg p o v).redo = s.redo := rfl
@[simp] theorem setReg_msixOn (p o : Nat) (v : Word32) : (s.setReg p o v).msixOn = s.msixOn := rfl
@[simp] theorem setReg_msixPend (p o : Nat) (v : Word32) : (s.setReg p o v).msixPend = s.msixPend := rfl
@[simp] theorem setReg_pcieHeld (p o : Nat) (v : Word32) : (s.setReg p o v).pcieHeld = s.pcieHeld := rfl
@[simp] theorem setReg_latches (p o : Nat) (v : Word32) : (s.setReg p o v).latches = s.latches := rfl
@[simp] theorem setReg_hbm (p o : Nat) (v : Word32) : (s.setReg p o v).hbm = s.hbm := rfl
@[simp] theorem setReg_hbmBad (p o : Nat) (v : Word32) : (s.setReg p o v).hbmBad = s.hbmBad := rfl
@[simp] theorem setReg_hbmLost (p o : Nat) (v : Word32) : (s.setReg p o v).hbmLost = s.hbmLost := rfl
@[simp] theorem setReg_seq (p o : Nat) (v : Word32) : (s.setReg p o v).seq = s.seq := rfl
@[simp] theorem setReg_apg (p o : Nat) (v : Word32) : (s.setReg p o v).apg = s.apg := rfl
@[simp] theorem setReg_apgTab (p o : Nat) (v : Word32) : (s.setReg p o v).apgTab = s.apgTab := rfl
@[simp] theorem setReg_chan (p o : Nat) (v : Word32) : (s.setReg p o v).chan = s.chan := rfl
@[simp] theorem setReg_bank (p o : Nat) (v : Word32) : (s.setReg p o v).bank = s.bank := rfl
@[simp] theorem setReg_bankQueue (p o : Nat) (v : Word32) : (s.setReg p o v).bankQueue = s.bankQueue := rfl
@[simp] theorem setReg_bankLastStart (p o : Nat) (v : Word32) : (s.setReg p o v).bankLastStart = s.bankLastStart := rfl
@[simp] theorem setReg_tss (p o : Nat) (v : Word32) : (s.setReg p o v).tss = s.tss := rfl
@[simp] theorem setReg_cap (p o : Nat) (v : Word32) : (s.setReg p o v).cap = s.cap := rfl
@[simp] theorem setReg_trg (p o : Nat) (v : Word32) : (s.setReg p o v).trg = s.trg := rfl
@[simp] theorem setReg_align (p o : Nat) (v : Word32) : (s.setReg p o v).align = s.align := rfl
@[simp] theorem setReg_merge (p o : Nat) (v : Word32) : (s.setReg p o v).merge = s.merge := rfl
@[simp] theorem setReg_td (p o : Nat) (v : Word32) : (s.setReg p o v).td = s.td := rfl
@[simp] theorem setReg_pair (p o : Nat) (v : Word32) : (s.setReg p o v).pair = s.pair := rfl
@[simp] theorem setReg_sync (p o : Nat) (v : Word32) : (s.setReg p o v).sync = s.sync := rfl
@[simp] theorem setReg_cal (p o : Nat) (v : Word32) : (s.setReg p o v).cal = s.cal := rfl
@[simp] theorem setReg_fuse (p o : Nat) (v : Word32) : (s.setReg p o v).fuse = s.fuse := rfl
@[simp] theorem setReg_sch (p o : Nat) (v : Word32) : (s.setReg p o v).sch = s.sch := rfl
@[simp] theorem setReg_zp (p o : Nat) (v : Word32) : (s.setReg p o v).zp = s.zp := rfl
@[simp] theorem setReg_pl (p o : Nat) (v : Word32) : (s.setReg p o v).pl = s.pl := rfl
@[simp] theorem setReg_pcie (p o : Nat) (v : Word32) : (s.setReg p o v).pcie = s.pcie := rfl
@[simp] theorem setReg_hmc (p o : Nat) (v : Word32) : (s.setReg p o v).hmc = s.hmc := rfl
@[simp] theorem setReg_we (p o : Nat) (v : Word32) : (s.setReg p o v).we = s.we := rfl
@[simp] theorem setReg_ce (p o : Nat) (v : Word32) : (s.setReg p o v).ce = s.ce := rfl
@[simp] theorem setReg_ms (p o : Nat) (v : Word32) : (s.setReg p o v).ms = s.ms := rfl
@[simp] theorem setReg_ss (p o : Nat) (v : Word32) : (s.setReg p o v).ss = s.ss := rfl
@[simp] theorem setReg_tim (p o : Nat) (v : Word32) : (s.setReg p o v).tim = s.tim := rfl
@[simp] theorem setReg_mgt (p o : Nat) (v : Word32) : (s.setReg p o v).mgt = s.mgt := rfl
@[simp] theorem setReg_seqAt (p o j : Nat) (v : Word32) : (s.setReg p o v).seqAt j = s.seqAt j := rfl
@[simp] theorem setReg_apgAt (p o j : Nat) (v : Word32) : (s.setReg p o v).apgAt j = s.apgAt j := rfl
@[simp] theorem setReg_chanAt (p o j : Nat) (v : Word32) : (s.setReg p o v).chanAt j = s.chanAt j := rfl
@[simp] theorem setReg_bankAt (p o j : Nat) (v : Word32) : (s.setReg p o v).bankAt j = s.bankAt j := rfl
@[simp] theorem setReg_capAt (p o j : Nat) (v : Word32) : (s.setReg p o v).capAt j = s.capAt j := rfl
@[simp] theorem setReg_alignAt (p o j : Nat) (v : Word32) : (s.setReg p o v).alignAt j = s.alignAt j := rfl
@[simp] theorem setReg_tdAt (p o j : Nat) (v : Word32) : (s.setReg p o v).tdAt j = s.tdAt j := rfl
@[simp] theorem setReg_pairAt (p o j : Nat) (v : Word32) : (s.setReg p o v).pairAt j = s.pairAt j := rfl
@[simp] theorem setReg_hdrAt (p o j : Nat) (v : Word32) : (s.setReg p o v).hdrAt j = s.hdrAt j := rfl
@[simp] theorem setReg_zpAt (p o j : Nat) (v : Word32) : (s.setReg p o v).zpAt j = s.zpAt j := rfl
@[simp] theorem setReg_plAt (p o j : Nat) (v : Word32) : (s.setReg p o v).plAt j = s.plAt j := rfl
@[simp] theorem setReg_weAt (p o j : Nat) (v : Word32) : (s.setReg p o v).weAt j = s.weAt j := rfl
@[simp] theorem setReg_ceAt (p o j : Nat) (v : Word32) : (s.setReg p o v).ceAt j = s.ceAt j := rfl
@[simp] theorem setReg_msAt (p o j : Nat) (v : Word32) : (s.setReg p o v).msAt j = s.msAt j := rfl
@[simp] theorem setReg_ssAt (p o j : Nat) (v : Word32) : (s.setReg p o v).ssAt j = s.ssAt j := rfl
@[simp] theorem setReg_timAt (p o j : Nat) (v : Word32) : (s.setReg p o v).timAt j = s.timAt j := rfl
@[simp] theorem setReg_unitAt (p o j : Nat) (v : Word32) : (s.setReg p o v).unitAt j = s.unitAt j := rfl
@[simp] theorem setReg_pcAt (p o j : Nat) (v : Word32) : (s.setReg p o v).pcAt j = s.pcAt j := rfl
@[simp] theorem setReg_hportAt (p o j : Nat) (v : Word32) : (s.setReg p o v).hportAt j = s.hportAt j := rfl
@[simp] theorem setReg_stackAt (p o j : Nat) (v : Word32) : (s.setReg p o v).stackAt j = s.stackAt j := rfl
@[simp] theorem setReg_taskAt (p o j : Nat) (v : Word32) : (s.setReg p o v).taskAt j = s.taskAt j := rfl
@[simp] theorem setReg_execAt (p o j : Nat) (v : Word32) : (s.setReg p o v).execAt j = s.execAt j := rfl
@[simp] theorem setReg_portAt (p o j : Nat) (v : Word32) : (s.setReg p o v).portAt j = s.portAt j := rfl
@[simp] theorem setReg_ready (p o j : Nat) (v : Word32) : (s.setReg p o v).ready j = s.ready j := rfl

/-- A register read after a register write: the written word at its place. -/
theorem setReg_reg (p o p2 o2 : Nat) (v : Word32) :
    (s.setReg p o v).reg p2 o2 = if p2 * 0x1000 + o2 = p * 0x1000 + o then v else s.reg p2 o2 :=
  sget_sput _ _ _ _ _

end Sys2Proof.Machine
end

