-- ==== Sys2Proof/Laws/Memory.lean ====
section
/-! SUPPORT. Laws of the memories: a read after a write, and that every memory operation keeps the canonical form, for the
byte memories of the work engines (`Memory.wf`) and for HBM (`State.hbmWf`). -/
namespace Sys2Proof.Machine

/-! ### Sorted maps -/

theorem keysRise_iff {α : Type} (m : Sparse α) : keysRise m = true ↔ m.Pairwise (fun a b => a.1 < b.1) := by
  induction m with
  | nil => simp [keysRise]
  | cons a t ih =>
    cases t with
    | nil => simp [keysRise]
    | cons b t =>
      simp only [keysRise, Bool.and_eq_true, decide_eq_true_eq, ih]
      rw [List.pairwise_cons (a := a)]
      constructor
      · rintro ⟨h, hp⟩
        refine ⟨fun c hc => ?_, hp⟩
        rcases List.mem_cons.1 hc with rfl | hc
        · exact h
        · exact Nat.lt_trans h ((List.pairwise_cons.1 hp).1 c hc)
      · exact fun ⟨h, hp⟩ => ⟨h b (List.mem_cons_self ..), hp⟩

/-- Filtering keeps the keys rising. -/
theorem keysRise_filter {α : Type} (m : Sparse α) (p : Nat × α → Bool) (h : keysRise m = true) :
    keysRise (m.filter p) = true := by
  rw [keysRise_iff] at *; exact h.filter p

/-- What a store may list: the entry stored or an old one. -/
theorem mem_sput {α : Type} (m : Sparse α) (k : Nat) (v : α) (e : Nat × α) (h : e ∈ sput m k v) : e = (k, v) ∨ e ∈ m := by
  induction m with
  | nil => simpa [sput] using h
  | cons b t ih =>
    obtain ⟨k', v'⟩ := b
    by_cases h1 : k = k'
    · simp only [sput, h1, if_true, List.mem_cons] at h ⊢
      tauto
    · by_cases h2 : k < k'
      · simp only [sput, h1, h2, if_true, if_false, List.mem_cons] at h ⊢
        tauto
      · simp only [sput, h1, h2, if_false, List.mem_cons] at h ⊢
        tauto

/-- A store keeps the keys rising. -/
theorem keysRise_sput {α : Type} (m : Sparse α) (k : Nat) (v : α) (h : keysRise m = true) : keysRise (sput m k v) = true := by
  rw [keysRise_iff] at *
  induction m with
  | nil => simp [sput]
  | cons b t ih =>
    obtain ⟨k', v'⟩ := b
    obtain ⟨hb, ht⟩ := List.pairwise_cons.1 h
    by_cases h1 : k = k'
    · subst h1; simp only [sput, if_true]; exact List.pairwise_cons.2 ⟨hb, ht⟩
    · by_cases h2 : k < k'
      · simp only [sput, h1, h2, if_true, if_false]
        refine List.pairwise_cons.2 ⟨fun c hc => ?_, h⟩
        rcases List.mem_cons.1 hc with rfl | hc
        · exact h2
        · exact Nat.lt_trans h2 (hb c hc)
      · simp only [sput, h1, h2, if_false]
        refine List.pairwise_cons.2 ⟨fun c hc => ?_, ih ht⟩
        rcases mem_sput t k v c hc with rfl | hc
        · simp only; omega
        · exact hb c hc

/-- A read after a drop: the default at its key, the old value elsewhere. -/
theorem sget_sdel {α : Type} (d : α) (m : Sparse α) (k j : Nat) :
    sget d (sdel m k) j = if j = k then d else sget d m j := by
  induction m with
  | nil => simp [sdel, sget]
  | cons b t ih =>
    obtain ⟨k', v'⟩ := b
    unfold sdel at *
    by_cases h : k' = k
    · subst h
      rw [List.filter_cons_of_neg (by simp), ih]
      by_cases hj : j = k'
      · simp [hj]
      · simp [sget, hj, Ne.symm hj]
    · rw [List.filter_cons_of_pos (by simpa using h), sget, ih, sget]
      by_cases hj : j = k
      · subst hj; simp [h]
      · simp [hj]

/-! ### Byte memories -/

/-- The byte written at its address, the old byte elsewhere. -/
theorem mget_mput (m : List Host.Cell) (a : Nat) (b : Byte) (k : Nat) : mget (mput m a b) k = if k = a then b else mget m k := by
  unfold mget mput
  by_cases h : b = blankByte
  · simp only [h, if_true]; exact sget_sdel _ _ _ _
  · simp only [h, if_false]; exact sget_sput _ _ _ _ _

theorem mput_wf (m : List Host.Cell) (a : Nat) (b : Byte) (h : Memory.wf m = true) : Memory.wf (mput m a b) = true := by
  simp only [Memory.wf, Bool.and_eq_true, List.all_eq_true, bne_iff_ne] at *
  unfold mput
  by_cases hb : b = blankByte
  · simp only [hb, if_true, sdel]
    exact ⟨keysRise_filter _ _ h.1, fun e he => h.2 e (List.mem_of_mem_filter he)⟩
  · simp only [hb, if_false]
    refine ⟨keysRise_sput _ _ _ h.1, fun e he => ?_⟩
    rcases mem_sput _ _ _ _ he with rfl | he
    · exact hb
    · exact h.2 e he

theorem mwrite_wf (l : List Byte) : ∀ (m : List Host.Cell) (a : Nat), Memory.wf m = true → Memory.wf (mwrite m a l) = true := by
  induction l with
  | nil => exact fun m a h => h
  | cons b t ih => exact fun m a h => ih _ _ (mput_wf m a b h)

/-- Bytes outside the written range read as before. -/
theorem mget_mwrite_outside (l : List Byte) : ∀ (m : List Host.Cell) (a k : Nat), k < a ∨ a + l.length ≤ k →
    mget (mwrite m a l) k = mget m k := by
  induction l with
  | nil => intros; rfl
  | cons b t ih =>
    intro m a k h
    simp only [List.length_cons] at h
    rw [mwrite, ih _ _ _ (by omega), mget_mput, if_neg (by omega)]

/-! ### HBM -/

variable (s : State)

@[simp] theorem hbmSet_hbmLost (k : Nat) (b : Byte) : (s.hbmSet k b).hbmLost = s.hbmLost := rfl
@[simp] theorem hbmSet_blank (k j : Nat) (b : Byte) : (s.hbmSet k b).hbmBlank j = s.hbmBlank j := rfl
@[simp] theorem hbmSet_part (k p : Nat) (b : Byte) : (s.hbmSet k b).part p = s.part p := rfl
@[simp] theorem hbmSet_locate (k a : Nat) (b : Byte) : (s.hbmSet k b).locate a = s.locate a := rfl

/-- The byte stored at its key, the old byte elsewhere. -/
theorem hbmGet_hbmSet (k j : Nat) (b : Byte) : (s.hbmSet k b).hbmGet j = if j = k then b else s.hbmGet j := by
  unfold State.hbmGet
  rw [hbmSet_blank]
  unfold State.hbmSet
  by_cases h : b = s.hbmBlank k
  · simp only [h, if_true, sget_sdel]
    by_cases hj : j = k <;> simp [hj]
  · simp only [h, if_false]; exact sget_sput _ _ _ _ _

theorem hbmSet_wf (k : Nat) (b : Byte) (h : s.hbmWf = true) : (s.hbmSet k b).hbmWf = true := by
  simp only [State.hbmWf, Bool.and_eq_true, List.all_eq_true, bne_iff_ne, hbmSet_blank] at *
  unfold State.hbmSet
  by_cases hb : b = s.hbmBlank k
  · simp only [hb, if_true, sdel]
    exact ⟨keysRise_filter _ _ h.1, fun e he => h.2 e (List.mem_of_mem_filter he)⟩
  · simp only [hb, if_false]
    refine ⟨keysRise_sput _ _ _ h.1, fun e he => ?_⟩
    rcases mem_sput _ _ _ _ he with rfl | he
    · exact hb
    · exact h.2 e he

theorem hbmLose_wf (pc : Nat) (h : s.hbmWf = true) : (s.hbmLose pc).hbmWf = true := by
  simp only [State.hbmWf, Bool.and_eq_true, List.all_eq_true, bne_iff_ne] at *
  refine ⟨keysRise_filter _ _ h.1, fun e he => ?_⟩
  obtain ⟨he, hp⟩ := List.mem_filter.1 he
  have hn : e.1 / pcBytes ≠ pc := by simpa using hp
  have hb : (s.hbmLose pc).hbmBlank e.1 = s.hbmBlank e.1 := by
    simp only [State.hbmBlank, State.hbmLose, sget_sput, if_neg hn]
  rw [hb]; exact h.2 e he

theorem hbmLoseAll_wf : s.hbmLoseAll.hbmWf = true := rfl

theorem hbmPut_wf (a : Nat) (b : Byte) (h : s.hbmWf = true) : (s.hbmPut a b).hbmWf = true := by
  unfold State.hbmPut
  split
  · exact hbmSet_wf s _ b h
  · exact h

theorem hbmWrite_wf (l : List Byte) : ∀ (s : State) (a : Nat), s.hbmWf = true → (s.hbmWrite a l).hbmWf = true := by
  induction l with
  | nil => exact fun s a h => h
  | cons b t ih => exact fun s a h => ih _ _ (hbmPut_wf s a b h)

theorem hbmWriteSome_wf (l : List Byte) : ∀ (s : State) (a : Nat), s.hbmWf = true → (s.hbmWriteSome a l).hbmWf = true := by
  induction l with
  | nil => exact fun s a h => h
  | cons b t ih =>
    intro s a h
    unfold State.hbmWriteSome
    split
    · exact ih _ _ (hbmPut_wf s a b h)
    · exact ih _ _ h

theorem hbmWriteReq_wf (a : Nat) (l : List Byte) (res : HbmStatus) (h : s.hbmWf = true) :
    (s.hbmWriteReq a l res).2.hbmWf = true := by
  unfold State.hbmWriteReq
  dsimp only
  split
  · split
    · exact hbmWrite_wf l _ a h
    · exact hbmWriteSome_wf l _ a h
  · exact h

@[simp] theorem hbmPut_locate (a x : Nat) (b : Byte) : (s.hbmPut a b).locate x = s.locate x := by
  unfold State.hbmPut; split <;> rfl

/-- A write changes no byte but those of the addresses it covers. -/
theorem hbmWrite_storesOnly (l : List Byte) : ∀ (s : State) (a : Nat), StoresOnly a l.length s (s.hbmWrite a l) := by
  induction l with
  | nil => exact fun s a k h => rfl
  | cons b t ih =>
    intro s a k h
    rw [State.hbmWrite, ih (s.hbmPut a b) (a + 1) k]
    · unfold State.hbmPut
      split
      · rename_i x hx
        rw [hbmGet_hbmSet, if_neg (Ne.symm (h 0 (by simp) x (by simpa using hx)))]
      · rfl
    · intro j hj x hx
      rw [hbmPut_locate] at hx
      exact h (j + 1) (by simpa using hj) x (by rw [← hx]; congr 1; omega)

/-- Reset's HBM and every engine's local memory at reset are canonical. -/
theorem reset_hbmWf : State.reset.hbmWf = true := rfl
theorem reset_lmWf (e : Nat) : Memory.wf (State.reset.weAt e).lm = true := rfl

end Sys2Proof.Machine
end

