-- ==== Sys2Proof/Laws/Ops.lean ====
section
/-! SUPPORT. Laws of the shared operations: for each one lemma that says which fields of the state it can change (its frame),
and where a statement reads a field it changes, the value left there. -/
namespace Sys2Proof.Machine

variable (s : State)

/-- States that agree field by field are equal. -/
theorem stateExt {a b : State} (h0 : a.pending = b.pending) (h1 : a.now = b.now) (h2 : a.freeCtr = b.freeCtr)
    (h3 : a.outbox = b.outbox) (h4 : a.hostOut = b.hostOut) (h5 : a.hdr = b.hdr) (h6 : a.redo = b.redo)
    (h7 : a.msixOn = b.msixOn) (h8 : a.msixPend = b.msixPend) (h9 : a.pcieHeld = b.pcieHeld) (h10 : a.regs = b.regs)
    (h11 : a.latches = b.latches) (h12 : a.hbm = b.hbm) (h13 : a.hbmBad = b.hbmBad) (h14 : a.hbmLost = b.hbmLost)
    (h15 : a.seq = b.seq) (h16 : a.apg = b.apg) (h17 : a.apgTab = b.apgTab) (h18 : a.chan = b.chan)
    (h19 : a.bank = b.bank) (h20 : a.bankQueue = b.bankQueue) (h21 : a.bankLastStart = b.bankLastStart)
    (h22 : a.tss = b.tss) (h23 : a.cap = b.cap) (h24 : a.trg = b.trg) (h25 : a.align = b.align)
    (h26 : a.merge = b.merge) (h27 : a.td = b.td) (h28 : a.pair = b.pair) (h29 : a.sync = b.sync)
    (h30 : a.cal = b.cal) (h31 : a.fuse = b.fuse) (h32 : a.sch = b.sch) (h33 : a.zp = b.zp) (h34 : a.pl = b.pl)
    (h35 : a.pcie = b.pcie) (h36 : a.hmc = b.hmc) (h37 : a.we = b.we) (h38 : a.ce = b.ce) (h39 : a.ms = b.ms)
    (h40 : a.ss = b.ss) (h41 : a.tim = b.tim) (h42 : a.mgt = b.mgt) : a = b := by
  cases a; cases b; simp only at *; subst_vars; rfl

/-! ### Lists visited in order -/

@[simp] theorem foldState_nil {α : Type} (f : α → State → State) : foldState [] f s = s := rfl
@[simp] theorem foldState_cons {α : Type} (a : α) (l : List α) (f : α → State → State) :
    foldState (a :: l) f s = foldState l f (f a s) := rfl

/-- What every visit keeps, the whole fold keeps. -/
theorem foldState_keeps {α : Type} (P : State → Prop) (f : α → State → State) (hf : ∀ a s, P s → P (f a s)) :
    ∀ (l : List α) (s : State), P s → P (foldState l f s) := by
  intro l
  induction l with
  | nil => exact fun s h => h
  | cons a l ih => exact fun s h => ih _ (hf a s h)

/-! ### Messages to the host -/

theorem send_frame (m : OutMsg) : s.send m = { s with outbox := (s.send m).outbox, pcieHeld := (s.send m).pcieHeld } := by
  unfold State.send; split <;> (try split) <;> rfl

theorem signal_frame (v : Nat) :
    s.signal v = { s with outbox := (s.signal v).outbox, pcieHeld := (s.signal v).pcieHeld, msixPend := (s.signal v).msixPend } := by
  unfold State.signal
  split
  · rw [send_frame]
  · rfl

theorem rise_frame (p : Nat) :
    s.rise p = { s with outbox := (s.rise p).outbox, pcieHeld := (s.rise p).pcieHeld, msixPend := (s.rise p).msixPend } := by
  unfold State.rise
  split
  · exact signal_frame s _
  · rfl

/-! ### Page headers -/

@[simp] theorem rise_hdrAt (p j : Nat) : (s.rise p).hdrAt j = s.hdrAt j := by rw [rise_frame]; rfl

@[simp] theorem rise_hdr (p : Nat) : (s.rise p).hdr = s.hdr := by rw [rise_frame]

/-- An event changes the header of its page, and where the page's summary rises it sends the routed message as well. -/
theorem raiseEvt_cases (p : Nat) (b : Word32) : ∃ v : PageHdr, v.evtRaw = (s.hdrAt p).evtRaw ||| b ∧
    (s.raiseEvt p b = s.setHdr p v ∨ s.raiseEvt p b = (s.setHdr p v).rise p) := by
  unfold State.raiseEvt
  dsimp only
  refine ⟨_, ?_, (em _).symm.imp (fun h => if_neg h) (fun h => if_pos h)⟩
  rfl

theorem raiseEvt_frame (p : Nat) (b : Word32) :
    s.raiseEvt p b = { s with hdr := (s.raiseEvt p b).hdr, outbox := (s.raiseEvt p b).outbox,
                              pcieHeld := (s.raiseEvt p b).pcieHeld, msixPend := (s.raiseEvt p b).msixPend } := by
  obtain ⟨v, -, h | h⟩ := raiseEvt_cases s p b
  · rw [h]; rfl
  · rw [h, rise_hdr]; conv_lhs => rw [rise_frame]
    rfl

/-- The bits of an event are set, on its own page. -/
theorem raiseEvt_raw (p j : Nat) (b : Word32) :
    ((s.raiseEvt p b).hdrAt j).evtRaw = if j = p then (s.hdrAt p).evtRaw ||| b else (s.hdrAt j).evtRaw := by
  obtain ⟨v, hv, h | h⟩ := raiseEvt_cases s p b <;> rw [h] <;> simp only [rise_hdrAt, setHdr_hdrAt] <;> split <;> simp [hv]

theorem raiseEvt_mgtOnly (p : Nat) (b : Word32) : MgtOnly s (s.raiseEvt p b) := by
  unfold MgtOnly; rw [raiseEvt_frame]

@[simp] theorem raiseEvt_mgt (p : Nat) (b : Word32) : (s.raiseEvt p b).mgt = s.mgt := by rw [raiseEvt_frame]
@[simp] theorem raiseEvt_now (p : Nat) (b : Word32) : (s.raiseEvt p b).now = s.now := by rw [raiseEvt_frame]

theorem recordErr_frame (p : Nat) (c : BitVec 16) (i : Word32) :
    s.recordErr p c i = { s with hdr := (s.recordErr p c i).hdr } := by
  unfold State.recordErr; dsimp only; split <;> rfl

theorem recordErr_other (p j : Nat) (c : BitVec 16) (i : Word32) (h : j ≠ p) : (s.recordErr p c i).hdrAt j = s.hdrAt j := by
  unfold State.recordErr; dsimp only; split <;> simp [h]

/-- An error leaves ERROR set, and where it was clear and nothing of this cycle stood recorded, code and info are its own. -/
theorem recordErr_sets (p : Nat) (c : BitVec 16) (i : Word32) : ((s.recordErr p c i).hdrAt p).error = true := by
  unfold State.recordErr
  dsimp only
  split
  · simp
  · simp only [setHdr_hdrAt, if_true]; simp_all

theorem recordErr_first (p : Nat) (c : BitVec 16) (i : Word32) (h : (s.hdrAt p).error = false) (hc : (s.hdrAt p).errCyc = none) :
    (s.recordErr p c i).hdrAt p =
      { s.hdrAt p with error := true, errCode := c, errInfo := i, errEdge := s.now + 1, errCyc := some (s.now, c, i) } := by
  unfold State.recordErr
  simp [h, hc]

/-- While ERROR stands from an earlier cycle, code and info stay. -/
theorem recordErr_keeps (p : Nat) (c : BitVec 16) (i : Word32) (h : (s.hdrAt p).error = true)
    (he : (s.hdrAt p).errEdge ≠ s.now + 1) :
    ((s.recordErr p c i).hdrAt p).errCode = (s.hdrAt p).errCode ∧ ((s.recordErr p c i).hdrAt p).errInfo = (s.hdrAt p).errInfo := by
  unfold State.recordErr
  simp [h, he]

theorem pageResetDone_frame (p : Nat) : s.pageResetDone p = { s with hdr := (s.pageResetDone p).hdr } := rfl

/-- A write of a page that is not READY changes nothing, but in the cycle of its SOFT_RESET, after which the reset acts once
more; while it is READY the write takes effect (R386). -/
theorem whenReady_cases (p : Nat) (f : State → State) :
    (s.ready p = true ∧ s.whenReady p f = f s) ∨
    (s.ready p = false ∧ s.resetNow p = true ∧ s.whenReady p f = f (s.redoReset p)) ∨
    (s.ready p = false ∧ s.resetNow p = false ∧ s.whenReady p f = s) := by
  unfold State.whenReady
  cases h : s.ready p <;> cases h' : s.resetNow p <;> simp

theorem redoReset_frame (p : Nat) : s.redoReset p = { s with redo := (s.redoReset p).redo } := by
  unfold State.redoReset; split <;> rfl
/-- No other write needs the reset again outside the cycle of the SOFT_RESET. -/
@[simp] theorem redoReset_ready (p : Nat) (h : s.ready p = true) : s.redoReset p = s := by
  unfold State.redoReset State.resetNow
  unfold State.ready at h
  simp_all

/-! ### Free values -/

theorem fresh_frame (w : Nat) : (s.fresh w).2 = { s with freeCtr := s.freeCtr + 1 } := rfl
theorem freshBytes_frame (n : Nat) : (s.freshBytes n).2 = { s with freeCtr := s.freeCtr + n } := rfl
@[simp] theorem freshBytes_length (n : Nat) : (s.freshBytes n).1.length = n := by simp [State.freshBytes]

/-! ### Frames and messages to partners -/

theorem peFrame_frame (j ftype : Nat) (l : List Word32) :
    s.peFrame j ftype l = { s with pl := (s.peFrame j ftype l).pl, outbox := (s.peFrame j ftype l).outbox } := rfl
theorem peCtrl_frame (j : Nat) (op : PeOp) :
    s.peCtrl j op = { s with pl := (s.peCtrl j op).pl, outbox := (s.peCtrl j op).outbox } := rfl
theorem zpTransmit_frame (p : Nat) (m : ZpMsg) :
    s.zpTransmit p m = { s with zp := (s.zpTransmit p m).zp, outbox := (s.zpTransmit p m).outbox } := rfl
theorem zpSend_frame (p : Nat) (m : ZpMsg) :
    s.zpSend p m = { s with zp := (s.zpSend p m).zp, outbox := (s.zpSend p m).outbox } := by
  unfold State.zpSend; dsimp only; split <;> rfl

theorem zpDrain_frame (p : Nat) : ∀ (n : Nat) (s : State),
    s.zpDrain p n = { s with zp := (s.zpDrain p n).zp, outbox := (s.zpDrain p n).outbox } := by
  intro n
  induction n with
  | zero => exact fun s => rfl
  | succ n ih =>
    intro s
    unfold State.zpDrain
    dsimp only
    split
    · split
      · rw [ih, zpTransmit_frame]; rfl
      · rfl
    · rfl

/-! ### Requests to HBM, conditions and flags -/

theorem portRefuses_frame (q : Nat) : s.portRefuses q = { s with hmc := (s.portRefuses q).hmc } := rfl

theorem hbmSet_frame (k : Nat) (b : Byte) : s.hbmSet k b = { s with hbm := (s.hbmSet k b).hbm } := rfl

theorem hbmPut_frame (a : Nat) (b : Byte) : s.hbmPut a b = { s with hbm := (s.hbmPut a b).hbm } := by
  unfold State.hbmPut; split <;> rfl

theorem hbmWrite_frame (l : List Byte) : ∀ (s : State) (a : Nat), s.hbmWrite a l = { s with hbm := (s.hbmWrite a l).hbm } := by
  induction l with
  | nil => exact fun s a => rfl
  | cons b t ih => intro s a; rw [State.hbmWrite, ih, hbmPut_frame]

theorem hbmWriteSome_frame (l : List Byte) :
    ∀ (s : State) (a : Nat), s.hbmWriteSome a l = { s with hbm := (s.hbmWriteSome a l).hbm } := by
  induction l with
  | nil => exact fun s a => rfl
  | cons b t ih =>
    intro s a
    rw [State.hbmWriteSome, ih]
    split
    · rw [hbmPut_frame]
    · rfl

/-- A write request changes the bytes and the uncorrectable marks of HBM and nothing else. -/
theorem hbmWriteReq_frame (a : Nat) (l : List Byte) (res : HbmStatus) :
    (s.hbmWriteReq a l res).2 = { s with hbm := (s.hbmWriteReq a l res).2.hbm, hbmBad := (s.hbmWriteReq a l res).2.hbmBad } := by
  unfold State.hbmWriteReq
  dsimp only
  split
  · split
    · rw [hbmWrite_frame]; rfl
    · rw [hbmWriteSome_frame]; rfl
  · rfl

/-- A write that the controller does not report OK changes nothing (assumption 110). -/
theorem hbmWriteReq_not_ok (a : Nat) (l : List Byte) (res : HbmStatus) (h : res ≠ .ok) : (s.hbmWriteReq a l res).2 = s := by
  unfold State.hbmWriteReq
  cases res <;> first | exact absurd rfl h | rfl

theorem cond_frame (e : Nat) (c : CondEv) : s.cond e c = { s with trg := (s.cond e c).trg } := rfl

theorem flagOps_frame (a c : BitVec 8) (e : Nat) : s.flagOps a c e = { s with trg := (s.flagOps a c e).trg } := by
  unfold State.flagOps
  dsimp only
  refine foldState_keeps (fun t => t = { s with trg := t.trg }) _ ?_ _ _ rfl
  intro i t h; rw [h]; rfl

theorem pulse_frame (m : BitVec 4) (e : Nat) : s.pulse m e = { s with trg := (s.pulse m e).trg } := rfl

/-! ### Mailbox answers (R395) -/

theorem mgtOnly_trans {a b c : State} (h : MgtOnly a b) (h' : MgtOnly b c) : MgtOnly a c := by
  unfold MgtOnly at *; rw [h', h]
theorem mgtOnly_modMgt {a b : State} (h : MgtOnly a b) (f : Mgt → Mgt) : MgtOnly a (b.modMgt f) := by
  unfold MgtOnly at *; rw [h]; rfl

/-- An answer to the host, with nothing else waiting: the response stands in the mailbox. -/
theorem answer_host (r : MboxReq) (st : Nat) (pay : List Word32) (h : r.src = none) (hw : s.mgt.waiting = []) :
    MgtOnly s (s.answer r st pay) ∧ (s.answer r st pay).mgt = s.mgt.answered r st pay s.now := by
  unfold State.answer
  simp only [h]
  constructor
  · refine mgtOnly_trans (mgtOnly_modMgt ?_ _) (raiseEvt_mgtOnly _ _ _)
    split
    · exact raiseEvt_mgtOnly _ _ _
    · rfl
  · rw [raiseEvt_mgt]; split <;> simp [State.modMgt, Mgt.answered, respWords, hw]

theorem reject_nil (h : s.mgt.waiting = []) : s.reject = s := by
  unfold State.reject; rw [h]; rfl

/-- A command with its request in front takes it. -/
theorem takeReq_asked {c : Nat} {r : MboxReq} {s : State} (h : Asked c r s) (f : MboxReq → State → State) :
    takeReq c f s = .next ((f r (s.modMgt (fun m => { m with waiting := [] }))).reject) := by
  unfold takeReq; simp [h.head, h.agent, h.known, h.cmd, h.length, h.earlier]

end Sys2Proof.Machine
end

