-- ==== Sys2Proof/Tests/Slice0.lean ====
section
/-! SUPPORT. Tests: ill-formed commands that WellFormed refuses, single steps against values worked out from the spec, and for
every statement with hypotheses a concrete state that meets them, clause by clause (`wit_<statement>`). -/
namespace Sys2Proof.Machine

-- The tests are evaluated one after another, which bounds the memory they take together.
set_option Elab.async false

/-- Page headers of READY pages. -/
def upPages (l : List Nat) : Sparse PageHdr := l.map (fun p => (p, { up := true }))
/-- Partition entry 0 maps device addresses below 64 MiB one to one to pseudo-channel 0. -/
def part0 : Sparse Word32 := [(0xC0204, 1), (0xC0208, 1), (0xC0210, 0x80000000)]
/-- The bytes of numbers of `n` bytes from address 0 upward. -/
def cellsOf (n : Nat) (l : List Nat) : List Host.Cell :=
  ((l.flatMap (leBytes n)).zipIdx.map (fun x => (x.2, x.1))).filter (fun x => x.2 ≠ 0)

/-! ### Sequencers -/

/-- Sequencer 63 in a state, its page READY. -/
def wSeq (v : Seq) : State := { hdr := upPages [pgSeq 63], seq := [(63, v)] }
/-- A vector in flight. -/
def aVector : VecRec := { ord := 0, vc := 0 }

theorem wit_SequencerCommands :
    (∃ s : State, s.ready (pgSeq 63) = true ∧ (s.seqAt 63).inProgress = false) ∧
    (∃ s : State, s.ready (pgSeq 63) = true ∧ (s.seqAt 63).state = .done) ∧
    (∃ s : State, s.ready (pgSeq 63) = true ∧ (s.seqAt 63).state = .aborted) ∧
    (∃ s : State, s.ready (pgSeq 63) = true ∧ (s.seqAt 63).state = .faulted) ∧
    (∃ s : State, s.ready (pgSeq 63) = true ∧ (s.seqAt 63).state = .armed ∧ s.lockstep 63 = [63]) ∧
    (∃ s : State, s.ready (pgSeq 63) = true ∧ (s.seqAt 63).state = .hold ∧ (s.seqAt 63).ending = none) ∧
    (∃ s : State, s.ready (pgSeq 63) = true ∧ (s.seqAt 63).engaged = true ∧
      (((0x80000000 : Word32).zeroExtend 128 <<< (32 * 3)) &&& (s.seqAt 63).owned) ≠ 0) ∧
    (∃ s : State, s.lockstep 63 = [63] ∧ s.ready (pgSeq 63) = true ∧ (s.seqAt 63).state = .running ∧ (s.seqAt 63).ending = none ∧
      (s.seqAt 63).inflight ≠ [] ∧ s.groupOf 63 = none) ∧
    (∃ s : State, s.lockstep 63 = [63] ∧ (s.seqAt 63).state = .hold ∧ (s.seqAt 63).starveHold = true ∧ (s.seqAt 63).pauseHold = false ∧
      (s.seqAt 63).pausePend = false ∧ (s.seqAt 63).ending = none ∧ (s.reg (pgSeq 63) 0x200).getLsbD 28 = true ∧
      (s.seqAt 63).leadFull = true) :=
  ⟨⟨wSeq {}, by decide⟩, ⟨wSeq { state := .done }, by decide⟩, ⟨wSeq { state := .aborted }, by decide⟩,
   ⟨wSeq { state := .faulted }, by decide⟩, ⟨wSeq { state := .armed }, by decide⟩, ⟨wSeq { state := .hold }, by decide⟩,
   ⟨wSeq { state := .armed, owned := BitVec.twoPow 128 127 }, by decide⟩,
   ⟨wSeq { state := .running, inflight := [aVector] }, by decide⟩,
   ⟨{ wSeq { state := .hold, starveHold := true } with regs := [(0x13F200, 0x10044000)] }, by decide⟩⟩

/-- A version 2 cast at address 0: one channel (channel `ch`), 8 record bytes a vector, instructions at 128. -/
def castHeader (ch : Nat) : List Host.Cell :=
  cellsOf 4 [0, 2, 1, 0, 128, 0, 256, 0, 64, 0, 0x80001, 0, 64, 0, 0, 0, ch]

/-- The arm of sequencer 63 reads that cast; bank 0 is on or off. -/
def wArm (bank : Bank) : State :=
  { seq := [(63, { arming := .header })], hbm := castHeader 5, regs := part0, bank := [(0, bank)] }

/-- The arm check refuses, or accepts channels that no sequencer in progress holds. -/
def ArmCheck.refuses : ArmCheck → Bool
  | .refused _ _ => true
  | .ok _ => false
def ArmCheck.accepts (s : State) : ArmCheck → Bool
  | .refused _ _ => false
  | .ok c => !c.chans.any (fun ch => s.chanInUse ch)
theorem ArmCheck.of_refuses (r : ArmCheck) (h : r.refuses = true) : ∃ code info, r = .refused code info := by
  cases r with
  | refused c i => exact ⟨c, i, rfl⟩
  | ok c => cases h
theorem ArmCheck.of_accepts (s : State) (r : ArmCheck) (h : r.accepts s = true) :
    ∃ c, r = .ok c ∧ c.chans.any (fun ch => s.chanInUse ch) = false := by
  cases r with
  | refused c i => cases h
  | ok c => exact ⟨c, rfl, by simpa [ArmCheck.accepts] using h⟩

/-- An instruction word: opcode, and OPD. -/
def word (op opd : Nat) : Nat := op * 2 ^ 58 + opd
/-- It stands decoded at index 0. -/
def decoded (w : Nat) : Decoded := { idx := 0, word := BitVec.ofNat 64 w, seg := 0, off := 0, edge := 0 }

theorem wit_ArmingOfASequencer :
    (∃ s : State, (s.seqAt 63).arming = .header ∧ (s.seqAt 63).armEdge ≤ s.now ∧ ∃ code info, armCheck 63 .ok s = .refused code info) ∧
    (∃ s : State, (s.seqAt 63).arming = .header ∧ (s.seqAt 63).armEdge ≤ s.now ∧ ∃ c, armCheck 63 .ok s = .ok c ∧ c.chans.any (fun ch => s.chanInUse ch) = false) ∧
    (∃ s : State, (s.seqAt 63).arming = .prefill ∧ s.prefilled 63 = true ∧ (s.seqAt 63).ending = none ∧
      (∀ b < 16, (s.seqAt 63).usesBank b = true → (s.bankAt b).calBusy = false) ∧ s.peDown 63 = false ∧ startSrc s 63 ≠ 7) :=
  ⟨⟨wArm {}, by decide, by decide, ArmCheck.of_refuses _ (by decide +kernel)⟩,
   ⟨wArm { state := .on }, by decide, by decide, ArmCheck.of_accepts _ _ (by decide +kernel)⟩,
   ⟨{ pl := [(31, { state := .up })],
      seq := [(63, { arming := .prefill, cast := { map := [511] }, queue := [decoded (word 0x10 0)], vfs := { lead := { path := { pc := none } } } })] }, by decide +kernel⟩⟩

theorem wit_SequencerDataAndMarks :
    (∃ s : State, (s.seqAt 63).engaged = true ∧ (s.seqAt 63).arming ≠ .prefill ∧ (s.seqAt 63).resetPend = false ∧
      (s.seqAt 63).stalled = false ∧ (s.seqAt 63).jump = none ∧ (s.seqAt 63).vfs.lead.path.jif = none) ∧
    (∃ s : State, s.ready (pgSeq 63) = true ∧
      s.strmWrOf 63 ≤ (0x4000000 : Word32).toNat + 2 ^ 32 * s.regN (pgSeq 63) 0x224 ∧
      (0x4000000 : Word32).toNat + 2 ^ 32 * s.regN (pgSeq 63) 0x224 ≤ s.strmRelOf 63 + s.strmBytes 63) ∧
    (∃ (s : State) (m : Mark) (l : List Mark), (s.seqAt 63).marks = m :: l) ∧
    (∃ s : State, s.ready (pgSeq 63) = true ∧ (s.seqAt 63).state = .running ∧ (s.seqAt 63).jump = none ∧
      (s.setReg (pgSeq 63) 0x238 (BitVec.ofNat 32 3)).jumpUsable 63 3 = true) :=
  ⟨⟨wSeq { state := .armed }, by decide⟩, ⟨wSeq {}, by decide⟩, ⟨wSeq { marks := [{ id := 255, ts := 0 }] }, _, _, rfl⟩,
   ⟨wSeq { state := .running, cast := { version := 3, segCount := 1, jumpTgt := [1, 1, 1, 0] } }, by decide⟩⟩
/-! ### Pattern instructions -/

/-- A static vector held of instruction word `w`. -/
def heldOf (w : Nat) : Held := { seg := 0, off := 0, idx := 0, pos := 0, word := BitVec.ofNat 64 w, f4 := 0, s8 := 0, bad := none }

/-- Sequencer 63 RUNNING in cycle 1 with instruction word `w` decoded and its vectors held, under timing set 0 of a legal period. -/
def wPat (w : Nat) (v : Seq) : State :=
  { now := 1, tss := { headers := [(63, 4096)] },
    seq := [(63, { v with
      state := .running, cast := { version := 2, instrCount := 4 }, rotation := [0], queue := [decoded w],
      vfs := { lead := { vecs := [heldOf w, heldOf w], path := { pc := none } } } })] }

/-- The state behind the one vector of that instruction, with all that comes before its control action. -/
def endOf (w : Nat) (s : State) : State :=
  let b := ((s.beforeVector 63).startRun 63 (decoded w) []).beforeVector 63
  runEnd 63 (PatInstr.ofWord (decoded w).run.word) (decoded w).run (slotVector 63 (decoded w).run b)

/-- What `Takes` and `TakesOne` ask, one by one. -/
def Takeable (op w : Nat) (s : State) : Prop :=
  (s.seqAt 63).slotOpen s.now = true ∧ (s.seqAt 63).run = none ∧ (s.seqAt 63).waitUntil = none ∧ s.setStalled 63 = false ∧
  (s.seqAt 63).queue = [decoded w] ∧ (decoded w).edge < s.now ∧ (PatInstr.ofWord (decoded w).word).op = op ∧
  ((s.beforeVector 63).seqAt 63).slotOpen (s.beforeVector 63).now = true ∧
  faultKind ((s.beforeVector 63).seqAt 63).cast { (s.beforeVector 63).seqAt 63 with pc := 0 } (PatInstr.ofWord (decoded w).word) = none
def Ending (op w : Nat) (s : State) : Prop :=
  let b := (s.beforeVector 63).startRun 63 (decoded w) []
  let x := slotVector 63 (decoded w).run (b.beforeVector 63)
  (b.seqAt 63).run = some (decoded w).run ∧ b.slotDue 63 = true ∧
  ((b.beforeVector 63).seqAt 63).slotOpen (b.beforeVector 63).now = true ∧ (b.beforeVector 63).setLacks 63 = none ∧
  (x.seqAt 63).runPos = ((b.beforeVector 63).seqAt 63).runPos + 1 ∧ (decoded w).run.n = 1 ∧ (x.seqAt 63).runPos = 1 ∧
  (PatInstr.ofWord (decoded w).run.word).op = op ∧ ((endOf w s).seqAt 63).unended (endOf w s).now = true

theorem takes_of {op w : Nat} {s : State} (h : Takeable op w s) : Takes 63 op (decoded w) [] s :=
  ⟨h.1, h.2.1, h.2.2.1, h.2.2.2.1, h.2.2.2.2.1, h.2.2.2.2.2.1, h.2.2.2.2.2.2.1, h.2.2.2.2.2.2.2.1, h.2.2.2.2.2.2.2.2⟩
theorem takesOne_of {op w : Nat} {s : State} (h : Takeable op w s) (g : Ending op w s) : TakesOne 63 op (decoded w) s (endOf w s) :=
  ⟨g.2.2.2.2.2.1, [], takes_of h, ⟨⟨_, ⟨g.1, g.2.1, g.2.2.1, g.2.2.2.1, rfl, g.2.2.2.2.1⟩,
    g.2.2.2.2.2.2.1.trans g.2.2.2.2.2.1.symm, rfl⟩, g.2.2.2.2.2.2.2.1, g.2.2.2.2.2.2.2.2⟩⟩

/-- Behind an instruction of opcode `op` there is a state of property `P`. -/
def OneTaken (op : Nat) (P : State → Prop) : Prop := ∃ d s u, TakesOne 63 op d s u ∧ P u
theorem oneTaken (op w : Nat) (v : Seq) (P : State → Prop) (h : Takeable op w (wPat w v)) (g : Ending op w (wPat w v))
    (p : P (endOf w (wPat w v))) : OneTaken op P := ⟨_, _, _, takesOne_of h g, p⟩

theorem wit_PatternRunsGoOn :
    OneTaken opEmit (fun _ => True) ∧ OneTaken opRpt (fun _ => True) ∧ OneTaken opLoop (fun _ => True) ∧
    OneTaken opMark (fun _ => True) ∧ OneTaken opApg (fun _ => True) ∧ OneTaken opTset (fun _ => True) ∧
    OneTaken opSmask (fun _ => True) ∧
    (∃ (x : VecCtx) (r : Run) (h : Held) (f : Vfs) (s : State), x.fill = false ∧
      s.askLead x.q r x.off 0 true = .issue h f false ∧ periodLegal (hdrPeriod (s.tssHeader x.ts x.q)) = true) ∧
    (∃ (s : State) (l : LastVec), (s.seqAt 63).last = some l ∧ s.fillDue 63 = true ∧
      ((s.beforeVector 63).seqAt 63).slotOpen (s.beforeVector 63).now = true ∧
      periodLegal (hdrPeriod ((s.beforeVector 63).tssHeader l.ts 63)) = true) := by
  refine ⟨oneTaken _ (word 1 0) {} _ ?_ ?_ trivial, oneTaken _ (word 2 1) {} _ ?_ ?_ trivial, oneTaken _ (word 3 2) {} _ ?_ ?_ trivial,
    oneTaken _ (word 0xB 0xFFF8FFFF) {} _ ?_ ?_ trivial, oneTaken _ (word 0xD 0) {} _ ?_ ?_ trivial,
    oneTaken _ (word 0xC 3) {} _ ?_ ?_ trivial, oneTaken _ (word 0xE 0x8007FFFF) {} _ ?_ ?_ trivial, ?_, ?_⟩
  case refine_15 =>
    exact ⟨{ q := 63, instr := 0, seg := 0, off := 0, ts := 0 }, (decoded (word 1 0)).run, _, _, wPat (word 1 0) {}, rfl, rfl,
      by decide +kernel⟩
  case refine_16 =>
    exact ⟨{ wPat (word 1 0) { last := some { ts := 0, instr := 0, pos := 0 } } with now := 0 }, _, rfl, by decide +kernel⟩
  all_goals (first | unfold Takeable | unfold Ending) <;> decide +kernel
/-- An instruction of opcode `op` has been taken and its one vector issues: the state behind it is of property `P`. -/
def OneIssues (op : Nat) (P : Decoded → State → Prop) : Prop :=
  ∃ d s w, Takes 63 op d [] s ∧ Issues 63 d.run ((s.beforeVector 63).startRun 63 d []) w ∧ (w.seqAt 63).runPos = d.run.n ∧ P d w
def vectorOf (w : Nat) (s : State) : State :=
  slotVector 63 (decoded w).run (((s.beforeVector 63).startRun 63 (decoded w) []).beforeVector 63)
theorem oneIssues (op w : Nat) (v : Seq) (P : Decoded → State → Prop) (h : Takeable op w (wPat w v)) (g : Ending op w (wPat w v))
    (p : P (decoded w) (vectorOf w (wPat w v))) : OneIssues op P :=
  ⟨_, _, _, takes_of h, ⟨g.1, g.2.1, g.2.2.1, g.2.2.2.1, rfl, g.2.2.2.2.1⟩, g.2.2.2.2.2.2.1.trans g.2.2.2.2.2.1.symm, p⟩

/-- The second repetition of a decided MATCH. -/
def atRep : State :=
  { wPat (word 9 2) {} with seq := [(63, { (wPat (word 9 2) {}).seqAt 63 with
      run := some (decoded (word 9 2)).run, matchRun := some { reps := 1, decided := some true, tss := [0] } })] }

theorem wit_PatternControlFlow :
    OneTaken opJmp (fun _ => True) ∧ OneTaken opCall (fun _ => True) ∧ OneTaken opRet (fun u => (u.seqAt 63).calls = [7]) ∧
    OneTaken opEndl (fun u => (u.seqAt 63).loops = [{ idx := 0, remaining := 1, depth := 0 }]) ∧
    OneTaken opEndl (fun u => (u.seqAt 63).loops = [{ idx := 0, remaining := 2, depth := 0 }]) ∧
    OneTaken opWait (fun _ => True) ∧
    OneTaken opAlign (fun u => u.groupOf 63 = some 9 ∧ (u.alignAt 9).closed = false ∧ u.groupX 9 = false) ∧
    OneTaken opAlign (fun u => u.groupOf 63 = none) ∧
    OneTaken opStop (fun u => (u.seqAt 63).state = .running ∧ (u.seqAt 63).ending = none ∧ u.lockstep 63 = [63] ∧ u.groupOf 63 = none) ∧
    OneIssues opJif (fun d w => (w.seqAt 63).jifTaken = none ∧
      (runEnd 63 (PatInstr.ofWord d.word) d.run w).slotDue 63 = false) ∧
    (∃ (s : State) (r : Run), (s.seqAt 63).run = some r ∧ (s.seqAt 63).jifEdge ≠ 0 ∧ (s.seqAt 63).jifEdge ≤ s.now ∧
      (s.seqAt 63).runPos = r.n ∧ (s.seqAt 63).unended s.now = true) ∧
    (∃ (s : State) (d : Fin 4) (x : Nat), (s.seqAt 63).waitUntil = some (d, x) ∧ (s.seqAt 63).slotOpen s.now = true ∧
      (s.seqAt 63).run = none ∧ (s.seqAt 63).pzWait = false ∧ (x : Int) ≤ s.slotTime5 63 d) ∧
    OneIssues opMatch (fun _ w => ∃ m, (w.seqAt 63).matchRun = some m ∧ m.decided = none ∧
      (w.modSeq 63 (fun v => { v with runPos := 0, matchRun := some { m with reps := m.reps + 1 } })).slotDue 63 = false) ∧
    (∃ s r w m, Issues 63 r s w ∧ (w.seqAt 63).runPos = r.n ∧ (PatInstr.ofWord r.word).op = opMatch ∧
      (w.seqAt 63).matchRun = some m ∧ m.decided = some true ∧ (PatInstr.ofWord r.word).as = false ∧
      ((segmentEnd 63 r (PatInstr.ofWord r.word).owned w).seqAt 63).unended
        (segmentEnd 63 r (PatInstr.ofWord r.word).owned w).now = true) := by
  refine ⟨oneTaken _ (word 7 3) {} _ ?_ ?_ trivial, oneTaken _ (word 5 3) {} _ ?_ ?_ trivial,
    oneTaken _ (word 6 0) { calls := [7] } _ ?_ ?_ ?_,
    oneTaken _ (word 4 0) { loops := [{ idx := 0, remaining := 1, depth := 0 }] } _ ?_ ?_ ?_,
    oneTaken _ (word 4 0) { loops := [{ idx := 0, remaining := 2, depth := 0 }] } _ ?_ ?_ ?_,
    oneTaken _ (word 0xA 1) {} _ ?_ ?_ trivial, oneTaken _ (word 0xF 0) { alignCfg := 0x80000009 } _ ?_ ?_ ?_,
    oneTaken _ (word 0xF 0) {} _ ?_ ?_ ?_, oneTaken _ (word 0x10 0) {} _ ?_ ?_ ?_, oneIssues _ (word 8 3) {} _ ?_ ?_ ?_,
    ⟨{ now := 1, seq := [(63, { state := .running, run := some (decoded (word 8 3)).run, runPos := 1, jifEdge := 1 })] }, _, rfl,
      by decide⟩,
    ⟨{ seq := [(63, { state := .running, waitUntil := some (3, 0) })] }, _, _, rfl, by decide⟩,
    oneIssues _ (word 9 2) { genBase := 4096 } _ ?_ ?_ ⟨_, rfl, by decide +kernel⟩,
    ⟨atRep, (decoded (word 9 2)).run, _, _, ⟨rfl, by decide +kernel, by decide +kernel, by decide +kernel, rfl, by decide +kernel⟩,
      by decide +kernel, by decide +kernel, rfl, by decide +kernel⟩⟩
  all_goals (first | unfold Takeable | unfold Ending | skip) <;> decide +kernel

/-! ### Align groups and start events -/

/-- Group 255 with sequencer 63 waiting: over chips with role and port where `cfg` says so (ALIGN_CFG since its arm). -/
def wAlign (cfg : Word32) (a : AlignGroup) : State :=
  { now := 4000000, align := [(255, { a with arrived := [63] })],
    seq := [(63, { state := .running, waitAlign := true, alignCfg := cfg, alignPar := cfg, alignTo := 10000 })] }

theorem wit_AlignBarriers :
    (∃ s : State, (s.alignAt 255).opened = true ∧ s.releaseDue 255 = true ∧ s.waiting 255 = [63] ∧
      (s.seqAt 63).state = .running ∧ (s.seqAt 63).ending = none ∧ (s.seqAt 63).waitAlign = true ∧ (s.seqAt 63).pzWait = false) ∧
    (∃ s : State, s.groupX 255 = true ∧ s.members 255 ≠ [] ∧ s.groupMaster 255 = true ∧ (s.groupPorts 255).getLsbD 5 = true ∧
      (s.alignAt 255).closed = false) ∧
    (∃ s : State, s.groupX 255 = true ∧ (s.alignAt 255).opened = true ∧ s.groupMaster 255 = false ∧
      (lowestPort (s.groupPorts 255)).getLsbD 5 = true ∧ (s.alignAt 255).releaseT = none ∧
      tsBefore (s.stamp (s.groupTd 255)) 0 = false) ∧
    (∃ s : State, (s.alignAt 255).opened = true ∧ s.waiting 255 = [63] ∧
      (s.seqAt 63).state = .running ∧ (s.seqAt 63).ending = none ∧ s.groupOf 63 = some 255 ∧ s.lockstep 63 = [63] ∧ s.releaseDue 255 = false ∧
      0 < s.groupTimeout 255 ∧ (s.alignAt 255).openEdge + s.groupTimeout 255 * 400 ≤ s.now) ∧
    (∃ s : State, (s.alignAt 255).opened = true ∧ s.waiting 255 = [63] ∧
      (s.seqAt 63).state = .running ∧ (s.seqAt 63).ending = none ∧ s.groupOf 63 = some 255 ∧ s.lockstep 63 = [63] ∧ s.releaseDue 255 = false ∧
      s.groupX 255 = true ∧ (s.groupPorts 255).getLsbD 5 = true) ∧
    (∃ s : State, (s.alignAt 255).opened = true ∧ s.waiting 255 = [63] ∧
      (s.seqAt 63).state = .running ∧ (s.seqAt 63).ending = none ∧ s.groupOf 63 = some 255 ∧ s.lockstep 63 = [63] ∧
      s.groupX 255 = true ∧ s.groupMaster 255 = false ∧ (lowestPort (s.groupPorts 255)).getLsbD 5 = true ∧
      (s.alignAt 255).releaseT = none ∧ tsBefore (s.stamp (s.groupTd 255)) (-1) = true) :=
  ⟨⟨wAlign 0x800000FF { opened := true, releaseEdge := some 4000000 }, by decide +kernel⟩,
   ⟨wAlign 0xD02000FF {}, by decide +kernel⟩,
   ⟨wAlign 0xC02000FF { opened := true }, by decide +kernel⟩,
   ⟨wAlign 0x800000FF { opened := true }, by decide +kernel⟩,
   ⟨wAlign 0xC02000FF { opened := true }, by decide +kernel⟩,
   ⟨wAlign 0xC02000FF { opened := true }, by decide +kernel⟩⟩

theorem wit_StartEventsStartSequencers :
    (∃ s : State, (s.seqAt 63).state = .armed ∧ startSrc s 63 = 4 ∧ startFalling s 63 = true ∧ s.lockstep 63 = [63]) ∧
    (∃ s : State, (s.seqAt 63).state = .armed ∧ startSrc s 63 = 6 ∧ tsPassed (s.stamp (startTd s 63)) (startTime s 63) = true ∧
      s.lockstep 63 = [63]) :=
  ⟨⟨{ wSeq { state := .armed } with regs := [(0x13F10C, 0x1004)] }, by decide +kernel⟩,
   ⟨{ wSeq { state := .armed } with regs := [(0x13F10C, 0x306)] }, by decide +kernel⟩⟩

theorem wit_CommitCountsFailingVectors :
    ∃ (s : State) (r : VecRec) (rest : List VecRec), (s.seqAt 63).inflight = r :: rest ∧ r.commitAt ≤ s.now ∧ r.rep = none ∧
      (s.seqAt 63).maquette = false ∧ r.events ≠ [] :=
  ⟨wSeq { state := .running, inflight := [{ aVector with events := [{ chan := 511, mode := 1 }] }, aVector] },
    _, _, rfl, by decide⟩

/-! ### Capture contexts and banks -/

/-- Capture context 127 with a queue of items; HBM mapped. -/
def wCap (q : List CapItem) : State := { regs := part0, cap := [(127, { queue := q })] }
/-- A bitmap update of the word at 64. -/
def aBitmap (v : BmItem → BmItem) : BmItem := v { addr := 64, f := 5, x := 0, y := 0, zi := 0, vc := 0, cfg := 0, lim := 0, rowBase := 0, colBase := 0 }

theorem wit_CaptureRequestsWriteHbm :
    (∃ (s : State) (a : Nat) (d : List Byte) (vc : Nat) (rest : List CapItem), (s.capAt 127).old = [] ∧
      takeFirst CapItem.complete (s.capAt 127).queue = some (.cw a d vc, rest) ∧ s.writeBreaks a d.length = none ∧
      (s.hbmHeal a d.length).readStatus a d.length = .ok) ∧
    (∃ (s : State) (b : BmItem), firstBm (fun b => !b.ored) (s.capAt 127).queue = some b ∧ s.writeBreaks b.addr 8 = none ∧
      (s.hbmHeal b.addr 8).readStatus b.addr 8 = .ok) ∧
    (∃ (s : State) (b : BmItem) (c : LineCtr) (l : List LineCtr),
      firstBm (fun b => b.ored && !b.ctrs.isEmpty) (s.capAt 127).queue = some b ∧ b.ctrs = c :: l ∧
      s.writeBreaks c.addr 2 = none ∧ (s.hbmHeal c.addr 2).readStatus c.addr 2 = .ok) ∧
    (∃ (s : State) (it : CapItem) (rest : List CapItem) (res : HbmStatus), (s.capAt 127).old = it :: rest ∧ res ≠ .reset) ∧
    ∃ h : Nat, h < 65536 :=
  ⟨⟨wCap [.bm (aBitmap id), .cw 0 [1, 2] 9], _, _, _, _, rfl, rfl, by decide +kernel⟩,
   ⟨wCap [.cw 0 [1, 2] 9, .bm (aBitmap id)], _, rfl, by decide +kernel⟩,
   ⟨wCap [.bm (aBitmap (fun b => { b with ored := true, ctrs := [{ addr := 4096, thr := 255, row := true }] }))], _, _, _, rfl, rfl, by decide +kernel⟩,
   ⟨{ cap := [(127, { old := [.cw 0 [] 0] })] }, _, _, .ok, rfl, by decide⟩,
   65535, by decide⟩

/-- Bank 15 in a state, its page READY. -/
def wBank (v : Bank) : State := { now := 8000, hdr := upPages [pgBank 15], bank := [(15, v)] }

theorem wit_BankPowerStates :
    (∃ s : State, s.ready (pgBank 15) = true ∧ (s.bankAt 15).state = .on) ∧
    (∃ s : State, s.ready (pgBank 15) = true ∧ (s.bankAt 15).state = .pendingOff) ∧
    (∃ s : State, s.ready (pgBank 15) = true ∧ (s.bankAt 15).state = .sleep) ∧
    (∃ s : State, s.ready (pgBank 15) = true ∧ (s.bankAt 15).state = .off ∧ (s.bankAt 15).powering = false ∧
      (s.bankAt 15).queued = false) ∧
    (∃ s : State, s.startDue 15 = true ∧ (s.bankAt 15).state = .sleep) ∧
    (∃ s : State, (s.bankAt 15).state = .waking ∧ (s.bankAt 15).target = .none ∧ (s.bankAt 15).due ≤ s.now) ∧
    (∃ s : State, (s.bankAt 15).powering = true ∧ (s.bankAt 15).target = .none ∧ (s.bankAt 15).due ≤ s.now) ∧
    (∃ s : State, (s.bankAt 15).state = .pendingOff ∧ (s.bankAt 15).entering = true ∧ (s.bankAt 15).due ≤ s.now ∧
      (s.bankAt 15).calBusy = false) :=
  ⟨⟨wBank { state := .on }, by decide⟩, ⟨wBank { state := .pendingOff }, by decide⟩, ⟨wBank { state := .sleep }, by decide⟩,
   ⟨wBank {}, by decide⟩, ⟨{ wBank { state := .sleep, queued := true } with bankQueue := [(0, 15)], bankLastStart := some 0 }, by decide⟩,
   ⟨wBank { state := .waking, due := 8000 }, by decide⟩, ⟨wBank { powering := true, due := 8000 }, by decide⟩,
   ⟨wBank { state := .pendingOff, entering := true, due := 800 }, by decide⟩⟩

/-! ### Trigger matrix, timing set store -/

/-- The trigger matrix with unit 15 in a state and its UCTRL. -/
def wTrg (ctrl : Word32) (v : TrgUnit) : State :=
  { now := 40, hdr := upPages [pgTrg], regs := [(0x2007C0, ctrl), (0x2007D0, 0x81000000)],
    trg := { units := [(15, v)], conds := [(40, .trigIn 0 true)], out := 8, outEnd := [0, 0, 0, 40],
             xtOut := 0x80, xtEnd := [0, 0, 0, 0, 0, 0, 0, 40] } }

theorem wit_TriggerUnits :
    (∃ s : State, s.ready pgTrg = true ∧ (s.unitAt 15).enabled = false) ∧
    (∃ s : State, s.ready pgTrg = true ∧ (s.unitAt 15).enabled = true ∧ (s.unitAt 15).inHoldoff = false) ∧
    (∃ s : State, s.ready pgTrg = true ∧ s.trg.flagEdge < s.now) ∧
    (∃ s : State, s.unitWas 15 = none ∧ bit (uctrlAt s 15) 31 = true ∧ (s.unitAt 15).armed = true ∧ (s.unitAt 15).inHoldoff = false ∧
      (s.unitAt 15).sampled ≠ s.now + 1 ∧ condMask 15 s ≠ 0) ∧
    (∃ s : State, holdoffOver 15 s = true) ∧
    (∃ s : State, s.trg.out.getLsbD 3 = true ∧ s.trg.outEnd.getD 3 0 ≤ s.now) ∧
    (∃ s : State, s.trg.xtOut.getLsbD 7 = true ∧ s.trg.xtEnd.getD 7 0 ≤ s.now) :=
  ⟨⟨wTrg 0 {}, by decide +kernel⟩, ⟨wTrg 0x80000000 { enabled := true }, by decide +kernel⟩, ⟨wTrg 0 {}, by decide +kernel⟩,
   ⟨wTrg 0x80000000 { enabled := true, armed := true }, by decide +kernel⟩,
   ⟨wTrg 0x80000000 { enabled := true, inHoldoff := true }, by decide +kernel⟩, ⟨wTrg 0 {}, by decide⟩, ⟨wTrg 0 {}, by decide⟩⟩

theorem wit_TableWrites :
    (∃ s : State, s.chanInUse 511 = false) ∧ (∃ s : State, s.chanInUse 511 = true ∧ s.chanArmedNow 511 = true) ∧
    (∃ s : State, s.inProgress 63 = false) ∧ (∃ s : State, s.inProgress 63 = true ∧ s.tookUp 63 = true) ∧
    (∃ s : State, s.chanInUse 511 = true ∧ s.chanArmedNow 511 = false) ∧ (∃ s : State, s.inProgress 63 = true ∧ s.tookUp 63 = false) :=
  ⟨⟨{}, by decide +kernel⟩,
   ⟨{ seq := [(63, { arming := .prefill, acceptEdge := 1, cast := { map := [511] } })] }, by decide +kernel⟩, ⟨{}, by decide⟩,
   ⟨wSeq { arming := .header, armEdge := 1 }, by decide⟩,
   ⟨{ seq := [(63, { state := .armed, cast := { map := [511] } })] }, by decide +kernel⟩, ⟨wSeq { state := .hold }, by decide⟩⟩

/-- The staged commit path with its target register. -/
def wTss (target : Word32) (t : Tss) : State := { hdr := upPages [pgTss], regs := [(0x610104, target)], tss := t }
/-- A staged item. -/
def anItem : StgItem := { header := false, ts := 0, index := 0, data := 0 }

theorem wit_StagedCommitPath :
    (∃ s : State, s.ready pgTss = true ∧ (stagedItem s).header = true ∧ 63 < (stagedItem s).index) ∧
    (∃ s : State, s.ready pgTss = true ∧ ((stagedItem s).header = true → (stagedItem s).index ≤ 63) ∧ s.tss.free = 0) ∧
    (∃ s : State, s.ready pgTss = true ∧ (stagedItem s).header = true ∧ (stagedItem s).index ≤ 63 ∧ s.tss.free = 1) ∧
    (∃ s : State, s.ready pgTss = true ∧ s.tss.openItems ≠ [] ∧
      ∀ q, (s.seqAt q).acceptEdge ≠ s.now + 1 ∧ (s.seqAt q).finalEdge ≠ s.now + 1) ∧
    (∃ (s : State) (i : StgItem), s.ready pgTss = true ∧ s.tss.openItems = [i] ∧ itemOwner s i = some 63 ∧
      (s.seqAt 63).acceptEdge = s.now + 1 ∧ ∀ p ∈ s.tss.parts, p.seq ≠ some 63) ∧
    (∃ (s : State) (r : ApplyRec) (l : List ApplyRec), s.tss.log = r :: l) ∧ ∃ s : State, s.tss.log = [] :=
  ⟨⟨wTss 0x80000040 {}, by decide +kernel⟩, ⟨wTss 0x8000003F { openItems := List.replicate 4096 anItem }, by decide +kernel⟩,
   ⟨wTss 0x8000003F { openItems := List.replicate 4095 anItem }, by decide +kernel⟩, ⟨wTss 0 { openItems := [anItem] }, by decide, by decide, by simp [State.seqAt, sget, wTss]⟩,
   ⟨{ wTss 0 { openItems := [anItem] } with seq := [(63, { arming := .prefill, acceptEdge := 1, cast := { map := [0] } })] }, _,
     by decide, rfl, by decide +kernel⟩,
   ⟨wTss 0 { log := [{ id := 1, vec := 0, seg := 0 }] }, _, _, rfl⟩, ⟨wTss 0 {}, rfl⟩⟩

/-! ### Scheduler -/

/-- The scheduler's page READY, HBM mapped. -/
def wSch (v : Sch) : State := { now := 1000, hdr := upPages [pgSch], regs := part0, sch := v }
/-- A task table whose first `n` entries hold running tasks. -/
def busyTable (n : Nat) : Sparse Task := (List.range n).map (fun i => (i, { state := .running }))

theorem sget_map_const {α : Type} (d v : α) (l : List Nat) (k : Nat) (h : k ∈ l) : sget d (l.map (fun i => (i, v))) k = v := by
  induction l with
  | nil => cases h
  | cons a t ih =>
    by_cases e : a = k
    · simp [sget, e]
    · simp only [List.map_cons, sget, e, if_false]
      exact ih ((List.mem_cons.1 h).resolve_left (Ne.symm e))

theorem busyTable_full (s : State) (h : s.sch.tasks = busyTable tableSize) : s.freeIndex = none := by
  unfold State.freeIndex
  rw [List.find?_eq_none]
  intro i hi
  have : s.taskAt i = { state := .running } := by unfold State.taskAt; rw [h]; exact sget_map_const _ _ _ _ hi
  simp [this]

theorem busyTable_free (s : State) (n : Nat) (h : s.sch.tasks = busyTable n) : s.freeEntries = tableSize - n := by
  unfold State.freeEntries
  rw [h, List.filter_eq_self.2]
  · simp [busyTable]
  · intro e he
    obtain ⟨i, -, rfl⟩ := List.mem_map.1 he
    rfl

/-- A descriptor at address 0 of an empty task that waits for one predecessor. -/
def aDescriptor : List Host.Cell := [(4, 1)]

theorem wit_TaskSubmission :
    (∃ s : State, s.schResetting = false ∧ s.ready pgSch = true ∧ (s.portAt 7).pending = false) ∧
    (∃ s : State, s.schResetting = false ∧ s.ready pgSch = true ∧ (s.portAt 7).pending = true) ∧
    (∃ s : State, s.schResetting = false ∧ (s.portAt 7).pending = true ∧
      worstOf .ok (s.readStatus (s.portAt 7).addr 64) ≠ .ok) ∧
    (∃ s : State, s.schResetting = false ∧ (s.portAt 7).pending = true ∧
      worstOf .ok (s.readStatus (s.portAt 7).addr 64) = .ok ∧ s.freeEntries ≤ s.reserve) ∧
    (∃ (s : State) (i : Nat), s.schResetting = false ∧ (s.portAt 7).pending = true ∧
      worstOf .ok (s.readStatus (s.portAt 7).addr 64) = .ok ∧ s.reserve < s.freeEntries ∧ s.freeIndex = some i ∧
      (Desc.ofBytes (s.hbmRead (s.portAt 7).addr 64)).bad = false ∧ (Desc.ofBytes (s.hbmRead (s.portAt 7).addr 64)).dep ≠ 0 ∧
      firstFinal (Desc.ofBytes (s.hbmRead (s.portAt 7).addr 64)) (s.portAt 7).finals = none) :=
  ⟨⟨wSch {}, by decide⟩, ⟨wSch { ports := [(7, { pending := true })] }, by decide⟩,
   ⟨wSch { ports := [(7, { pending := true, addr := 2 ^ 40 })] }, by decide +kernel⟩,
   ⟨wSch { ports := [(7, { pending := true })], tasks := busyTable tableSize }, by decide, rfl, by decide +kernel,
     by rw [busyTable_free _ _ rfl]; exact Nat.zero_le _⟩,
   ⟨{ wSch { ports := [(7, { pending := true })] } with hbm := aDescriptor }, 0, by decide +kernel⟩⟩

/-- Worker engines with a valid control store. -/
def csUp (l : List Nat) : Sparse We := l.map (fun e => (e, { csValid := true }))

theorem wit_TaskDispatch :
    (∃ (s : State) (i x : Nat), s.schResetting = false ∧ (s.sch.dispEdge = s.now → s.sch.dispCount < 2) ∧
      s.readyList.find? (fun j => (s.slotFor (s.taskAt j)).isSome) = some i ∧ s.slotFor (s.taskAt i) = some (x, true)) ∧
    (∃ (s : State) (i x : Nat), s.schResetting = false ∧ (s.sch.dispEdge = s.now → s.sch.dispCount < 2) ∧
      s.readyList.find? (fun j => (s.slotFor (s.taskAt j)).isSome) = some i ∧ s.slotFor (s.taskAt i) = some (x, false)) ∧
    (∃ (s : State) (t : Task) (x : Nat), s.slotFor t = some (x, true)) ∧
    (∃ (s : State) (t : Task) (x : Nat), s.slotFor t = some (x, false)) :=
  ⟨⟨{ wSch { tasks := [(16383, { state := .ready, cfg := 1, execMask := 0x800000 })], dispEdge := 1000, dispCount := 1 } with
      we := csUp [23] }, 16383, 23, by decide +kernel⟩,
   ⟨wSch { tasks := [(16383, { state := .ready, cfg := 2, execMask := 0x80 })], execs := [(0x27, { running := some 0 })] },
     16383, 0x27, by decide +kernel⟩,
   ⟨wSch {}, { cfg := 2, execMask := 0x81 }, 0x20, by decide +kernel⟩,
   ⟨wSch { execs := [(0x20, { running := some 0 })] }, { cfg := 2, execMask := 1 }, 0x20, by decide +kernel⟩⟩

theorem wit_TaskReleaseAndCompletion :
    (∃ s : State, s.sch.ticks.getD 3 0 < s.micros 3 ∧ (s.sch.tasks.filter (fun e =>
        e.2.state = .delayed ∧ cfgTd e.2.cfg = 3 ∧ tsPassed (shortTs (s.micros 3 * 400 * 2 ^ 40)) e.2.release)).map Prod.fst =
        [16383] ∧ (s.taskAt 16383).state = .delayed ∧ cfgEvent (s.taskAt 16383).cfg = false ∧
      cfgKind (s.taskAt 16383).cfg = 1 ∧ ∃ x ∈ execCodes (s.taskAt 16383), (s.execAt x).retired = false) ∧
    (∃ s : State, (s.taskAt 16383).state = .held ∧ s.ctxWaits (s.taskAt 16383) = false ∧
      cfgKind (s.taskAt 16383).cfg = 2 ∧ ∃ x ∈ execCodes (s.taskAt 16383), (s.execAt x).retired = false) ∧
    (∃ (s : State) (st : TaskStatus) (prog result : Nat), (s.execAt (execCode (.ce 7))).running = some 16383 ∧
      (s.execAt (execCode (.ce 7))).ended = some (st, prog, result) ∧ (s.execAt (execCode (.ce 7))).abort = none ∧
      (s.execAt (execCode (.ce 7))).lost = 0 ∧ (s.taskAt 16383).succs = []) ∧
    (∃ s : State, (s.execAt (execCode (.we 23))).running = none ∧ (s.execAt (execCode (.we 23))).prefetch = some 16383) ∧
    (∃ s : State, (s.taskAt 16383).state = .completing ∧ s.ringOpen (cfgRing (s.taskAt 16383).cfg) = true ∧ s.pcie.up = true) :=
  ⟨⟨{ wSch { tasks := [(16383, { state := .delayed, cfg := 1 + 3 * 2 ^ 13, execMask := 0x800000 })] } with
      td := [(3, { t := 400 * 2 ^ 40 })] }, by decide +kernel⟩,
   ⟨wSch { tasks := [(16383, { state := .held, cfg := 2 + 2 ^ 15 + 63 * 2 ^ 16, execMask := 0x80 })] }, by decide +kernel⟩,
   ⟨wSch { execs := [(0x27, { running := some 16383, ended := some (.complete, 0, 0) })] }, .complete, 0, 0, by decide⟩,
   ⟨wSch { execs := [(23, { prefetch := some 16383 })] }, by decide⟩,
   ⟨{ wSch { tasks := [(16383, { state := .completing, cfg := 3 * 256 })] } with
      regs := [(0x300368, 1), (0x30036C, 0x80000000)], pcie := { up := true } }, by decide +kernel⟩⟩

/-- The scheduler with CANCEL_ID naming entry 16383 at generation 65535, held by executor 23 or by none. -/
def wCancel (st : TaskState) (x : ExecSlots) (ends : List (Nat × Nat) := []) : State :=
  { wSch { tasks := [(16383, { state := st, gen := 65535, executor := 23 })], execs := [(23, x)], ends := ends } with
    regs := [(0x300108, 0x3FFFFFFF)] }

theorem wit_TaskCancel :
    (∃ s : State, s.ready pgSch = true ∧ s.sch.ends.contains (s.now, s.regN pgSch 0x108) = true ∧
      s.named (s.regN pgSch 0x108) = none) ∧
    (∃ s : State, s.ready pgSch = true ∧ s.sch.ends.contains (s.now, s.regN pgSch 0x108) = false ∧
      s.named (s.regN pgSch 0x108) = none) ∧
    (∃ s : State, s.ready pgSch = true ∧ s.sch.ends.contains (s.now, s.regN pgSch 0x108) = false ∧
      s.named (s.regN pgSch 0x108) = some 16383 ∧ (s.taskAt 16383).state = .ready ∧
      (s.taskAt 16383).succs = [] ∧ (s.execAt (s.taskAt 16383).executor).prefetch ≠ some 16383 ∧
      (s.execAt (s.taskAt 16383).executor).running ≠ some 16383) ∧
    (∃ s : State, s.ready pgSch = true ∧ s.sch.ends.contains (s.now, s.regN pgSch 0x108) = false ∧
      s.named (s.regN pgSch 0x108) = some 16383 ∧ (s.taskAt 16383).state = .running ∧
      (s.execAt (s.taskAt 16383).executor).startAt ≠ s.now ∧
      (s.execAt (s.taskAt 16383).executor).ended = none ∧ (s.execAt (s.taskAt 16383).executor).abort = none) ∧
    (∃ s : State, s.ready pgSch = true ∧ s.sch.ends.contains (s.now, s.regN pgSch 0x108) = false ∧
      s.named (s.regN pgSch 0x108) = some 16383 ∧ (s.taskAt 16383).state = .running ∧
      (s.execAt (s.taskAt 16383).executor).startAt = s.now ∧ (s.taskAt 16383).succs = [] ∧
      (s.execAt (s.taskAt 16383).executor).prefetch = none ∧ (s.execAt (s.taskAt 16383).executor).running = some 16383) ∧
    (∃ s : State, s.ready pgSch = true ∧ s.sch.ends.contains (s.now, s.regN pgSch 0x108) = false ∧
      s.named (s.regN pgSch 0x108) = some 16383 ∧ (s.taskAt 16383).state = .running ∧
      (s.execAt (s.taskAt 16383).executor).startAt ≠ s.now ∧ (s.execAt (s.taskAt 16383).executor).ended ≠ none) :=
  ⟨⟨wCancel .free {} [(1000, 0x3FFFFFFF)], by decide +kernel⟩, ⟨wCancel .free {}, by decide +kernel⟩,
   ⟨wCancel .ready {}, by decide +kernel⟩,
   ⟨wCancel .running { running := some 16383, startAt := 999 }, by decide +kernel⟩,
   ⟨wCancel .running { running := some 16383, startAt := 1000 }, by decide +kernel⟩,
   ⟨wCancel .running { running := some 16383, startAt := 999, ended := some (.complete, 0, 0) }, by decide +kernel⟩⟩

/-! ### Worker engines -/

/-- The worker instruction word: opcode, RD, RA, RB, IMM. -/
def weWord (op rd ra rb imm : Nat) : Nat := op * 2 ^ 56 + rd * 2 ^ 51 + ra * 2 ^ 46 + rb * 2 ^ 41 + imm
/-- Engine 23 runs task 0, with one instruction at index 0 and bytes in local memory above the program. -/
def wWe (word : Nat) (v : We) (lm : List Host.Cell := []) : State :=
  { now := 1000, regs := part0, hdr := upPages [pgWe 23],
    we := [(23, { v with started := true, progLen := 1, lm := cellsOf 8 [word] ++ lm })], sch := { execs := [(23, { running := some 0 })] } }

/-- The engine is about to execute the instruction it fetches. -/
def atB (op : Nat) (s : State) : Bool :=
  s.weRuns 23 && decide ((s.weAt 23).idx < (s.weAt 23).progLen) && decide ((s.weAt 23).fetch.op = op) &&
    decide ((s.weAt 23).fetch.res = 0) && !s.abortDue 23 && !(s.weAt 23).limitHit && decide ((s.weAt 23).cs = [])
theorem atInstr_of {op : Nat} {s : State} (h : atB op s = true) : AtInstr (23 : Fin 24) op (s.weAt 23).fetch s := by
  simp only [atB, Bool.and_eq_true, decide_eq_true_eq, Bool.not_eq_true'] at h
  obtain ⟨⟨⟨⟨⟨⟨a, b⟩, c⟩, d⟩, e⟩, f⟩, g⟩ := h
  exact ⟨a, b, rfl, c, d, e, f, g⟩

theorem wit_WorkerArithmetic : ∀ op ∈ [0x01, 0x02, 0x03, 0x04, 0x05, 0x06, 0x07, 0x08, 0x09, 0x0A, 0x0B, 0x0C, 0x0D, 0x0E,
    0x0F, 0x10, 0x11, 0x52], ∃ (s : State) (i : WInstr), AtInstr (23 : Fin 24) op i s := by
  have h : ([0x01, 0x02, 0x03, 0x04, 0x05, 0x06, 0x07, 0x08, 0x09, 0x0A, 0x0B, 0x0C, 0x0D, 0x0E,
      0x0F, 0x10, 0x11, 0x52].all (fun op => atB op (wWe (weWord op 31 1 2 0) { regs := [(1, 1), (2, 63)] }))) = true := by
    decide +kernel
  exact fun op ho => ⟨_, _, atInstr_of (List.all_eq_true.1 h op ho)⟩

theorem wit_WorkerBranches :
    (∃ (s : State) (i : WInstr) (b : Bool), AtInstr (23 : Fin 24) 0x20 i s ∧ (s.weAt 23).flags.holds i.cond = some b) ∧
    (∃ (s : State) (i : WInstr), AtInstr (23 : Fin 24) 0x21 i s) ∧ (∃ (s : State) (i : WInstr), AtInstr (23 : Fin 24) 0x22 i s) ∧
    (∃ (s : State) (i : WInstr), AtInstr (23 : Fin 24) 0x23 i s ∧ i.ra ≠ 0) ∧
    (∃ (s : State) (i : WInstr), AtInstr (23 : Fin 24) 0x23 i s ∧ i.ra = 0) :=
  ⟨⟨wWe (weWord 0x20 0 0 0 8191) {}, _, _, atInstr_of (by decide +kernel), rfl⟩,
   ⟨wWe (weWord 0x21 0 0 0 8191) {}, _, atInstr_of (by decide +kernel)⟩,
   ⟨wWe (weWord 0x22 0 0 0 0) {}, _, atInstr_of (by decide +kernel)⟩,
   ⟨wWe (weWord 0x23 0 31 0 0) {}, _, atInstr_of (by decide +kernel), by decide +kernel⟩,
   ⟨wWe (weWord 0x23 0 0 0 0) {}, _, atInstr_of (by decide +kernel), by decide +kernel⟩⟩

/-- A legal transfer of the engine's instruction. -/
def legalB (s : State) : Bool :=
  let w := s.weAt 23
  let i := w.fetch
  let lm := (w.reg i.rd).toNat
  let hbm := (w.reg i.ra).toNat
  let len := (w.reg i.rb).toNat
  decide (64 ≤ len ∧ len ≤ 65536 ∧ len % 64 = 0 ∧ lm % 64 = 0 ∧ hbm % 64 = 0 ∧ lm + len ≤ 0x80000 ∧ 0x10000 ≤ lm ∧
    w.transfers.all (fun t => t.tag ≠ i.imm.toNat % 16))
/-- 256 requests in the worker port's queue. -/
def fullWePort : Hmc := { reqs := List.replicate 256 { id := 0, port := 5, addr := 0, loc := none, owner := 0, accepted := 0 } }

theorem wit_WorkerLoadsStoresAndTransfers :
    (∀ op ∈ [0x30, 0x31], ∃ (s : State) (i : WInstr), AtInstr (23 : Fin 24) op i s ∧
      ((s.weAt 23).reg i.ra + i.imm.signExtend 64).toNat = 0x7FFF8) ∧
    (∀ op ∈ [0x32, 0x33], ∃ (s : State) (i : WInstr), AtInstr (23 : Fin 24) op i s ∧
      ((s.weAt 23).reg i.ra + i.imm.signExtend 64).toNat = 0x7FFFE) ∧
    (∀ op ∈ [0x40, 0x41], ∃ (s : State) (i : WInstr), AtInstr (23 : Fin 24) op i s ∧ legalB s = true ∧ s.portFull 5 = false) ∧
    (∀ op ∈ [0x40, 0x41], ∃ (s : State) (i : WInstr), AtInstr (23 : Fin 24) op i s ∧ legalB s = true ∧ s.portFull 5 = true) ∧
    (∃ (s : State) (i : WInstr), AtInstr (23 : Fin 24) 0x42 i s ∧ ∀ t ∈ (s.weAt 23).transfers, i.imm.getLsbD t.tag = false) ∧
    (∃ (s : State) (i : WInstr), AtInstr (23 : Fin 24) 0x50 i s ∧ (s.weAt 23).transfers = []) := by
  have h1 : [0x30, 0x31].all (fun op => let s := wWe (weWord op 2 1 3 0xFFFFFFF8) { regs := [(1, 0x80000)] }
      atB op s && decide (((s.weAt 23).reg (s.weAt 23).fetch.ra + (s.weAt 23).fetch.imm.signExtend 64).toNat = 0x7FFF8)) = true := by
    decide +kernel
  have h2 : [0x32, 0x33].all (fun op => let s := wWe (weWord op 2 1 3 0xFFFFFFFE) { regs := [(1, 0x80000)] }
      atB op s && decide (((s.weAt 23).reg (s.weAt 23).fetch.ra + (s.weAt 23).fetch.imm.signExtend 64).toNat = 0x7FFFE)) = true := by
    decide +kernel
  have h3 : [0x40, 0x41].all (fun op => let s := wWe (weWord op 1 2 3 15) { regs := [(1, 0x70000), (3, 0x10000)] }
      atB op s && (legalB s && decide (s.portFull 5 = false))) = true := by decide +kernel
  have h4 : [0x40, 0x41].all (fun op =>
      let s := { wWe (weWord op 1 2 3 15) { regs := [(1, 0x70000), (3, 0x10000)] } with hmc := fullWePort }
      atB op s && (legalB s && decide (s.portFull 5 = true))) = true := by decide +kernel
  refine ⟨fun op ho => ?_, fun op ho => ?_, fun op ho => ?_, fun op ho => ?_, ?_, ?_⟩
  · have h := List.all_eq_true.1 h1 op ho
    rw [Bool.and_eq_true, decide_eq_true_eq] at h
    exact ⟨_, _, atInstr_of h.1, h.2⟩
  · have h := List.all_eq_true.1 h2 op ho
    rw [Bool.and_eq_true, decide_eq_true_eq] at h
    exact ⟨_, _, atInstr_of h.1, h.2⟩
  · have h := List.all_eq_true.1 h3 op ho
    rw [Bool.and_eq_true, Bool.and_eq_true, decide_eq_true_eq] at h
    exact ⟨_, _, atInstr_of h.1, h.2⟩
  · have h := List.all_eq_true.1 h4 op ho
    rw [Bool.and_eq_true, Bool.and_eq_true, decide_eq_true_eq] at h
    exact ⟨_, _, atInstr_of h.1, h.2⟩
  · exact ⟨wWe (weWord 0x42 1 0 0 0xFFFF) {}, _, atInstr_of (by decide +kernel), by decide +kernel⟩
  · exact ⟨wWe (weWord 0x50 0 1 0 0) {}, _, atInstr_of (by decide +kernel), by decide +kernel⟩

/-- Engine 23 posts while no entry of the task table is free. -/
def wFull : State :=
  let s := wWe (weWord 0x51 0 1 0 0) { regs := [(1, 0x10000)] }
  { s with sch := { s.sch with tasks := busyTable tableSize } }
theorem wFull_none : wFull.freeIndex = none := busyTable_full wFull (by simp only [wFull])
theorem wFull_at : atB 0x51 wFull = true := by decide +kernel

theorem wit_WorkerRepairAndPost :
    (∃ (s : State) (i : WInstr), AtInstr (23 : Fin 24) 0x60 i s ∧ ((s.weAt 23).reg i.ra).toNat = 0x7FFC0 ∧
      mreadLe (s.weAt 23).lm (0x7FFC0 + 8 * 7) 8 ≠ 0 ∧ ∀ j < 7, mreadLe (s.weAt 23).lm (0x7FFC0 + 8 * j) 8 = 0) ∧
    (∃ (s : State) (i : WInstr), AtInstr (23 : Fin 24) 0x60 i s ∧ ((s.weAt 23).reg i.ra).toNat = 0x7FFC0 ∧
      ∀ j < 8, mreadLe (s.weAt 23).lm (0x7FFC0 + 8 * j) 8 = 0) ∧
    (∃ (s : State) (i : WInstr), AtInstr (23 : Fin 24) 0x61 i s ∧ ((s.weAt 23).reg i.ra).toNat = 0x7FFE0) ∧
    (∃ (s : State) (i : WInstr), AtInstr (23 : Fin 24) 0x62 i s ∧ ((s.weAt 23).reg i.ra).toNat = 0x7FFFE) ∧
    (∃ (s : State) (i : WInstr), AtInstr (23 : Fin 24) 0x51 i s ∧ ((s.weAt 23).reg i.ra).toNat = 0x10000 ∧
      s.schResetting = false ∧ s.freeIndex = none) ∧
    (∃ (s : State) (i : WInstr) (k : Nat), AtInstr (23 : Fin 24) 0x51 i s ∧ ((s.weAt 23).reg i.ra).toNat = 0x7FFC0 ∧
      s.schResetting = false ∧ s.freeIndex = some k ∧ (Desc.ofBytes (mread (s.weAt 23).lm 0x7FFC0 64)).bad = false ∧
      (Desc.ofBytes (mread (s.weAt 23).lm 0x7FFC0 64)).dep ≠ 0) :=
  ⟨⟨wWe (weWord 0x60 2 1 0 0) { regs := [(1, 0x7FFC0)] } [(0x7FFFF, 0x80)], _, atInstr_of (by decide +kernel), by decide +kernel⟩,
   ⟨wWe (weWord 0x60 2 1 0 0) { regs := [(1, 0x7FFC0)] }, _, atInstr_of (by decide +kernel), by decide +kernel⟩,
   ⟨wWe (weWord 0x61 2 1 0 0) { regs := [(1, 0x7FFE0)] }, _, atInstr_of (by decide +kernel), by decide +kernel⟩,
   ⟨wWe (weWord 0x62 2 1 3 0) { regs := [(1, 0x7FFFE)] }, _, atInstr_of (by decide +kernel), by decide +kernel⟩,
   ⟨wFull, _, atInstr_of wFull_at, by decide +kernel, by decide +kernel, wFull_none⟩,
   ⟨wWe (weWord 0x51 0 1 0 0) { regs := [(1, 0x7FFC0)] } [(0x7FFC4, 1)], _, 0, atInstr_of (by decide +kernel), by decide +kernel⟩⟩

theorem wit_WorkerFaults :
    (∃ s : State, s.weRuns 23 = true ∧ (s.weAt 23).transfers = [] ∧ (s.weAt 23).cs = [] ∧ (s.weAt 23).progLen ≤ (s.weAt 23).idx) ∧
    (∃ s : State, s.weRuns 23 = true ∧ (s.weAt 23).transfers = [] ∧ (s.weAt 23).cs = [] ∧ (s.weAt 23).idx < (s.weAt 23).progLen ∧
      (s.weAt 23).fetch.op = 0x12) ∧
    (∃ s : State, s.weRuns 23 = true ∧ (s.weAt 23).transfers = [] ∧ (s.weAt 23).cs = [] ∧ (s.weAt 23).idx < (s.weAt 23).progLen ∧
      (s.weAt 23).fetch.op = 0x01 ∧ (s.weAt 23).fetch.res ≠ 0) ∧
    (∃ s : State, s.weRuns 23 = true ∧ (s.weAt 23).transfers = [] ∧ (s.weAt 23).cs = [] ∧ (s.weAt 23).idx < (s.weAt 23).progLen ∧
      (s.weAt 23).fetch.op = 0x20 ∧ (s.weAt 23).fetch.res = 0 ∧ 9 ≤ (s.weAt 23).fetch.cond ∧ (s.weAt 23).fetch.cond < 16) ∧
    (∃ s : State, s.weRuns 23 = true ∧ (s.weAt 23).transfers = [] ∧ (s.weAt 23).cs = [] ∧ (s.weAt 23).idx < (s.weAt 23).progLen ∧
      (s.weAt 23).fetch.op = 0x31 ∧ (s.weAt 23).fetch.res = 0 ∧
      ((s.weAt 23).reg (s.weAt 23).fetch.ra + (s.weAt 23).fetch.imm.signExtend 64).toNat = 0xFFFF) ∧
    (∃ s : State, s.weRuns 23 = true ∧ (s.weAt 23).transfers = [] ∧ (s.weAt 23).cs = [] ∧ (s.weAt 23).idx < (s.weAt 23).progLen ∧
      (s.weAt 23).fetch.op = 0x30 ∧ (s.weAt 23).fetch.res = 0 ∧
      ((s.weAt 23).reg (s.weAt 23).fetch.ra + (s.weAt 23).fetch.imm.signExtend 64).toNat = 0x7FFF7) ∧
    (∃ s : State, s.weRuns 23 = true ∧ (s.weAt 23).transfers = [] ∧ (s.weAt 23).cs = [] ∧ (s.weAt 23).idx < (s.weAt 23).progLen ∧
      (s.weAt 23).fetch.op = 0x10 ∧ (s.weAt 23).fetch.res = 0 ∧ s.abortDue 23 = true) :=
  ⟨⟨wWe 0 { idx := 1 }, by decide +kernel⟩, ⟨wWe (weWord 0x12 0 0 0 0) {}, by decide +kernel⟩,
   ⟨wWe (weWord 0x01 0 0 0 (2 ^ 35)) {}, by decide +kernel⟩, ⟨wWe (weWord 0x20 0 0 0 (9 * 2 ^ 37)) {}, by decide +kernel⟩,
   ⟨wWe (weWord 0x31 0 0 0 0xFFFF) {}, by decide +kernel⟩, ⟨wWe (weWord 0x30 0 0 0 0x7FFF7) {}, by decide +kernel⟩,
   ⟨{ wWe (weWord 0x10 0 0 0 0) {} with sch := { execs := [(23, { running := some 0, abort := some 999 })] } }, by decide +kernel⟩⟩

/-- Engine 23 in a state, running task 0 or none. -/
def wEng (v : We) (x : ExecSlots) : State :=
  { now := 12800, regs := part0, hdr := upPages [pgWe 23], we := [(23, v)], sch := { execs := [(23, x)] } }

/-- Engine 23 runs task 0, which engine 0 may take over. -/
def wExpires : State :=
  let s := wEng { started := true, redispatch := true } { running := some 0 }
  { s with sch := { s.sch with tasks := [(0, { state := .running, cfg := 1, execMask := 1 })] } }
theorem wExpires_lives (j : Nat) (h : (wExpires.taskAt j).state = .ready ∨ j = 0) :
    ∃ y ∈ execCodes (wExpires.taskAt j), (wExpires.execAt y).retired = false ∧
      ¬ (y = 23 ∧ 3 ≤ (((wExpires.weAt 23).expiries ++ [wExpires.now]).filter
        (fun y => wExpires.now < y + 400000000)).length) := by
  have e : j = 0 := by
    by_contra e
    refine e (h.resolve_left ?_)
    have : wExpires.taskAt j = {} := by simp [State.taskAt, wExpires, wEng, sget, Ne.symm e]
    rw [this]; decide
  subst e
  exact ⟨0, by decide, by decide, by decide⟩

theorem wit_WorkerTasks :
    (∃ s : State, (s.execAt 23).running = some 0 ∧ (s.weAt 23).started = false ∧ (s.execAt 23).ended = none ∧
      (s.execAt 23).startAt ≤ s.now ∧ s.readStatus (s.taskAt 0).block 64 = .ok ∧
      s.readStatus (field (s.hbmRead (s.taskAt 0).block 64) 0 8) (8 * field (s.hbmRead (s.taskAt 0).block 64) 8 2) = .ok ∧
      field (s.hbmRead (s.taskAt 0).block 64) 8 2 ≤ 8192 ∧ (s.weAt 23).resident = false) ∧
    (∃ s : State, (s.execAt 23).running = some 0 ∧ (s.weAt 23).started = true ∧ (s.weAt 23).timeLimit ≠ 0 ∧
      (s.weAt 23).startAt + (s.weAt 23).timeLimit * 400 ≤ s.now) ∧
    (∃ s : State, (s.execAt 23).running = some 0 ∧ (s.execAt 23).ended = none ∧ (s.execAt 23).abort = none ∧
      (s.execAt 23).prefetch = none ∧ s.schResetting = false ∧
      (s.weAt 23).boundary + 12800 ≤ s.now ∧ (s.weAt 23).redispatch = true ∧ (s.weAt 23).started = true ∧
      (s.taskAt 0).redispatched = false ∧ ∀ j, (s.taskAt j).state = .ready ∨ j = 0 →
        ∃ y ∈ execCodes (s.taskAt j), (s.execAt y).retired = false ∧
          ¬ (y = 23 ∧ 3 ≤ (((s.weAt 23).expiries ++ [s.now]).filter (fun y => s.now < y + 400000000)).length)) ∧
    (∃ s : State, (s.execAt 23).running = some 0 ∧ (s.weAt 23).reloading = true) ∧
    (∃ (s : State) (tr : Transfer), (s.weAt 23).transfers.find? (fun t => t.tag = 7) = some tr ∧ tr.write = false ∧
      (s.weAt 23).ending = none ∧ s.readStatus tr.hbm tr.len = .ok) ∧
    (∃ (s : State) (tr : Transfer), (s.weAt 23).transfers.find? (fun t => t.tag = 7) = some tr ∧ tr.write = true ∧
      (s.weAt 23).ending = none ∧ s.writeBreaks tr.hbm tr.len = none ∧ (s.hbmHeal tr.hbm tr.len).readStatus tr.hbm tr.len = .ok) ∧
    (∃ s : State, (s.weAt 23).transfers.find? (fun t => t.tag = 7) = none) ∧
    (∃ (s : State) (j : Nat), s.ready (pgWe 23) = true ∧ s.schResetting = false ∧ (s.execAt 23).prefetch = some j) ∧
    (∃ s : State, s.ready (pgWe 23) = true ∧ s.weIdleOff 23 = true) ∧ (∃ s : State, s.weIdleOff 23 = false) ∧
    (∃ s : State, (s.execAt 23).running = none ∧ s.ready (pgWe 23) = true) :=
  ⟨⟨wEng {} { running := some 0 }, by decide +kernel⟩, ⟨wEng { started := true, timeLimit := 32 } { running := some 0 }, by decide⟩,
   ⟨wExpires, by decide, by decide, by decide, by decide, by decide, by decide, by decide, by decide, by decide, wExpires_lives⟩,
   ⟨wEng { reloading := true } { running := some 0 }, by decide⟩,
   ⟨wEng { transfers := [{ tag := 7, write := false, lm := 0x10000, hbm := 0, len := 64 }] } {}, _, rfl, by decide +kernel⟩,
   ⟨wEng { transfers := [{ tag := 7, write := true, lm := 0x10000, hbm := 0, len := 64 }] } {}, _, rfl, by decide +kernel⟩,
   ⟨wEng {} {}, by decide⟩, ⟨wEng {} { prefetch := some 1 }, 1, by decide⟩, ⟨wEng { offline := true } {}, by decide⟩,
   ⟨wEng {} {}, by decide⟩, ⟨wEng {} {}, by decide⟩⟩

/-! ### Copy engines -/

/-- Copy engine 7 runs task 0, whose 64-byte copy block is given by its cells. -/
def wCe (block : List Host.Cell) : State :=
  { now := 400000, regs := part0, ce := [(7, { block := mread block 0 64 })], sch := { execs := [(0x27, { running := some 0 })] } }
/-- The engine or the stream has a refused request whose 64 ns are over. -/
def wRetry (h : Hmc) : State :=
  { wCe [] with ce := [(7, { retries := [(64, 400000)] })], ms := [(63, { retries := [(64, 400000)] })], hmc := h }
/-- 256 requests in the queue of a port. -/
def fullPort (q : Nat) : Hmc := { reqs := List.replicate 256 { id := 0, port := q, addr := 0, loc := none, owner := 0, accepted := 0 } }
/-- Copy blocks: 64 bytes filled at 4,096, copied from 0 to 4,096, and copied to the host. -/
def fillBlock : List Host.Cell := [(9, 0x10), (0x10, 64), (0x1A, 1)]
def copyBlock64 : List Host.Cell := [(9, 0x10), (0x10, 64)]
def hostBlock : List Host.Cell := [(9, 0x10), (0x10, 64), (0x18, 4)]

theorem wit_CopyEngines :
    (∃ s : State, (s.ceAt 7).retries = [(64, 400000)] ∧ 400000 ≤ s.now ∧ s.portFull 6 = false) ∧
    (∃ s : State, (s.ceAt 7).retries = [(64, 400000)] ∧ 400000 ≤ s.now ∧ s.portFull 6 = true ∧ (s.copyRuns 7).isSome = true) ∧
    (∃ s : State, (s.msAt 63).retries = [(64, 400000)] ∧ 400000 ≤ s.now ∧ s.portFull (portNo .sw) = false) ∧
    (∃ s : State, (s.msAt 63).retries = [(64, 400000)] ∧ 400000 ≤ s.now ∧ s.portFull (portNo .sw) = true) ∧
    (∃ s : State, s.copyRuns 7 = some 0 ∧ (s.copyBlock 7).dstSpace = 0 ∧ (s.copyBlock 7).fill = true ∧
      s.writeBreaks (s.copyBlock 7).dst (s.copyBlock 7).len = none ∧ (s.ceAt 7).blockStatus = .ok ∧
      copyRefused (s.copyBlock 7) (s.ceAt 7).offMask = false ∧ s.abortDue 0x27 = false ∧
      (s.hbmHeal (s.copyBlock 7).dst (s.copyBlock 7).len).readStatus (s.copyBlock 7).dst (s.copyBlock 7).len = .ok) ∧
    (∃ s : State, s.copyRuns 7 = some 0 ∧ (s.copyBlock 7).dstSpace = 0 ∧ (s.copyBlock 7).srcSpace = 0 ∧
      s.readStatus (s.copyBlock 7).src (s.copyBlock 7).len = .ok ∧
      s.writeBreaks (s.copyBlock 7).dst (s.copyBlock 7).len = none ∧ (s.ceAt 7).blockStatus = .ok ∧
      copyRefused (s.copyBlock 7) (s.ceAt 7).offMask = false ∧ s.abortDue 0x27 = false ∧
      (s.hbmHeal (s.copyBlock 7).dst (s.copyBlock 7).len).readStatus (s.copyBlock 7).dst (s.copyBlock 7).len = .ok) ∧
    (∃ s : State, s.copyRuns 7 = some 0 ∧ s.pcie.up = false ∧ (s.copyBlock 7).dstSpace = 1 ∧ s.pcie.downAt + 400000 ≤ s.now ∧
      (s.execAt 0x27).startAt + 400000 ≤ s.now) :=
  ⟨⟨wRetry {}, by decide +kernel⟩, ⟨wRetry (fullPort 6), by decide +kernel⟩, ⟨wRetry {}, by decide +kernel⟩,
   ⟨wRetry (fullPort (portNo .sw)), by decide +kernel⟩,
   ⟨wCe fillBlock, by decide +kernel⟩, ⟨wCe copyBlock64, by decide +kernel⟩, ⟨wCe hostBlock, by decide +kernel⟩⟩

/-- A read whose bytes are all in service ends OK. -/
theorem readStatus_of_all (s : State) (a : Nat) (l : List Nat) (h : l.all (fun i => s.addrStatus (a + i) == .ok) = true) :
    l.foldl (fun r i => worstOf r (s.addrStatus (a + i))) .ok = .ok := by
  induction l with
  | nil => rfl
  | cons i t ih =>
    simp only [List.all_cons, Bool.and_eq_true, beq_iff_eq] at h
    rw [List.foldl_cons, h.1]
    exact ih h.2

/-! ### Streams -/

/-- Measure stream 63 and source stream 63 in a state, on converter 3 of link 31, which is up. -/
def wStr (v : Ms) (u : Ss) : State :=
  { now := 40, hdr := upPages [pgMsf 63, pgSsg 63], pl := [(31, { state := .up })], ms := [(63, v)], ss := [(63, u)],
    regs := part0 ++ [(0x27F110, 0x1F0003), (0x2BF110, 0x1F0003)] }

theorem wit_StreamCommands :
    (∃ s : State, s.ready (pgStr (.ms 63)) = true ∧ (s.runAt (.ms 63)).inProgress = false ∧
      s.convBusy (.ms 63) (s.strConv (.ms 63)) = false ∧ (s.plAt (s.strPl (.ms 63))).state = .up ∧ s.strCfgBad (.ms 63) = none ∧
      s.cal.stagedConv.find? (fun x => x.1 = strNo (.ms 63)) = none) ∧
    (∃ s : State, s.ready (pgStr (.ms 63)) = true ∧ (s.runAt (.ms 63)).inProgress = false ∧
      s.convBusy (.ms 63) (s.strConv (.ms 63)) = true) ∧
    (∃ s : State, s.ready (pgStr (.ms 63)) = true ∧ (s.msAt 63).run.arming = true ∧ (s.msAt 63).run.held = false) ∧
    (∃ s : State, s.ready (pgStr (.ss 63)) = true ∧ (s.runAt (.ss 63)).state = .armed ∧ (s.runAt (.ss 63)).inProgress = true) ∧
    (∃ s : State, s.ready (pgStr (.ss 63)) = true ∧ (s.runAt (.ss 63)).state = .faulted) ∧
    (∃ s : State, s.ready (pgStr (.ss 63)) = true ∧ (s.ssAt 63).run.arming = true ∧ (s.ssAt 63).run.held = false ∧
      (s.ssAt 63).prefilled = false) ∧
    (∃ s : State, (s.msAt 63).run.state = .running ∧ s.ready (pgMsf 63) = true ∧
      s.convBusy (.ms 63) ((s.reg (pgMsf 63) 0x110).toNat / 2 ^ 24 % 4) = false) ∧
    (∃ (s : State) (c e : Nat), (s.msAt 63).run.state = .running ∧ (s.msAt 63).switch = some (c, e) ∧ c < 4 ∧
      s.switchDue 63 (s.msAt 63).run.next = true ∧ s.gridAt (.ms 63) (s.msAt 63).run.next ≤ s.now * 4096) :=
  ⟨⟨wStr {} {}, by decide +kernel⟩,
   ⟨{ wStr {} {} with ms := [(0, { run := { state := .armed } }), (63, {})], regs := [(0x240110, 0x1F0003), (0x27F110, 0x1F0003)] },
     by decide +kernel⟩,
   ⟨wStr { run := { arming := true } } {}, by decide⟩, ⟨wStr {} { run := { state := .armed } }, by decide⟩,
   ⟨wStr {} { run := { state := .faulted } }, by decide⟩, ⟨wStr {} { run := { arming := true } }, by decide +kernel⟩,
   ⟨wStr { run := { state := .running } } {}, by decide +kernel⟩,
   ⟨{ wStr { run := { state := .running, next := 40 }, switch := some (3, 0) } {} with now := 800 }, 3, 0, by decide +kernel⟩⟩

theorem wit_StreamSamples :
    (∃ (s : State) (h : Word32), h.toNat / 2 ^ 24 = 0x21 ∧ h.toNat / 2 ^ 16 % 16 = 0 ∧
      h.toNat / 2 ^ 22 % 4 = s.strConv (.ms 63) ∧ s.strPl (.ms 63) = 31 ∧ (s.plAt 31).state = .up ∧ (s.msAt 63).run.state = .running ∧
      s.gridOfSeq 63 (h.toNat % 65536) = (s.msAt 63).run.next ∧ (s.msAt 63).switch = none ∧
      (∀ j : Fin 64, j ≠ 63 → (s.msAt j).run.state ≠ .running ∧ (s.msAt j).run.stopEdge ≠ s.now + 1) ∧
      (∀ r ∈ (s.msAt 63).resets, s.gridAt (.ms 63) (s.msAt 63).run.next < r) ∧ (s.msAt 63).chain ≠ [] ∧
      (s.msAt 63).chain.length % s.msDec 63 ≠ 0 ∧ ((s.msAt 63).chain.length + 1) % s.msDec 63 ≠ 0 ∧
      (s.reg (pgMsf 63) 0x124).getLsbD 31 = false) ∧
    (∃ (s : State) (blk : List (Nat × Word32)), s.msReady 63 = some blk ∧ 0 < s.regN (pgMsf 63) 0x138 * 1024 ∧
      s.writeBreaks (s.reg64 (pgMsf 63) 0x130) (4 * (s.regN (pgMsf 63) 0x138 * 1024)) = none ∧
      s.readStatus (s.reg64 (pgMsf 63) 0x130) (4 * (s.regN (pgMsf 63) 0x138 * 1024)) = .ok) ∧
    (∃ (s : State) (blk : List (Nat × Word32)), s.msReady 63 = some blk ∧ s.portFull 4 = true) ∧
    (∃ (s : State) (addr len plays nxt : Nat) (fin : Bool), (s.ssAt 63).run.inProgress = true ∧ (s.ssAt 63).run.arming = false ∧
      (s.ssAt 63).fetched = false ∧ (s.ssAt 63).seg = some (addr, len, plays, nxt, fin) ∧ (s.ssAt 63).pos + 32 < len ∧
      (s.ssAt 63).buf.length + 32 ≤ 8192 ∧ s.readStatus (addr + 2 * (s.ssAt 63).pos) 64 = .ok) ∧
    (∃ s : State, (s.ssAt 63).run.state = .running ∧ (s.ssAt 63).run.startAt ≠ none ∧
      s.gridAt (.ss 63) (s.ssAt 63).run.next ≤ s.now * 4096 ∧ (s.ssAt 63).run.held = false ∧
      (s.ssAt 63).samples % s.frameLen (.ss 63) ≠ 0 ∧ (s.ssAt 63).swaps = [] ∧ (s.ssAt 63).starved = false ∧
      (s.ssAt 63).fetched = false) ∧
    (∃ s : State, s.ready (pgSsg 63) = true ∧ (s.ssAt 63).markEdge ≠ s.now + 1 ∧ (s.ssAt 63).fade.fade = none ∧
      true ≠ (s.ssAt 63).fade.active ∧ false = (s.ssAt 63).fade.active) ∧
    (∃ s : State, s.ready (pgSsg 63) = true ∧
      (s.ssAt 63).fade.busy (decide (256 ≤ s.regN (pgSsg 63) 0x130 % 512)) = false) ∧
    (∃ s : State, s.ready (pgSsg 63) = true ∧
      (s.ssAt 63).fade.busy (decide (256 ≤ s.regN (pgSsg 63) 0x130 % 512)) = true) ∧
    ∃ c : Word32, c.toNat < 2 ^ 18 :=
  ⟨⟨wStr { run := { state := .running, next := 2 }, chain := [1] } {}, 0x21C00002, by decide +kernel⟩,
   ⟨wStr { run := { state := .running }, out := 16, buf := [(15, 7)] } {}, [(15, 7)], by decide +kernel, by decide +kernel,
     by decide +kernel, readStatus_of_all _ _ _ (by decide +kernel)⟩,
   ⟨{ wStr { run := { state := .running }, out := 16, buf := [(15, 7)] } {} with
      hmc := { reqs := List.replicate 256 { id := 0, port := 4, addr := 0, loc := none, owner := 0, accepted := 0 } } }, [(15, 7)],
     by decide +kernel⟩,
   ⟨wStr {} { run := { state := .running }, seg := some (0, 64, 1, 0, false), pos := 31, buf := List.replicate 64 0 },
     0, 64, 1, 0, false, by decide +kernel⟩,
   ⟨wStr {} { run := { state := .running, startAt := some 0, next := 2 }, samples := 1, buf := List.replicate 64 0 }, by decide +kernel⟩,
   ⟨wStr {} {}, by decide⟩, ⟨{ wStr {} {} with regs := [(0x2BF130, 511)] }, by decide +kernel⟩, ⟨wStr {} {}, by decide +kernel⟩,
   0x3FFFF, by decide⟩

/-! ### Interval units -/

/-- Interval unit 31 in a state with its page READY; start on index 2 of kind 5, stop on index 3, hold-offs 0. -/
def wTim (v : Tim) (regs : Sparse Word32 := []) : State :=
  { now := 1000000, hdr := upPages [pgTim 31], tim := [(31, v)], regs := [(0x22F110, 0x58020000), (0x22F114, 0x58030000)] ++ regs }

theorem wit_IntervalUnitCommands :
    (∃ s : State, s.ready (pgTim 31) = true ∧ (s.timAt 31).inProgress = false ∧ s.timCfgBad 31 = false ∧ s.timCalBusy 31 = false ∧
      s.cal.stagedTim.find? (fun x => x.1 = 31) = none) ∧
    (∃ s : State, s.ready (pgTim 31) = true ∧ (s.timAt 31).inProgress = true) ∧
    (∃ s : State, s.ready (pgTim 31) = true ∧ (s.timAt 31).state = .armed) ∧
    (∃ s : State, s.ready (pgTim 31) = true ∧ (s.timAt 31).inProgress = true ∧ s.timDue 31 = false ∧ s.timFreq 31 = false) ∧
    (∃ s : State, s.ready (pgTim 31) = true ∧ (s.timAt 31).state = .done) ∧
    (∃ s : State, s.ready (pgTim 31) = true ∧ (s.timAt 31).state = .aborted) :=
  ⟨⟨wTim {}, by decide +kernel⟩, ⟨wTim { state := .running }, by decide +kernel⟩, ⟨wTim { state := .armed }, by decide +kernel⟩,
   ⟨wTim { state := .running }, by decide +kernel⟩, ⟨wTim { state := .done }, by decide +kernel⟩,
   ⟨wTim { state := .aborted }, by decide +kernel⟩⟩

theorem wit_IntervalUnitMeasures :
    (∃ s : State, s.tapKind 1 511 = 2 ∧ s.tapLive 2 511 true 1 = true) ∧
    (∃ (s : State) (t0 tick : Nat), (s.timAt 31).state = .running ∧ (s.timAt 31).startAt = some t0 ∧ s.tapLive 5 2 true tick = true ∧
      s.timFreq 31 = false ∧ s.oneSource 31 = false ∧ selMatch (s.reg (pgTim 31) 0x110) 5 2 true = true ∧
      selMatch (s.reg (pgTim 31) 0x114) 5 2 true = false ∧ (s.timAt 31).shot = none ∧ (s.timAt 31).doneAt = none ∧
      (s.timAt 31).readyAt = none ∧ (s.timAt 31).hold = [none, none] ∧ (s.timAt 31).gotFirst = true ∧
      atOrAfter ((s.timAt 31).edgeAt 5 tick 624) t0 = true) ∧
    (∃ (s : State) (t0 tick : Nat) (x0 raw0 : Int), (s.timAt 31).state = .running ∧ (s.timAt 31).startAt = some t0 ∧
      s.tapLive 5 3 true tick = true ∧ s.timFreq 31 = false ∧ s.oneSource 31 = false ∧ selMatch (s.reg (pgTim 31) 0x110) 5 3 true = false ∧
      selMatch (s.reg (pgTim 31) 0x114) 5 3 true = true ∧ (s.timAt 31).shot = some (x0, raw0) ∧ raw0 + 40 = 625 * (tick : Int) - 0 ∧
      (s.timAt 31).hold.getD 1 none = none ∧ (s.timAt 31).stops = s.timSkip 31) ∧
    (∃ (s : State) (t0 tick : Nat), (s.timAt 31).state = .running ∧ (s.timAt 31).startAt = some t0 ∧ s.tapLive 5 2 true tick = true ∧
      s.timFreq 31 = true ∧ selMatch (s.reg (pgTim 31) 0x110) 5 2 true = true ∧ (s.timAt 31).prev = none ∧
      (s.timAt 31).hold.getD 0 none = none ∧ atOrAfter ((s.timAt 31).edgeAt 5 tick 0) t0 = true ∧
      (s.timAt 31).edgeAt 5 tick 0 * 4096 < s.gateEnd 31 t0 ∧ (s.timAt 31).gateClosed = false) ∧
    (∃ (s : State) (i : Int), (s.timAt 31).hold.getD 1 none = some i ∧ i ≤ (s.now : Int) * 5000) ∧
    (∃ (s : State) (i : Int), (s.timAt 31).readyAt = some i ∧ i ≤ (s.now : Int) * 5000) ∧
    (∃ (s : State) (x i : Int), (s.timAt 31).shot = some (x, i) ∧ (s.timAt 31).state = .running ∧
      i + (s.timReg 31 0x11C : Int) * 2000000 ≤ (s.now : Int) * 5000 ∧ s.timReg 31 0x120 = 0) ∧
    (∃ (s : State) (x i : Int), (s.timAt 31).shot = some (x, i) ∧ (s.timAt 31).state = .running ∧
      i + (s.timReg 31 0x11C : Int) * 2000000 ≤ (s.now : Int) * 5000 ∧ s.timFreq 31 = false ∧ 0 < s.timReg 31 0x120 ∧
      s.timReg 31 0x120 = sat32 ((s.timAt 31).missed + 1)) ∧
    (∃ (s : State) (t0 : Nat), (s.timAt 31).startAt = some t0 ∧ (s.timAt 31).state = .running ∧ s.timFreq 31 = true ∧
      (s.timAt 31).gateClosed = false ∧ s.gateEnd 31 t0 ≤ (s.now : Int) * 5000 * 4096 ∧ 0 ≤ s.gateEnd 31 t0) ∧
    (∃ s : State, s.timDue 31 = true ∧ s.timFreq 31 = false ∧ 0 < (s.timAt 31).shots) ∧
    (∃ k s1 s2 : Nat, 2 ≤ k ∧ s1 * s1 ≤ k * s2 ∧ 10000 * (k * s2 - s1 * s1) < 2 ^ 192 ∧ 0 < sampleDev k s1 s2) ∧
    ∃ k s1 s2 : Nat, k < 2 ∧ s1 * s1 ≤ k * s2 ∧ 10000 * (k * s2 - s1 * s1) < 2 ^ 192 :=
  ⟨⟨{ wTim {} with regs := [(0x5FF104, 4)], bank := [(15, { state := .on })] }, by decide +kernel⟩,
   ⟨wTim { state := .running, startAt := some 0, gotFirst := true }, 0, 1, by decide +kernel⟩,
   ⟨wTim { state := .running, startAt := some 0, shot := some (585, 585) }, 0, 1, 585, 585, by decide +kernel⟩,
   ⟨wTim { state := .running, startAt := some 0 } [(0x22F10C, 0x80000000)], 0, 0, by decide +kernel⟩,
   ⟨wTim { hold := [none, some 5000000000] }, 5000000000, by decide⟩, ⟨wTim { readyAt := some 5000000000 }, 5000000000, by decide⟩,
   ⟨wTim { state := .running, shot := some (0, 0) }, 0, 0, by decide +kernel⟩,
   ⟨wTim { state := .running, shot := some (0, 0) } [(0x22F120, 1)], 0, 0, by decide +kernel⟩,
   ⟨wTim { state := .running, startAt := some 0 } [(0x22F10C, 0x80000000)], 0, by decide +kernel⟩,
   ⟨wTim { state := .running, doneAt := some 1000000, shots := 1 }, by decide +kernel⟩,
   ⟨2, 3, 5, by decide +kernel⟩, 1, 3, 9, by decide⟩

/-! ### Time domains -/

/-- Domain 3 with its configuration, page READY, port 5 up in version 2. -/
def wTd (cfg : Word32) (v : TimeDom) : State :=
  { now := 100, hdr := upPages [pgTime 3], regs := [(0x13100, cfg)], td := [(3, v)],
    zp := [(5, { state := .up, version := 2, credMsg := 1 })] }

theorem wit_DomainSteering :
    (∃ (s : State) (θ : Int), s.pairEn 3 = false ∧ s.tdSrc 3 = 2 ∧
      ¬ ((s.reg (pgTime 3) 0x100).getLsbD 8 = true ∧ (s.regN (pgTime 3) 0x168 : Int) * 2 ^ 41 < (θ.natAbs : Int) * 5) ∧
      (s.tdAt 3).state ≠ .holdover) ∧
    (∃ (s : State) (θ : Int), s.pairEn 3 = false ∧ s.tdSrc 3 = 2 ∧ (s.reg (pgTime 3) 0x100).getLsbD 8 = true ∧
      (s.regN (pgTime 3) 0x168 : Int) * 2 ^ 41 < (θ.natAbs : Int) * 5) ∧
    (∃ s : State, s.pairEn 3 = false ∧ s.steered 3 = true ∧ (s.tdAt 3).missRun = 1) ∧
    (∃ s : State, s.pairEn 3 = false ∧ s.steered 3 = true ∧ (s.tdAt 3).missRun = 2 ∧
      (s.reg (pgTime 3) 0x100).getLsbD 9 = false) ∧
    (∃ (s : State) (t1 t2 t3 : Word64), s.pairEn 3 = false ∧ s.timePort 5 = true ∧ s.tdSrc 3 = 3 ∧ s.tdPort 3 = 5 ∧
      (s.tdAt 3).exch = some (t1, t2, t3)) :=
  ⟨⟨wTd 2 { state := .acquire }, -5, by decide +kernel⟩, ⟨wTd 0x102 { state := .acquire }, 2 ^ 60, by decide +kernel⟩,
   ⟨wTd 3 { missRun := 1 }, by decide +kernel⟩, ⟨wTd 3 { missRun := 2 }, by decide +kernel⟩,
   ⟨wTd 0x53 { exch := some (1, 2, 3) }, 1, 2, 3, by decide +kernel⟩⟩

theorem wit_TimeTransferMessages :
    (∃ s : State, s.timePort 5 = true ∧ s.servesTd 3 5 = true ∧ (s.zpAt 5).waiting = [] ∧ (s.zpAt 5).canSend = true) ∧
    (∃ s : State, s.timePort 5 = true ∧ s.tdSrc 3 = 3 ∧ s.tdPort 3 = 5) :=
  ⟨⟨wTd 0x200000 {}, by decide +kernel⟩, ⟨wTd 0x53 {}, by decide +kernel⟩⟩

theorem wit_TimeBase :
    (∃ s : State, s.ready (pgTime 3) = true ∧ s.tdSrc 3 = 1) ∧
    (∃ s : State, s.ready (pgTime 3) = true ∧ s.pairEn 3 = true ∧ (s.pairAt 1).switchEdge ≠ s.now + 1 ∧ s.standbyLocked 1 = true) ∧
    (∃ s : State, s.ready (pgTime 3) = true ∧ s.pairEn 3 = true ∧ (s.pairAt 1).switchEdge ≠ s.now + 1 ∧ s.standbyLocked 1 = false) ∧
    (∃ s : State, s.ready (pgTime 0) = true ∧ (∀ q < 64, s.inProgress q = false) ∧ s.anyStream = false ∧ s.anyTim = false ∧
      s.pulsed = false) ∧
    (∃ s : State, s.ready (pgTime 0) = true ∧ (∀ q < 64, s.inProgress q = false) ∧ s.anyStream = false ∧ s.anyTim = false ∧
      s.pulsed = true ∧ s.sync.pulseAt = some (s.now * 4096 + 4095)) ∧
    (∃ s : State, s.ready (pgTime 0) = true ∧ ¬ ((∀ q < 64, s.inProgress q = false) ∧ s.anyStream = false ∧ s.anyTim = false)) ∧
    (∃ s : State, s.mgt.pllLocked = true ∧ s.sync.fixed = false) ∧
    (∃ s : State, s.mgt.pllLocked = true ∧ s.sync.rephase = true ∧ s.follows (s.now * 4096 + 1) s.sync.rephaseEdge = true) ∧
    (∃ s : State, (s.tdAt 3).loadPending = true ∧ s.follows (s.now * 4096 + 1) (s.tdAt 3).loadEdge = true) ∧
    (∃ s : State, (s.tdAt 3).loadAt = some s.now) ∧
    (∃ s : State, (s.tdAt 3).loadAt ≠ some s.now ∧ s.tdSrc 3 = 1 ∧ (s.tdAt 3).loaded = false) ∧
    (∃ s : State, (s.tdAt 3).loadAt ≠ some s.now ∧ s.tdSrc 3 = 1 ∧ (s.tdAt 3).loaded = true) ∧
    (∃ s : State, (s.tdAt 3).loadAt ≠ some s.now ∧ s.steered 3 = true) ∧
    (∃ s : State, (s.tdAt 3).loadAt ≠ some s.now ∧ s.tdSrc 3 = 0) :=
  ⟨⟨wTd 1 {}, by decide +kernel⟩,
   ⟨{ wTd 0 { state := .locked } with regs := [(0x1210C, 0x80000000)] }, by decide +kernel⟩,
   ⟨{ wTd 0 {} with regs := [(0x1210C, 0x80000000)] }, by decide +kernel⟩,
   ⟨{ hdr := upPages [pgTime 0] }, by decide +kernel⟩,
   ⟨{ hdr := upPages [pgTime 0], sync := { pulseAt := some 4095 } }, by decide +kernel⟩,
   ⟨{ hdr := upPages [pgTime 0], seq := [(63, { state := .armed })] }, by decide +kernel⟩,
   ⟨{ mgt := { pllLocked := true } }, by decide⟩,
   ⟨{ mgt := { pllLocked := true }, sync := { fixed := true, rephase := true, rephaseEdge := 1 } }, by decide⟩,
   ⟨wTd 1 { loadPending := true, loadEdge := 101 }, by decide⟩,
   ⟨wTd 1 { loadAt := some 100 }, by decide⟩, ⟨wTd 1 {}, by decide +kernel⟩, ⟨wTd 1 { loaded := true }, by decide +kernel⟩,
   ⟨wTd 2 {}, by decide +kernel⟩, ⟨wTd 0 {}, by decide +kernel⟩⟩

/-! ### Calibration and fuses -/

/-- The calibration unit with RUN's target register and its page READY; bank 15 on. -/
def wCal (target : Word32) (v : Cal) : State :=
  { hdr := upPages [pgCal], regs := [(0x380100, 0x3F), (0x38010C, target)], bank := [(15, { state := .on })], cal := v }

theorem wit_CalibrationCommands :
    (∃ s : State, s.ready pgCal = true ∧ targetOk ((s.reg pgCal 0x10C).toNat / 2 ^ 28) ((s.reg pgCal 0x10C).toNat % 65536) = false) ∧
    (∃ s : State, s.ready pgCal = true ∧ targetOk ((s.reg pgCal 0x10C).toNat / 2 ^ 28) ((s.reg pgCal 0x10C).toNat % 65536) = true ∧
      (s.reg pgCal 0x10C).toNat / 2 ^ 28 ≠ 3 ∧ s.cal.running = none ∧
      s.calFree ((s.reg pgCal 0x10C).toNat / 2 ^ 28) ((s.reg pgCal 0x10C).toNat % 65536) = true) ∧
    (∃ s : State, s.ready pgCal = true ∧ targetOk ((s.reg pgCal 0x10C).toNat / 2 ^ 28) ((s.reg pgCal 0x10C).toNat % 65536) = true ∧
      (s.reg pgCal 0x10C).toNat / 2 ^ 28 ≠ 3 ∧ s.cal.running ≠ none) ∧
    (∃ s : State, s.ready pgCal = true ∧ targetOk ((s.reg pgCal 0x10C).toNat / 2 ^ 28) ((s.reg pgCal 0x10C).toNat % 65536) = true ∧
      (s.reg pgCal 0x10C).toNat / 2 ^ 28 ≠ 3 ∧
      s.calFree ((s.reg pgCal 0x10C).toNat / 2 ^ 28) ((s.reg pgCal 0x10C).toNat % 65536) = false) ∧
    (∃ s : State, s.ready pgCal = true ∧ s.cal.running = some (1, 511)) ∧
    (∃ (s : State) (v : Word32), s.ready pgCal = true ∧ v.toNat < 65536 ∧ (s.reg pgCal 0x180).toNat / 65536 % 4 ≠ 3 ∧
      s.chanInUse ((s.reg pgCal 0x180).toNat % 512) = true) ∧
    (∃ (s : State) (v : Word32), s.ready pgCal = true ∧ v.toNat < 65536 ∧ (s.reg pgCal 0x180).toNat / 65536 % 4 ≠ 3 ∧
      s.chanInUse ((s.reg pgCal 0x180).toNat % 512) = false ∧ s.chanFinalNow ((s.reg pgCal 0x180).toNat % 512) = none) ∧
    (∃ (s : State) (v : Word32), s.ready pgCal = true ∧ v.toNat < 65536 ∧ (s.reg pgCal 0x180).toNat / 65536 % 4 ≠ 3 ∧
      s.chanInUse ((s.reg pgCal 0x180).toNat % 512) = false ∧
      (s.chanFinalNow ((s.reg pgCal 0x180).toNat % 512)).isSome = true) :=
  ⟨⟨wCal 0x10000200 {}, by decide +kernel⟩, ⟨wCal 0x100001FF {}, by decide +kernel⟩,
   ⟨wCal 0x100001FF { running := some (9, 0) }, by decide +kernel⟩, ⟨wCal 0x10000000 {}, by decide +kernel⟩,
   ⟨wCal 0 { running := some (1, 511) }, by decide⟩,
   ⟨{ wCal 0 {} with seq := [(63, { state := .running, cast := { map := [0] } })] }, 0xFFFF, by decide +kernel⟩,
   ⟨wCal 0 {}, 0xFFFF, by decide +kernel⟩,
   ⟨{ wCal 0 {} with seq := [(63, { state := .done, finalEdge := 1, cast := { map := [0] } })] }, 0xFFFF, by decide +kernel⟩⟩

theorem wit_CalibrationMeasurements :
    (∃ s : State, s.ready pgCal = true ∧ targetOk 1 480 = true ∧ s.cal.running = none ∧ s.calFree 1 480 = true ∧
      s.calScheduled 1 480 = true ∧ s.calBefore 1 480 = false) ∧
    (∃ (s : State) (b : Nat), s.cal.running = some (1, 511) ∧ calBank 1 511 = some b ∧ s.calWanted 1 511 = true) ∧
    (∃ s : State, s.cal.running = some (1, 511) ∧ (s.chanInUse 511 = true ∨ s.chanFinalNow 511 = none)) :=
  ⟨⟨wCal 0 {}, by decide +kernel⟩, ⟨{ wCal 0 { running := some (1, 511) } with bank := [(15, { state := .pendingOff })] }, 15, by decide +kernel⟩,
   ⟨wCal 0 { running := some (1, 511) }, by decide +kernel⟩⟩

/-- The fuse page with the length of a burn, VQPS good or not. -/
def wFuse (len : Word32) (vqps : Bool) (f : Fuse) : State :=
  { now := 4000, hdr := upPages [pgFuse], regs := [(0x2110, len <<< 16)], mgt := { rails := if vqps then 0x7F else 0x3F }, fuse := f }

theorem wit_FuseRecords :
    let len := fun (s : State) => (s.reg pgFuse 0x110).toNat / 65536 % 256
    (∃ s : State, s.ready pgFuse = true ∧ s.fuse.burn ≠ none) ∧
    (∃ s : State, s.ready pgFuse = true ∧ s.fuse.burn = none ∧ s.fuse.free = len s) ∧
    (∃ s : State, s.ready pgFuse = true ∧ s.fuse.burn = none ∧ len s + 1 = s.fuse.free ∧ s.vqps = false) ∧
    (∃ s : State, s.ready pgFuse = true ∧ s.fuse.burn = none ∧ len s + 1 ≤ s.fuse.free ∧ s.vqps = true ∧ len s = 0) ∧
    (∃ s : State, s.ready pgFuse = true ∧ s.fuse.burn = none ∧ len s + 1 ≤ s.fuse.free ∧ s.vqps = true ∧ len s = 65) ∧
    (∃ s : State, s.ready pgFuse = true ∧ s.fuse.burn = none ∧ len s + 1 ≤ s.fuse.free ∧ s.vqps = true ∧ len s = 64) ∧
    (∃ (s : State) (b n : Nat) (w : Word32) (l : List (Nat × Word32)) (e : Nat),
      s.fuse.burn = some { block := b, words := (n, w) :: l, edge := e } ∧ s.fuseWord n ||| w = w ∧ e + 4000 ≤ s.now ∧ l = []) ∧
    (∃ (s : State) (b n : Nat) (w : Word32) (l : List (Nat × Word32)) (e : Nat),
      s.fuse.burn = some { block := b, words := (n, w) :: l, edge := e } ∧ s.fuseWord n ||| w = w ∧ e + 4000 ≤ s.now ∧ l ≠ []) :=
  ⟨⟨wFuse 1 true { burn := some { block := 0, words := [], edge := 0 } }, by decide⟩, ⟨wFuse 64 true { free := 64 }, by decide +kernel⟩,
   ⟨wFuse 64 false { free := 65 }, by decide +kernel⟩, ⟨wFuse 0 true { free := 184 }, by decide +kernel⟩,
   ⟨wFuse 65 true { free := 184 }, by decide +kernel⟩, ⟨wFuse 64 true { free := 184 }, by decide +kernel⟩,
   ⟨wFuse 1 true { burn := some { block := 0, words := [(2047, 5)], edge := 0 } }, _, _, _, _, _, rfl, by decide⟩,
   ⟨wFuse 1 true { burn := some { block := 0, words := [(576, 5), (577, 6)], edge := 0 } }, _, _, _, _, _, rfl, by decide⟩⟩

/-! ### HBM controller -/

/-- Request 4 of the work port to pseudo-channel 63. -/
def aRequest : HbmReq := { id := 4, port := 5, addr := 0, loc := some (63, 0), owner := 0, accepted := 0 }
/-- The controller with pseudo-channel 63 in service. -/
def wHmc (v : Hmc) : State :=
  { now := 1560, hdr := upPages [pgHmc], regs := part0, hmc := { v with pcs := [(63, { state := .inService })] } }
/-- 256 requests in one port's queue, 64 for the last port. -/
def portQueue (q n : Nat) : List HbmReq := List.replicate n { aRequest with port := q }

theorem wit_HbmRequests :
    (∃ s : State, s.portFull (portNo .mt) = false) ∧ (∃ s : State, s.portFull (portNo .ha) = true ∧ portMayRefuse .ha = true) ∧
    (∃ s : State, s.portFull (portNo .mt) = true ∧ portMayRefuse .mt = false) ∧
    (∃ (s : State) (r : HbmReq), s.nextIssue 63 = some r) ∧
    (∃ (s : State) (r : HbmReq) (x : Nat × Nat), s.hmc.reqs.find? (fun y => y.id = 4) = some r ∧ r.issued = true ∧ r.forced = none ∧
      r.stale = false ∧ r.loc = some x ∧ (s.stackAt (x.1 / 32)).changing = false ∧ s.blockOrdered r = false) :=
  ⟨⟨wHmc { reqs := portQueue 7 63 }, by decide +kernel⟩, ⟨wHmc { reqs := portQueue 6 256 }, by decide +kernel⟩,
   ⟨wHmc { reqs := portQueue 7 64 }, by decide +kernel⟩,
   ⟨wHmc { reqs := [aRequest, { aRequest with id := 5 }] }, aRequest, by decide +kernel⟩,
   ⟨wHmc { reqs := [{ aRequest with issued := true }] }, _, _, rfl, rfl, rfl, rfl, rfl, rfl, by decide⟩⟩

theorem wit_HbmServiceAndTraining :
    (∃ s : State, (s.pcAt 63).state = .inService ∧ (s.pcAt 63).refAt + 1560 / (s.pcAt 63).refMult ≤ s.now) ∧
    (∃ s : State, (s.reg pgHmc 0x100).getLsbD 31 = true ∧ (s.stackAt 1).selfRefresh = false ∧ (s.stackAt 1).changing = false ∧
      (s.stackAt 1).training = false ∧ s.stackUsed 1 = false ∧
      (s.stackAt 1).lastReq + (s.reg pgHmc 0x100).toNat % 65536 * 400 ≤ s.now) ∧
    (∃ s : State, (s.stackAt 1).selfRefresh = true ∧ (s.stackAt 1).training = false ∧ s.stackUsed 1 = true) ∧
    (∃ (s : State) (x : Nat × Nat), s.locate 0x3FFFFC0 = some x ∧ (s.pcAt x.1).state = .inService ∧
      s.hbmBad.contains (hbmKey x / 64) = false) ∧
    (∃ s : State, s.locate 0x3FFFFC0 = some (0, 0x3FFFFC0) ∧ (s.pcAt 0).state = .inService) ∧
    (∃ s : State, s.ready pgHmc = true ∧ s.inProgress 63 = true) ∧
    (∃ s : State, s.ready pgHmc = true ∧ (∀ n < 64, s.inProgress n = false) ∧ s.anyStream = false ∧
      (s.stackAt 1).stepEdge ≠ s.now + 1 ∧ (s.stackAt 1).training = false ∧ (s.stackAt 0).changing = false ∧
      (s.stackAt 1).changing = false ∧ ∃ r ∈ s.hmc.reqs, r.id < s.hmc.nextId ∧ r.loc.map (fun x => x.1 / 32) = some 1) ∧
    (∃ s : State, (s.stackAt 1).training = true ∧ (s.stackAt 1).deferred = none) ∧
    (∃ (s : State) (rep : TrainRep), (s.stackAt 1).training = true ∧ (s.stackAt 1).deferred = none ∧ rep.failed = 0 ∧
      s.mgt.stage ≠ .hbm ∧ ∀ n, 32 ≤ n ∧ n < 64 → (s.hdrAt (pgPc n)).busy = false ∧ (s.pcAt n).state ≠ .failed) ∧
    (∃ s : State, (s.pcAt 63).state = .inService) ∧ (∃ s : State, (s.pcAt 63).state = .selfRefresh) :=
  ⟨⟨wHmc {}, by decide⟩, ⟨{ wHmc {} with regs := [(0xC0100, 0x80000003)] }, by decide +kernel⟩,
   ⟨wHmc { hstacks := [(1, { selfRefresh := true })], reqs := [aRequest] }, by decide +kernel⟩,
   ⟨{ wHmc {} with hmc := { pcs := [(0, { state := .inService })] } }, (0, 0x3FFFFC0), by decide +kernel⟩,
   ⟨{ wHmc {} with hmc := { pcs := [(0, { state := .inService })] } }, by decide +kernel⟩,
   ⟨{ wHmc {} with seq := [(63, { state := .armed })] }, by decide⟩,
   ⟨wHmc { reqs := [aRequest], nextId := 5 }, by decide +kernel⟩, ⟨wHmc { hstacks := [(1, { training := true })] }, by decide⟩,
   ⟨wHmc { hstacks := [(1, { training := true })] }, { fom := [], failed := 0, repaired := 0 }, rfl, rfl, rfl, by decide,
     fun n h => by obtain ⟨h1, h2⟩ := h; interval_cases n <;> exact ⟨rfl, by decide⟩⟩,
   ⟨wHmc {}, rfl⟩, ⟨{ wHmc {} with hmc := { pcs := [(63, { state := .selfRefresh })] } }, rfl⟩⟩

/-! ### Zheind ports -/

/-- Port 5 in a state, enabled for version 2, its page READY. -/
def wZp (v : Zp) : State := { now := 800000, hdr := upPages [pgZp 5], regs := [(0x25100, 0x80000002)], zp := [(5, v)] }

theorem wit_ZheindTraining :
    (∃ s : State, (s.zpAt 5).state = .training ∧ (s.zpAt 5).step = 1 ∧ (s.zpAt 5).hellos = 2) ∧
    (∃ s : State, (s.zpAt 5).state = .training ∧ (s.zpAt 5).step = 3 ∧ (s.zpAt 5).rateDefer = none) ∧
    (∃ s : State, (s.zpAt 5).state = .training ∧ (s.zpAt 5).step = 6 ∧ (s.zpAt 5).rateDefer = none ∧ (s.zpAt 5).kept = [] ∧
      (s.zpAt 5).waiting = []) ∧
    (∃ s : State, (s.zpAt 5).state = .training ∧ 2 ≤ (s.zpAt 5).step ∧ (s.zpAt 5).stepAt + 80000 ≤ s.now ∧
      (s.zpAt 5).retrain = false ∧ (s.zpAt 5).attempts = 1) ∧
    (∃ s : State, (s.zpAt 5).state = .training ∧ (s.zpAt 5).step = 1 ∧ (s.zpAt 5).attemptAt + 800000 ≤ s.now ∧
      (s.zpAt 5).retrain = false ∧ (s.zpAt 5).lateFail = false ∧ (s.zpAt 5).attempts = 2) ∧
    (∃ s : State, (s.zpAt 5).state = .absent ∧ (s.zpAt 5).probeAt ≤ s.now) ∧
    (∃ s : State, s.ready (pgZp 5) = true ∧ s.zpOn 5 = true ∧ (s.zpAt 5).state = .down ∧ (s.zpAt 5).retrain = false ∧
      (s.zpAt 5).restartAt = 0) ∧
    (∃ s : State, s.ready (pgZp 5) = true ∧ (s.zpAt 5).state = .absent ∧ s.zpVerMax 5 ≠ 1 ∧ (s.zpAt 5).stepEdge ≠ s.now + 1) ∧
    (∃ s : State, s.zpOn 5 = true ∧ (s.zpAt 5).restartAt ≠ 0 ∧ (s.zpAt 5).restartAt ≤ s.now ∧ (s.zpAt 5).state = .training) :=
  ⟨⟨wZp { state := .training, step := 1, hellos := 2 }, by decide⟩, ⟨wZp { state := .training, step := 3 }, by decide⟩,
   ⟨wZp { state := .training, step := 6 }, by decide⟩, ⟨wZp { state := .training, step := 2, stepAt := 720000, attempts := 1 }, by decide⟩,
   ⟨wZp { state := .training, step := 1, attempts := 2 }, by decide⟩, ⟨wZp { state := .absent, probeAt := 800000 }, by decide⟩,
   ⟨wZp { state := .down }, by decide +kernel⟩, ⟨wZp { state := .absent }, by decide +kernel⟩,
   ⟨wZp { state := .training, restartAt := 800000 }, by decide +kernel⟩⟩

/-- An IDLE flit of zeros, with byte 5 as given (NAK is its bit 6) and its CRC. -/
def idleFlit (b5 : Byte) : List Byte :=
  let l := List.replicate 5 0 ++ b5 :: List.replicate 54 0
  l ++ leBytes 4 (crc32 l).toNat

theorem wit_ZheindService :
    (∃ (s : State) (b : List Byte), (s.zpAt 5).isUp = true ∧ flitGood b = false ∧ b.length = 64 ∧ (s.zpAt 5).refusing = false) ∧
    (∃ (s : State) (b : List Byte), (s.zpAt 5).isUp = true ∧ flitGood b = true ∧ (Flit.ofBytes b).kind = 0 ∧
      (Flit.ofBytes b).nak = false ∧ (s.zpAt 5).txSparing = false ∧ (s.zpAt 5).waiting = []) ∧
    (∃ (s : State) (b : List Byte), (s.zpAt 5).isUp = true ∧ flitGood b = true ∧ (Flit.ofBytes b).kind = 0 ∧
      (Flit.ofBytes b).nak = true ∧ (s.zpAt 5).txSparing = true ∧ (s.zpAt 5).markEnd = none ∧
      ackKept (Flit.ofBytes b).ack (s.zpAt 5).kept = [] ∧ (s.zpAt 5).waiting = []) ∧
    (∃ s : State, (s.zpAt 5).isUp = true ∧ (s.zpAt 5).kept ≠ [] ∧ (s.zpAt 5).markEnd = none ∧ (s.zpAt 5).ackAt + 1600 ≤ s.now ∧
      ∀ k ∈ (s.zpAt 5).kept, k.replays = 7) ∧
    (∃ s : State, (s.zpAt 5).isUp = true ∧ (s.zpAt 5).version = 2 ∧ (s.zpAt 5).rxFailed = 0) ∧
    (∃ (s : State) (mask : BitVec 9) (m : Bool × Bool), (s.zpAt 5).isUp = true ∧ (s.zpAt 5).version = 2 ∧ laneMap mask = some m) ∧
    (∃ (s : State) (e : Nat), (s.zpAt 5).isUp = true ∧ (s.zpAt 5).markEnd = some e ∧ e ≤ s.now) ∧
    (∃ (s : State) (m : Bool × Bool), (s.zpAt 5).isUp = true ∧ (s.zpAt 5).markEnd = none ∧ (s.zpAt 5).rxSparing = true ∧
      laneMap (s.zpAt 5).rxFailed = some m) ∧
    (∃ s : State, (s.zpAt 5).isUp = true ∧ s.align = [] ∧ ∀ d < 4, s.tdSrc d ≠ 3) :=
  ⟨⟨wZp { state := .up }, List.replicate 64 0, by decide +kernel⟩, ⟨wZp { state := .upHalf }, idleFlit 0, by decide +kernel⟩,
   ⟨wZp { state := .up, txSparing := true }, idleFlit 0x40, by decide +kernel⟩,
   ⟨wZp { state := .up, kept := [{ seq := 0, msg := .arrive 0, replays := 7 }], ackAt := 798400 }, by decide⟩,
   ⟨wZp { state := .up, version := 2 }, by decide⟩, ⟨wZp { state := .up, version := 2 }, 0x10F, (false, true), by decide +kernel⟩,
   ⟨wZp { state := .up, markEnd := some 800000 }, 800000, by decide⟩,
   ⟨wZp { state := .up, rxSparing := true, rxFailed := 0x81 }, (false, true), by decide +kernel⟩, ⟨wZp { state := .up }, by decide +kernel⟩⟩

/-! ### PE links and the endpoint -/

/-- Link 31 in a state, enabled, with a PE component of 33 words. -/
def wPl (v : Pl) : State :=
  { now := 6400, hdr := upPages [pgPl 31], regs := [(0x4F100, 0x80000000)], pl := [(31, v)], mgt := { peImage := List.replicate 132 0 } }
/-- A descriptor of protocol 2. -/
def aDesc : PeDesc := { major := 2, minor := 0, fw := 0, channels := 16, vlo := [0, 0, 0, 0], vhi := [0, 0, 0, 0] }

theorem wit_PeLinks :
    (∃ s : State, (s.plAt 31).state = .up ∧ (s.plAt 31).hbEdge = 0 ∧ (s.plAt 31).hbSent = false) ∧
    (∃ s : State, (s.plAt 31).state = .up ∧ (s.plAt 31).hbEdge = 0 ∧ (s.plAt 31).hbAcked = true ∧ (s.plAt 31).hbAt + 400 ≤ s.now ∧
      (s.plAt 31).hbSent = true) ∧
    (∃ (s : State) (hb : BitVec 16), (s.plAt 31).state = .up ∧ (s.plAt 31).hbSent = true ∧ (s.plAt 31).hbEdge = 0 ∧
      hb.toNat = (s.plAt 31).hbSeq) ∧
    (∃ (s : State) (f : CtrlFrame), f ∈ (s.plAt 31).ctrl ∧ f.seq = 4095) ∧
    (∃ s : State, (∀ g ∈ (s.plAt 31).ctrl, g.seq ≠ 4095) ∧ 4095 ∈ (s.plAt 31).lostCtrl) ∧
    (∃ s : State, (∀ g ∈ (s.plAt 31).ctrl, g.seq ≠ 4095) ∧ 4095 ∉ (s.plAt 31).lostCtrl) ∧
    (∃ s : State, (s.plAt 31).state = .training) ∧
    (∃ (s : State) (f : CtrlFrame), (s.plAt 31).ctrl.find? (fun g => g.sentAt + 1600 ≤ s.now) = some f ∧ f.resends = 2) ∧
    (∃ (s : State) (d : PeDesc), (s.plAt 31).state = .training ∧ (s.plAt 31).locked = true ∧ d.major = 2 ∧ d.fw = s.mgt.peVer) ∧
    (∃ s : State, (s.plAt 31).state = .version ∧ (s.plAt 31).updSent + 32 < s.mgt.peWords.length) ∧
    (∃ s : State, (s.plAt 31).state = .up ∧ (∀ q < 64, ∀ c ∈ (s.seqAt q).cast.chans, c / 16 ≠ 31) ∧ ∀ m, s.strPl m ≠ 31) ∧
    (∃ s : State, (s.plAt 31).state = .lost ∧ (s.plAt 31).pauseEnd ≠ 0 ∧ (s.plAt 31).pauseEnd ≤ s.now ∧ s.plOn 31 = true) :=
  ⟨⟨wPl { state := .up }, by decide⟩, ⟨wPl { state := .up, hbSent := true, hbAt := 6000 }, by decide⟩,
   ⟨wPl { state := .up, hbSent := true, hbSeq := 65535 }, 65535, by decide⟩,
   ⟨wPl { ctrl := [{ seq := 4095, op := .switch 0 }] }, { seq := 4095, op := .switch 0 }, by decide⟩,
   ⟨wPl { lostCtrl := [4095] }, by decide⟩, ⟨wPl { ctrl := [{ seq := 0, op := .switch 0 }] }, by decide⟩,
   ⟨wPl { state := .training }, rfl⟩,
   ⟨wPl { ctrl := [{ seq := 0, op := .switch 0, resends := 2, sentAt := 4800 }] }, _, rfl, rfl⟩,
   ⟨wPl { state := .training, locked := true }, aDesc, by decide⟩, ⟨wPl { state := .version }, by decide +kernel⟩,
   ⟨wPl { state := .up }, rfl, by decide +kernel, fun m => by
      have h : ∀ i : Fin 64, (wPl { state := .up }).strPl (.ms i) ≠ 31 ∧ (wPl { state := .up }).strPl (.ss i) ≠ 31 := by decide +kernel
      cases m with
      | ms i => exact (h i).1
      | ss i => exact (h i).2⟩,
   ⟨wPl { state := .lost, pauseEnd := 6400 }, by decide +kernel⟩⟩

/-- The endpoint, with the first 64 MiB of HBM mapped. -/
def wPcie (v : PcieEp) : State := { now := 26, regs := part0, pcie := v, mgt := { phase := .up, refclk := true } }

theorem wit_PcieEndpoint :
    let a := fun (s : State) (off : Nat) => (s.reg pgPcie 0x104).toNat % 1024 * 2 ^ 26 + off
    (∃ s : State, s.pcie.up = true ∧ s.portFull 6 = false ∧ s.readStatus (a s 0x3FFFFF8) 8 = .ok) ∧
    (∃ s : State, s.pcie.up = true ∧ s.portFull 6 = false ∧ s.writeBreaks (a s 0x3FFFFF8) 8 = none ∧
      (s.hbmHeal (a s 0x3FFFFF8) 8).readStatus (a s 0x3FFFFF8) 8 = .ok) ∧
    (∃ s : State, s.pcie.up = true ∧ s.portFull 6 = true) ∧
    (∃ (s : State) (b : Bar4Retry) (rest : List Bar4Retry), s.pcie.bar4 = b :: rest ∧ b.at_ + 26 ≤ s.now ∧ s.portFull 6 = false ∧
      b.write = none ∧ b.res = .ok ∧ s.readStatus b.off b.len = .ok) ∧
    (∃ (s : State) (b : Bar4Retry) (rest : List Bar4Retry) (l : List Byte), s.pcie.bar4 = b :: rest ∧ b.at_ + 26 ≤ s.now ∧
      s.portFull 6 = false ∧ b.write = some l ∧ b.res = .ok ∧ (s.hbmHeal b.off l.length).readStatus b.off l.length = .ok) ∧
    (∃ s : State, s.pcie.up = false ∧ s.mgt.phase ≠ .unpowered ∧ s.mgt.phase ≠ .reset ∧ s.mgt.refclk = true) :=
  ⟨⟨wPcie { up := true }, by decide +kernel⟩, ⟨wPcie { up := true }, by decide +kernel⟩,
   ⟨{ wPcie { up := true } with hmc := { reqs := portQueue 6 256 } }, by decide +kernel⟩,
   ⟨wPcie { bar4 := [{ off := 0, write := none, len := 8, res := .ok, at_ := 0 }] }, _, _, rfl, by decide +kernel⟩,
   ⟨wPcie { bar4 := [{ off := 0, write := some [1, 2], len := 2, res := .ok, at_ := 0 }] }, _, _, [1, 2], rfl, by decide +kernel⟩,
   ⟨wPcie {}, by decide⟩⟩

/-! ### Registers and pages -/

theorem wit_PageHeaderCommands :
    (∃ page : BitVec 16, pageExists page.toNat = true) ∧ (∃ page : BitVec 16, pageExists page.toNat = false) ∧
    (∃ (s : State) (c : BitVec 16) (i : Word32), (s.hdrAt pgTss).errCyc = some (s.now, c, i)) ∧
    (∃ s : State, ∀ e c i, (s.hdrAt pgTss).errCyc = some (e, c, i) → e ≠ s.now) ∧
    (∃ s : State, (s.hdrAt pgTss).freeze = false) ∧ (∃ s : State, (s.hdrAt pgTss).freeze = true) ∧
    (∃ s : State, (s.hdrAt pgTss).busy = true) ∧ (∃ s : State, (s.hdrAt pgTss).up = false) ∧
    (∃ s : State, (s.hdrAt 0x17F).busy = false ∧ (s.hdrAt 0x17F).up = true ∧ s.resetRefused 0x17F = true) ∧
    (∃ s : State, (s.hdrAt 0x1FF).busy = false ∧ (s.hdrAt 0x1FF).up = true ∧ s.resetRefused 0x1FF = false) :=
  ⟨⟨0x610, by decide⟩, ⟨0x611, by decide⟩, ⟨{ hdr := [(pgTss, { errCyc := some (0, 7, 9) })] }, 7, 9, rfl⟩,
   ⟨{ now := 1, hdr := [(pgTss, { errCyc := some (0, 7, 9) })] }, fun e c i h => by cases h; decide⟩, ⟨{}, rfl⟩,
   ⟨{ hdr := [(pgTss, { freeze := true })] }, rfl⟩, ⟨{ hdr := [(pgTss, { up := true, busy := true })] }, rfl⟩, ⟨{}, rfl⟩,
   ⟨{ hdr := upPages [0x17F], seq := [(63, { state := .armed })] }, by decide⟩, ⟨{ hdr := upPages [0x1FF] }, by decide⟩⟩

theorem wit_RegisterWrites :
    (∃ (page : Fin 0x100) (off : Fin 0xF00), off.val % 4 = 0 ∧ specAt (page.val + 0x100) (off.val + 0x100) = none) ∧
    (∃ (page : Fin 0x100) (off : Fin 0xF00) (v : Word32) (r : RegSpec), off.val % 4 = 0 ∧
      specAt (page.val + 0x100) (off.val + 0x100) = some r ∧ v &&& ~~~ (r.rw ||| r.other) ≠ 0) ∧
    (∃ (page : Fin 0x100) (off : Fin 0xF00) (v : Word32) (r : RegSpec) (s : State), off.val % 4 = 0 ∧
      specAt (page.val + 0x100) (off.val + 0x100) = some r ∧ v &&& ~~~ (r.rw ||| r.other) = 0 ∧
      s.ready (page.val + 0x100) = false ∧ s.resetNow (page.val + 0x100) = false) ∧
    (∃ (page : Fin 0x100) (off : Fin 0xF00) (v : Word32) (r : RegSpec), off.val % 4 = 0 ∧
      specAt (page.val + 0x100) (off.val + 0x100) = some r ∧ v &&& ~~~ (r.rw ||| r.other) = 0 ∧ r.ro = true) ∧
    (∃ (page : Fin 0x100) (off : Fin 0xF00) (v : Word32) (r : RegSpec) (s : State), off.val % 4 = 0 ∧
      specAt (page.val + 0x100) (off.val + 0x100) = some r ∧ v &&& ~~~ (r.rw ||| r.other) = 0 ∧ s.ready (page.val + 0x100) = true ∧
      r.ro = false ∧ s.writeRefused (page.val + 0x100) (off.val + 0x100) v .pcie = none ∧ 0x140 ≤ page.val + 0x100) ∧
    (∃ (page : Fin 0x100) (off : Fin 0xF00) (v : Word32) (r : RegSpec) (s : State), off.val % 4 = 0 ∧
      specAt (page.val + 0x100) (off.val + 0x100) = some r ∧ v &&& ~~~ (r.rw ||| r.other) = 0 ∧ s.resetNow (page.val + 0x100) = true ∧
      r.ro = false ∧ s.writeRefused (page.val + 0x100) (off.val + 0x100) v .pcie = none ∧ off.val + 0x100 ≠ 0x100) ∧
    (∃ (page : Fin 0x100) (off : Fin 0xF00) (v : Word32) (r : RegSpec) (s : State), off.val % 4 = 0 ∧
      specAt (page.val + 0x100) (off.val + 0x100) = some r ∧ v &&& ~~~ (r.rw ||| r.other) = 0 ∧ s.ready (page.val + 0x100) = true ∧
      r.ro = false ∧ s.writeRefused (page.val + 0x100) (off.val + 0x100) v .pcie = none ∧ off.val + 0x100 = 0x100 ∧
      page.val + 0x100 < 0x140 ∧ (s.seqAt page.val).acceptEdge = s.now + 1) ∧
    (∃ (page : Fin 0x100) (off : Fin 0xF00) (v : Word32) (r : RegSpec) (s : State) (code : BitVec 16), off.val % 4 = 0 ∧
      specAt (page.val + 0x100) (off.val + 0x100) = some r ∧ v &&& ~~~ (r.rw ||| r.other) = 0 ∧ s.ready (page.val + 0x100) = true ∧
      r.ro = false ∧ s.writeRefused (page.val + 0x100) (off.val + 0x100) v .pcie = some code) :=
  ⟨⟨0, 0xEFC, by decide +kernel⟩, ⟨0x3F, 0x100, 0x08000000, (specAt 0x13F 0x200).getD (regRw 0), by decide +kernel⟩,
   ⟨0x7F, 0, 0, (specAt 0x17F 0x100).getD (regRw 0), {}, by decide +kernel⟩,
   ⟨0xFF, 0x78, 0, (specAt 0x1FF 0x178).getD (regRw 0), by decide +kernel⟩,
   ⟨0xFF, 0, 0x8000003F, (specAt 0x1FF 0x100).getD (regRw 0), { hdr := upPages [0x1FF] }, by decide +kernel⟩,
   ⟨0x3F, 0x100, 0x10000200, (specAt 0x13F 0x200).getD (regRw 0), { hdr := [(0x13F, { up := true, busy := true, resetEdge := 1 })] },
     by decide +kernel⟩,
   ⟨0x3F, 0, 0x11, (specAt 0x13F 0x100).getD (regRw 0), { hdr := upPages [0x13F], seq := [(63, { arming := .prefill, acceptEdge := 1 })] },
     by decide +kernel⟩,
   ⟨0xFF, 0, 0x8000003F, (specAt 0x1FF 0x100).getD (regRw 0), { hdr := upPages [0x1FF], seq := [(63, { state := .armed })] },
     errAssignBusy, by decide +kernel⟩⟩

theorem wit_RegisterReads :
    (∃ a : BitVec 26, a.toNat % 4 ≠ 0) ∧
    (∃ a : BitVec 26, a.toNat % 4 = 0 ∧ a.toNat / 0x1000 ≠ pgTss ∧ pageExists (a.toNat / 0x1000) = true ∧ a.toNat % 0x1000 < 0x24 ∧
      latchedBy (a.toNat / 0x1000) (a.toNat % 0x1000) = []) ∧
    (∃ a : BitVec 26, a.toNat % 4 = 0 ∧ a.toNat / 0x1000 = 0x500 ∧ a.toNat % 0x1000 ≠ 0x140 ∧
      (specAt pgTss (a.toNat % 0x1000)).isSome = true) ∧
    (∃ a : BitVec 26, a.toNat % 4 = 0 ∧ a.toNat / 0x1000 ≠ pgTss ∧ pageExists (a.toNat / 0x1000) = true ∧
      (specAt (a.toNat / 0x1000) (a.toNat % 0x1000)).isSome = true ∧
      (latchedBy (a.toNat / 0x1000) (a.toNat % 0x1000)).length = 3) ∧
    (∃ a : BitVec 26, a.toNat % 4 = 0 ∧ a.toNat / 0x1000 ≠ pgTss ∧ pageExists (a.toNat / 0x1000) = true ∧
      (specAt (a.toNat / 0x1000) (a.toNat % 0x1000)).isSome = true ∧ isLatched (a.toNat / 0x1000) (a.toNat % 0x1000) = true) ∧
    (∃ (q : Fin 64) (a : BitVec 26), a.toNat % 4 = 0 ∧ a.toNat / 0x1000 = 0x100 + q.val ∧ a.toNat % 0x1000 = 0x268) ∧
    (∃ (a : BitVec 26) (s : State), a.toNat % 4 = 0 ∧ 0x310 ≤ a.toNat / 0x1000 ∧ a.toNat / 0x1000 < 0x328 ∧
      a.toNat % 0x1000 = 0x13C ∧ s.weIdleOff (a.toNat / 0x1000 - 0x310) = false) ∧
    (∃ a : BitVec 26, a.toNat % 4 = 0 ∧ a.toNat = 0x3FFFFC) ∧
    (∃ a : BitVec 26, a.toNat % 4 = 0 ∧ a.toNat = 0x41FFFC) ∧
    (∃ a : BitVec 26, a.toNat % 4 = 0 ∧ (apgTabOwner a.toNat).isSome = true) ∧
    (∃ a : BitVec 26, a.toNat % 4 = 0 ∧ a.toNat / 0x1000 = 0x1008 ∧ a.toNat % 0x1000 = 252) ∧
    (∃ a : BitVec 26, a.toNat % 4 = 0 ∧ a.toNat / 0x1000 = 0x1007 ∧ a.toNat % 0x1000 % 16 = 8) ∧
    (∃ a : BitVec 26, a.toNat % 4 = 0 ∧ pageExists (a.toNat / 0x1000) = false ∧
      ¬ (0x1000 ≤ a.toNat / 0x1000 ∧ a.toNat / 0x1000 < 0x1008) ∧ ¬ (a.toNat / 0x1000 = 0x1008 ∧ a.toNat % 0x1000 < 256) ∧
      a.toNat % 0x1000 = 0) ∧
    (∃ a : BitVec 26, a.toNat % 4 = 0 ∧ a.toNat / 0x1000 = pgTss ∧ a.toNat % 0x1000 ≠ 0) :=
  ⟨⟨1, by decide⟩, ⟨0x20, by decide +kernel⟩, ⟨0x500100, by decide +kernel⟩, ⟨0x13130, by decide +kernel⟩, ⟨0x1313C, by decide +kernel⟩,
   ⟨63, 0x13F268, by decide⟩, ⟨0x32713C, {}, by decide⟩, ⟨0x3FFFFC, by decide⟩, ⟨0x41FFFC, by decide⟩, ⟨0x6FE7FC, by decide +kernel⟩,
   ⟨0x10080FC, by decide⟩, ⟨0x1007FF8, by decide⟩, ⟨0xFFF000, by decide +kernel⟩, ⟨0x610004, by decide⟩⟩

/-! ### Power, resets and boot -/

/-- The chip in a phase, its management pages up, its rails good but for VQPS. -/
def wMgt (v : Mgt) : State := { hdr := upPages [pgRcp, pgMbox, pgUpd, pgFuse], mgt := { v with rails := 0x3F } }

theorem wit_ChipResets :
    (∃ (key : BitVec 8) (s : State), s.ready pgRcp = true ∧ key ≠ 0x5A) ∧
    (∃ (key : BitVec 8) (s : State), s.ready pgRcp = true ∧ key = 0x5A ∧ s.mgt.resetN = true) ∧
    (∃ (key : BitVec 8) (s : State), s.ready pgRcp = true ∧ key = 0x5A ∧ s.mgt.railsGood = true ∧ s.mgt.resetN = false) ∧
    (∃ s : State, s.mgt.phase ≠ .unpowered) ∧ (∃ s : State, s.mgt.phase = .unpowered) ∧
    (∃ s : State, s.mgt.phase = .booting ∧ s.mgt.railsGood = false) ∧
    (∃ s : State, s.mgt.phase = .up ∧ s.mgt.railsGood = true ∧ s.mgt.resetN = false) ∧
    (∃ (rail : Fin 7) (s : State), rail.val < 5 ∧ s.mgt.rails.getLsbD rail = true ∧ s.mgt.phase ≠ .unpowered) ∧
    (∃ rail : Fin 7, 5 ≤ rail.val) ∧ (∃ (rail : Fin 7) (s : State), s.mgt.rails.getLsbD rail = false) ∧
    (∃ (rail : Fin 7) (s : State), rail.val < 5 ∧ s.mgt.rails.getLsbD rail = true ∧ s.mgt.phase = .unpowered) :=
  ⟨⟨0x5B, wMgt { phase := .up }, by decide⟩, ⟨0x5A, wMgt { phase := .up, resetN := true }, by decide⟩,
   ⟨0x5A, wMgt { phase := .up }, by decide⟩, ⟨wMgt { phase := .up }, by decide⟩, ⟨{}, rfl⟩,
   ⟨{ mgt := { phase := .booting } }, by decide⟩, ⟨wMgt { phase := .up }, by decide⟩, ⟨4, wMgt { phase := .up }, by decide⟩,
   ⟨5, by decide⟩, ⟨6, wMgt {}, by decide⟩, ⟨4, wMgt {}, by decide⟩⟩

theorem wit_PowerAndClocks :
    let limit := fun (s : State) => ((s.reg pgChip 0x11C).extractLsb' 0 16).toInt
    (∃ s : State, s.mgt.phase = .reset ∧ s.mgt.railsGood = true) ∧ (∃ s : State, s.mgt.phase ≠ .reset) ∧
    (∃ s : State, s.mgt.railsGood = false) ∧
    (∃ (rail : Fin 7) (s : State), rail.val ≠ 5 ∧ s.mgt.phase = .reset ∧
      { s.mgt with rails := setBit s.mgt.rails rail }.railsGood = true ∧ s.mgt.resetN = false) ∧
    (∃ (rail : Fin 7) (s : State), rail.val ≠ 5 ∧ { s.mgt with rails := setBit s.mgt.rails rail }.railsGood = false) ∧
    (∃ rail : Fin 7, rail.val = 5) ∧ (∃ s : State, s.mgt.refclk = true) ∧
    (∃ (s : State) (e : Nat), s.mgt.refLost = some e ∧ e + 4000 ≤ s.now) ∧
    (∃ (temp : BitVec 16) (s : State), s.mgt.phase ≠ .unpowered ∧ limit s ≤ temp.toInt ∧ s.mgt.temp.toInt < limit s) ∧
    (∃ (temp : BitVec 16) (s : State), temp.toInt < limit s) :=
  ⟨⟨wMgt { phase := .reset }, by decide⟩, ⟨{}, by decide⟩, ⟨{}, by decide⟩, ⟨4, { mgt := { phase := .reset, rails := 0x2F } }, by decide⟩,
   ⟨6, { mgt := { phase := .reset, rails := 0x2F } }, by decide⟩, ⟨5, rfl⟩, ⟨{ mgt := { refclk := true } }, rfl⟩,
   ⟨{ now := 4000, mgt := { refLost := some 0 } }, 0, by decide⟩, ⟨0x3E8, wMgt { phase := .up, temp := 0x3E7 }, by decide +kernel⟩,
   ⟨0xFFFF, {}, by decide +kernel⟩⟩

/-- A slot is valid only where SHA-384, AES-GCM and ECDSA of the configuration say so, so no closed state boots by computation: the
case of a valid slot has its plain hypotheses here, that of none is witnessed. -/
theorem wit_BootStages :
    (∃ s : State, s.mgt.phase = .reset ∧ s.mgt.railsGood = true ∧ s.hdr = [] ∧ s.bootSlot = none) ∧
    (∃ s : State, s.mgt.phase = .booting ∧ s.mgt.stage = .mgt ∧ s.mgt.refclk = false) ∧
    (∃ s : State, s.mgt.phase ≠ .booting) ∧ (∃ s : State, s.mgt.stage ≠ .clock) ∧
    (∃ s : State, s.mgt.phase = .booting ∧ s.mgt.stage = .clock) ∧
    (∀ g ∈ [Stage.links, .peFw, .banks], ∃ s : State, s.mgt.phase = .booting ∧ s.mgt.stage = g) :=
  ⟨⟨{ mgt := { phase := .reset, rails := 0x3F } }, by decide +kernel⟩, ⟨{ mgt := { phase := .booting, stage := .mgt } }, by decide⟩,
   ⟨{}, by decide⟩, ⟨{}, by decide⟩, ⟨{ mgt := { phase := .booting, stage := .clock } }, by decide⟩,
   fun g _ => ⟨{ mgt := { phase := .booting, stage := g } }, rfl, rfl⟩⟩

/-! ### Mailbox, updates and keys -/

/-- Request `c` of the host with payload words. -/
def aHost (c : Nat) (l : List Word32) : MboxReq :=
  { src := none, words := BitVec.ofNat 32 (c * 2 ^ 24 + l.length * 2 ^ 16 + 0xFFFF) :: l, edge := 25 }
/-- That request waits for firmware, one cycle old. -/
def wAsk (c : Nat) (l : List Word32) (v : Mgt) : State :=
  { wPcie {} with mgt := { v with phase := .up, fwReady := true, waiting := [aHost c l] } }
/-- The request is of a known command and length. -/
def askOk (c : Nat) (l : List Word32) : Bool :=
  decide ((aHost c l).cmd = c) && ({ phase := .up } : Mgt).knows c && lenOk (aHost c l)
theorem asked_of {c : Nat} {l : List Word32} {s : State} (h : askOk c l = true) (hw : s.mgt.waiting = [aHost c l])
    (hn : s.now = 26) (hf : s.mgt.fwReady = true) (hp : s.mgt.phase = .up) : Asked c (aHost c l) s := by
  simp only [askOk, Bool.and_eq_true, decide_eq_true_eq] at h
  obtain ⟨⟨a, b⟩, d⟩ := h
  exact ⟨hw, rfl, a, by simpa [Mgt.knows, hp] using b, d, by simp [aHost, hn], by simp [Mgt.agent, hf]⟩

theorem wit_Mailbox :
    (∃ s : State, s.ready pgMbox = true ∧ s.mgt.mboxBusy = true) ∧ (∃ s : State, s.ready pgMbox = true ∧ s.mgt.rspValid = true ∧
      s.mgt.rspEdge ≠ s.now + 1) ∧
    (∃ s : State, s.ready pgMbox = true ∧ s.mgt.rspValid = true ∧ s.mgt.rspEdge = s.now + 1) ∧
    (∃ s : State, s.ready pgMbox = true ∧ s.mgt.mboxBusy = false ∧ s.mgt.rspValid = false ∧ s.mgt.agent = false) ∧
    (∃ s : State, s.ready pgMbox = true ∧ s.mgt.mboxBusy = false ∧ s.mgt.rspValid = false ∧ s.mgt.waiting = [] ∧
      ∀ req : MboxReq, req = { src := none, words := (List.range 16).map (fun i => s.reg pgMbox (0x200 + 4 * i)), edge := s.now } →
        s.mgt.knows req.cmd = true ∧ lenOk req = true) ∧
    (∃ s : State, s.ready pgMbox = true ∧ s.mgt.mboxBusy = false ∧ s.mgt.rspValid = false ∧ s.mgt.agent = true ∧ s.mgt.waiting = [] ∧
      ∀ req : MboxReq, req = { src := none, words := (List.range 16).map (fun i => s.reg pgMbox (0x200 + 4 * i)), edge := s.now } →
        s.mgt.knows req.cmd = false) ∧
    (∃ s : State, (s.zpAt 5).isUp = true ∧ s.mgt.agent = false) ∧ (∃ s : State, (s.zpAt 5).isUp = false) ∧
    (∀ x ∈ ([(1, []), (2, []), (0x25, []), (0x24, [0]), (0x24, [1]), (0x24, [2]), (0x24, [3])] : List (Nat × List Word32)), ∃ s : State,
      Asked x.1 (aHost x.1 x.2) s) :=
  ⟨⟨wMgt { mboxBusy := true }, by decide⟩, ⟨wMgt { rspValid := true }, by decide⟩, ⟨wMgt { rspValid := true, rspEdge := 1 }, by decide⟩,
   ⟨wMgt {}, by decide⟩,
   ⟨{ wMgt { phase := .up, fwReady := true } with regs := [(0x4200, 0x01000000)] }, by decide, rfl, rfl, rfl,
     fun req h => by subst h; decide +kernel⟩,
   ⟨{ wMgt { phase := .up, fwReady := true } with regs := [(0x4200, 0x03000000)] }, by decide, rfl, rfl, rfl, rfl,
     fun req h => by subst h; decide +kernel⟩,
   ⟨{ zp := [(5, { state := .up })] }, by decide⟩, ⟨{}, by decide⟩,
   fun x h => ⟨wAsk x.1 x.2 {}, asked_of (List.all_eq_true.1 (show ([(1, []), (2, []), (0x25, []), (0x24, [0]), (0x24, [1]),
     (0x24, [2]), (0x24, [3])] : List (Nat × List Word32)).all (fun x => askOk x.1 x.2) = true by decide +kernel) x h) rfl rfl rfl rfl⟩⟩

theorem wit_UpdateSessions :
    (∃ (r : MboxReq) (s : State), Asked 0x20 r s ∧ s.mgt.sess.active = false) ∧
    (∀ x ∈ ([(0x20, [1]), (0x21, [0, 0, 1]), (0x22, []), (0x23, [])] : List (Nat × List Word32)), ∃ (r : MboxReq) (s : State), Asked x.1 r s ∧
      s.mgt.sess.active = true ∧ s.mgt.sess.owner = some (some 5)) ∧
    (∀ x ∈ ([(0x21, [0, 0, 1]), (0x22, []), (0x23, [])] : List (Nat × List Word32)), ∃ (r : MboxReq) (s : State), Asked x.1 r s ∧ s.mgt.sess.active = false) ∧
    (∃ (r : MboxReq) (s : State), Asked 0x21 r s ∧ s.mgt.sess.state = .receiving ∧ s.mgt.sess.owner = some none ∧
      s.mgt.sess.received.length + (r.w 3).toNat < 1024 ∧ s.mgt.sess.received.length + (r.w 3).toNat ≤ s.mgt.sess.total ∧
      s.readStatus (pair64 (r.w 1) (r.w 2)).toNat (r.w 3).toNat = .ok) ∧
    (∃ (r : MboxReq) (s : State), Asked 0x22 r s ∧ s.mgt.sess.state = .headerOk ∧ s.mgt.sess.owner = some none ∧ s.mgt.flashOps = [] ∧
      s.mgt.sess.bytes = 1024 + payloadBytes s.mgt.sess.header) ∧
    (∃ (r : MboxReq) (s : State), Asked 0x22 r s ∧ s.mgt.sess.state = .headerOk ∧ s.mgt.sess.owner = some none ∧ s.mgt.flashOps = [] ∧
      s.mgt.sess.bytes ≠ 1024 + payloadBytes s.mgt.sess.header) ∧
    (∃ (r : MboxReq) (s : State), Asked 0x23 r s ∧ s.mgt.sess.state = .receiving ∧ s.mgt.sess.owner = some none ∧
      s.mgt.sess.commitReq = none) ∧
    (∃ (r : MboxReq) (s : State), Asked 0x23 r s ∧ s.mgt.sess.state = .headerOk ∧ s.mgt.sess.owner = some none ∧
      s.mgt.sess.commitReq = none) :=
  ⟨⟨_, wAsk 0x20 [1024] {}, asked_of (by decide +kernel) rfl rfl rfl rfl, rfl⟩,
   fun x h => ⟨_, wAsk x.1 x.2 { sess := { state := .committing, owner := some (some 5) } }, asked_of (List.all_eq_true.1 (show
     ([(0x20, [1]), (0x21, [0, 0, 1]), (0x22, []), (0x23, [])] : List (Nat × List Word32)).all (fun x => askOk x.1 x.2) = true by
     decide +kernel) x h) rfl rfl rfl rfl, rfl, rfl⟩,
   fun x h => ⟨_, wAsk x.1 x.2 {}, asked_of (List.all_eq_true.1 (show
     ([(0x21, [0, 0, 1]), (0x22, []), (0x23, [])] : List (Nat × List Word32)).all (fun x => askOk x.1 x.2) = true by
     decide +kernel) x h) rfl rfl rfl rfl, rfl⟩,
   ⟨_, wAsk 0x21 [0x3FFFF80, 0, 128] { sess := { state := .receiving, owner := some none, total := 1023, received := List.replicate 895 0 } },
     asked_of (by decide +kernel) rfl rfl rfl rfl, rfl, rfl, by decide +kernel⟩,
   ⟨_, wAsk 0x22 [] { sess := { state := .headerOk, owner := some none, bytes := 1024 } },
     asked_of (by decide +kernel) rfl rfl rfl rfl, rfl, rfl, rfl, by decide +kernel⟩,
   ⟨_, wAsk 0x22 [] { sess := { state := .headerOk, owner := some none, bytes := 1023 } },
     asked_of (by decide +kernel) rfl rfl rfl rfl, rfl, rfl, rfl, by decide +kernel⟩,
   ⟨_, wAsk 0x23 [] { sess := { state := .receiving, owner := some none } }, asked_of (by decide +kernel) rfl rfl rfl rfl, rfl, rfl, rfl⟩,
   ⟨_, wAsk 0x23 [] { sess := { state := .headerOk, owner := some none } }, asked_of (by decide +kernel) rfl rfl rfl rfl, rfl, rfl, rfl⟩⟩

theorem wit_SessionProgress :
    (∃ (s : State) (l : List FlashOp), s.mgt.flashOps = .erase :: l) ∧ (∃ (s : State) (n : Nat) (l : List FlashOp), s.mgt.flashOps = .program n :: l) ∧
    (∃ (s : State) (l : List FlashOp), s.mgt.flashOps = .trailer :: l) ∧
    (∃ s : State, s.mgt.flashOps = [.commit] ∧ s.mgt.sess.commitReq = none) ∧
    (∃ s : State, s.mgt.flashOps ≠ [] ∧ s.mgt.sess.active = true ∧ s.mgt.sess.commitReq = none) ∧ (∃ s : State, s.mgt.flashOps = []) ∧
    (∃ s : State, s.mgt.sess.state = .headerOk ∧ s.mgt.sess.commitReq = none ∧
      s.mgt.sess.dataAt + s.regN pgUpd 0x10C * edgesSec ≤ s.now) ∧
    (∃ s : State, s.mgt.sess.state = .receiving ∧ s.mgt.sess.commitReq = none ∧
      s.now < s.mgt.sess.dataAt + s.regN pgUpd 0x10C * edgesSec) :=
  ⟨⟨wMgt { flashOps := [.erase] }, _, rfl⟩, ⟨wMgt { flashOps := [.program 1024] }, _, _, rfl⟩,
   ⟨wMgt { flashOps := [.trailer, .commit] }, _, rfl⟩, ⟨wMgt { flashOps := [.commit], sess := { state := .committing } }, rfl, rfl⟩,
   ⟨wMgt { flashOps := [.erase], sess := { state := .receiving } }, by decide⟩, ⟨{}, rfl⟩,
   ⟨{ wMgt { sess := { state := .headerOk } } with now := 400000000, regs := [(0x310C, 1)] }, rfl, rfl, by decide +kernel⟩,
   ⟨{ wMgt { sess := { state := .receiving } } with now := 399999999, regs := [(0x310C, 1)] }, rfl, rfl, by decide +kernel⟩⟩

/-- Slot A booted, its bundle of epoch 64 and signer 1; the rails all good or VQPS missing. -/
def wKeys (c : Nat) (l : List Word32) (vqps : Bool) (f : Fuse) : State :=
  { wAsk c l { rails := if vqps then 0x7F else 0x3F, flash := [(0x01000010, 64), (0x01000011, 1)] } with fuse := f }
/-- Fuses of epoch 63 and of the revoked slot 0. -/
def someFuses : Fuse := { free := 65, words := [(564, 0xFFFFFFFF), (565, 0x7FFFFFFF), (566, 1)] }

theorem wit_KeyFuses :
    (∃ (r : MboxReq) (s : State), Asked 0x28 r s ∧ s.fuse.burn = none ∧ s.vqps = true ∧ s.epoch < 64 ∧
      s.epoch + 1 ≤ bundleEpoch (s.slotHeader s.mgt.bootedB)) ∧
    (∃ (r : MboxReq) (s : State), Asked 0x29 r s ∧ s.fuse.burn = none ∧ s.vqps = true ∧ (r.w 1).toNat < 3 ∧
      (r.w 1).toNat ≠ bundleSigner (s.slotHeader s.mgt.bootedB) ∧ ∃ i < 3, i ≠ (r.w 1).toNat ∧ s.revoked.getLsbD i = false) ∧
    (∀ x ∈ ([(0x28, []), (0x29, [2]), (0x2B, [0x400000])] : List (Nat × List Word32)), ∃ (r : MboxReq) (s : State), Asked x.1 r s ∧ s.fuse.burn = none ∧ s.vqps = false) ∧
    (∀ x ∈ ([(0x28, []), (0x29, [2]), (0x2B, [0x400000])] : List (Nat × List Word32)), ∃ (r : MboxReq) (s : State), Asked x.1 r s ∧ s.fuse.burn ≠ none) ∧
    (∃ (r : MboxReq) (s : State), Asked 0x2A r s) ∧
    (∃ (r : MboxReq) (s : State), Asked 0x2B r s ∧ s.fuse.burn = none ∧ (r.w 1).toNat / 65536 % 256 = 64 ∧ 64 + 1 ≤ s.fuse.free ∧
      s.vqps = true) :=
  ⟨⟨_, wKeys 0x28 [] true someFuses, asked_of (by decide +kernel) rfl rfl rfl rfl, by decide +kernel⟩,
   ⟨_, wKeys 0x29 [2] true someFuses, asked_of (by decide +kernel) rfl rfl rfl rfl, by decide +kernel⟩,
   fun x h => ⟨_, wKeys x.1 x.2 false someFuses, asked_of (List.all_eq_true.1 (show
     ([(0x28, []), (0x29, [2]), (0x2B, [0x400000])] : List (Nat × List Word32)).all (fun x => askOk x.1 x.2) = true by
     decide +kernel) x h) rfl rfl rfl rfl, rfl, (by decide : (0x3F : BitVec 7).getLsbD 6 = false)⟩,
   fun x h => ⟨_, wKeys x.1 x.2 true { burn := some { block := 0, words := [], edge := 0 } }, asked_of (List.all_eq_true.1 (show
     ([(0x28, []), (0x29, [2]), (0x2B, [0x400000])] : List (Nat × List Word32)).all (fun x => askOk x.1 x.2) = true by
     decide +kernel) x h) rfl rfl rfl rfl, nofun⟩,
   ⟨_, wKeys 0x2A [511, 0xFFFFFFFF, 7] false {}, asked_of (by decide +kernel) rfl rfl rfl rfl⟩,
   ⟨_, wKeys 0x2B [0x400000] true someFuses, asked_of (by decide +kernel) rfl rfl rfl rfl, by decide +kernel⟩⟩

/-! ### The whole machine -/

theorem wit_StepRunsTheFrontCommand : ∃ (c : Instr) (l : List Instr) (s : State), s.pending = c :: l :=
  ⟨.stop 63, [], { pending := [.stop 63] }, rfl⟩
theorem wit_IdleStepIsOneEdge : ∃ s : State, s.pending = [] := ⟨{}, rfl⟩
theorem wit_HeadersAfterReset : pageExists 0 = true ∧ pageExists 0x610 = true := by decide

/-- A write of the first two bytes of HBM waits in front. -/
def wStore : State := { wPcie { up := true } with pending := [.bar4Access 0 (some [1, 2]) 2 .ok] }
theorem wit_StepKeepsTheInvariant : ∃ s t : State, s.Inv ∧ Goes s t ∧ t.hbm = [(0, 1), (1, 2)] := by
  have h : (match step wStore with | .next t => decide (t.hbm = [(0, 1), (1, 2)]) | _ => false) = true := by decide +kernel
  refine ⟨wStore, ?_⟩
  generalize hs : step wStore = o at h
  cases o with
  | next t => exact ⟨t, show wStore.hbmWf = true by decide, hs, of_decide_eq_true h⟩
  | fault _ => cases h
  | refused _ => cases h

theorem wit_AcceptedArmClearsCounters : ∃ (s : State) (c : CastInfo), (s.seqAt 63).arming = .header ∧
    (s.seqAt 63).armEdge ≤ s.now ∧ armCheck 63 .ok s = .ok c ∧ c.chans.any (fun ch => s.chanInUse ch) = false :=
  let ⟨c, h⟩ := ArmCheck.of_accepts (wArm { state := .on }) (armCheck 63 .ok (wArm { state := .on })) (by decide +kernel)
  ⟨_, c, rfl, by decide, h⟩
theorem wit_DiscardKeepsClosedBatches : ∃ (page : BitVec 16) (s : State), page.toNat = pgTss ∧ s.ready pgTss = true :=
  ⟨0x610, { hdr := upPages [pgTss] }, by decide⟩
theorem wit_HmcPageSoftReset : ∃ (page : BitVec 16) (s : State), page.toNat = pgHmc ∧ s.ready pgHmc = true :=
  ⟨0xC0, { hdr := upPages [pgHmc] }, by decide⟩

/-- Channel 511 of an ON bank in loopback PORT, its data transition to 1 scheduled at the end of this cycle. -/
def wPort : State :=
  { regs := [(0x5FF10C, 3)], bank := [(15, { state := .on })], chan := [(511, { sched := [{ en := false, lvl := true, at_ := 4095 }] })] }
theorem wit_PortsAndLoopback :
    (∃ s : State, (s.bankAt 15).state = .on ∧ s.chanInUse 511 = false ∧ (s.reg (pgCh 511) 0x10C).toNat % 8 = 3) ∧
    (∃ (s : State) (x : Trans), (s.chanAt 511).sched = [x] ∧ x.at_ < (s.now + 1) * 4096 ∧ (s.chanAt 511).holds x = false ∧
      ∀ j, j ≠ 511 → (s.chanAt j).sched = []) :=
  ⟨⟨wPort, by decide +kernel⟩, ⟨wPort, _, rfl, by decide, by decide, fun j h => by
    simp [State.chanAt, wPort, sget, Ne.symm h]⟩⟩

/-! ### Ill-formed commands: one for each check, beside the well-formed neighbour at the boundary -/

theorem test_illformed_fetch_of_no_vector :
    Sys2Proof.Instr.wellFormed (.fetchComplete 0 .vectors .ok 0) = false ∧
    Sys2Proof.Instr.wellFormed (.fetchComplete 0 .vectors .ok 1) = true := by decide
theorem test_illformed_commit_naming_a_channel_twice :
    Sys2Proof.Instr.wellFormed (.capCommit 0 [{ chan := 511 }, { chan := 511 }]) = false ∧
    Sys2Proof.Instr.wellFormed (.capCommit 0 [{ chan := 511 }, { chan := 510 }]) = true := by decide
theorem test_illformed_table_write_off_its_word :
    Sys2Proof.Instr.wellFormed (.tssTableWrite 2 0 none) = false ∧ Sys2Proof.Instr.wellFormed (.tssTableWrite 4 0 (some 0)) = false ∧
    Sys2Proof.Instr.wellFormed (.apgTableWrite 6 0 none) = false ∧ Sys2Proof.Instr.wellFormed (.apgTableWrite 8 0 (some 0)) = true := by
  decide
theorem test_illformed_register_access_off_its_word :
    Sys2Proof.Instr.wellFormed (.registerWrite false 0x13F102 0 none .pcie) = false ∧
    Sys2Proof.Instr.wellFormed (.registerWrite false 0x13F104 0 (some 0) .pcie) = false ∧
    Sys2Proof.Instr.wellFormed (.registerWrite false 0x13F104 0 none .pcie) = true ∧
    Sys2Proof.Instr.wellFormed (.lowWordRead false 0x13F1A2 .pcie) = false := by decide
theorem test_illformed_calibration_target :
    Sys2Proof.Instr.wellFormed (.calMeasurementStart { kind := 10, index := 16 }) = false ∧
    Sys2Proof.Instr.wellFormed (.calMeasurementStart { kind := 10, index := 15 }) = true ∧
    Sys2Proof.Instr.wellFormed (.calRelease { kind := 0, index := 10 }) = false ∧
    Sys2Proof.Instr.wellFormed (.calRelease { kind := 11, index := 0 }) = false := by decide
theorem test_illformed_empty_frame :
    Sys2Proof.Instr.wellFormed (.streamFrame 0 [] true) = false ∧ Sys2Proof.Instr.wellFormed (.streamFrame 0 [0] true) = true := by decide
theorem test_illformed_edge_kind :
    Sys2Proof.Instr.wellFormed (.timEdge 0 0 0 true 0 0) = false ∧ Sys2Proof.Instr.wellFormed (.timEdge 0 8 0 true 0 0) = false ∧
    Sys2Proof.Instr.wellFormed (.timEdge 0 7 0 true 0 0) = true := by decide
theorem test_illformed_scrub_inside_a_block :
    Sys2Proof.Instr.wellFormed (.scrub 32 false false) = false ∧ Sys2Proof.Instr.wellFormed (.scrub 64 false false) = true := by decide
theorem test_illformed_flit_of_63_bytes :
    Sys2Proof.Instr.wellFormed (.flitReceive 0 (List.replicate 63 0)) = false ∧
    Sys2Proof.Instr.wellFormed (.flitReceive 0 (List.replicate 64 0)) = true := by decide
theorem test_illformed_message_length :
    Sys2Proof.Instr.wellFormed (.mboxMessage 0 []) = false ∧ Sys2Proof.Instr.wellFormed (.mboxMessage 0 (List.replicate 17 0)) = false ∧
    Sys2Proof.Instr.wellFormed (.mboxMessage 0 (List.replicate 16 0)) = true := by decide
theorem test_illformed_descriptor :
    Sys2Proof.Instr.wellFormed (.desc 0 { aDesc with vlo := [0, 0, 0] } true) = false ∧
    Sys2Proof.Instr.wellFormed (.desc 0 { aDesc with vhi := [] } true) = false ∧ Sys2Proof.Instr.wellFormed (.desc 0 aDesc true) = true := by
  decide
theorem test_illformed_bar4_length :
    Sys2Proof.Instr.wellFormed (.bar4Access 0 none 0 .ok) = false ∧ Sys2Proof.Instr.wellFormed (.bar4Access 0 (some [1]) 2 .ok) = false ∧
    Sys2Proof.Instr.wellFormed (.bar4Access 0 (some [1, 2]) 2 .ok) = true := by decide
theorem test_illformed_rail :
    Sys2Proof.Instr.wellFormed (.railFault 5) = false ∧ Sys2Proof.Instr.wellFormed (.railFault 4) = true ∧
    Sys2Proof.Instr.wellFormed (.railPowerGood 5) = false ∧ Sys2Proof.Instr.wellFormed (.railPowerGood 6) = true := by decide
theorem test_illformed_training_report :
    Sys2Proof.Instr.wellFormed (.linkTrainingStepEnd (.zp 0) (List.replicate 8 0) 0) = false ∧
    Sys2Proof.Instr.wellFormed (.linkTrainingStepEnd (.zp 0) (List.replicate 9 0) 0) = true := by decide

/-! ### Single steps against values worked out from the spec -/

/-- What a step leaves, tested. -/
def stepGives (s : State) (p : State → Bool) : Bool :=
  match step s with
  | .next t => p t
  | _ => false
/-- A step that stops for an undefined act of item `k` of R396. -/
def stepStops (s : State) (k : Nat) : Bool :=
  match step s with
  | .fault (.undefinedBehaviour n) => n == k
  | _ => false
/-- One worker instruction, encoded by `weWord`, with its command in front. -/
def wOp (c : Instr) (op ra rb imm : Nat) (regs : List (Nat × Word64)) : State :=
  { wWe (weWord op 3 ra rb imm) { regs := regs } with pending := [c] }

/-- An idle step is one PFCLK edge. -/
theorem test_idle_edge : stepGives State.reset (fun t => t.now == State.reset.now + 1) = true := by decide +kernel
/-- ADD wraps at 2^64 (R225). -/
theorem test_add_wraps : stepGives (wOp (.add 23) 0x01 1 2 0 [(1, 0xFFFFFFFFFFFFFFFF), (2, 2)]) (fun t => (t.weAt 23).reg 3 == 1) = true := by
  decide +kernel
/-- SUB below 0 wraps (R225). -/
theorem test_sub_wraps : stepGives (wOp (.sub 23) 0x02 1 2 0 [(1, 1), (2, 2)]) (fun t => (t.weAt 23).reg 3 == 0xFFFFFFFFFFFFFFFF) = true := by
  decide +kernel
/-- An ARM of an idle sequencer is taken up (R44). -/
theorem test_arm : stepGives { wSeq {} with pending := [.arm 63] } (fun t => decide ((t.seqAt 63).arming = .header)) = true := by decide +kernel
/-- A CLEAR of a DONE sequencer ends in IDLE (R41). -/
theorem test_clear : stepGives { wSeq { state := .done } with pending := [.clear 63] } (fun t => decide ((t.seqAt 63).state = .idle)) = true := by
  decide +kernel
/-- A write beside every register of a page is item 1 of the undefined acts, one off its word item 3 (R396). -/
theorem test_undefined_writes :
    stepStops { hdr := upPages [pgSeq 63], pending := [.registerWrite false 0x13FFFC 0 none .pcie] } 1 = true ∧
    stepStops { hdr := upPages [pgSeq 63], pending := [.registerWrite false 0x13F202 0 none .pcie] } 3 = true := by decide +kernel
/-- SEQ.DEF_LEAD, RW at 0x200, keeps the written bits (R36, R386). -/
theorem test_register_write :
    stepGives { hdr := upPages [pgSeq 63], pending := [.registerWrite false 0x13F200 0x10000200 none .pcie] }
      (fun t => t.reg (pgSeq 63) 0x200 == 0x10000200) = true := by decide +kernel
/-- A wrong key is RESET_KEY, code 0x0051 (R394). -/
theorem test_reset_key :
    stepGives { wMgt { phase := .up } with pending := [.chipReset 0x5B] } (fun t => (t.hdrAt pgRcp).errCode == 0x0051) = true := by
  decide +kernel
/-- A BAR4 write of two bytes stores them at the window's address (R381). -/
theorem test_bar4_write : stepGives wStore (fun t => t.hbmGet 0 == 1 && t.hbmGet 1 == 2 && t.pending.isEmpty) = true := by decide +kernel
/-- The IEEE 802.3 CRC-32 that R333 names: its check value over the nine digits. -/
theorem test_crc32 : crc32 [0x31, 0x32, 0x33, 0x34, 0x35, 0x36, 0x37, 0x38, 0x39] = 0xCBF43926 := by decide +kernel

end Sys2Proof.Machine
end

section
/-! PROOFS. Host commands to a sequencer (R39 to R42, R44, R48, R52, R66, R68, R128): each command's meaning as one store to
its sequencer, from which the statement follows. -/
namespace Sys2Proof.Machine

/-! ### Stores to one sequencer -/

/-- Of two stores at one key the later one stands. -/
theorem sput_sput {α : Type} (m : Sparse α) (k : Nat) (v w : α) : sput (sput m k v) k w = sput m k w := by
  induction m with
  | nil => simp [sput]
  | cons e t ih =>
    obtain ⟨k', v'⟩ := e
    by_cases heq : k = k'
    · simp [sput, heq]
    · by_cases hlt : k < k'
      · simp [sput, heq, hlt]
      · simp [sput, heq, hlt, ih]

@[simp] theorem setSeq_setSeq (s : State) (k : Nat) (v w : Seq) : (s.setSeq k v).setSeq k w = s.setSeq k w := by
  simp only [State.setSeq, sput_sput]

/-- A command of the host to a READY page takes effect (R386). -/
theorem whenReady_of_ready {s : State} {p : Nat} (f : State → State) (hr : s.ready p = true) : s.whenReady p f = f s :=
  if_pos hr

/-- The lockstep set depends on a sequencer only through its mode and whether it is engaged (R71). -/
theorem setSeq_lockstep {s : State} {k : Nat} {v : Seq} (hc : v.compat = (s.seqAt k).compat)
    (he : v.engaged = (s.seqAt k).engaged) (j : Nat) : (s.setSeq k v).lockstep j = s.lockstep j := by
  have compat_eq (n : Nat) : ((s.setSeq k v).seqAt n).compat = (s.seqAt n).compat := by
    rw [setSeq_seqAt]; split <;> simp_all
  have engaged_eq (n : Nat) : ((s.setSeq k v).seqAt n).engaged = (s.seqAt n).engaged := by
    rw [setSeq_seqAt]; split <;> simp_all
  simp only [State.lockstep, compat_eq, engaged_eq, setSeq_reg]

/-- The align group of a sequencer depends on it only through its kept ALIGN_CFG and whether it is engaged (R74). -/
theorem setSeq_groupOf {s : State} {k : Nat} {v : Seq} (ha : v.alignCfg = (s.seqAt k).alignCfg)
    (he : v.engaged = (s.seqAt k).engaged) : (s.setSeq k v).groupOf k = s.groupOf k := by
  have cfg_eq : alignCfg (s.setSeq k v) k = alignCfg s k := by
    simp [alignCfg, ha, he]
  simp only [State.groupOf, cfg_eq]

/-- The command goes on, changes sequencer `q` alone, and leaves it as `v`. -/
def SeqGoes (c : Instr) (q : Nat) (v : Seq) (s : State) : Prop :=
  ∃ t, exec c s = .next t ∧ t = { s with seq := t.seq } ∧ Becomes State.seqAt q v s t

theorem SeqGoes.of_setSeq {c : Instr} {q : Nat} {v : Seq} {s : State} (h : exec c s = .next (s.setSeq q v)) :
    SeqGoes c q v s :=
  ⟨_, h, rfl, by simp, fun j hj => by simp [hj]⟩

/-- A host command to a sequencer whose page is READY, and whose effect is one store to that sequencer. -/
theorem SeqGoes.of_ready {c : Instr} {q : Nat} {v : Seq} {s : State} {f : State → State}
    (hc : exec c s = .next (s.whenReady (pgSeq q) f)) (hr : s.ready (pgSeq q) = true) (hf : f s = s.setSeq q v) :
    SeqGoes c q v s :=
  .of_setSeq (by rw [hc, whenReady_of_ready f hr, hf])

section
variable {q : Fin 64} {s : State}

/-! ### Arm, clear, pause, resume, retire -/

/-- ARM of a sequencer not in progress is taken up (R44). -/
theorem arm_taken_up (hr : s.ready (pgSeq q) = true) (hp : (s.seqAt q).inProgress = false) :
    SeqGoes (.arm q) q { s.seqAt q with
      state := .idle, arming := .header, preState := (s.seqAt q).state, cmdStat := 0x1D00, armEdge := s.now + 1 } s :=
  .of_ready rfl hr (if_neg (by simp [hp]))

/-- CLEAR of a final state (R41). -/
theorem clear_of_final (hr : s.ready (pgSeq q) = true)
    (hf : (s.seqAt q).state = .done ∨ (s.seqAt q).state = .aborted ∨ (s.seqAt q).state = .faulted) :
    SeqGoes (.clear q) q { s.seqAt q with state := .idle, endCause := .none, cmdStat := 0x1C00 } s :=
  .of_ready rfl hr (if_pos hf)

/-- Outside HOLD a PAUSE waits for a pausable point (R68). -/
theorem pause_outside_hold (hr : s.ready (pgSeq q) = true)
    (ha : (s.seqAt q).state = .armed ∨ (s.seqAt q).state = .running) :
    SeqGoes (.pause q) q { s.seqAt q with pausePend := true, cmdStat := 0x1B00 } s := by
  have not_hold : (s.seqAt q).state ≠ .hold := by rcases ha with h | h <;> simp [h]
  have engaged : (s.seqAt q).engaged = true := by rcases ha with h | h <;> simp [Seq.engaged, h]
  refine .of_ready rfl hr ?_
  rw [if_neg not_hold, if_pos engaged]
  rfl

/-- RESUME of a HOLD with no end against it: the next vector may issue at edge `now + 4` (R39, R68). -/
theorem resume_of_hold (hr : s.ready (pgSeq q) = true) (hh : (s.seqAt q).state = .hold) (hn : (s.seqAt q).ending = none) :
    SeqGoes (.resume q) q { s.seqAt q with
      state := .running, cmdStat := 0x1A00, pauseHold := false, starveHold := false,
      issueFrom := s.now + 4, genBase := (s.now + 4) * 4096, genNext := 0 } s := by
  refine .of_ready rfl hr ?_
  rw [if_pos ⟨hh, by simp [hn]⟩]
  simp [resumeSeq, State.setCmd, Seq.goOn, cmdStatus]

/-- SITE_RETIRE queues the owned sites among those it names (R52). -/
theorem siteRetire_of_owned {w : Fin 4} {bits : Word32} (hr : s.ready (pgSeq q) = true)
    (he : (s.seqAt q).engaged = true) (ho : (bits.zeroExtend 128 <<< (32 * w.val)) &&& (s.seqAt q).owned ≠ 0) :
    SeqGoes (.siteRetire q w bits) q { s.seqAt q with
      retireReq := (s.seqAt q).retireReq ++ [(s.now, (bits.zeroExtend 128 <<< (32 * w.val)) &&& (s.seqAt q).owned)] } s :=
  .of_ready rfl hr (if_pos ⟨he, ho⟩)

/-- A starvation HOLD ends by itself: AUTO_RESUME set, a full lead, and no PAUSE or end against it (R128). -/
theorem autoResume_of_starved (hh : (s.seqAt q).state = .hold) (hs : (s.seqAt q).starveHold = true)
    (hp : (s.seqAt q).pauseHold = false) (hpp : (s.seqAt q).pausePend = false) (hn : (s.seqAt q).ending = none)
    (ha : (s.reg (pgSeq q) 0x200).getLsbD 28 = true) (hl : (s.seqAt q).leadFull = true) :
    SeqGoes (.autoResume q) q { s.seqAt q with
      state := .running, starveHold := false, issueFrom := s.now + 4, genBase := (s.now + 4) * 4096, genNext := 0 } s := by
  have goes_on : exec (.autoResume q) s = .next (resumeSeq q s) :=
    if_pos ⟨hh, hs, by simp [hp], by simp [hpp], by simp [hn], ha, hl⟩
  exact .of_setSeq (by simp only [goes_on, resumeSeq, Seq.goOn, hp])

/-! ### The command status: what a store of it alone leaves as it was -/

@[simp] theorem setCmd_seqAt_self (n bit code : Nat) :
    (s.setCmd n bit code).seqAt n = { s.seqAt n with cmdStat := cmdStatus bit code } := by
  simp [State.setCmd]
@[simp] theorem setCmd_setSeq (n bit code : Nat) (v : Seq) : (s.setCmd n bit code).setSeq n v = s.setSeq n v := by
  simp [State.setCmd]
@[simp] theorem setCmd_lockstep (n bit code j : Nat) : (s.setCmd n bit code).lockstep j = s.lockstep j := by
  refine setSeq_lockstep ?_ ?_ j <;> rfl
@[simp] theorem setCmd_groupOf (n bit code : Nat) : (s.setCmd n bit code).groupOf n = s.groupOf n := by
  refine setSeq_groupOf ?_ ?_ <;> rfl

/-! ### Start -/

/-- A sequencer behind its start: the first vector may issue at edge `now + 4`, and retirements written before it are due at
once (R23, R48, R52). -/
def Seq.started (v : Seq) (now : Nat) : Seq :=
  { v with state := .running, issueFrom := now + 4, genBase := (now + 4) * 4096, genNext := 0, rotation := [v.cast.idleTs],
           rotPos := 0, markDue := true, retireReq := v.retireReq.map (fun x => (0, x.2)) }

theorem startOne_of_armed {n : Nat} (ha : (s.seqAt n).state = .armed) :
    s.startOne n = s.setSeq n ((s.seqAt n).started s.now) :=
  if_pos ha

/-- Alone in its lockstep set, a sequencer starts alone (R48, R71). -/
theorem startCommit_alone {n : Nat} (hl : s.lockstep n = [n]) (ha : (s.seqAt n).state = .armed) :
    s.startCommit n = s.setSeq n ((s.seqAt n).started s.now) := by
  simp [State.startCommit, hl, ha, startOne_of_armed]

theorem start_alone (hl : s.lockstep q = [q.val]) (hr : s.ready (pgSeq q) = true) (ha : (s.seqAt q).state = .armed) :
    SeqGoes (.start q) q (Seq.started { s.seqAt q with cmdStat := 0x1E00 } s.now) s := by
  refine .of_ready rfl hr ?_
  rw [if_pos ha, startCommit_alone (by simpa using hl) (by simpa using ha), setCmd_seqAt_self, setCmd_setSeq]
  rfl

/-! ### Abort -/

/-- A sequencer whose ending cause `c` commits in cycle `now` (R42). -/
def Seq.endsBy (v : Seq) (c : EndCause) (e now : Nat) : Seq :=
  { v with ending := some (c, now), endCond := e, endVaddr := v.pc }

section
variable (v : Seq) (c : EndCause) (e now : Nat)
@[simp] theorem endsBy_state : (v.endsBy c e now).state = v.state := rfl
@[simp] theorem endsBy_ending : (v.endsBy c e now).ending = some (c, now) := rfl
@[simp] theorem endsBy_alignCfg : (v.endsBy c e now).alignCfg = v.alignCfg := rfl
@[simp] theorem endsBy_engaged : (v.endsBy c e now).engaged = v.engaged := rfl
end

theorem markEnding_first {n e : Nat} {c : EndCause} (he : (s.seqAt n).engaged = true) (hn : (s.seqAt n).ending = none) :
    s.markEnding n c e = s.setSeq n ((s.seqAt n).endsBy c e s.now) := by
  simp [State.markEnding, he, hn, Seq.endsBy]

/-- In no align group, a member's end cancels no barrier. -/
theorem memberEnds_ungrouped {n e : Nat} (hg : s.groupOf n = none) : s.memberEnds n e = s := by
  simp [State.memberEnds, hg]

/-- A RUNNING sequencer stays so through the cycle its cause commits in: vectors of that cycle may still issue. -/
theorem finishIf_running_this_cycle {n : Nat} {c : EndCause} (hs : (s.seqAt n).state = .running)
    (hn : (s.seqAt n).ending = some (c, s.now)) : s.finishIf n = s := by
  simp [State.finishIf, hn, hs]

/-- Alone in its lockstep set and in no align group, a RUNNING sequencer takes a first ending cause and nothing else. -/
theorem endBurst_alone {n e : Nat} {c : EndCause} (hl : s.lockstep n = [n]) (hs : (s.seqAt n).state = .running)
    (hn : (s.seqAt n).ending = none) (hg : s.groupOf n = none) :
    s.endBurst n c e = s.setSeq n ((s.seqAt n).endsBy c e s.now) := by
  have marked : s.markEnding n c e = s.setSeq n ((s.seqAt n).endsBy c e s.now) :=
    markEnding_first (by simp [Seq.engaged, hs]) hn
  simp only [State.endBurst, hl, foldState_cons, foldState_nil, marked]
  rw [memberEnds_ungrouped ((setSeq_groupOf (by simp) (by simp)).trans hg), ite_self]
  exact finishIf_running_this_cycle (c := c) (by simpa using hs) (by simp)

theorem abort_alone (hl : s.lockstep q = [q.val]) (hr : s.ready (pgSeq q) = true) (hs : (s.seqAt q).state = .running)
    (hn : (s.seqAt q).ending = none) (hg : s.groupOf q = none) :
    SeqGoes (.abort q) q (Seq.endsBy { s.seqAt q with cmdStat := 0x1F00 } .hostAbort s.now s.now) s := by
  have taken : abortSeq q s = (s.setCmd q 31 0).endBurst q .hostAbort s.now := by simp [abortSeq, hs, hn]
  refine .of_ready rfl hr ?_
  rw [taken, endBurst_alone (by simpa using hl) (by simpa using hs) (by simpa using hn) (by simpa using hg),
    setCmd_seqAt_self, setCmd_setSeq]
  rfl

end

/-- Settles O1: every command is one store to its own sequencer. -/
theorem sequencerCommands : Obligations.SequencerCommands := by
  unfold Obligations.SequencerCommands
  refine ⟨fun q w bits s hr => ⟨?arm, ?clear, ?pause, ?resume, ?retire⟩, fun q s hl => ⟨?start, ?abort, ?autoResume⟩⟩
  case arm => exact arm_taken_up hr
  case clear => exact clear_of_final hr
  case pause => exact pause_outside_hold hr
  case resume => exact resume_of_hold hr
  case retire => exact siteRetire_of_owned hr
  case start => exact start_alone hl
  case abort => exact abort_alone hl
  case autoResume => exact autoResume_of_starved

end Sys2Proof.Machine
end

section
/-! PROOFS. Arming of a sequencer (R18, R45, R46, R73, R118, R379): an accepted arm stores the sequencer once and sets up
the rest of the burst beside it. -/
namespace Sys2Proof.Machine

/-! ### What an arm sets up beside its sequencer -/

/-- From `s` to `t` sequencers, HBM and the queue of commands are as they were. -/
structure SetsUp (s t : State) : Prop where
  seq : t.seq = s.seq
  hbm : t.hbm = s.hbm
  pending : t.pending = s.pending

theorem SetsUp.refl (s : State) : SetsUp s s := ⟨rfl, rfl, rfl⟩

theorem SetsUp.trans {a b c : State} (h : SetsUp a b) (h' : SetsUp b c) : SetsUp a c :=
  ⟨h'.seq.trans h.seq, h'.hbm.trans h.hbm, h'.pending.trans h.pending⟩

theorem SetsUp.seqAt {s t : State} (h : SetsUp s t) (j : Nat) : t.seqAt j = s.seqAt j := by
  simp only [State.seqAt, h.seq]

/-- A list of things set up one after the other. -/
theorem foldState_setsUp {α : Type} {f : α → State → State} (hf : ∀ a s, SetsUp s (f a s)) (l : List α) (s : State) :
    SetsUp s (foldState l f s) :=
  foldState_keeps (SetsUp s) f (fun a u h => h.trans (hf a u)) l s (.refl s)

theorem wantBank_setsUp (b : Nat) (s : State) : SetsUp s (s.wantBank b) := by
  unfold State.wantBank
  split
  · exact ⟨rfl, rfl, rfl⟩
  · exact .refl s

theorem armChan_setsUp (c : Nat) (s : State) : SetsUp s (armChan c s) := by
  unfold armChan
  dsimp only
  split <;> exact ⟨rfl, rfl, rfl⟩

theorem armCap_setsUp (q : Nat) (chans : List Nat) (i : Nat) (s : State) : SetsUp s (armCap q chans i s) :=
  ⟨rfl, rfl, rfl⟩

theorem apgLoad_setsUp (q : Nat) (s : State) : SetsUp s (apgLoad s q) := ⟨rfl, rfl, rfl⟩

theorem stageAtArm_setsUp (chans : List Nat) (s : State) : SetsUp s (s.stageAtArm chans) := by
  unfold State.stageAtArm
  refine foldState_setsUp (fun c u => ?_) chans s
  exact ⟨rfl, rfl, rfl⟩

theorem applyFor_setsUp (q : Nat) (p : BatchPart → Bool) (atEnd atStart : Bool) (vec : Nat) (seg : Word32) (s : State) :
    SetsUp s (s.applyFor q p atEnd atStart vec seg) := by
  unfold State.applyFor
  have applied (l : List BatchPart) (r : BatchPart → ApplyRec) :
      SetsUp s (foldState l (fun x u => u.applyPart x (r x)) s) := by
    refine foldState_setsUp (fun x u => ?_) l s
    exact ⟨rfl, rfl, rfl⟩
  exact (applied _ _).trans ⟨rfl, rfl, rfl⟩

theorem tssAtArm_setsUp (q : Nat) (chans : List Nat) (s : State) : SetsUp s (s.tssAtArm q chans) := by
  unfold State.tssAtArm
  refine SetsUp.trans ?_ (applyFor_setsUp ..)
  exact ⟨rfl, rfl, rfl⟩

/-! ### The accepted arm (R46) -/

/-- An accepted arm clears STRM_WR's high word, stores its sequencer, and sets up banks, channels, capture contexts, pattern
generator, corrections and timing sets. -/
theorem acceptArm_setsUp (q : Nat) (c : CastInfo) (s : State) :
    SetsUp ((s.setReg (pgSeq q) 0x224 0).setSeq q (armSeq q c (s.setReg (pgSeq q) 0x224 0) (s.seqAt q))) (acceptArm q c s) := by
  have bank_setsUp (b : Nat) (u : State) : SetsUp u (if ¬ c.chans.any (fun ch => ch / 32 = b) then u
      else (if (u.bankAt b).state = .pendingOff then u.setBank b { u.bankAt b with entering := false } else u).wantBank b) := by
    split
    · exact .refl u
    · refine SetsUp.trans ?_ (wantBank_setsUp b _)
      split
      · exact ⟨rfl, rfl, rfl⟩
      · exact .refl u
  have banks := foldState_setsUp bank_setsUp (List.range 16)
    ((s.setReg (pgSeq q) 0x224 0).setSeq q (armSeq q c (s.setReg (pgSeq q) 0x224 0) (s.seqAt q)))
  unfold acceptArm
  refine SetsUp.trans ?_ (tssAtArm_setsUp ..)
  refine SetsUp.trans ?_ (stageAtArm_setsUp ..)
  refine SetsUp.trans ?_ (apgLoad_setsUp ..)
  refine SetsUp.trans ?_ (foldState_setsUp (armCap_setsUp q c.chans) ..)
  exact banks.trans (foldState_setsUp armChan_setsUp ..)

theorem acceptArm_seqAt (q j : Nat) (c : CastInfo) (s : State) : (acceptArm q c s).seqAt j =
    if j = q then armSeq q c (s.setReg (pgSeq q) 0x224 0) (s.seqAt q) else s.seqAt j := by
  rw [(acceptArm_setsUp q c s).seqAt, setSeq_seqAt, setReg_seqAt]

/-- Site ownership stands in the capture pages: no write of a SEQ page changes it (R33). -/
theorem ownedSites_setReg_pgSeq (p : Fin 64) (off : Nat) (w : Word32) (q : Nat) (s : State) (ho : off < 0x1000) :
    (s.setReg (pgSeq p) off w).ownedSites q = s.ownedSites q := by
  have reg_eq (i : Nat) : (s.setReg (pgSeq p) off w).reg (pgCap i) 0x100 = s.reg (pgCap i) 0x100 := by
    rw [setReg_reg, if_neg]
    have := p.isLt
    unfold pgCap pgSeq
    omega
  simp only [State.ownedSites, reg_eq]

section
variable {q : Fin 64} {res : HbmStatus} {s : State}

/-! ### The header reads complete (R44, R45, R437) -/

theorem castHeaderReadDone_refused {code : Nat} {info : Word32} (ha : (s.seqAt q).arming = .header)
    (he : (s.seqAt q).armEdge ≤ s.now) (hc : armCheck q res s = .refused code info) :
    exec (.castHeaderReadDone q res) s = .next (refuseArm q code info s) :=
  (if_pos ⟨ha, he⟩).trans (by rw [hc])

theorem castHeaderReadDone_accepted {c : CastInfo} (ha : (s.seqAt q).arming = .header) (he : (s.seqAt q).armEdge ≤ s.now)
    (hc : armCheck q res s = .ok c) (hu : c.chans.any (fun ch => s.chanInUse ch) = false) :
    exec (.castHeaderReadDone q res) s = .next (acceptArm q c s) :=
  (if_pos ⟨ha, he⟩).trans (by rw [hc]; exact if_neg (by simp [hu]))

/-- A refusal gives the sequencer back the state before the arm, with the code in CMD_STAT, records the error, and may reopen
align groups. -/
theorem refuseArm_effect (n code : Nat) (info : Word32) (s : State) :
    refuseArm n code info s =
        { s with seq := (refuseArm n code info s).seq, hdr := (refuseArm n code info s).hdr,
                 align := (refuseArm n code info s).align } ∧
      Becomes State.seqAt n { s.seqAt n with
        state := (s.seqAt n).preState, arming := .none, cmdStat := cmdStatus 29 code } s (refuseArm n code info s) ∧
      ((refuseArm n code info s).hdrAt (pgSeq n)).error = true := by
  have seq_eq (u : State) (j : Nat) : ((u.recordErr (pgSeq n) (BitVec.ofNat 16 code) info).reopen).seqAt j = u.seqAt j := by
    rw [recordErr_frame]; rfl
  refine ⟨?frame, ⟨?self, fun j hj => ?other⟩, recordErr_sets _ _ _ _⟩
  case frame =>
    unfold refuseArm
    dsimp only
    rw [recordErr_frame]
    rfl
  case self => exact (seq_eq _ n).trans (by simp)
  case other => exact (seq_eq _ j).trans (by simp [hj])

/-! ### The prefill is complete (R46, R118) -/

/-- The PE links of a sequencer's channels depend on it only through its cast (R379). -/
theorem setSeq_peDown {n : Nat} {v : Seq} (hv : v.cast = (s.seqAt n).cast) : (s.setSeq n v).peDown n = s.peDown n := by
  rw [State.peDown, State.peDown, setSeq_seqAt, if_pos rfl, hv]
  rfl

/-- ARMED is entered; a TIME start whose instant has already passed is noted as late (R47). -/
theorem prefillComplete_enters_armed (ha : (s.seqAt q).arming = .prefill) (hp : s.prefilled q = true)
    (hn : (s.seqAt q).ending = none) (hb : ∀ b < 16, (s.seqAt q).usesBank b = true → (s.bankAt b).calBusy = false)
    (hd : s.peDown q = false) (hs : startSrc s q ≠ 7) :
    exec (.prefillComplete q) s = .next (s.setSeq q { s.seqAt q with
      state := .armed, arming := .none,
      lateStart := decide (startSrc s q = 6 ∧ tsPassed (s.stamp (startTd s q)) (startTime s q) = true) }) := by
  have not_cal : ¬ ((List.range 16).any (fun b =>
      decide ((s.seqAt q).usesBank b = true ∧ (s.bankAt b).calBusy = true)) = true) := by
    simp only [List.any_eq_true, List.mem_range, decide_eq_true_eq, not_exists, not_and]
    exact fun b hlt huse => by simp [hb b hlt huse]
  refine (if_pos ⟨ha, hp, not_cal, by simp [hn]⟩).trans (Eq.trans (if_neg ?links_up) (if_neg hs))
  rw [setSeq_peDown (by rfl), hd]
  exact Bool.false_ne_true

end

/-- Settles O2: a refusal and the entry into ARMED store the sequencer alone; an acceptance stores it and sets up the rest. -/
theorem armingOfASequencer : Obligations.ArmingOfASequencer := by
  unfold Obligations.ArmingOfASequencer
  refine fun q res s => ⟨?refused, ?accepted, ?prefilled⟩
  case refused =>
    intro code info ha he hc
    exact ⟨_, castHeaderReadDone_refused ha he hc, refuseArm_effect q code info s⟩
  case accepted =>
    intro c ha he hc hu
    have self : (acceptArm q c s).seqAt q = armSeq q c (s.setReg (pgSeq q) 0x224 0) (s.seqAt q) := by simp [acceptArm_seqAt]
    have setup := acceptArm_setsUp q c s
    refine ⟨_, castHeaderReadDone_accepted ha he hc hu, by rw [self]; rfl, by rw [self]; rfl, ?_, by rw [self]; rfl,
      setup.hbm, setup.pending, fun k hk => by simp [acceptArm_seqAt, hk]⟩
    rw [self, ← ownedSites_setReg_pgSeq q 0x224 0 q s (by decide)]
    rfl
  case prefilled =>
    exact fun ha hp hn hb hd hs => SeqGoes.of_setSeq (prefillComplete_enters_armed ha hp hn hb hd hs)

/-! ### The counters of a SEQ page (R73) -/

/-- The registers of a SEQ page are those of its sequencer. -/
theorem liveReg_pgSeq (q : Fin 64) (off : Nat) (s : State) (ho : 0x100 ≤ off) :
    s.liveReg (pgSeq q) off = (readSeq s q off).getD (s.reg (pgSeq q) off) := by
  have block : readBlock s (pgSeq q) off = readSeq s q off := by
    obtain ⟨q, hq⟩ := q
    unfold readBlock pgSeq pgChip pgRcp pgFuse pgUpd pgMbox pgPcie pgHmc
    simp (disch := omega) only [if_neg, if_pos, Nat.add_sub_cancel_left]
  rw [State.liveReg, if_neg (by omega), block]

/-- What the registers at 0x1A0 to 0x1C8 count is 0. -/
structure Seq.CountersClear (v : Seq) : Prop where
  vecCount : v.vecCount = 0
  cycleTime : v.cycleTime = 0
  endVaddr : v.endVaddr = 0
  unownedCmp : v.unownedCmp = 0
  maqCollide : v.maqCollide = 0
  maqTsIllegal : v.maqTsIllegal = 0
  maqUnderrun : v.maqUnderrun = 0
  maqMinLead : v.maqMinLead = 0
  stretch : v.stretch = 0

/-- The eleven registers, one by one. -/
theorem readSeq_of_countersClear {s : State} {q : Nat} (h : (s.seqAt q).CountersClear) {off : Nat} (h1 : 0x1A0 ≤ off)
    (h2 : off ≤ 0x1C8) (h3 : off % 4 = 0) : readSeq s q off = some 0 := by
  obtain ⟨k, rfl⟩ : ∃ k, off = 0x1A0 + 4 * k := ⟨(off - 0x1A0) / 4, by omega⟩
  have hk : k ≤ 10 := by omega
  obtain ⟨hv, hc, he, hu, hm, ht, hr, hl, hs⟩ := h
  interval_cases k <;> simp [readSeq, hv, hc, he, hu, hm, ht, hr, hl, hs, pairAt, half, regOf]

/-- Settles O57: an accepted arm stores a sequencer whose counters start from 0. -/
theorem acceptedArmClearsCounters : Obligations.AcceptedArmClearsCounters := by
  unfold Obligations.AcceptedArmClearsCounters
  intro q res c s ha he hc hu
  refine ⟨_, castHeaderReadDone_accepted ha he hc hu, fun off h1 h2 h3 => ?_⟩
  have clear : ((acceptArm q c s).seqAt q).CountersClear := by
    rw [acceptArm_seqAt, if_pos rfl]
    exact ⟨rfl, rfl, rfl, rfl, rfl, rfl, rfl, rfl, rfl⟩
  rw [liveReg_pgSeq q off _ (by omega), readSeq_of_countersClear clear h1 h2 h3]
  rfl

end Sys2Proof.Machine
end

section
/-! PROOFS. Start events (R47, R48, R71, R210, R303): what the visit of all sequencers by a trigger line starts, and what it
leaves. -/
namespace Sys2Proof.Machine

/-! ### What a start can do -/

/-- From `s` to `t` ARMED sequencers may have started, and nothing else has changed. -/
structure StartsOnly (s t : State) : Prop where
  frame : t = { s with seq := t.seq }
  cases : ∀ j, t.seqAt j = s.seqAt j ∨ ((s.seqAt j).state = .armed ∧ t.seqAt j = (s.seqAt j).started s.now)

theorem StartsOnly.refl (s : State) : StartsOnly s s := ⟨rfl, fun _ => .inl rfl⟩

theorem StartsOnly.now {s t : State} (h : StartsOnly s t) : t.now = s.now := by rw [h.frame]

theorem StartsOnly.reg {s t : State} (h : StartsOnly s t) (p o : Nat) : t.reg p o = s.reg p o := by rw [h.frame]; rfl

theorem StartsOnly.of_not_armed {s t : State} (h : StartsOnly s t) {j : Nat} (hj : (s.seqAt j).state ≠ .armed) :
    t.seqAt j = s.seqAt j :=
  (h.cases j).resolve_right (fun started => hj started.1)

theorem StartsOnly.trans {a b c : State} (h : StartsOnly a b) (h' : StartsOnly b c) : StartsOnly a c := by
  refine ⟨by rw [h'.frame, h.frame], fun j => ?_⟩
  rcases h.cases j with same | ⟨armed, started⟩
  · rw [← same, ← h.now]
    exact h'.cases j
  · have running : (b.seqAt j).state ≠ .armed := by simp [started, Seq.started]
    exact .inr ⟨armed, (h'.of_not_armed running).trans started⟩

/-- A start keeps what the lockstep sets are made of (R71). -/
theorem StartsOnly.lockstep {s t : State} (h : StartsOnly s t) (j : Nat) : t.lockstep j = s.lockstep j := by
  have compat_eq (n : Nat) : (t.seqAt n).compat = (s.seqAt n).compat := by
    rcases h.cases n with same | ⟨-, started⟩
    · rw [same]
    · rw [started]; rfl
  have engaged_eq (n : Nat) : (t.seqAt n).engaged = (s.seqAt n).engaged := by
    rcases h.cases n with same | ⟨armed, started⟩
    · rw [same]
    · simp [started, Seq.started, Seq.engaged, armed]
  simp only [State.lockstep, compat_eq, engaged_eq, h.reg]

theorem startOne_startsOnly (n : Nat) (s : State) : StartsOnly s (s.startOne n) := by
  by_cases armed : (s.seqAt n).state = .armed
  · rw [startOne_of_armed armed]
    refine ⟨rfl, fun j => ?_⟩
    by_cases hj : j = n
    · exact .inr ⟨hj ▸ armed, by simp [hj]⟩
    · exact .inl (by simp [hj])
  · rw [State.startOne, if_neg armed]
    exact .refl s

theorem startOne_other {n j : Nat} (hj : j ≠ n) (s : State) : (s.startOne n).seqAt j = s.seqAt j := by
  unfold State.startOne
  dsimp only
  split <;> simp [hj]

theorem startCommit_startsOnly (n : Nat) (s : State) : StartsOnly s (s.startCommit n) := by
  unfold State.startCommit
  dsimp only
  split
  · exact foldState_keeps (StartsOnly s) _ (fun m u h => h.trans (startOne_startsOnly m u)) _ s (.refl s)
  · exact .refl s

/-- A start changes no sequencer outside the lockstep set of the one it starts. -/
theorem startCommit_outside {n j : Nat} {s : State} (hj : j ∉ s.lockstep n) : (s.startCommit n).seqAt j = s.seqAt j := by
  have outside : ∀ (l : List Nat) (u : State), j ∉ l → (foldState l (fun m u => u.startOne m) u).seqAt j = u.seqAt j := by
    intro l
    induction l with
    | nil => exact fun u _ => rfl
    | cons m l ih =>
      intro u hm
      rw [foldState_cons, ih _ (List.not_mem_of_not_mem_cons hm), startOne_other (List.ne_of_not_mem_cons hm)]
  unfold State.startCommit
  dsimp only
  split
  · exact outside _ s hj
  · rfl

/-- Lockstep sets are mutual: a sequencer alone in its own is in that of no engaged one (R71). -/
theorem not_mem_lockstep_of_alone {q n : Nat} {s : State} (hl : s.lockstep q = [q]) (hn : n < 64) (hne : n ≠ q)
    (he : (s.seqAt n).engaged = true) : q ∉ s.lockstep n := by
  have not_mem : n ∉ s.lockstep q := by simp [hl, hne]
  contrapose! not_mem
  unfold State.lockstep at not_mem ⊢
  dsimp only at not_mem ⊢
  split at not_mem
  case isTrue hset =>
    simp only [List.mem_filter, List.mem_range, decide_eq_true_eq] at not_mem
    obtain ⟨-, rfl | ⟨hc, -, hb, hf⟩⟩ := not_mem
    · exact absurd rfl hne
    · rw [if_pos ⟨hc, hb⟩]
      simp [hn, he, hset.1, hset.2, hf]
  case isFalse => exact absurd (List.mem_singleton.1 not_mem).symm hne

/-! ### A trigger line -/

/-- The visit of sequencer `n` by an edge of a trigger line (R48). -/
def lineStart (src : Nat) (rising : Bool) (extra : Nat → Bool) (n : Nat) (s : State) : State :=
  if (s.seqAt n).state = .armed ∧ startSrc s n = src ∧ startFalling s n = (!rising) ∧ extra n then s.startCommit n else s

theorem lineStarts_eq_foldState (src : Nat) (rising : Bool) (extra : Nat → Bool) (s : State) :
    lineStarts src rising extra s = foldState (List.range 64) (lineStart src rising extra) s := rfl

/-- The level of a TRIG_IN ball behind its edge, and the trigger condition of the cycle (R210). -/
def State.atTrigIn (s : State) (line : Fin 4) (rising : Bool) : State :=
  State.cond { s with trg := { s.trg with
    trigIn := if rising then setBit s.trg.trigIn line else clrBit s.trg.trigIn line } } s.now (.trigIn line rising)

theorem StartsOnly.after_trigIn {s t : State} {line : Fin 4} {rising : Bool} (h : StartsOnly (s.atTrigIn line rising) t) :
    t = { s with seq := t.seq, trg := t.trg } ∧ t.trg = (s.atTrigIn line rising).trg :=
  ⟨by rw [h.frame]; rfl, by rw [h.frame]⟩

theorem trigInEdge_eq (line : Fin 4) (rising : Bool) (s : State) : exec (.trigInEdge line rising) s =
    .next (lineStarts (line + 1) rising (fun _ => true) (s.atTrigIn line rising)) := rfl

section
variable {src : Nat} {rising : Bool} {extra : Nat → Bool} {q : Nat} {s : State}

theorem lineStart_startsOnly (n : Nat) (s : State) : StartsOnly s (lineStart src rising extra n s) := by
  unfold lineStart
  split
  · exact startCommit_startsOnly n s
  · exact .refl s

theorem lineStarts_startsOnly (s : State) : StartsOnly s (lineStarts src rising extra s) :=
  foldState_keeps (StartsOnly s) _ (fun n u h => h.trans (lineStart_startsOnly n u)) _ s (.refl s)

/-- The visit of another sequencer leaves one that is alone in its lockstep set. -/
theorem lineStart_other {n : Nat} (hl : s.lockstep q = [q]) (hn : n < 64) (hne : n ≠ q) :
    (lineStart src rising extra n s).seqAt q = s.seqAt q := by
  unfold lineStart
  split
  case isTrue h =>
    exact startCommit_outside (not_mem_lockstep_of_alone hl hn hne (by simp [Seq.engaged, h.1]))
  case isFalse => rfl

/-- A list of visits that comes to an ARMED sequencer of this line and edge, alone in its lockstep set, starts it once. -/
theorem foldState_lineStart {l : List Nat} (hq : q ∈ l) (h64 : ∀ n ∈ l, n < 64) (ha : (s.seqAt q).state = .armed)
    (hs : startSrc s q = src) (hf : startFalling s q = (!rising)) (he : extra q = true) (hl : s.lockstep q = [q]) :
    (foldState l (lineStart src rising extra) s).seqAt q = (s.seqAt q).started s.now := by
  induction l generalizing s with
  | nil => simp at hq
  | cons n l ih =>
    have visit := lineStart_startsOnly (src := src) (rising := rising) (extra := extra) n s
    rw [foldState_cons]
    by_cases hn : n = q
    · have started : (lineStart src rising extra n s).seqAt q = (s.seqAt q).started s.now := by
        rw [hn, lineStart, if_pos ⟨ha, hs, hf, he⟩, startCommit_alone hl ha]
        simp
      have rest : StartsOnly (lineStart src rising extra n s) (foldState l (lineStart src rising extra) (lineStart src rising extra n s)) :=
        foldState_keeps _ _ (fun m u h => h.trans (lineStart_startsOnly m u)) l _ (.refl _)
      rw [rest.of_not_armed (by simp [started, Seq.started]), started]
    · have same : (lineStart src rising extra n s).seqAt q = s.seqAt q := lineStart_other hl (h64 n (by simp)) hn
      rw [ih ((List.mem_cons.1 hq).resolve_left (Ne.symm hn)) (fun m hm => h64 m (by simp [hm])) (by rw [same, ha])
        (by rw [startSrc, visit.reg]; exact hs) (by rw [startFalling, visit.reg]; exact hf) (by rw [visit.lockstep, hl]),
        same, visit.now]

end

/-! ### A time compare (R47, R303) -/

theorem timeCompareFire_starts {q : Fin 64} {s : State} (ha : (s.seqAt q).state = .armed) (hs : startSrc s q = 6)
    (ht : tsPassed (s.stamp (startTd s q)) (startTime s q) = true) (hl : s.lockstep q = [q.val]) :
    exec (.timeCompareFire (.seq q)) s =
      .next (s.setSeq q (Seq.started { s.seqAt q with startLate := (s.seqAt q).lateStart } s.now)) := by
  have fires : exec (.timeCompareFire (.seq q)) s =
      .next ((s.setSeq q { s.seqAt q with startLate := (s.seqAt q).lateStart }).startCommit q) :=
    congrArg _ (if_pos ⟨ha, hs, ht⟩)
  rw [fires, startCommit_alone ((setSeq_lockstep (by rfl) (by rfl) q).trans hl) (by simpa using ha)]
  simp

/-- Settles O7: the edge visits every sequencer and starts the one that waits for it; the compare starts its own. -/
theorem startEventsStartSequencers : Obligations.StartEventsStartSequencers := by
  unfold Obligations.StartEventsStartSequencers
  refine fun q line rising s => ⟨?edge, ?compare⟩
  case edge =>
    have starts := lineStarts_startsOnly (src := line + 1) (rising := rising) (extra := fun _ => true) (s.atTrigIn line rising)
    obtain ⟨frame, trg_eq⟩ := starts.after_trigIn
    refine ⟨_, trigInEdge_eq line rising s, frame, by rw [trg_eq]; rfl, by rw [trg_eq]; rfl, fun ha hs hf hl => ?_⟩
    rw [lineStarts_eq_foldState]
    exact foldState_lineStart (List.mem_range.2 q.isLt) (fun n hn => List.mem_range.1 hn) ha hs hf rfl hl
  case compare => exact fun ha hs ht hl => SeqGoes.of_setSeq (timeCompareFire_starts ha hs ht hl)

end Sys2Proof.Machine
end

section
/-! PROOFS. Align barriers (R57 to R65, R67): the release and the failure of a barrier visit each waiting member once, with one
store to it; messages to the ports change the ports alone. -/
namespace Sys2Proof.Machine

/-! ### Sequencers visited once each -/

/-- From `s` to `t` the sequencers of `l` have become what `F` makes of them, and nothing else has changed. -/
structure Visited (l : List Nat) (F : Seq → Seq) (s t : State) : Prop where
  frame : t = { s with seq := t.seq }
  inside : ∀ q ∈ l, t.seqAt q = F (s.seqAt q)
  outside : ∀ q, q ∉ l → t.seqAt q = s.seqAt q

/-- A fold over different sequencers, each visit one store to a sequencer that is still as it was at the start. -/
theorem foldState_visited {f : Nat → State → State} {F : Seq → Seq} {l : List Nat} {s : State} (hl : l.Nodup)
    (hf : ∀ q ∈ l, ∀ u : State, u = { s with seq := u.seq } → u.seqAt q = s.seqAt q → f q u = u.setSeq q (F (s.seqAt q))) :
    Visited l F s (foldState l f s) := by
  induction l generalizing s with
  | nil => exact ⟨rfl, by simp, fun _ _ => rfl⟩
  | cons n l ih =>
    obtain ⟨hn, hl⟩ := List.nodup_cons.1 hl
    have ne_of_mem {q : Nat} (hq : q ∈ l) : q ≠ n := fun h => hn (h ▸ hq)
    have visit : f n s = s.setSeq n (F (s.seqAt n)) := hf n (by simp) s rfl rfl
    have rest : Visited l F (s.setSeq n (F (s.seqAt n))) (foldState l f (s.setSeq n (F (s.seqAt n)))) := by
      refine ih hl (fun q hq u hu hs => ?_)
      rw [setSeq_seqAt, if_neg (ne_of_mem hq)] at hs ⊢
      exact hf q (by simp [hq]) u hu hs
    rw [foldState_cons, visit]
    refine ⟨rest.frame, fun q hq => ?_, fun q hq => ?_⟩
    · rcases List.mem_cons.1 hq with rfl | hq
      · rw [rest.outside q hn, setSeq_seqAt, if_pos rfl]
      · rw [rest.inside q hq, setSeq_seqAt, if_neg (ne_of_mem hq)]
    · rw [rest.outside q (List.not_mem_of_not_mem_cons hq), setSeq_seqAt, if_neg (List.ne_of_not_mem_cons hq)]

/-- A fold whose visits change nothing. -/
theorem foldState_same {α : Type} {f : α → State → State} {l : List α} {s : State} (hf : ∀ a ∈ l, f a s = s) :
    foldState l f s = s := by
  induction l with
  | nil => rfl
  | cons a l ih => rw [foldState_cons, hf a (by simp), ih (fun b hb => hf b (by simp [hb]))]

/-! ### Groups -/

/-- The align group of a sequencer rests on registers, its kept ALIGN_CFG and whether it is engaged (R74). -/
theorem groupOf_congr {s t : State} {q : Nat} (hr : t.regs = s.regs) (ha : (t.seqAt q).alignCfg = (s.seqAt q).alignCfg)
    (he : (t.seqAt q).engaged = (s.seqAt q).engaged) : t.groupOf q = s.groupOf q := by
  have cfg_eq : alignCfg t q = alignCfg s q := by simp only [alignCfg, ha, he, State.reg, hr]
  simp only [State.groupOf, cfg_eq]

/-- A list of different elements has no duplicates to erase. -/
theorem eraseDups_of_nodup {l : List Nat} (h : l.Nodup) : l.eraseDups = l := by
  induction l with
  | nil => rfl
  | cons a l ih =>
    obtain ⟨ha, hl⟩ := List.nodup_cons.1 h
    have others : l.filter (fun b => !b == a) = l :=
      List.filter_eq_self.2 (fun b hb => by simpa using fun hab : b = a => ha (hab ▸ hb))
    rw [List.eraseDups_cons, others, ih hl]

/-- A map that keeps keys, and one entry whole, keeps what is read at its key. -/
theorem sget_map_of_keeps {α : Type} (d : α) {m : Sparse α} {k : Nat} {f : Nat × α → Nat × α} (hkey : ∀ e, (f e).1 = e.1)
    (hk : ∀ v, f (k, v) = (k, v)) : sget d (m.map f) k = sget d m k := by
  induction m with
  | nil => rfl
  | cons e m ih =>
    obtain ⟨j, v⟩ := e
    by_cases hj : j = k
    · subst hj
      simp [hk, sget]
    · have key := hkey (j, v)
      rw [List.map_cons]
      generalize f (j, v) = e at key ⊢
      obtain ⟨j', v'⟩ := e
      obtain rfl : j' = j := key
      simp [sget, hj, ih]

/-- A group with a member in progress is not reopened (R64). -/
theorem reopen_alignAt {s : State} {g q : Nat} (hq : q ∈ s.members g) (hp : s.inProgress q = true) :
    s.reopen.alignAt g = s.alignAt g := by
  refine sget_map_of_keeps _ (fun e => ?_) (fun v => if_neg ?_)
  · split <;> rfl
  · simp only [not_and, List.all_eq_true, not_forall]
    exact fun _ => ⟨q, hq, by simp [hp]⟩

theorem reopen_frame (s : State) : s.reopen = { s with align := s.reopen.align } := rfl

/-! ### Messages to ports -/

theorem sendPorts_frame (ports : BitVec 6) (m : ZpMsg) (s : State) :
    s.sendPorts ports m = { s with zp := (s.sendPorts ports m).zp, outbox := (s.sendPorts ports m).outbox } := by
  refine foldState_keeps (fun t => t = { s with zp := t.zp, outbox := t.outbox }) _ ?_ _ s rfl
  intro p u hu
  rw [zpSend_frame, hu]

/-- The master's release fixes the instant of its group and tells the ports (R59). -/
theorem masterRelease_effect (g : Nat) (s : State) :
    s.masterRelease g =
        { s with align := (s.masterRelease g).align, zp := (s.masterRelease g).zp, outbox := (s.masterRelease g).outbox } ∧
      ∃ r, ∀ j, (s.masterRelease g).alignAt j = if j = g then { s.alignAt g with releaseT := r } else s.alignAt j := by
  unfold State.masterRelease
  dsimp only
  split
  · refine ⟨by rw [sendPorts_frame]; rfl,
      some (shortTs ((s.time5 (s.groupTd g) + nsUnits5 (s.groupLead g)) / 5)).toNat, fun j => ?_⟩
    rw [sendPorts_frame]
    exact setAlign_alignAt s g j _
  · exact ⟨rfl, (s.alignAt g).releaseT, fun j => by split <;> simp_all⟩

/-! ### Release (R57 to R60) -/

/-- A member released at edge `now`: its next vector may issue 4 PFCLK edges later (R57). -/
def Seq.released (v : Seq) (now : Nat) : Seq := { v.goOn now with waitAlign := false, pzWait := false }

theorem holdIf_not_pausable (q : Nat) (s : State) : s.holdIf q false = s := by
  simp [State.holdIf]

theorem releaseGroup_visited {g : Nat} {s : State} (hnd : (s.waiting g).Nodup)
    (hw : ∀ q ∈ s.waiting g, (s.seqAt q).state = .running ∧ (s.seqAt q).ending = none ∧ (s.seqAt q).waitAlign = true ∧
      (s.seqAt q).pzWait = false) :
    Visited (s.waiting g) (fun v => v.released s.now) (s.setAlign g {}) (s.releaseGroup g) := by
  refine foldState_visited hnd (fun q hq u hu hs => ?_)
  obtain ⟨running, unended, waits, not_pz⟩ := hw q hq
  have same_now : u.now = s.now := by rw [hu]; rfl
  simp only [hs, setAlign_seqAt, running, unended, waits, not_pz, same_now, holdIf_not_pausable]
  simp [Seq.released]

theorem arrive_at_master {g : BitVec 8} {port : Fin 6} {s : State} (hm : s.members g.toNat ≠ []) (hx : s.groupX g.toNat = true)
    (hmaster : s.groupMaster g.toNat = true) (hp : (s.groupPorts g.toNat).getLsbD port = true)
    (hc : (s.alignAt g.toNat).closed = false) :
    exec (.arrive port g) s = .next ((s.setAlign g.toNat { s.alignAt g.toNat with
      opened := true, openEdge := if (s.alignAt g.toNat).opened then (s.alignAt g.toNat).openEdge else s.now,
      ports := setBit (s.alignAt g.toNat).ports port, lastEdge := s.now }).masterRelease g.toNat) :=
  if_pos ⟨hm, hx, hmaster, hp, by simp [hc]⟩

/-! ### Failure (R60 to R62, R64, R67) -/

/-- The barrier of group `g` has failed: its waiting members end with the cause, the group is closed, ports may have been told. -/
structure BarrierFails (g : Nat) (cause : EndCause) (s t : State) : Prop where
  frame : t = { s with seq := t.seq, align := t.align, zp := t.zp, outbox := t.outbox }
  closed : (t.alignAt g).closed = true
  ended : ∀ q ∈ s.waiting g, t.seqAt q = (s.seqAt q).endsBy cause s.now s.now
  others : ∀ q, q ∉ s.waiting g → t.seqAt q = s.seqAt q

/-- The waiting members of a failing barrier: running, and each alone in its lockstep set. -/
structure WaitAlone (g : Nat) (s : State) : Prop where
  some_wait : s.waiting g ≠ []
  nodup : (s.waiting g).Nodup
  inRange : ∀ q ∈ s.waiting g, q < 64
  group : ∀ q ∈ s.waiting g, s.groupOf q = some g
  alone : ∀ q ∈ s.waiting g, s.lockstep q = [q]
  running : ∀ q ∈ s.waiting g, (s.seqAt q).state = .running
  unended : ∀ q ∈ s.waiting g, (s.seqAt q).ending = none

section
variable {g : Nat} {s : State}

/-- Messages to ports do not touch what waits at a barrier. -/
theorem WaitAlone.of_frame {t : State} (h : WaitAlone g s) (ht : t = { s with zp := t.zp, outbox := t.outbox }) :
    WaitAlone g t := by
  rw [ht]
  exact ⟨h.some_wait, h.nodup, h.inRange, h.group, h.alone, h.running, h.unended⟩

theorem WaitAlone.ending_sets (h : WaitAlone g s) : ((s.waiting g).flatMap s.lockstep).eraseDups = s.waiting g := by
  have alone : (s.waiting g).flatMap s.lockstep = (s.waiting g).flatMap (fun q => [q]) := by
    simp only [List.flatMap_def]
    rw [List.map_congr_left h.alone]
  rw [alone, List.flatMap_singleton', eraseDups_of_nodup h.nodup]

theorem WaitAlone.engaged (h : WaitAlone g s) {q : Nat} (hq : q ∈ s.waiting g) : (s.seqAt q).engaged = true := by
  simp [Seq.engaged, h.running q hq]

theorem WaitAlone.marked (h : WaitAlone g s) (c : EndCause) : Visited (s.waiting g) (fun v => v.endsBy c s.now s.now) s
    (foldState (s.waiting g) (fun q u => u.markEnding q c s.now) s) := by
  refine foldState_visited h.nodup (fun q hq u hu hs => ?_)
  have same_now : u.now = s.now := by rw [hu]
  rw [markEnding_first (by rw [hs, h.engaged hq]) (by rw [hs, h.unended q hq]), hs, same_now]

/-- Behind the marks the group is closed: no barrier is left to cancel, and no member finishes in this cycle. -/
theorem WaitAlone.closing (h : WaitAlone g s) {c : EndCause} {m : State} {f : Nat → State → State}
    (hm : Visited (s.waiting g) (fun v => v.endsBy c s.now s.now) s m)
    (hf : ∀ q u, u.groupOf q = some g → (u.alignAt g).opened = false → f q u = u) :
    BarrierFails g c s (foldState (s.waiting g) (fun q u => u.finishIf q)
      (foldState (s.waiting g) f (m.setAlign g { closed := true }))).reopen := by
  have frame : m.setAlign g { closed := true } = { s with
      seq := (m.setAlign g { closed := true }).seq, align := (m.setAlign g { closed := true }).align } := by
    rw [hm.frame]; rfl
  have ended : ∀ q ∈ s.waiting g, (m.setAlign g { closed := true }).seqAt q = (s.seqAt q).endsBy c s.now s.now := hm.inside
  have others : ∀ q, q ∉ s.waiting g → (m.setAlign g { closed := true }).seqAt q = s.seqAt q := hm.outside
  have opened : ((m.setAlign g { closed := true }).alignAt g).opened = false := by rw [setAlign_alignAt, if_pos rfl]
  have closed : ((m.setAlign g { closed := true }).alignAt g).closed = true := by rw [setAlign_alignAt, if_pos rfl]
  generalize m.setAlign g { closed := true } = u at frame ended others opened closed ⊢
  have same_now : u.now = s.now := by rw [frame]
  have group (q : Nat) (hq : q ∈ s.waiting g) : u.groupOf q = some g := by
    rw [← h.group q hq]
    exact groupOf_congr (by rw [frame]) (by rw [ended q hq]; rfl) (by rw [ended q hq]; rfl)
  have none_left : foldState (s.waiting g) f u = u := foldState_same (fun q hq => hf q u (group q hq) opened)
  have none_final : foldState (s.waiting g) (fun q u => u.finishIf q) u = u :=
    foldState_same (fun q hq => finishIf_running_this_cycle (c := c) (by rw [ended q hq]; exact h.running q hq)
      (by rw [ended q hq, same_now]; rfl))
  obtain ⟨q, hq⟩ := List.exists_mem_of_ne_nil _ h.some_wait
  have member : q ∈ u.members g := by simp [State.members, h.inRange q hq, group q hq]
  have in_progress : u.inProgress q = true := by simp [State.inProgress, Seq.inProgress, ended q hq, h.running q hq]
  rw [none_left, none_final]
  exact ⟨by rw [reopen_frame, frame], by rw [reopen_alignAt member in_progress, closed], ended, others⟩

/-- Messages to ports before a failure are part of it. -/
theorem BarrierFails.of_sent {sent t : State} {c : EndCause} (hs : sent = { s with zp := sent.zp, outbox := sent.outbox })
    (h : BarrierFails g c sent t) : BarrierFails g c s t := by
  obtain ⟨frame, closed, ended, others⟩ := h
  rw [hs] at frame ended others
  exact ⟨frame, closed, ended, others⟩

theorem cancelChain_fails (h : WaitAlone g s) (ho : (s.alignAt g).opened = true) (c : EndCause) (except : Option Nat) (n : Nat) :
    BarrierFails g c s (s.cancelChain (n + 1) g c except s.now) := by
  have told (ports : BitVec 6) (m : ZpMsg) : ∃ sent, (if s.groupX g then s.sendPorts ports m else s) = sent ∧
      sent = { s with zp := sent.zp, outbox := sent.outbox } := by
    refine ⟨_, rfl, ?_⟩
    split
    · exact sendPorts_frame ports m s
    · rfl
  rw [State.cancelChain, if_neg (by simp [ho])]
  dsimp only
  obtain ⟨sent, hsent, frame⟩ := told _ (.cancel (BitVec.ofNat 8 g))
  have waits := h.of_frame frame
  have same_now : s.now = sent.now := by rw [frame]
  rw [hsent, waits.ending_sets, same_now]
  refine .of_sent frame (waits.closing (waits.marked c) (fun q u hg hopen => ?_))
  rw [hg]
  exact if_neg (by simp [hopen])

/-- An open barrier fails (R62). -/
theorem cancelGroup_fails (h : WaitAlone g s) (ho : (s.alignAt g).opened = true) (c : EndCause) (except : Option Nat) :
    BarrierFails g c s (s.cancelGroup g c except s.now) :=
  cancelChain_fails h ho c except 255

end

/-! ### The commands -/

section
variable {g : BitVec 8} {port : Fin 6} {T : Word64} {s : State}

theorem alignTimeout_cancels (ho : (s.alignAt g.toNat).opened = true) (hd : s.releaseDue g.toNat = false)
    (ht : 0 < s.groupTimeout g.toNat) (he : (s.alignAt g.toNat).openEdge + s.groupTimeout g.toNat * 400 ≤ s.now) :
    exec (.alignTimeout g) s = .next (s.cancelGroup g.toNat .alignTimeout none s.now) :=
  congrArg _ (if_pos ⟨ho, by simp [hd], by omega, he⟩)

theorem cancel_cancels (ho : (s.alignAt g.toNat).opened = true) (hd : s.releaseDue g.toNat = false)
    (hx : s.groupX g.toNat = true) (hp : (s.groupPorts g.toNat).getLsbD port = true) :
    exec (.cancel port g) s = .next (s.cancelGroup g.toNat .alignCancelled (some port) s.now) :=
  congrArg _ (if_pos ⟨ho, hx, hp, by simp [hd]⟩)

/-- A RELEASE that a member chip takes: its instant stands, unless it has passed (R59, R60). -/
theorem release_at_member (ho : (s.alignAt g.toNat).opened = true) (hx : s.groupX g.toNat = true)
    (hm : s.groupMaster g.toNat = false) (hp : (lowestPort (s.groupPorts g.toNat)).getLsbD port = true)
    (hr : (s.alignAt g.toNat).releaseT = none) : exec (.release port g T) s =
      if tsBefore (s.stamp (s.groupTd g.toNat)) T then .next (s.cancelGroup g.toNat .alignLate none s.now)
      else .next (s.setAlign g.toNat { s.alignAt g.toNat with releaseT := some T.toNat }) :=
  if_pos ⟨ho, hx, by simp [hm], hp, by simp [hr]⟩

end

/-- Settles O6: a release visits the waiting members, messages touch ports and the group, a failure marks the waiting members. -/
theorem alignBarriers : Obligations.AlignBarriers := by
  unfold Obligations.AlignBarriers
  refine ⟨?release, ?messages, ?failure⟩
  case release =>
    intro g s ho hd hnd hw
    have visited := releaseGroup_visited hnd hw
    have align_eq (j : Nat) : (s.releaseGroup g.toNat).alignAt j = if j = g.toNat then {} else s.alignAt j := by
      rw [visited.frame]
      exact setAlign_alignAt s g.toNat j {}
    exact ⟨s.releaseGroup g.toNat, congrArg _ (if_pos ⟨ho, hd⟩), by rw [visited.frame]; rfl,
      ⟨(align_eq _).trans (if_pos rfl), fun j hj => (align_eq j).trans (if_neg hj)⟩, visited.inside, visited.outside⟩
  case messages =>
    refine fun g port T s hx => ⟨fun hm hmaster hp hc => ?arrive, fun ho hm hp hr ht => ?release⟩
    case arrive =>
      obtain ⟨frame, r, align_eq⟩ := masterRelease_effect g.toNat (s.setAlign g.toNat { s.alignAt g.toNat with
        opened := true, openEdge := if (s.alignAt g.toNat).opened then (s.alignAt g.toNat).openEdge else s.now,
        ports := setBit (s.alignAt g.toNat).ports port, lastEdge := s.now })
      refine ⟨_, arrive_at_master hm hx hmaster hp hc, frame, ?_, ?_, ?_, fun j hj => ?_⟩
      · simp [align_eq]
      · simp [align_eq]
      · simp [align_eq]
      · simp [align_eq, hj]
    case release =>
      exact ⟨_, (release_at_member ho hx hm hp hr).trans (if_neg (by simp [ht])), rfl, by simp, fun j hj => by simp [hj]⟩
  case failure =>
    intro g port T s ho hne hnd hw faulted
    simp only [imp_and, forall_and] at hw
    obtain ⟨inRange, group, alone, running, unended⟩ := hw
    have waits : WaitAlone g.toNat s := ⟨hne, hnd, inRange, group, alone, running, unended⟩
    have fails {i : Instr} {c : EndCause} {except : Option Nat} (hi : exec i s = .next (s.cancelGroup g.toNat c except s.now)) :
        faulted i c := by
      obtain ⟨frame, closed, ended, others⟩ := cancelGroup_fails waits ho c except
      exact ⟨_, hi, frame, closed, ended, others⟩
    refine ⟨fun hd ht he => fails (alignTimeout_cancels ho hd ht he), fun hd hx hp => fails (cancel_cancels ho hd hx hp), ?_⟩
    exact fun hx hm hp hr ht => fails ((release_at_member ho hx hm hp hr).trans (if_pos ht))

end Sys2Proof.Machine
end

section
/-! PROOFS. Pattern instructions (R39, R75 to R95, R102, R125): what one vector changes, where a run and its control action
leave the sequencer, and how a command reaches them. -/
namespace Sys2Proof.Machine

/-! ### One vector -/

/-- A store to a sequencer keeps what neither sequencers nor channels hold. -/
theorem setSeq_frame {s t : State} {k : Nat} {v : Seq} (h : t = { s with seq := t.seq, chan := t.chan }) :
    t.setSeq k v = { s with seq := (t.setSeq k v).seq, chan := (t.setSeq k v).chan } := by
  rw [h]
  rfl

/-- From `s` to `t` only channels have changed, and of sequencer `q` the vectors in flight. -/
structure Draws (q : Nat) (s t : State) : Prop where
  frame : t = { s with seq := t.seq, chan := t.chan }
  self : t.seqAt q = { s.seqAt q with inflight := (t.seqAt q).inflight }
  others : ∀ j, j ≠ q → t.seqAt j = s.seqAt j

theorem Draws.refl (q : Nat) (s : State) : Draws q s s := ⟨rfl, rfl, fun _ _ => rfl⟩

theorem Draws.trans {q : Nat} {a b c : State} (h : Draws q a b) (h' : Draws q b c) : Draws q a c := by
  refine ⟨?_, ?_, fun j hj => (h'.others j hj).trans (h.others j hj)⟩
  · rw [h'.frame, h.frame]
  · rw [h'.self, h.self]

theorem setChan_draws (q c : Nat) (v : Chan) (s : State) : Draws q s (s.setChan c v) := ⟨rfl, rfl, fun _ _ => rfl⟩

/-- One map entry in a vector touches its channel, and drops strobe events of vectors in flight (R152). -/
theorem vecChannel_draws (x : VecCtx) (ord st p j : Nat) (a : List StrobeEv × Nat × State) :
    Draws x.q a.2.2 (vecChannel x ord st p j a).2.2 := by
  have advanced (c : Nat) (v : Chan) (l : List VecRec → List VecRec) :
      Draws x.q a.2.2 ((a.2.2.setChan c v).modSeq x.q (fun w => { w with inflight := l w.inflight })) :=
    ⟨rfl, by simp, fun j hj => by simp [hj]⟩
  unfold vecChannel
  dsimp only
  split
  · exact advanced ..
  · split
    · exact (advanced ..).trans (setChan_draws ..)
    · split
      · exact (advanced ..).trans (setChan_draws ..)
      · split <;> exact (advanced ..).trans (setChan_draws ..)

theorem foldl_vecChannel_draws (x : VecCtx) (ord st p : Nat) (l : List Nat) (a : List StrobeEv × Nat × State) :
    Draws x.q a.2.2 (l.foldl (fun a j => vecChannel x ord st p j a) a).2.2 := by
  induction l generalizing a with
  | nil => exact .refl ..
  | cons j l ih => exact (vecChannel_draws x ord st p j a).trans (ih _)

/-- From `s` to `t` the vector `x` has issued: its sequencer is behind it, and of the rest only channels have changed. -/
structure VectorOut (x : VecCtx) (s t : State) : Prop where
  frame : t = { s with seq := t.seq, chan := t.chan }
  self : ∃ (l : List VecRec) (r : VecRec) (collide illegal : Nat), t.seqAt x.q =
    { Seq.issued { s.seqAt x.q with inflight := l } x (hdrPeriod (s.tssHeader x.ts x.q)) s.now (capAddr s x.q) r with
      maqCollide := collide, maqTsIllegal := illegal }
  others : ∀ j, j ≠ x.q → t.seqAt j = s.seqAt j

theorem issueVector_out (x : VecCtx) (s : State) : VectorOut x s (issueVector x s) := by
  unfold issueVector
  dsimp only
  generalize hr : List.foldl _ _ _ = r
  have drawn : Draws x.q s r.2.2 := hr ▸ foldl_vecChannel_draws x _ _ _ _ ([], 0, s)
  generalize hm : foldState _ _ r.2.2 = m
  have missed : Draws x.q r.2.2 m := by
    rw [← hm]
    refine foldState_keeps (Draws x.q r.2.2) _ (fun c u hu => hu.trans (setChan_draws ..)) _ _ (.refl ..)
  obtain ⟨frame, self, others⟩ := drawn.trans missed
  have now_eq : m.now = s.now := by rw [frame]
  refine ⟨?_, ?_, fun j hj => ?_⟩
  · rw [modSeq_eq]
    exact setSeq_frame frame
  · rw [modSeq_eq, setSeq_seqAt, if_pos rfl, now_eq, self]
    exact ⟨_, _, _, _, rfl⟩
  · rw [modSeq_eq, setSeq_seqAt, if_neg hj, others j hj]

section
variable {x : VecCtx} {s t : State} (h : VectorOut x s t)
include h

/-- A fill vector counts no vector (R39). -/
theorem VectorOut.vecCount : (t.seqAt x.q).vecCount = if x.fill then (s.seqAt x.q).vecCount else (s.seqAt x.q).vecCount + 1 := by
  obtain ⟨_, _, _, _, self⟩ := h.self
  exact congrArg Seq.vecCount self

theorem VectorOut.ord : (t.seqAt x.q).ord = (s.seqAt x.q).ord + 1 := by
  obtain ⟨_, _, _, _, self⟩ := h.self
  exact congrArg Seq.ord self

theorem VectorOut.genNext : (t.seqAt x.q).genNext = (s.seqAt x.q).genNext + hdrPeriod (s.tssHeader x.ts x.q) := by
  obtain ⟨_, _, _, _, self⟩ := h.self
  exact congrArg Seq.genNext self

theorem VectorOut.last : (t.seqAt x.q).last =
    some { ts := x.ts, instr := x.instr, pos := x.off, f4 := x.f4, s8 := x.s8, addr := capAddr s x.q } := by
  obtain ⟨_, _, _, _, self⟩ := h.self
  exact congrArg Seq.last self

theorem VectorOut.hbm : t.hbm = s.hbm := by rw [h.frame]
theorem VectorOut.tss : t.tss = s.tss := by rw [h.frame]
theorem VectorOut.regs : t.regs = s.regs := by rw [h.frame]

theorem VectorOut.pc : (t.seqAt x.q).pc = (s.seqAt x.q).pc := by
  obtain ⟨_, _, _, _, self⟩ := h.self
  exact (congrArg Seq.pc self).trans rfl

theorem VectorOut.runPos : (t.seqAt x.q).runPos = (s.seqAt x.q).runPos := by
  obtain ⟨_, _, _, _, self⟩ := h.self
  exact (congrArg Seq.runPos self).trans rfl

end

/-! ### A vector of a run -/

/-- From `s` to `t` sequencer `q` may have turned to the target of a jump: the request, what is fetched and what is decoded
(R114, R116). -/
structure Redirects (q : Nat) (s t : State) : Prop where
  frame : t = { s with seq := t.seq }
  self : t.seqAt q = { s.seqAt q with
    jump := (t.seqAt q).jump, vfs := (t.seqAt q).vfs, queue := (t.seqAt q).queue, decFrom := (t.seqAt q).decFrom,
    decEdge := (t.seqAt q).decEdge }

theorem Redirects.trans {q : Nat} {a b c : State} (h : Redirects q a b) (h' : Redirects q b c) : Redirects q a c := by
  refine ⟨?_, ?_⟩
  · rw [h'.frame, h.frame]
  · rw [h'.self, h.self]

theorem redirectQueue_redirects (q : Nat) (s : State) : Redirects q s (s.redirectQueue q) :=
  ⟨rfl, by simp [State.redirectQueue]⟩

theorem redirectLead_redirects (q : Nat) (s : State) : Redirects q s (s.redirectLead q) := by
  unfold State.redirectLead
  dsimp only
  split
  · split
    · exact ⟨rfl, by simp⟩
    · exact ⟨rfl, rfl⟩
  · exact ⟨rfl, rfl⟩

theorem decisionPoint_redirects (q : Nat) (s : State) : Redirects q s (s.decisionPoint q) := by
  unfold State.decisionPoint
  dsimp only
  have decided : Redirects q s (s.setSeq q { s.seqAt q with
      decEdge := s.now + 1, jump := (s.seqAt q).jump.map (fun j => { j with decided := true }) }) := ⟨rfl, by simp⟩
  split
  · exact (decided.trans (redirectQueue_redirects q _)).trans (redirectLead_redirects q _)
  · exact decided

theorem pulseAt_frame (q : Nat) (m : BitVec 4) (st : Nat) (s : State) :
    s.pulseAt q m st = { s with trg := (s.pulseAt q m st).trg } := by
  unfold State.pulseAt
  split
  · rfl
  · exact pulse_frame ..

/-- From `s` to `t` sequencer `q` has counted one vector of its run and moved its period generator on by `p` (R39). -/
structure Counts (q p : Nat) (s t : State) : Prop where
  vecCount : (t.seqAt q).vecCount = (s.seqAt q).vecCount + 1
  ord : (t.seqAt q).ord = (s.seqAt q).ord + 1
  runPos : (t.seqAt q).runPos = (s.seqAt q).runPos + 1
  genNext : (t.seqAt q).genNext = (s.seqAt q).genNext + p
  hbm : t.hbm = s.hbm

/-- A trigger pulse before the vector leaves the counts as they are. -/
theorem Counts.of_pulsed {q p : Nat} {s u t : State} (hu : u = { s with trg := u.trg }) (h : Counts q p u t) : Counts q p s t := by
  rw [hu] at h
  exact ⟨h.vecCount, h.ord, h.runPos, h.genNext, h.hbm⟩

/-- The decision point of a segment leaves the counts as they are. -/
theorem Counts.decisionPoint {q p : Nat} {s u : State} (h : Counts q p s u) (c : Prop) [Decidable c] :
    Counts q p s (if c then u.decisionPoint q else u) := by
  split
  · obtain ⟨frame, self⟩ := decisionPoint_redirects q u
    exact ⟨(congrArg Seq.vecCount self).trans h.vecCount, (congrArg Seq.ord self).trans h.ord,
      (congrArg Seq.runPos self).trans h.runPos, (congrArg Seq.genNext self).trans h.genNext,
      (congrArg State.hbm frame).trans h.hbm⟩
  · exact h

/-- A vector that the lead gives without falling below GUARD, of a legal period, counts (R39, R125). -/
theorem runVector_counts {x : VecCtx} {r : Run} {pos : Nat} {need : Bool} {h : Held} {f : Vfs} {s : State} (hx : x.fill = false)
    (hask : s.askLead x.q r x.off pos need = .issue h f false) (hp : periodLegal (hdrPeriod (s.tssHeader x.ts x.q)) = true) :
    Counts x.q (hdrPeriod (s.tssHeader x.ts x.q)) s (runVector x r pos need s) := by
  unfold runVector
  simp only [hask, hp, not_true_eq_false, if_false, Bool.false_eq_true, false_and]
  refine Counts.decisionPoint ?_ _
  generalize hm : ite ((s.seqAt x.q).markDue = true ∧ x.off = 0) _ s = marked
  have marked_frame : marked = { s with trg := marked.trg } := by
    rw [← hm]
    split
    · exact pulseAt_frame ..
    · rfl
  have marked_tss : s.tssHeader x.ts x.q = marked.tssHeader x.ts x.q := by rw [marked_frame]; rfl
  have out := issueVector_out { x with f4 := h.f4, s8 := h.s8 } marked
  generalize issueVector _ marked = u at out ⊢
  refine marked_tss ▸ Counts.of_pulsed marked_frame ⟨?_, ?_, ?_, ?_, ?_⟩ <;>
    simp only [modSeq_eq, setSeq_seqAt, setSeq_hbm, if_true]
  · exact out.vecCount.trans (if_neg (by simp [hx]))
  · exact out.ord
  · exact congrArg (· + 1) out.runPos
  · exact out.genNext
  · exact out.hbm

/-! ### Where a pausable point leaves a sequencer -/

/-- From `s` to `t` sequencer `q` has become `w`, unless a pausable point holds it there; of the rest at most pins of the idle
timing set have changed (R68, R102). -/
structure LeavesAt (q : Nat) (w : Seq) (s t : State) : Prop where
  frame : t = { s with seq := t.seq, chan := t.chan }
  self : t.seqAt q = { w with
    state := (t.seqAt q).state, pauseHold := (t.seqAt q).pauseHold, starveHold := (t.seqAt q).starveHold,
    pausePend := (t.seqAt q).pausePend, starvePend := (t.seqAt q).starvePend }
  others : ∀ j, j ≠ q → t.seqAt j = s.seqAt j

/-- What a HOLD does not touch reads as in `w`. -/
theorem LeavesAt.reads {α : Type} {q : Nat} {w : Seq} {s t : State} (h : LeavesAt q w s t) (f : Seq → α)
    (hf : ∀ (v : Seq) st ph sh pp sp,
      f { v with state := st, pauseHold := ph, starveHold := sh, pausePend := pp, starvePend := sp } = f v := by intros; rfl) :
    f (t.seqAt q) = f w :=
  (congrArg f h.self).trans (hf ..)

theorem plinthAfter_frame (e : Nat) (l : List Nat) (s : State) :
    s.plinthAfter e l = { s with chan := (s.plinthAfter e l).chan } := by
  refine foldState_keeps (fun t => t = { s with chan := t.chan }) _ (fun c u hu => ?_) l s rfl
  rw [hu]
  rfl

@[simp] theorem plinthAfter_seqAt (e : Nat) (l : List Nat) (s : State) (j : Nat) :
    (s.plinthAfter e l).seqAt j = s.seqAt j := by
  rw [plinthAfter_frame]
  rfl

theorem holdIf_leavesAt (q : Nat) (w : Seq) (pz : Bool) (s : State) : LeavesAt q w s ((s.setSeq q w).holdIf q pz) := by
  unfold State.holdIf
  dsimp only
  split
  · exact ⟨by rw [plinthAfter_frame]; rfl, by simp, fun j hj => by simp [hj]⟩
  · exact ⟨rfl, by simp, fun j hj => by simp [hj]⟩

/-- A sequencer that goes to an index, its run over. -/
def Seq.wentTo (v : Seq) (idx : Nat) : Seq := { v with pc := idx, run := none, runPos := 0 }

theorem goTo_leavesAt (q idx : Nat) (pz : Bool) (s : State) : LeavesAt q ((s.seqAt q).wentTo idx) s (s.goTo q idx pz) :=
  holdIf_leavesAt q _ pz s

theorem setSeq_goTo_leavesAt (q idx : Nat) (w : Seq) (pz : Bool) (s : State) :
    LeavesAt q (w.wentTo idx) s ((s.setSeq q w).goTo q idx pz) := by
  have stored : (s.setSeq q w).goTo q idx pz = (s.setSeq q (w.wentTo idx)).holdIf q pz := by
    simp [State.goTo, Seq.wentTo]
  rw [stored]
  exact holdIf_leavesAt q _ pz s

/-! ### Runs -/

section
variable {q op n : Nat} {d : Decoded} {rest : List Decoded} {r : Run} {s u w : State}

theorem slotDue_of_no_run (h : (s.seqAt q).run = none) : s.slotDue q = false := by
  simp [State.slotDue, h]

theorem issueSlots_not_due (h : s.slotDue q = false) : issueSlots q n s = s := by
  cases n with
  | zero => rfl
  | succ n => exact if_neg (by simp [h])

/-- One vector is due in the cycle, and none behind it. -/
theorem issueSlots_one (h : s.slotDue q = true) (h' : (slotStep q s).slotDue q = false) :
    issueSlots q vectorsPerCycle s = slotStep q s :=
  (if_pos h).trans (issueSlots_not_due h')

/-- An instruction that is taken leaves the queue and begins its run (R75, R79). -/
theorem beginRun_of_takes (h : Takes q op d rest s) : beginRun q op s = (s.beforeVector q).startRun q d rest := by
  unfold beginRun
  simp [h.first, h.idle, h.awake, h.flows, h.front, h.opcode, h.goesOn, h.legal, h.decoded]

/-- Behind a vector that issues comes what follows it in its run. -/
theorem slotStep_of_issues (h : Issues q r s w) : slotStep q s = slotEnd q r ((s.beforeVector q).seqAt q).runPos w := by
  unfold slotStep
  simp [h.run, h.goesOn, h.set, ← h.vector, h.issued]

/-- Behind the last vector of a run (R79, R80, R89). -/
theorem slotStep_last (h : Issues q r s w) (hn : (w.seqAt q).runPos = r.n) : slotStep q s =
    if (PatInstr.ofWord r.word).op = opMatch then finishRep q (PatInstr.ofWord r.word) r w
    else if (PatInstr.ofWord r.word).op = opJif ∧ (w.seqAt q).jifTaken.isNone then runEnd q (PatInstr.ofWord r.word) r w
    else finishRun q (PatInstr.ofWord r.word) r w := by
  rw [slotStep_of_issues h]
  exact if_neg (by rw [← hn, h.issued]; simp)

/-- A run that ends does what its instruction does then. MATCH and JIF wait for their outcome, STOP ends the burst. -/
theorem slotStep_of_endsRun (h : EndsRun q op r s u) (hop : op ∉ [opMatch, opJif, opStop]) :
    slotStep q s = opAct q (PatInstr.ofWord r.word) r u := by
  obtain ⟨⟨w, issues, last, rfl⟩, opcode, unended⟩ := h
  obtain ⟨hmatch, hjif, hstop⟩ : op ≠ opMatch ∧ op ≠ opJif ∧ op ≠ opStop := by simpa using hop
  rw [slotStep_last issues last]
  simp [finishRun, opcode, hmatch, hjif, hstop, unended]

theorem slotStep_of_stop (h : EndsRun q opStop r s u) : slotStep q s = stopAct q u := by
  obtain ⟨⟨w, issues, last, rfl⟩, opcode, -⟩ := h
  rw [slotStep_last issues last]
  simp +decide [finishRun, opcode]

end

/-- A command that takes an instruction whose first vector issues, with none due behind it, ends behind that vector's step. -/
theorem exec_of_takes {c : Instr} {q : Fin 64} {op : Nat} {d : Decoded} {rest : List Decoded} {r : Run} {s w t : State}
    (hc : exec c s = .next (runInstr q op s)) (takes : Takes q op d rest s)
    (issues : Issues q r ((s.beforeVector q).startRun q d rest) w)
    (ht : slotStep q ((s.beforeVector q).startRun q d rest) = t) (hd : t.slotDue q = false) : exec c s = .next t := by
  rw [hc, runInstr, beginRun_of_takes takes, issueSlots_one issues.due (by rw [ht, hd]), ht]

/-- An instruction that leaves its sequencer with no run does so whichever cycle its last vector issues in: behind the command
too, when its run is one vector. -/
theorem completes_of_endsRun {c : Instr} {q : Fin 64} {op : Nat} {r : Run} {d : Decoded} {s u : State} (P : State → Prop)
    (hc : ∀ s, exec c s = .next (runInstr q op s)) (hrun : ∀ t, P t → (t.seqAt q).run = none)
    (hP : ∀ s, EndsRun q op r s u → P (slotStep q s)) :
    (EndsRun q op r s u → P (slotStep q s)) ∧ (r = d.run → TakesOne q op d s u → ∃ t, exec c s = .next t ∧ P t) := by
  refine ⟨hP s, ?_⟩
  rintro rfl ⟨-, rest, takes, ends⟩
  obtain ⟨w, issues, -⟩ := ends.last
  have stepped := hP _ ends
  exact ⟨_, exec_of_takes (hc s) takes issues rfl (slotDue_of_no_run (hrun _ stepped)), stepped⟩

/-! ### Control actions -/

section
variable {q : Nat} {i : PatInstr} {r : Run} {s : State}

theorem opAct_next (h : i.op ∈ [opEmit, opRpt, opLoop, opMark, opApg]) : opAct q i r s = nextInstr q i s := by
  simp only [List.mem_cons, List.not_mem_nil, or_false] at h
  rcases h with h | h | h | h | h <;> simp +decide [opAct, h]

theorem opAct_tset (h : i.op = opTset) : opAct q i r s = tsetAct q i s := by simp +decide [opAct, h]
theorem opAct_smask (h : i.op = opSmask) : opAct q i r s = smaskAct q i s := by simp +decide [opAct, h]

theorem nextInstr_leavesAt : LeavesAt q ((s.seqAt q).wentTo ((s.seqAt q).pc + 1)) s (nextInstr q i s) :=
  goTo_leavesAt ..

/-- An instruction that stores its sequencer and goes on leaves it behind the store (R78, R93). -/
theorem setSeq_nextInstr_leavesAt {w : Seq} : LeavesAt q (w.wentTo (w.pc + 1)) s (nextInstr q i (s.setSeq q w)) := by
  have pc_eq : ((s.setSeq q w).seqAt q).pc = w.pc := by simp
  unfold nextInstr
  rw [pc_eq]
  exact setSeq_goTo_leavesAt ..

end

/-- The fill vector that repeats the last vector `l` (R81). -/
def LastVec.fillCtx (l : LastVec) (q seg : Nat) : VecCtx :=
  { q := q, instr := l.instr, seg := seg, off := l.pos, ts := l.ts, f4 := l.f4, s8 := l.s8, fill := true }

/-- A fill vector that is due repeats the last vector (R81). -/
theorem fillVector_issues {q : Fin 64} {l : LastVec} {s : State} (hl : (s.seqAt q).last = some l) (hd : s.fillDue q = true)
    (ho : ((s.beforeVector q).seqAt q).slotOpen (s.beforeVector q).now = true)
    (hp : periodLegal (hdrPeriod ((s.beforeVector q).tssHeader l.ts q)) = true) :
    exec (.fillVector q) s = .next (issueVector (l.fillCtx q ((s.beforeVector q).seqAt q).segCur) (s.beforeVector q)) := by
  change execFillVector q s = _
  unfold execFillVector
  rw [hl]
  exact (if_pos hd).trans ((if_neg (by simp [ho])).trans (if_neg (by simp [hp])))

/-- Settles O4: every command begins its run alike, every vector is the issue of one vector, and every instruction that goes on
leaves its sequencer at the next index. -/
theorem patternRunsGoOn : Obligations.PatternRunsGoOn := by
  unfold Obligations.PatternRunsGoOn
  refine ⟨?begins, ?counts, ?completes, ?fills⟩
  case begins =>
    intro q d rest s begun
    have begins {c : Instr} {op : Nat} (hc : exec c s = .next (runInstr q op s)) : begun c op :=
      fun h => by rw [hc, runInstr, beginRun_of_takes h]
    exact ⟨begins rfl, begins rfl, begins rfl, begins rfl, begins rfl, begins rfl, begins rfl, begins rfl, begins rfl,
      begins rfl, begins rfl, begins rfl, begins rfl, begins rfl, begins rfl, begins rfl⟩
  case counts =>
    intro x r pos need h f s hx hask hp t
    obtain ⟨vecCount, ord, runPos, genNext, hbm⟩ := runVector_counts hx hask hp
    exact ⟨vecCount, ord, runPos, genNext, hbm⟩
  case completes =>
    intro q r d s u i v next completes
    have goesOn {c : Instr} {op : Nat} {w : Seq} {t : State} (hc : ∀ s, exec c s = .next (runInstr q op s))
        (hop : op ∉ [opMatch, opJif, opStop]) (acts : i.op = op → opAct q i r u = t)
        (leaves : LeavesAt q (w.wentTo (v.pc + 1)) u t) (hloops : w.loops = v.loops) (hcalls : w.calls = v.calls) :
        completes c op w := by
      refine completes_of_endsRun (next w) hc (fun _ ⟨_, run, _⟩ => run) (fun s ends => ?_)
      rw [slotStep_of_endsRun ends hop, acts ends.opcode]
      exact ⟨leaves.frame, leaves.reads Seq.run, leaves.reads Seq.pc, (leaves.reads Seq.loops).trans hloops,
        (leaves.reads Seq.calls).trans hcalls, leaves.reads Seq.rotation, leaves.reads Seq.rotPos, leaves.reads Seq.smask,
        leaves.others⟩
    have plain {c : Instr} {op : Nat} (hc : ∀ s, exec c s = .next (runInstr q op s))
        (hop : op ∈ [opEmit, opRpt, opLoop, opMark, opApg]) (hop' : op ∉ [opMatch, opJif, opStop]) : completes c op v :=
      goesOn hc hop' (fun h => opAct_next (i := i) (h ▸ hop)) nextInstr_leavesAt rfl rfl
    refine ⟨?emit, ?rpt, ?loop, ?mark, ?apg, ?tset, ?smask⟩
    case emit => exact plain (fun _ => rfl) (by decide) (by decide)
    case rpt => exact plain (fun _ => rfl) (by decide) (by decide)
    case loop => exact plain (fun _ => rfl) (by decide) (by decide)
    case mark => exact plain (fun _ => rfl) (by decide) (by decide)
    case apg => exact plain (fun _ => rfl) (by decide) (by decide)
    case tset => exact goesOn (fun _ => rfl) (by decide) opAct_tset setSeq_nextInstr_leavesAt rfl rfl
    case smask => exact goesOn (fun _ => rfl) (by decide) opAct_smask setSeq_nextInstr_leavesAt rfl rfl
  case fills =>
    intro q l s hl hd u ho hp
    have out := issueVector_out (l.fillCtx q (u.seqAt q).segCur) u
    exact ⟨_, fillVector_issues hl hd ho hp, out.vecCount.trans (if_pos rfl), out.ord, out.genNext, out.last, out.pc,
      out.hbm, out.tss, out.regs, out.others⟩

end Sys2Proof.Machine
end

section
/-! PROOFS. Control flow of pattern instructions (R55, R57, R66, R80, R83, R85, R86, R89 to R91, R95): the control action of
each opcode, and the outcomes that JIF, WAIT and MATCH wait for. -/
namespace Sys2Proof.Machine

/-! ### Jumps, calls and loops -/

section
variable {q : Nat} {i : PatInstr} {r : Run} {s : State}

theorem opAct_jmp (h : i.op = opJmp) : opAct q i r s = jmpAct q i s := by simp +decide [opAct, h]
theorem opAct_call (h : i.op = opCall) : opAct q i r s = callAct q i s := by simp +decide [opAct, h]
theorem opAct_ret (h : i.op = opRet) : opAct q i r s = retAct q i s := by simp +decide [opAct, h]
theorem opAct_endl (h : i.op = opEndl) : opAct q i r s = endlAct q i r s := by simp +decide [opAct, h]
theorem opAct_wait (h : i.op = opWait) : opAct q i r s = waitAct q i s := by simp +decide [opAct, h]
theorem opAct_align (h : i.op = opAlign) : opAct q i r s = alignAct q i s := by simp +decide [opAct, h]

/-- JMP goes to its target (R85). -/
theorem jmpAct_leavesAt : LeavesAt q ((s.seqAt q).wentTo i.target) s (jmpAct q i s) := goTo_leavesAt ..

/-- CALL goes to its target with the return index pushed (R85). -/
theorem callAct_leavesAt :
    LeavesAt q (Seq.wentTo { s.seqAt q with calls := ((s.seqAt q).pc + 1) :: (s.seqAt q).calls } i.target) s (callAct q i s) :=
  setSeq_goTo_leavesAt ..

/-- RET goes to the popped index (R85). -/
theorem retAct_leavesAt {n : Nat} {l : List Nat} (h : (s.seqAt q).calls = n :: l) :
    LeavesAt q (Seq.wentTo { s.seqAt q with calls := l } n) s (retAct q i s) := by
  unfold retAct
  rw [h]
  exact setSeq_goTo_leavesAt ..

/-- ENDL of a loop that is used up closes it and goes on behind itself (R83). -/
theorem endlAct_closes {l : LoopEnt} {rest : List LoopEnt} (h : (s.seqAt q).loops = l :: rest) (hl : l.remaining ≤ 1) :
    LeavesAt q (Seq.wentTo (Seq.release { s.seqAt q with loops := rest }) ((s.seqAt q).pc + 1)) s (endlAct q i r s) := by
  unfold endlAct
  simp only [h, if_neg (not_lt.2 hl)]
  exact setSeq_goTo_leavesAt ..

/-- The entry of a loop that ENDL at `pc` repeats (R83, R117). -/
def LoopEnt.repeated (l : LoopEnt) (pc n : Nat) : LoopEnt :=
  { l with remaining := l.remaining - 1, lastIdx := pc, again := true, replay := replayable n }

/-- ENDL goes back to its LOOP while the count lasts (R83). -/
theorem endlAct_repeats {l : LoopEnt} {rest : List LoopEnt} (h : (s.seqAt q).loops = l :: rest) (hl : 1 < l.remaining) :
    LeavesAt q (Seq.wentTo { s.seqAt q with
      loops := l.repeated (s.seqAt q).pc (s.staticIdx q r.seg r.off + i.owned - l.start) :: rest } l.idx) s (endlAct q i r s) := by
  unfold endlAct
  simp only [h, gt_iff_lt, if_pos hl]
  exact setSeq_goTo_leavesAt ..

end

/-! ### JIF -/

/-- A JIF behind the last vector of its run waits for its evaluation (R80). -/
theorem slotStep_of_jif {q : Nat} {r : Run} {s w : State} (h : Issues q r s w) (hn : (w.seqAt q).runPos = r.n)
    (hop : (PatInstr.ofWord r.word).op = opJif) (hj : (w.seqAt q).jifTaken = none) :
    slotStep q s = runEnd q (PatInstr.ofWord r.word) r w := by
  rw [slotStep_last h hn, if_neg (by rw [hop]; decide)]
  exact if_pos ⟨hop, by simp [hj]⟩

theorem jifClear_pc (c : Nat) (v : Seq) : (jifClear c v).pc = v.pc := by
  unfold jifClear
  split
  · rfl
  · split
    · rfl
    · split <;> rfl

/-- An evaluated JIF goes to its target or on (R86). -/
theorem jifAct_leavesAt {q : Nat} {i : PatInstr} {w : Seq} {s : State} {taken : Bool} (h : w.jifTaken = some taken) :
    LeavesAt q (Seq.wentTo { w with jifTaken := none } (if taken then i.target else w.pc + 1)) s (jifAct q i (s.setSeq q w)) := by
  unfold jifAct
  simp only [setSeq_seqAt, setSeq_setSeq, if_true, h]
  exact setSeq_goTo_leavesAt ..

/-- A sequencer whose JIF, of run `r`, has been evaluated: its outcome, the flag it clears and the path the lead takes (R80,
R86, R88). -/
def Seq.jifEvaluated (v : Seq) (r : Run) : Seq :=
  let c := (PatInstr.ofWord r.word).jcond
  { jifClear c v with
    jifEdge := 0, jifTaken := some (jifTrue v c),
    vfs := if v.vfs.lead.path.jif = some r.idx ∧ ¬ v.replays then v.vfs.decideJif (jifTrue v c) else v.vfs }

theorem jifEvaluated_pc (v : Seq) (r : Run) : (v.jifEvaluated r).pc = v.pc := jifClear_pc ..

/-- A JIF whose run is over acts when it is evaluated (R80). -/
theorem jifEval_leavesAt {q : Nat} {r : Run} {s : State} (hr : (s.seqAt q).run = some r) (hj : (s.seqAt q).jifEdge ≠ 0)
    (he : (s.seqAt q).jifEdge ≤ s.now) (hn : (s.seqAt q).runPos = r.n) (hu : (s.seqAt q).unended s.now = true) :
    LeavesAt q (Seq.wentTo { (s.seqAt q).jifEvaluated r with jifTaken := none }
      (if jifTrue (s.seqAt q) (PatInstr.ofWord r.word).jcond then (PatInstr.ofWord r.word).target else (s.seqAt q).pc + 1)) s
      (s.jifEval q) := by
  have due : ¬ ((s.seqAt q).jifEdge = 0 ∨ s.now < (s.seqAt q).jifEdge) := by omega
  have acts : s.jifEval q = jifAct q (PatInstr.ofWord r.word) (s.setSeq q ((s.seqAt q).jifEvaluated r)) := by
    unfold State.jifEval
    simp only [hr]
    exact (if_neg due).trans (if_pos ⟨hn, hu⟩)
  rw [acts, ← jifEvaluated_pc (s.seqAt q) r]
  exact jifAct_leavesAt rfl

/-! ### WAIT, ALIGN, STOP -/

/-- WAIT_END at or behind the instant lets the successor issue (R90). -/
theorem waitEnd_passed {q : Fin 64} {e : Fin 4} {x : Nat} {s : State} (hw : (s.seqAt q).waitUntil = some (e, x))
    (ho : (s.seqAt q).slotOpen s.now = true) (hr : (s.seqAt q).run = none) (hp : (s.seqAt q).pzWait = false)
    (hx : (x : Int) ≤ s.slotTime5 q e) :
    exec (.waitEnd q) s = .next (s.setSeq q { s.seqAt q with waitUntil := none, pzWait := false }) := by
  change execWaitEnd q s = _
  unfold execWaitEnd
  simp only [hw]
  rw [if_pos ⟨ho, by simp [hr], hx⟩, hp, holdIf_not_pausable]

/-- From `s` to `t` sequencer `q` has become `w` and nothing else has changed. -/
def Stores (q : Nat) (w : Seq) (s t : State) : Prop := t = { s with seq := t.seq } ∧ Becomes State.seqAt q w s t

theorem setSeq_stores (q : Nat) (w : Seq) (s : State) : Stores q w s (s.setSeq q w) :=
  ⟨rfl, by simp, fun j hj => by simp [hj]⟩

/-- What a store does not change of its sequencer reads the same of every sequencer. -/
theorem setSeq_reads {α : Type} {s : State} {k : Nat} {v : Seq} (f : Seq → α) (h : f v = f (s.seqAt k)) (n : Nat) :
    f ((s.setSeq k v).seqAt n) = f (s.seqAt n) := by
  rw [setSeq_seqAt]
  split
  · next hn => rw [hn, h]
  · rfl

section
variable {q g : Nat} {i : PatInstr} {s : State} {w : Seq}

/-- An align group depends on a sequencer only through its kept ALIGN_CFG and whether it is engaged (R74). -/
theorem setSeq_members (ha : w.alignCfg = (s.seqAt q).alignCfg) (he : w.engaged = (s.seqAt q).engaged) :
    (s.setSeq q w).members g = s.members g := by
  have groupOf_eq (n : Nat) : (s.setSeq q w).groupOf n = s.groupOf n :=
    groupOf_congr rfl (setSeq_reads Seq.alignCfg ha n) (setSeq_reads Seq.engaged he n)
  simp only [State.members, groupOf_eq]

/-- Whether it reaches over chips depends on it through its kept parameters too. -/
theorem setSeq_groupX (ha : w.alignCfg = (s.seqAt q).alignCfg) (he : w.engaged = (s.seqAt q).engaged)
    (hp : w.alignPar = (s.seqAt q).alignPar) : (s.setSeq q w).groupX g = s.groupX g := by
  have engaged_eq := setSeq_reads Seq.engaged he
  have cfg_eq (n : Nat) : alignCfg (s.setSeq q w) n = alignCfg s n := by
    simp only [alignCfg, engaged_eq, setSeq_reads Seq.alignCfg ha, setSeq_reg]
  simp only [State.groupX, State.groupCfg, State.keeper, State.leader, setSeq_members ha he, engaged_eq, cfg_eq]
  cases (s.members g).find? (fun n => (s.seqAt n).engaged) with
  | none => rfl
  | some n => simp only [Option.map_some, setSeq_reads Seq.alignPar hp]

@[simp] theorem setAlign_setAlign (s : State) (k : Nat) (v w : AlignGroup) : (s.setAlign k v).setAlign k w = s.setAlign k w := by
  simp only [State.setAlign, sput_sput]

/-- The group `a` with member `q` arrived: its release is fixed when that makes `all` of them (R57, R58). -/
def AlignGroup.arrivedBy (a : AlignGroup) (q now : Nat) (all : Bool) : AlignGroup :=
  { a with opened := true, openEdge := if a.opened then a.openEdge else now, arrived := a.arrived ++ [q], lastEdge := now,
           releaseEdge := if all then some (now + 4) else a.releaseEdge }

/-- The arrival at a barrier of this chip alone is a store to its group (R57, R58). -/
theorem arriveAt_local (hg : s.groupOf q = some g) (hc : (s.alignAt g).closed = false) (hx : s.groupX g = false) :
    s.arriveAt q = s.setAlign g ((s.alignAt g).arrivedBy q s.now
      ((s.members g).all (fun n => ((s.alignAt g).arrived ++ [q]).contains n))) := by
  have kept_x (a : AlignGroup) : (s.setAlign g a).groupX g = false := hx
  have kept_members (a : AlignGroup) : (s.setAlign g a).members g = s.members g := rfl
  unfold State.arriveAt
  simp only [hg, hc, kept_x, kept_members, setAlign_setAlign, setAlign_now, AlignGroup.arrivedBy]
  cases (s.members g).all (fun n => ((s.alignAt g).arrived ++ [q]).contains n) <;> simp

/-- A sequencer that has arrived with its ALIGN: it waits before the next index (R57, R91). -/
def Seq.arrivedAlign (v : Seq) (pz : Bool) : Seq :=
  { v with pc := v.pc + 1, run := none, runPos := 0, waitAlign := true, pzWait := pz }

/-- An ALIGN of a group of this chip leaves the sequencer waiting and its group as the arrival says (R57, R91). -/
theorem alignAct_local (hg : s.groupOf q = some g) (hc : (s.alignAt g).closed = false) (hx : s.groupX g = false) :
    alignAct q i s = (s.setSeq q ((s.seqAt q).arrivedAlign i.pz)).setAlign g ((s.alignAt g).arrivedBy q s.now
      ((s.members g).all (fun n => ((s.alignAt g).arrived ++ [q]).contains n))) := by
  have arrives : alignAct q i s = ((s.setSeq q ((s.seqAt q).arrivedAlign i.pz)).arriveAt q).masterRelease g := by
    simp only [alignAct, hg]
    rfl
  have ha : ((s.seqAt q).arrivedAlign i.pz).alignCfg = (s.seqAt q).alignCfg := rfl
  have he : ((s.seqAt q).arrivedAlign i.pz).engaged = (s.seqAt q).engaged := rfl
  have x_eq := (setSeq_groupX (g := g) ha he rfl).trans hx
  rw [arrives, arriveAt_local ((setSeq_groupOf ha he).trans hg) hc x_eq, setSeq_members ha he]
  exact if_neg (fun ⟨reaches, _⟩ => absurd (reaches.symm.trans x_eq) (by decide))

/-- From `s` to `t` member `q` has become `w` and its arrival counts: behind the last one the release edge of group `g` is fixed
4 PFCLK edges ahead (R57, R58). -/
def Arrives (q g : Nat) (w : Seq) (s t : State) : Prop :=
  t = { s with seq := t.seq, align := t.align } ∧ Becomes State.seqAt q w s t ∧ (t.alignAt g).opened = true ∧
  (t.alignAt g).arrived = (s.alignAt g).arrived ++ [q] ∧
  (t.alignAt g).releaseEdge = if (s.members g).all (fun n => ((s.alignAt g).arrived ++ [q]).contains n)
    then some (s.now + 4) else (s.alignAt g).releaseEdge

theorem alignAct_arrives (hg : s.groupOf q = some g) (hc : (s.alignAt g).closed = false) (hx : s.groupX g = false) :
    Arrives q g ((s.seqAt q).arrivedAlign i.pz) s (alignAct q i s) := by
  rw [alignAct_local hg hc hx]
  exact ⟨rfl, ⟨by simp, fun j hj => by simp [hj]⟩, by simp [AlignGroup.arrivedBy], by simp [AlignGroup.arrivedBy],
    by simp [AlignGroup.arrivedBy]⟩

/-- Without a group ALIGN acts as EMIT (R91). -/
theorem alignAct_ungrouped (hg : s.groupOf q = none) : alignAct q i s = nextInstr q i s := by
  simp only [alignAct, hg]

/-- STOP commits its ending cause (R66, R95). -/
theorem stopAct_alone (hs : (s.seqAt q).state = .running) (hn : (s.seqAt q).ending = none) (hl : s.lockstep q = [q])
    (hg : s.groupOf q = none) :
    stopAct q s = s.setSeq q (Seq.endsBy { s.seqAt q with run := none, runPos := 0 } .stop s.now s.now) := by
  have lockstep_eq := (setSeq_lockstep (s := s) (k := q) (v := { s.seqAt q with run := none, runPos := 0 }) rfl rfl q).trans hl
  have group_eq := (setSeq_groupOf (s := s) (k := q) (v := { s.seqAt q with run := none, runPos := 0 }) rfl rfl).trans hg
  unfold stopAct
  rw [modSeq_eq, endBurst_alone lockstep_eq (by simpa using hs) (by simpa using hn) group_eq]
  simp

end

/-! ### MATCH -/

section
variable {q : Nat} {r : Run} {i : PatInstr} {m : MatchRun} {s w : State}

/-- Behind the last vector of a repetition (R89). -/
theorem slotStep_of_rep (h : Issues q r s w) (hn : (w.seqAt q).runPos = r.n) (hop : (PatInstr.ofWord r.word).op = opMatch) :
    slotStep q s = finishRep q (PatInstr.ofWord r.word) r w :=
  (slotStep_last h hn).trans (if_pos hop)

/-- An undecided MATCH begins its next repetition (R89). -/
theorem finishRep_undecided (hm : (s.seqAt q).matchRun = some m) (hd : m.decided = none) : finishRep q i r s =
    s.modSeq q (fun v => { v with runPos := 0, matchRun := some { m with reps := m.reps + 1 } }) := by
  simp only [finishRep, hm, hd]

theorem finishRep_decided {met : Bool} (hm : (s.seqAt q).matchRun = some m) (hd : m.decided = some met) :
    finishRep q i r s = matchExit q i met (segmentEnd q r i.owned s) := by
  simp only [finishRep, hm, hd]

/-- A decided MATCH goes on with its outcome recorded (R55). -/
theorem matchExit_leavesAt {met : Bool} (ha : i.as = false) (hu : (s.seqAt q).unended s.now = true) :
    LeavesAt q (Seq.wentTo { s.seqAt q with matchRun := none, matched := met, run := none, runPos := 0 } ((s.seqAt q).pc + 1)) s
      (matchExit q i met s) := by
  have unended_eq := (setSeq_reads (s := s) (k := q)
    (v := { s.seqAt q with matchRun := none, matched := met, run := none, runPos := 0 }) (Seq.unended · s.now) rfl q).trans hu
  unfold matchExit
  simp only [applyAs, ha, modSeq_eq, Bool.false_eq_true, not_false_eq_true, if_true, setSeq_now, unended_eq]
  simpa using setSeq_goTo_leavesAt ..

end

/-- Settles O5: each control action leaves its sequencer where its opcode says; JIF, WAIT and MATCH go on with the outcome they
waited for. -/
theorem patternControlFlow : Obligations.PatternControlFlow := by
  unfold Obligations.PatternControlFlow
  refine ⟨?actions, ?outcomes, ?repetitions⟩
  case actions =>
    intro q r d s u i v goes completes
    have goesTo {c : Instr} {op pc : Nat} {calls : List Nat} {loops : List LoopEnt} {w : Seq} {t : State}
        (hc : ∀ s, exec c s = .next (runInstr q op s)) (hop : op ∉ [opMatch, opJif, opStop])
        (acts : i.op = op → opAct q i r u = t) (leaves : LeavesAt q (w.wentTo pc) u t) (hcalls : w.calls = calls)
        (hloops : w.loops = loops) : completes c op (goes pc calls loops) := by
      refine completes_of_endsRun (goes pc calls loops) hc (fun _ ⟨_, run, _⟩ => run) (fun s ends => ?_)
      rw [slotStep_of_endsRun ends hop, acts ends.opcode]
      exact ⟨leaves.frame, leaves.reads Seq.run, leaves.reads Seq.pc, (leaves.reads Seq.calls).trans hcalls,
        (leaves.reads Seq.loops).trans hloops, leaves.others⟩
    have stores {c : Instr} {op : Nat} {w : Seq} (hc : ∀ s, exec c s = .next (runInstr q op s)) (hrun : w.run = none)
        (ends : ∀ s, EndsRun q op r s u → slotStep q s = u.setSeq q w) :
        completes c op (Stores q w u) := by
      refine completes_of_endsRun (Stores q w u) hc (fun _ ⟨_, self, _⟩ => (congrArg Seq.run self).trans hrun) (fun s h => ?_)
      exact ends s h ▸ setSeq_stores ..
    refine ⟨?jmp, ?call, fun n l hcalls => ?ret, fun l rest hloops hlast => ?close, fun l rest hloops hmore => ?again, ?wait,
      fun g hg hc hx => ?align, fun hg => ?alone, fun hs hn hlock hg => ?stop⟩
    case jmp => exact goesTo (fun _ => rfl) (by decide) opAct_jmp jmpAct_leavesAt rfl rfl
    case call => exact goesTo (fun _ => rfl) (by decide) opAct_call callAct_leavesAt rfl rfl
    case ret => exact goesTo (fun _ => rfl) (by decide) opAct_ret (retAct_leavesAt hcalls) rfl rfl
    case close => exact goesTo (fun _ => rfl) (by decide) opAct_endl (endlAct_closes hloops hlast) rfl rfl
    case again => exact goesTo (fun _ => rfl) (by decide) opAct_endl (endlAct_repeats hloops hmore) rfl rfl
    case alone =>
      have acts (h : i.op = opAlign) := (opAct_align (r := r) (s := u) h).trans (alignAct_ungrouped hg)
      exact goesTo (fun _ => rfl) (by decide) acts nextInstr_leavesAt rfl rfl
    case wait =>
      exact stores (fun _ => rfl) rfl (fun s ends => (slotStep_of_endsRun ends (by decide)).trans (opAct_wait ends.opcode))
    case stop =>
      exact stores (fun _ => rfl) rfl (fun s ends => (slotStep_of_stop ends).trans (stopAct_alone hs hn hlock hg))
    case align =>
      refine completes_of_endsRun (Arrives q g _ u) (fun _ => rfl) (fun t ⟨_, ⟨self, _⟩, _⟩ => congrArg Seq.run self)
        (fun s ends => ?_)
      rw [slotStep_of_endsRun ends (by decide), opAct_align ends.opcode]
      exact alignAct_arrives hg hc hx
  case outcomes =>
    intro q d rest s u
    refine ⟨fun takes issues hn hj hd => ?first, fun r hr hj he hn hu => ?eval, fun e x hw ho hr hp hx => ?waitEnd⟩
    case first =>
      have stepped := slotStep_of_jif issues hn takes.opcode hj
      exact exec_of_takes rfl takes issues stepped hd
    case eval =>
      have leaves := jifEval_leavesAt hr hj he hn hu
      exact ⟨leaves.reads Seq.pc, leaves.reads Seq.run, leaves.others⟩
    case waitEnd => exact ⟨_, waitEnd_passed hw ho hr hp hx, setSeq_stores ..⟩
  case repetitions =>
    intro q d rest r m s w
    refine ⟨fun takes issues hn hm hd hdue => ?command,
      fun issues hn hop hm => ⟨fun hd => ?undecided, fun met hd has hu => ?decided⟩⟩
    case command =>
      exact exec_of_takes rfl takes issues ((slotStep_of_rep issues hn takes.opcode).trans (finishRep_undecided hm hd)) hdue
    case undecided => exact (slotStep_of_rep issues hn hop).trans (finishRep_undecided hm hd)
    case decided =>
      have leaves := matchExit_leavesAt (met := met) has hu
      rw [← finishRep_decided hm hd, ← slotStep_of_rep issues hn hop] at leaves
      exact ⟨leaves.frame, leaves.reads Seq.pc, leaves.reads Seq.matched, leaves.reads Seq.matchRun, leaves.reads Seq.run,
        leaves.others⟩

end Sys2Proof.Machine
end

section
/-! PROOFS. Vector data and marks of a sequencer (R112 to R120): what a fetch adds behind the lead, a STRM_WR that fits its
window, the head mark, and the first jump request of the host. -/
namespace Sys2Proof.Machine

/-! ### A path that grows (R118, R119) -/

/-- From `s` to `t` the merge buffer may have changed, and of sequencer `q` what VFS holds and counts of its fetches. -/
structure Fetches (q : Nat) (s t : State) : Prop where
  frame : t = { s with seq := t.seq, merge := t.merge }
  self : t.seqAt q = { s.seqAt q with
    vfs := (t.seqAt q).vfs, belowGuard := (t.seqAt q).belowGuard, fetchMerged := (t.seqAt q).fetchMerged,
    fetchHbm := (t.seqAt q).fetchHbm }
  others : ∀ j, j ≠ q → t.seqAt j = s.seqAt j

theorem Fetches.refl (q : Nat) (s : State) : Fetches q s s := ⟨rfl, rfl, fun _ _ => rfl⟩

theorem Fetches.trans {q : Nat} {a b c : State} (h : Fetches q a b) (h' : Fetches q b c) : Fetches q a c := by
  refine ⟨?_, ?_, fun j hj => (h'.others j hj).trans (h.others j hj)⟩
  · rw [h'.frame, h.frame]
  · rw [h'.self, h.self]

/-- A store to the sequencer, and to the merge buffer, that keeps all but what VFS holds and counts. -/
theorem Fetches.of_setSeq {q : Nat} {s : State} {v : Seq} (m : List MergeBlk)
    (hv : v = { s.seqAt q with
      vfs := v.vfs, belowGuard := v.belowGuard, fetchMerged := v.fetchMerged, fetchHbm := v.fetchHbm }) :
    Fetches q s { s.setSeq q v with merge := m } := by
  have seqAt_eq (j : Nat) : State.seqAt { s.setSeq q v with merge := m } j = if j = q then v else s.seqAt j :=
    setSeq_seqAt s q j v
  exact ⟨rfl, by rw [seqAt_eq, if_pos rfl]; exact hv, fun j hj => (seqAt_eq j).trans (if_neg hj)⟩

section
variable {q : Nat} {s : State}

theorem keepSegs_fetches (l : List Held) : Fetches q s (s.keepSegs q l) := by
  refine foldState_keeps (Fetches q s) _ (fun k u h => h.trans ?_) _ s (.refl q s)
  refine .of_setSeq u.merge ?_
  dsimp only
  split <;> rfl

theorem mergeOne_fetches (k g : Nat) (vecs : List Held) : Fetches q s (s.mergeOne q k g vecs) := by
  unfold State.mergeOne
  dsimp only
  split <;> exact .of_setSeq _ rfl

theorem mergeAll_fetches (l : List Held) : Fetches q s (s.mergeAll q l) := by
  induction l generalizing s with
  | nil => exact .refl q s
  | cons h t ih =>
    unfold State.mergeAll
    dsimp only
    split
    · exact ih
    · exact ((mergeOne_fetches ..).trans (.of_setSeq _ rfl)).trans ih

theorem grow_fetches (res : HbmStatus) (n : Nat) (f : FetchQ) : Fetches q s (s.grow q res n f).2 :=
  ((keepSegs_fetches _).trans (mergeAll_fetches _)).trans ⟨rfl, rfl, fun _ _ => rfl⟩

/-- A walk of `n` steps puts at most `n` vectors behind those of its path. -/
theorem fetchMore_vecs (res : HbmStatus) (n : Nat) (f : FetchQ) :
    ∃ new, (s.fetchMore q res n f).vecs = f.vecs ++ new ∧ new.length ≤ n := by
  induction n generalizing f with
  | zero => exact ⟨[], by simp [State.fetchMore]⟩
  | succ n ih =>
    unfold State.fetchMore
    split
    · exact ⟨[], by simp⟩
    · next h p _ =>
      obtain ⟨new, hnew, hlen⟩ := ih { vecs := f.vecs ++ [h], path := p }
      exact ⟨h :: new, by simp [hnew], by simpa using hlen⟩

/-- What the merge buffer gives stands for the vectors fetched one for one, so the bound stays. -/
theorem grow_vecs (res : HbmStatus) (n : Nat) (f : FetchQ) :
    ∃ new, (s.grow q res n f).1.vecs = f.vecs ++ new ∧ new.length ≤ n := by
  obtain ⟨new, hnew, hlen⟩ := fetchMore_vecs (q := q) (s := s) res n f
  exact ⟨new.map (s.fromMerge q), by simp [State.grow, hnew], by simpa using hlen⟩

/-! ### Vectors of the lead (R118) -/

/-- The start of the two paths of a JIF leaves the lead as it is. -/
@[simp] theorem forkJif_lead (f : Vfs) : f.forkJif.lead = f.lead := by
  unfold Vfs.forkJif
  split <;> rfl

theorem held_of_no_jif {f : Vfs} (h : f.lead.path.jif = none) : f.held = f.lead.vecs.length := by
  simp [Vfs.held, h]

theorem redirectLead_of_no_jump (h : (s.seqAt q).jump = none) : s.redirectLead q = s := by
  simp only [State.redirectLead, h]

theorem unstall_of_not_stalled (h : (s.seqAt q).stalled = false) : s.unstall q = s := by
  simp [State.unstall, h]

/-- Vectors the lead still has room for (R118). -/
def Seq.leadRoom (v : Seq) (n : Nat) : Nat := min n (64 * v.leadCfg - v.vfs.lead.vecs.length)

/-- A sequencer whose lead has grown to `f`: a lead that has reached a JIF forks, and one that holds GUARD vectors is no longer
below it. -/
def Seq.withLead (v : Seq) (f : FetchQ) : Seq :=
  { v with vfs := ({ v.vfs with lead := f } : Vfs).forkJif,
           belowGuard := v.belowGuard && decide (f.vecs.length < 64 * v.guardCfg) }

@[simp] theorem withLead_lead (v : Seq) (f : FetchQ) : (v.withLead f).vfs.lead = f := by simp [Seq.withLead]

/-- Out of the prefill, with no JIF ahead and no jump pending, the lead grows and nothing follows from it. -/
theorem leadFetched_grows {res : HbmStatus} {n : Nat} (hp : (s.seqAt q).arming ≠ .prefill) (hj : (s.seqAt q).jump = none)
    (hf : (s.seqAt q).vfs.lead.path.jif = none) :
    leadFetched q n res s = (s.grow q res ((s.seqAt q).leadRoom n) (s.seqAt q).vfs.lead).2.modSeq q
      (fun v => v.withLead (s.grow q res ((s.seqAt q).leadRoom n) (s.seqAt q).vfs.lead).1) := by
  have no_jump : ((s.grow q res ((s.seqAt q).leadRoom n) (s.seqAt q).vfs.lead).2.seqAt q).jump = none := by
    rw [(grow_fetches ..).self]
    exact hj
  have not_redirected (f : FetchQ) := redirectLead_of_no_jump (q := q)
    (s := (s.grow q res ((s.seqAt q).leadRoom n) (s.seqAt q).vfs.lead).2.modSeq q (fun v => v.withLead f))
    (by simpa [Seq.withLead] using no_jump)
  unfold leadFetched
  rw [if_neg (by simp [hf]), held_of_no_jif hf]
  dsimp only
  simp only [if_neg hp]
  split <;> exact not_redirected _

/-- A vector fetch of an engaged sequencer that is not stalled (R32, R118). -/
theorem fetchVectors_of_engaged {q : Fin 64} {res : HbmStatus} {n : Nat} (he : (s.seqAt q).engaged = true)
    (hr : (s.seqAt q).resetPend = false) (hs : ((leadFetched q n res s).seqAt q).stalled = false) :
    exec (.fetchComplete q .vectors res n) s = .next (leadFetched q n res s) := by
  refine (if_neg (by simp [he, hr])).trans ((if_neg (by simp [he])).trans ?_)
  exact congrArg Host.Outcome.next (unstall_of_not_stalled hs)

end

/-! ### STRM_WR and MARK_ID (R112, R120) -/

section
variable {q : Fin 64} {s : State}

/-- A byte count that does not fall back and fits the window is committed; the count before the cycle stays for fetches of the
cycle (R120). -/
theorem strmWr_commits {lo : Word32} (hr : s.ready (pgSeq q) = true)
    (hlow : s.strmWrOf q ≤ lo.toNat + 2 ^ 32 * s.regN (pgSeq q) 0x224)
    (hfit : lo.toNat + 2 ^ 32 * s.regN (pgSeq q) 0x224 ≤ s.strmRelOf q + s.strmBytes q) :
    SeqGoes (.strmWr q lo none) q { s.seqAt q with
      strmWr := lo.toNat + 2 ^ 32 * s.regN (pgSeq q) 0x224, strmEdge := s.now + 1,
      strmOld := if (s.seqAt q).strmEdge = s.now + 1 then (s.seqAt q).strmOld else (s.seqAt q).strmWr } s :=
  .of_ready rfl hr (if_neg (not_or.mpr ⟨Nat.not_lt.mpr hlow, Nat.not_lt.mpr hfit⟩))

theorem markIdRead_takes_head {m : Mark} {l : List Mark} (p : Path) (h : (s.seqAt q).marks = m :: l) :
    exec (.markIdRead q p) s = .next { s.setSeq q { s.seqAt q with marks := l, markTs := m.ts } with
      hostOut := BitVec.ofNat 64 (2 ^ 31 + m.id.toNat) } := by
  change execMarkIdRead q p s = _
  simp only [execMarkIdRead, h]

end

/-! ### Jump requests (R113, R114, R116) -/

/-- A request without the note that the lead already follows it. -/
def JumpReq.unled (j : JumpReq) : JumpReq := { j with led := false }

/-- The request that a host write makes in cycle `now`: for the segment of the first vector issued in the cycle, else of the
last one issued (R113, R114). -/
def Seq.hostJump (v : Seq) (slot now : Nat) : JumpReq :=
  { slot := slot, edge := now, decided := decide (v.decEdge = now + 1),
    seg := if v.cycEdge = now + 1 then v.cycSeg else v.segCur }

section
variable {q : Nat} {s : State}

/-- The first request of a running sequencer stands (R113). -/
theorem jumpRequest_first {slot : Nat} (hs : (s.seqAt q).state = .running) (hj : (s.seqAt q).jump = none)
    (hu : s.jumpUsable q slot = true) :
    s.jumpRequest q slot 16 = s.putJump q ((s.seqAt q).hostJump slot s.now) false := by
  refine (if_neg (by simp [hs])).trans ((if_neg (by simp [hu])).trans ?_)
  simp only [hj]
  rfl

/-- Sequencer `q` with a request where none stood, before decoder and lead follow it. -/
def State.requested (s : State) (q : Nat) (j : JumpReq) : State := s.setSeq q { s.seqAt q with jump := some j }

theorem putJump_new (j : JumpReq) : s.putJump q j false =
    if j.decided then ((s.requested q j).redirectQueue q).redirectLead q else s.requested q j := by
  simp [State.putJump, State.requested]

theorem redirectLead_seqAt_other {j : Nat} (hj : j ≠ q) : (s.redirectLead q).seqAt j = s.seqAt j := by
  unfold State.redirectLead
  dsimp only
  split
  · split
    · simp [hj]
    · rfl
  · rfl

/-- The lead that follows a request notes so, and changes nothing else of it. -/
theorem redirectLead_unled : ((s.redirectLead q).seqAt q).jump.map JumpReq.unled = (s.seqAt q).jump.map JumpReq.unled := by
  unfold State.redirectLead
  dsimp only
  split
  · next j hj =>
    split
    · simp [hj, JumpReq.unled]
    · rfl
  · rfl

theorem redirectQueue_jump : ((s.redirectQueue q).seqAt q).jump = (s.seqAt q).jump := by simp [State.redirectQueue]

theorem requested_stores (j : JumpReq) : Stores q { s.seqAt q with jump := some j } s (s.requested q j) := setSeq_stores ..

/-- A new request stands, whether or not decoder and lead follow it at once; other sequencers are untouched. -/
theorem putJump_new_effect (j : JumpReq) : s.putJump q j false = { s with seq := (s.putJump q j false).seq } ∧
    ((s.putJump q j false).seqAt q).jump.map JumpReq.unled = some j.unled ∧
    ∀ k, k ≠ q → (s.putJump q j false).seqAt k = s.seqAt k := by
  obtain ⟨frame, self, others⟩ := requested_stores (q := q) (s := s) j
  rw [putJump_new]
  split
  · refine ⟨?frame, ?request, fun k hk => ?other⟩
    case frame => rw [(redirectLead_redirects q _).frame, (redirectQueue_redirects q _).frame, frame]
    case request => rw [redirectLead_unled, redirectQueue_jump, self]; rfl
    case other => rw [redirectLead_seqAt_other hk, ← others k hk]; simp [State.redirectQueue, hk]
  · exact ⟨frame, by rw [self]; rfl, others⟩

/-- Before its decision point has issued a request waits in the sequencer alone. -/
theorem putJump_undecided {j : JumpReq} (h : j.decided = false) :
    (s.putJump q j false).seqAt q = { s.seqAt q with jump := some j } := by
  obtain ⟨-, self, -⟩ := requested_stores (q := q) (s := s) j
  rw [putJump_new, if_neg (by simp [h]), self]

end

theorem jumpReq_first {q : Fin 64} {slot : Fin 4} {s : State} (hr : s.ready (pgSeq q) = true) (hs : (s.seqAt q).state = .running)
    (hj : (s.seqAt q).jump = none) (hu : (s.setReg (pgSeq q) 0x238 (BitVec.ofNat 32 slot)).jumpUsable q slot = true) :
    exec (.jumpReq q slot) s =
      .next ((s.setReg (pgSeq q) 0x238 (BitVec.ofNat 32 slot)).putJump q ((s.seqAt q).hostJump slot s.now) false) :=
  congrArg Host.Outcome.next ((whenReady_of_ready _ hr).trans (jumpRequest_first hs hj hu))

/-- Settles O3: a fetch grows the lead alone, STRM_WR and MARK_ID are one store each, and a first request stands in its
sequencer whether or not decoder and lead follow it at once. -/
theorem sequencerDataAndMarks : Obligations.SequencerDataAndMarks := by
  unfold Obligations.SequencerDataAndMarks
  refine fun q s => ⟨?vectors, fun lo hr => ?stream, fun m l p hm => ?mark, fun slot hr hs hj hu => ?jump⟩
  case vectors =>
    intro n res he hp hr hst hj hf
    have fetched := leadFetched_grows (res := res) (n := n) hp hj hf
    have grown := grow_fetches (q := q) (s := s) res ((s.seqAt q).leadRoom n) (s.seqAt q).vfs.lead
    have fetches : Fetches q s (leadFetched q n res s) := fetched ▸ grown.trans (.of_setSeq _ rfl)
    have lead : ((leadFetched q n res s).seqAt q).vfs.lead.vecs =
        (s.grow q res ((s.seqAt q).leadRoom n) (s.seqAt q).vfs.lead).1.vecs := by
      simp [fetched]
    have not_stalled : ((leadFetched q n res s).seqAt q).stalled = false := by rw [fetches.self]; exact hst
    exact ⟨_, fetchVectors_of_engaged he hr not_stalled, fetches.frame, lead, lead ▸ grow_vecs .., fetches.others⟩
  case stream => exact strmWr_commits hr
  case mark =>
    obtain ⟨-, becomes⟩ := setSeq_stores q { s.seqAt q with marks := l, markTs := m.ts } s
    exact ⟨_, markIdRead_takes_head p hm, rfl, rfl, becomes⟩
  case jump =>
    obtain ⟨frame, request, others⟩ := putJump_new_effect (q := q) (s := s.setReg (pgSeq q) 0x238 (BitVec.ofNat 32 slot))
      ((s.seqAt q).hostJump slot s.now)
    refine ⟨_, jumpReq_first hr hs hj hu, ?_, request, others, fun hd => ?undecided⟩
    · rw [frame]; rfl
    case undecided => exact putJump_undecided (decide_eq_false hd)

end Sys2Proof.Machine
end

section
/-! PROOFS. Table writes (R135, R146, R148, R150, R396): where a BAR2 offset lies in the timing set store and in the APG tables,
and what one aligned word does there outside any use and in use. -/
namespace Sys2Proof.Machine

/-- An aligned 32-bit access to BAR2 is the access of its one word (R388). -/
theorem toRes_bothWords_single {off : Nat} (hoff : off < 2 ^ 23) (ha : off % 4 = 0) (v : Word32)
    (f : Nat → Word32 → State → Except Fault State) (s : State) :
    toRes (bothWords (BitVec.ofNat 23 off).toNat v none f s) = toRes (f off v s) := by
  have aligned : ¬ (¬ bar2Aligned off none = true) := by simp [bar2Aligned, ha]
  rw [BitVec.toNat_ofNat, Nat.mod_eq_of_lt hoff, bothWords, if_neg aligned]
  cases f off v s <;> rfl

/-- A read after a stored value was changed in place: the change at its key, the old value elsewhere. -/
theorem sget_sput_changed {α : Type} (d : α) (m : Sparse α) (k : Nat) (f : α → α) (j : Nat) :
    sget d (sput m k (f (sget d m k))) j = if j = k then f (sget d m j) else sget d m j := by
  rw [sget_sput]
  split
  case isTrue same => rw [same]
  case isFalse => rfl

/-! ### The timing set store (R148, R150) -/

/-- Word `w` of entry `n` is written. -/
def State.putEntryWord (s : State) (n w : Nat) (v : Word32) : State :=
  { s with tss := { s.tss with entries := sput s.tss.entries n (setWord (sget 0 s.tss.entries n) w v &&& entryMask) } }

/-- Word `x` of header `h` is written. -/
def State.putHeaderWord (s : State) (h x : Nat) (v : Word32) : State :=
  { s with tss := { s.tss with headers := sput s.tss.headers h (setWord (sget 0 s.tss.headers h) x v &&& headerMask) } }

/-- Entry `n` holds its word `w` at `32 n + 4 w` of the table. -/
theorem tssWord_entry {n w : Nat} (hn : n < 131072) (hw : w < 8) (v : Word32) (s : State) :
    tssWord (32 * n + 4 * w) v s =
      if s.chanInUse (n % 512) = true ∧ ¬ s.chanArmedNow (n % 512) = true then .error (.undefinedBehaviour 4)
      else .ok (s.putEntryWord n w v) := by
  have entry : (32 * n + 4 * w) / 32 = n := by omega
  have word : (32 * n + 4 * w) % 32 / 4 = w := by omega
  rw [tssWord, if_pos (by omega), entry, word]
  rfl

/-- Behind the entries, header `h` holds its word `x` at `8 h + 4 x`. -/
theorem tssWord_header {h x : Nat} (hh : h < 16384) (hx : x < 2) (v : Word32) (s : State) :
    tssWord (0x400000 + 8 * h + 4 * x) v s =
      if s.inProgress (h % 64) = true ∧ ¬ s.tookUp (h % 64) = true then .error (.undefinedBehaviour 4)
      else .ok (s.putHeaderWord h x v) := by
  have header : (0x400000 + 8 * h + 4 * x - 0x400000) / 8 = h := by omega
  have word : (0x400000 + 8 * h + 4 * x) % 8 / 4 = x := by omega
  rw [tssWord, if_neg (by omega), if_pos (by omega), header, word]
  rfl

theorem exec_tssTableWrite {off : Nat} (hoff : off < 2 ^ 23) (ha : off % 4 = 0) (v : Word32) (s : State) :
    exec (.tssTableWrite (BitVec.ofNat 23 off) v none) s = toRes (tssWord off v s) :=
  toRes_bothWords_single hoff ha v tssWord s

/-! ### The APG tables (R135, R146) -/

theorem apgTabOwner_word {q k : Nat} (hq : q < 64) (hk : k < 2560) :
    apgTabOwner (0x600000 + 0x4000 * q + 4 * k) = some q := by
  have owner : (0x600000 + 0x4000 * q + 4 * k - 0x600000) / 0x4000 = q := by omega
  rw [apgTabOwner, if_pos (by omega), owner]

theorem exec_apgTableWrite {off : Nat} {q : Nat} (hoff : off < 2 ^ 23) (ha : off % 4 = 0) (ho : apgTabOwner off = some q)
    (v : Word32) (s : State) : exec (.apgTableWrite (BitVec.ofNat 23 off) v none) s =
      .next (if s.inProgress q = true ∧ ¬ s.tookUp q = true then s.recordErr (pgApg q) errAssignBusy
        else { s with apgTab := sput s.apgTab off (v &&& apgTabMask off) }) := by
  refine (toRes_bothWords_single hoff ha v apgTabWord s).trans ?_
  simp only [apgTabWord, ho]
  split <;> rfl

/-- Out of use, or in the cycle of the arm that begins the use, nothing stands against a write. -/
theorem not_held {used armed : Bool} (h : used = false ∨ armed = true) : ¬ (used = true ∧ ¬ armed = true) := by
  rintro ⟨hu, ha⟩
  rcases h with h | h
  · simp [h] at hu
  · exact ha h

/-- Settles O12: each offset lies in one word of one entry, header or APG table, and the use alone decides what its write does. -/
theorem tableWrites : Obligations.TableWrites := by
  unfold Obligations.TableWrites
  refine ⟨fun n w h x v s => ?store, fun q k v s => ?apg⟩
  case store =>
    intro off hoff
    have entry_write : exec (.tssTableWrite off v none) s = _ :=
      (exec_tssTableWrite (by omega) (by omega) v s).trans (congrArg toRes (tssWord_entry n.isLt w.isLt v s))
    have header_write : exec (.tssTableWrite hoff v none) s = _ :=
      (exec_tssTableWrite (by omega) (by omega) v s).trans (congrArg toRes (tssWord_header h.isLt x.isLt v s))
    refine ⟨fun free => ?entry, fun free => ?header, fun used old => ?entryInUse, fun used old => ?headerInUse⟩
    case entry =>
      exact ⟨s.putEntryWord n w v, by rw [entry_write, if_neg (not_held free)]; rfl, rfl,
        fun m => sget_sput_changed 0 s.tss.entries n (fun e => setWord e w v &&& entryMask) m⟩
    case header =>
      exact ⟨s.putHeaderWord h x v, by rw [header_write, if_neg (not_held free)]; rfl, rfl,
        fun m => sget_sput_changed 0 s.tss.headers h (fun e => setWord e x v &&& headerMask) m⟩
    case entryInUse => rw [entry_write, if_pos ⟨used, by simp [old]⟩]; rfl
    case headerInUse => rw [header_write, if_pos ⟨used, by simp [old]⟩]; rfl
  case apg =>
    intro a
    have write := exec_apgTableWrite (by omega) (by omega) (apgTabOwner_word q.isLt k.isLt) v s
    refine ⟨fun free => ?free, fun used old => ?inUse⟩
    case free => exact ⟨_, by rw [write, if_neg (not_held free)], rfl, fun m => sget_sput ..⟩
    case inUse =>
      exact ⟨_, by rw [write, if_pos ⟨used, by simp [old]⟩], recordErr_frame .., recordErr_sets ..⟩

end Sys2Proof.Machine
end

section
/-! PROOFS. The staged commit path (R166, R167, R169 to R171): what a close hands over to each owner, what an accepted arm of
the same cycle applies at once, and what a discard and a soft reset of the control block leave in place. -/
namespace Sys2Proof.Machine

section
variable {s : State}

/-! ### The store under an applied item -/

theorem applyItem_frame (i : StgItem) (t : Tss) :
    applyItem i t = { t with entries := (applyItem i t).entries, headers := (applyItem i t).headers } := by
  unfold applyItem
  split <;> rfl

/-- Where an item goes and what it writes rests on the two tables alone. -/
theorem applyItem_tables_congr (i : StgItem) {t u : Tss} (he : t.entries = u.entries) (hh : t.headers = u.headers) :
    (applyItem i t).entries = (applyItem i u).entries ∧ (applyItem i t).headers = (applyItem i u).headers := by
  unfold applyItem
  rw [he, hh]
  split <;> exact ⟨rfl, rfl⟩

theorem logApply_frame (r : ApplyRec) (t : Tss) :
    logApply r t = { t with log := (logApply r t).log, applyOvf := (logApply r t).applyOvf } := by
  unfold logApply
  split <;> rfl

theorem applyItems_parts (l : List StgItem) (t : Tss) : (l.foldl (fun t i => applyItem i t) t).parts = t.parts := by
  induction l generalizing t with
  | nil => rfl
  | cons i l ih => rw [List.foldl_cons, ih, applyItem_frame]

@[simp] theorem applyPart_parts (p : BatchPart) (r : ApplyRec) : (s.applyPart p r).tss.parts = s.tss.parts := by
  unfold State.applyPart
  rw [logApply_frame]
  exact applyItems_parts ..

/-- The one part that waits for sequencer `q` applies, and the parts of the others stay. -/
theorem applyFor_only_part {q : Nat} {ps : List BatchPart} {p : BatchPart} (hparts : s.tss.parts = ps ++ [p])
    (hp : p.seq = some q) (hps : ∀ x ∈ ps, x.seq ≠ some q) (atEnd atStart : Bool) (vec : Nat) (seg : Word32) :
    s.applyFor q (fun _ => true) atEnd atStart vec seg =
      let u := s.applyPart p { id := applyIdWord false q atEnd atStart p.batch, vec := BitVec.ofNat 64 vec, seg := seg }
      { u with tss := { u.tss with parts := ps } } := by
  have mine : s.tss.parts.filter (fun x => decide (x.seq = some q ∧ true = true)) = [p] := by
    rw [hparts, List.filter_append, List.filter_eq_nil_iff.2 (by simpa using hps)]
    simp [hp]
  have others : s.tss.parts.filter (fun x => decide ¬ (x.seq = some q ∧ true = true)) = ps := by
    rw [hparts, List.filter_append, List.filter_eq_self.2 (by simpa using hps)]
    simp [hp]
  unfold State.applyFor
  dsimp only
  rw [mine, foldState_cons, foldState_nil, applyPart_parts, others]

/-! ### Closing a batch (R167, R169) -/

/-- The open batch is closed under the next identity: its parts wait behind those of earlier batches. -/
def State.closed (s : State) : State :=
  s.setTss (fun t => { t with
    openItems := [], parts := t.parts ++ closeParts s t.nextBatch t.openItems, lastBatch := t.nextBatch,
    nextBatch := if t.nextBatch = 65535 then 1 else t.nextBatch + 1, cmd := 0 })

theorem exec_closeBatch (hr : s.ready pgTss = true) (ho : s.tss.openItems ≠ []) : exec .closeBatch s = .next
    (foldState ((closeParts s s.tss.nextBatch s.tss.openItems).filterMap (·.seq)) (fun q u => u.closeNow q) s.closed) :=
  congrArg Host.Outcome.next ((whenReady_of_ready _ hr).trans (if_neg ho))

theorem closeParts_stamp {n : Nat} {l : List StgItem} {p : BatchPart} (hp : p ∈ closeParts s n l) :
    p.batch = n ∧ p.edge = s.now := by
  obtain ⟨o, -, rfl⟩ := List.mem_map.1 hp
  exact ⟨rfl, rfl⟩

/-- A close hands every item of the batch to its owner, and nothing else. -/
theorem closeParts_items (n : Nat) (l : List StgItem) (i : StgItem) (o : Option Nat) :
    (∃ p ∈ closeParts s n l, p.seq = o ∧ i ∈ p.items) ↔ (i ∈ l ∧ itemOwner s i = o) := by
  constructor
  · rintro ⟨p, hp, rfl, hi⟩
    obtain ⟨o, -, rfl⟩ := List.mem_map.1 hp
    simpa using hi
  · rintro ⟨hi, rfl⟩
    refine ⟨_, List.mem_map.2 ⟨itemOwner s i, ?_, rfl⟩, rfl, by simp [hi]⟩
    exact List.mem_eraseDups.2 (List.mem_map_of_mem hi)

theorem closeParts_single (n : Nat) (i : StgItem) : closeParts s n [i] =
    [{ batch := n, seq := itemOwner s i, items := [i], edge := s.now }] := by
  simp [closeParts, List.eraseDups_cons]

theorem closeNow_of_no_edge {q : Nat} (ha : (s.seqAt q).acceptEdge ≠ s.now + 1) (hf : (s.seqAt q).finalEdge ≠ s.now + 1) :
    s.closeNow q = s := by
  simp [State.closeNow, ha, hf]

theorem closeNow_of_accepted {q : Nat} (ha : (s.seqAt q).acceptEdge = s.now + 1) :
    s.closeNow q = s.applyFor q (fun _ => true) false true 0 0xFFFFFFFF :=
  if_pos ha

/-- With no arm accepted and no burst ended in this cycle, the parts of a close wait. -/
theorem exec_closeBatch_waits (hr : s.ready pgTss = true) (ho : s.tss.openItems ≠ [])
    (hq : ∀ q, (s.seqAt q).acceptEdge ≠ s.now + 1 ∧ (s.seqAt q).finalEdge ≠ s.now + 1) :
    exec .closeBatch s = .next s.closed := by
  have waits (q : Nat) : s.closed.closeNow q = s.closed :=
    closeNow_of_no_edge (s := s.closed) (hq q).1 (hq q).2
  rw [exec_closeBatch hr ho, foldState_same (fun q _ => waits q)]

/-- An item closed in the cycle of its owner's accepted arm is written at once, and no part of it waits. -/
theorem exec_closeBatch_applies {i : StgItem} {q : Nat} (hr : s.ready pgTss = true) (ho : s.tss.openItems = [i])
    (hi : itemOwner s i = some q) (ha : (s.seqAt q).acceptEdge = s.now + 1) (hq : ∀ p ∈ s.tss.parts, p.seq ≠ some q) :
    ∃ r, exec .closeBatch s = .next { s with
      tss := { logApply r (applyItem i s.closed.tss) with parts := s.tss.parts } } := by
  have parts : closeParts s s.tss.nextBatch s.tss.openItems =
      [{ batch := s.tss.nextBatch, seq := some q, items := [i], edge := s.now }] := by
    rw [ho, closeParts_single, hi]
  have closed_parts : s.closed.tss.parts =
      s.tss.parts ++ [{ batch := s.tss.nextBatch, seq := some q, items := [i], edge := s.now }] :=
    congrArg (s.tss.parts ++ ·) parts
  have accepted : (s.closed.seqAt q).acceptEdge = s.closed.now + 1 := ha
  refine ⟨{ id := applyIdWord false q false true s.tss.nextBatch, vec := 0, seg := 0xFFFFFFFF }, ?_⟩
  calc exec .closeBatch s
      = .next (s.closed.closeNow q) := by rw [exec_closeBatch hr (by simp [ho]), parts]; rfl
    _ = _ := by rw [closeNow_of_accepted accepted, applyFor_only_part closed_parts rfl hq]; rfl

/-! ### Commands on a READY control block -/

theorem exec_push (hr : s.ready pgTss = true) : exec .push s = .next (
    if (stagedItem s).header = true ∧ 63 < (stagedItem s).index then
      { s with tss := { s.tss with refused := sat32 (s.tss.refused + 1), cmd := 2 } }
    else if s.tss.free = 0 then { s with tss := { s.tss with refused := sat32 (s.tss.refused + 1), cmd := 1 } }
    else { s with tss := { s.tss with openItems := s.tss.openItems ++ [stagedItem s], cmd := 0 } }) :=
  congrArg Host.Outcome.next (whenReady_of_ready _ hr)

theorem exec_discard (hr : s.ready pgTss = true) :
    exec .discard s = .next { s with tss := { s.tss with openItems := [], cmd := 0 } } :=
  congrArg Host.Outcome.next (whenReady_of_ready _ hr)

theorem exec_applyIdRead_head {r : ApplyRec} {l : List ApplyRec} (path : Path) (hl : s.tss.log = r :: l) :
    exec (.applyIdRead path) s = .next { s with
      tss := { s.tss with log := l, applyVec := r.vec, applySeg := r.seg }, hostOut := r.id.zeroExtend 64 } := by
  have read : exec (.applyIdRead path) s = execApplyIdRead path s := rfl
  rw [read, execApplyIdRead, hl]
  rfl

theorem exec_applyIdRead_empty (path : Path) (hl : s.tss.log = []) :
    exec (.applyIdRead path) s = .next { s with hostOut := 0 } := by
  have read : exec (.applyIdRead path) s = execApplyIdRead path s := rfl
  rw [read, execApplyIdRead, hl]

/-! ### The soft reset of the control block (R170) -/

/-- Of the timing set store the reset touches the open batch and the count of refusals alone. -/
theorem pageResetRun_pgTss_tss : (pageResetRun pgTss s).tss = { s.tss with openItems := [], refused := 0 } := rfl

/-- A READY control block runs its reset: no use refuses it. -/
theorem pageSoftReset_pgTss (hr : s.ready pgTss = true) : pageSoftReset pgTss s =
    pageResetRun pgTss (s.modHdr pgTss (fun h => { h with resetEdge := s.now + 1 })) := by
  simp only [State.ready, PageHdr.ready, Bool.and_eq_true, Bool.not_eq_true'] at hr
  obtain ⟨⟨up, idle⟩, -⟩ := hr
  exact (if_neg (by simp [up, idle])).trans (if_neg (by simp [State.resetRefused, pgTss]))

theorem exec_pageSoftReset_pgTss {page : BitVec 16} (hp : page.toNat = pgTss) (hr : s.ready pgTss = true) :
    exec (.pageSoftReset page) s = .next (pageSoftReset pgTss s) := by
  have run : exec (.pageSoftReset page) s = onPage page.toNat (pageSoftReset page.toNat) s := rfl
  rw [run, hp, onPage, if_pos (by decide), redoReset_ready s pgTss hr]

end

/-- Settles O13: each command is one change of the store; a close hands the batch over by owner, and an arm accepted in its cycle
applies the owner's part. -/
theorem stagedCommitPath : Obligations.StagedCommitPath := by
  unfold Obligations.StagedCommitPath
  refine fun path r l s => ⟨fun hr => ⟨?badTarget, ?full, ?taken, ?close, ?closeAtArm, exec_discard hr⟩,
    exec_applyIdRead_head path, exec_applyIdRead_empty path⟩
  case badTarget => exact fun bad => by rw [exec_push hr, if_pos bad]
  case full => exact fun good full => by rw [exec_push hr, if_neg (by simpa using good), if_pos full]
  case taken => exact fun good room => by rw [exec_push hr, if_neg (by simpa using good), if_neg (by omega)]
  case close =>
    exact fun ho hq => ⟨s.closed, exec_closeBatch_waits hr ho hq, rfl, _, rfl, fun p => closeParts_stamp, closeParts_items _ _⟩
  case closeAtArm =>
    intro i q ho hi ha hq
    obtain ⟨record, applies⟩ := exec_closeBatch_applies hr ho hi ha hq
    obtain ⟨entries, headers⟩ := applyItem_tables_congr i (t := s.closed.tss) (u := s.tss) rfl rfl
    refine ⟨_, applies, rfl, ?_, rfl, ?_, ?_⟩
    · rw [logApply_frame, applyItem_frame]; rfl
    · rw [logApply_frame]; exact entries
    · rw [logApply_frame]; exact headers

/-- Settles O58: the discard and the soft reset leave every closed part, the log and the tables as they are. -/
theorem discardKeepsClosedBatches : Obligations.DiscardKeepsClosedBatches := by
  unfold Obligations.DiscardKeepsClosedBatches
  intro page s hp hr
  refine ⟨⟨_, exec_discard hr, rfl, rfl, rfl, rfl, rfl, rfl⟩, _, exec_pageSoftReset_pgTss hp hr, ?_⟩
  rw [pageSoftReset_pgTss hr, pageResetRun_pgTss_tss]
  rfl

end Sys2Proof.Machine
end

section
/-! PROOFS. Bank power states (R186 to R188): a command to a bank and the end of a ramp are one store to that bank; beside it a
command may change the queue of starts and ask CAL for the bank, and a ramp the plinth state of channels. -/
namespace Sys2Proof.Machine

/-! ### Stores to one bank -/

/-- A state with the banks of a store has that bank and every other as the store leaves them. -/
theorem becomes_of_bank_eq {s t : State} {b : Nat} {v : Bank} (h : t.bank = (s.setBank b v).bank) :
    Becomes State.bankAt b v s t := by
  have read (j : Nat) : t.bankAt j = if j = b then v else s.bankAt j := by
    rw [← setBank_bankAt, State.bankAt, h, State.bankAt]
  exact ⟨by rw [read, if_pos rfl], fun j hj => by rw [read, if_neg hj]⟩

/-- A bank that already stands as `v` is stored as `v` without effect. -/
theorem setBank_of_bank_eq {s t : State} {b : Nat} {v : Bank} (h : t.bank = (s.setBank b v).bank) : t.setBank b v = t := by
  have banks : sput t.bank b v = t.bank := by rw [h]; exact sput_sput ..
  rw [State.setBank, banks]

theorem wantBank_frame (s : State) (b : Nat) :
    s.wantBank b = { s with cal := { s.cal with wanted := (s.wantBank b).cal.wanted } } := by
  unfold State.wantBank
  split <;> rfl

theorem enqueueBank_frame (s : State) (b : Nat) : s.enqueueBank b = { s with bankQueue := (s.enqueueBank b).bankQueue } := by
  unfold State.enqueueBank
  split <;> rfl

theorem plinthAll_frame (s : State) (l : List Nat) : s.plinthAll l = { s with chan := (s.plinthAll l).chan } :=
  foldState_keeps (fun t => t = { s with chan := t.chan }) _ (fun _ _ h => by rw [h]; rfl) l s rfl

@[simp] theorem plinthAll_bank (s : State) (l : List Nat) : (s.plinthAll l).bank = s.bank := by rw [plinthAll_frame]

/-- Channels that enter the plinth state behind a store to a bank. -/
theorem setBank_plinthAll_frame {s t : State} {b : Nat} {v : Bank} {l : List Nat} (h : t = (s.setBank b v).plinthAll l) :
    t = { s with bank := t.bank, chan := t.chan } := by
  have chans : t = { s.setBank b v with chan := t.chan } := by rw [h]; exact plinthAll_frame ..
  rw [chans]; rfl

/-! ### Commands (R187) -/

section
variable {b : Nat} {s : State}

/-- A bank that leaves ON for the state `cmd` names. -/
def Bank.leavesOn (v : Bank) (cmd : BankCmd) (unused : Bool) (now : Nat) : Bank :=
  { v with state := .pendingOff, target := cmd, entering := unused, due := now + 800, reqEdge := now + 1 }

theorem bankCommand_on {cmd : BankCmd} (h : (s.bankAt b).state = .on) (hc : cmd = .sleep ∨ cmd = .off) : bankCommand b cmd s =
    (s.setBank b ((s.bankAt b).leavesOn cmd (decide (s.bankUsers b = [])) s.now)).wantBank b := by
  rcases hc with rfl | rfl <;> simp only [bankCommand, h] <;> rfl

theorem bankCommand_pendingOff_wake (h : (s.bankAt b).state = .pendingOff) : bankCommand b .wake s =
    s.setBank b { s.bankAt b with state := .on, target := .none, entering := false } := by
  simp only [bankCommand, h]

theorem bankCommand_sleep_wake (h : (s.bankAt b).state = .sleep) : bankCommand b .wake s =
    (s.setBank b { s.bankAt b with queued := true }).enqueueBank b := by
  simp only [bankCommand, h]

theorem bankCommand_sleep_off (h : (s.bankAt b).state = .sleep) : bankCommand b .off s =
    (s.setBank b { s.bankAt b with state := .off, queued := false, target := .none }).dequeueBank b := by
  simp only [bankCommand, h]

theorem bankCommand_off_sleep (h : (s.bankAt b).state = .off) (hp : (s.bankAt b).powering = false)
    (hq : (s.bankAt b).queued = false) : bankCommand b .sleep s =
      (s.setBank b { s.bankAt b with queued := true, target := .sleep }).enqueueBank b := by
  simp [bankCommand, h, hp, hq]

end

/-- The command goes on and leaves bank `b` as `v`; beside the banks, only the queue of starts and CAL's wish for a bank change. -/
def BankGoes (c : Instr) (b : Nat) (v : Bank) (s : State) : Prop :=
  ∃ t, exec c s = .next t ∧
    t = { s with bank := t.bank, bankQueue := t.bankQueue, cal := { s.cal with wanted := t.cal.wanted } } ∧
    Becomes State.bankAt b v s t

/-- Beside its store to the bank, a command keeps all but the queue of starts and CAL's wish. -/
def BankStored (b : Nat) (v : Bank) (s t : State) : Prop :=
  t = { s.setBank b v with bankQueue := t.bankQueue, cal := { s.cal with wanted := t.cal.wanted } }

theorem wantBank_stored (b : Nat) (v : Bank) (s : State) : BankStored b v s ((s.setBank b v).wantBank b) := by
  unfold BankStored; rw [wantBank_frame]; rfl

theorem enqueueBank_stored (b : Nat) (v : Bank) (s : State) : BankStored b v s ((s.setBank b v).enqueueBank b) := by
  unfold BankStored; rw [enqueueBank_frame]; rfl

/-- A command of the host to a bank whose page is READY. -/
theorem BankGoes.of_command {c : Instr} {b : Fin 16} {cmd : BankCmd} {v : Bank} {s t : State}
    (hc : exec c s = .next (bankWrite b cmd s)) (hr : s.ready (pgBank b) = true) (he : bankCommand b cmd s = t)
    (ht : BankStored b v s t) : BankGoes c b v s := by
  unfold BankStored at ht
  refine ⟨t, ?_, ?_, becomes_of_bank_eq ?_⟩
  · rw [hc, bankWrite, whenReady_of_ready _ hr, he]
  · rw [ht]; rfl
  · rw [ht]

section
variable {b : Fin 16} {s : State}

/-! ### Ramps (R187, R188) -/

/-- With no command recorded, the end of a ramp leaves the bank as it stands. -/
theorem bankRecorded_of_no_target {b : Nat} {v : Bank} {s t : State} (hb : t.bank = (s.setBank b v).bank)
    (ht : v.target = .none) : bankRecorded b t = t := by
  have stands : t.bankAt b = v := (becomes_of_bank_eq hb).1
  have same : { v with target := .none } = v := by rw [← ht]
  simp only [bankRecorded, bankCommand, stands, ht, same]
  exact setBank_of_bank_eq hb

theorem bankStart_of_sleep (hd : s.startDue b = true) (h : (s.bankAt b).state = .sleep) : exec (.bankStart b) s = .next
    ({ s.dequeueBank b with bankLastStart := some s.now }.setBank b { s.bankAt b with
      state := .waking, queued := false, target := .none, due := s.now + 8000 }) := by
  have run : exec (.bankStart b) s = .next (if s.startDue b then bankStart b s else s) := rfl
  rw [run, if_pos hd]
  simp only [bankStart, h, reduceCtorEq, false_and, if_false]
  rfl

theorem bankWakeDone_of_waking (h : (s.bankAt b).state = .waking) (ht : (s.bankAt b).target = .none)
    (hd : (s.bankAt b).due ≤ s.now) : exec (.bankWakeDone b) s = .next
      (s.setBank b { s.bankAt b with state := .on, wakeCount := sat32 ((s.bankAt b).wakeCount + 1) }) :=
  congrArg Host.Outcome.next ((if_pos ⟨h, hd⟩).trans (bankRecorded_of_no_target rfl ht))

/-- The 32 channels of a bank. -/
def bankChans (b : Nat) : List Nat := (List.range 32).map (fun j => 32 * b + j)

theorem bankPowerUpDone_of_powering (hp : (s.bankAt b).powering = true) (ht : (s.bankAt b).target = .none)
    (hd : (s.bankAt b).due ≤ s.now) : exec (.bankPowerUpDone b) s = .next
      ((s.setBank b { s.bankAt b with state := .sleep, powering := false }).plinthAll (bankChans b)) :=
  congrArg Host.Outcome.next ((if_pos ⟨hp, hd⟩).trans (bankRecorded_of_no_target (plinthAll_bank ..) ht))

theorem bankEntryEnd_of_pendingOff (h : (s.bankAt b).state = .pendingOff) (he : (s.bankAt b).entering = true)
    (hd : (s.bankAt b).due ≤ s.now) (hc : (s.bankAt b).calBusy = false) : exec (.bankEntryEnd b) s = .next
      ((s.setBank b { s.bankAt b with state := if (s.bankAt b).target = .off then .off else .sleep, target := .none,
                                      entering := false }).plinthAll (bankChans b)) :=
  congrArg Host.Outcome.next (if_pos ⟨h, he, hd, by simp [hc]⟩)

end

/-- Settles O10: each command and each end of a ramp is a store to the bank, by the branch of R187 that its state picks. -/
theorem bankPowerStates : Obligations.BankPowerStates := by
  unfold Obligations.BankPowerStates
  refine ⟨fun b s hr => ⟨?onSleep, ?onOff, ?back, ?wake, ?sleepOff, ?powerUp⟩,
    fun b s => ⟨?start, ?wakeDone, ?powerDone, ?entryEnd⟩⟩
  case onSleep => exact fun h => BankGoes.of_command rfl hr (bankCommand_on h (.inl rfl)) (wantBank_stored ..)
  case onOff => exact fun h => BankGoes.of_command rfl hr (bankCommand_on h (.inr rfl)) (wantBank_stored ..)
  case back => exact fun h => BankGoes.of_command rfl hr (bankCommand_pendingOff_wake h) rfl
  case wake => exact fun h => BankGoes.of_command rfl hr (bankCommand_sleep_wake h) (enqueueBank_stored ..)
  case sleepOff => exact fun h => BankGoes.of_command rfl hr (bankCommand_sleep_off h) rfl
  case powerUp => exact fun h hp hq => BankGoes.of_command rfl hr (bankCommand_off_sleep h hp hq) (enqueueBank_stored ..)
  case start => exact fun hd h => ⟨_, bankStart_of_sleep hd h, rfl, becomes_of_bank_eq rfl⟩
  case wakeDone => exact fun h ht hd => ⟨_, bankWakeDone_of_waking h ht hd, rfl, becomes_of_bank_eq rfl⟩
  case powerDone =>
    refine fun hp ht hd => ⟨_, bankPowerUpDone_of_powering hp ht hd, setBank_plinthAll_frame rfl, becomes_of_bank_eq ?_⟩
    rw [plinthAll_bank]
  case entryEnd =>
    refine fun h he hd hc => ⟨_, bankEntryEnd_of_pendingOff h he hd hc, setBank_plinthAll_frame rfl, becomes_of_bank_eq ?_⟩
    rw [plinthAll_bank]

end Sys2Proof.Machine
end

section
/-! PROOFS. Interval measurement units (R283 to R293): what an edge does to a RUNNING unit, what the unit does by itself, and the
rounding of its SDEV. Each act is one store to the unit. -/
namespace Sys2Proof.Machine

/-! ### Stores to one unit -/

@[simp] theorem setTim_setTim (s : State) (u : Nat) (v w : Tim) : (s.setTim u v).setTim u w = s.setTim u w := by
  simp only [State.setTim, sput_sput]

/-- The command goes on, changes unit `u` alone, and leaves it as `v`. -/
def TimGoes (c : Instr) (u : Nat) (v : Tim) (s : State) : Prop :=
  ∃ t, exec c s = .next t ∧ t = { s with tim := t.tim } ∧ Becomes State.timAt u v s t

theorem TimGoes.of_setTim {c : Instr} {u : Nat} {v : Tim} {s : State} (h : exec c s = .next (s.setTim u v)) : TimGoes c u v s :=
  ⟨_, h, rfl, by simp, fun j hj => by simp [hj]⟩

/-! ### Edges (R283, R285, R286, R288, R289) -/

/-- A RUNNING unit takes an edge of a live tap in its mode. -/
theorem timEdge_running {u : Fin 32} {kind : Fin 16} {index : Fin 512} {rising : Bool} {tick : Nat} {vern : Fin 625} {t0 : Nat}
    {s : State} (hr : (s.timAt u).state = .running) (h0 : (s.timAt u).startAt = some t0)
    (hl : s.tapLive (s.tapKind kind index) index rising tick = true) :
    let k := s.tapKind kind index
    let raw := 625 * (tick : Int) - vern.val
    let x := (s.timAt u).edgeAt k tick vern
    exec (.timEdge u kind index rising tick vern) s = .next
      (if s.timFreq u then s.timCount u k index rising raw x t0 else s.timInterval u k index rising raw x t0) := by
  have run : exec (.timEdge u kind index rising tick vern) s = execTimEdge u kind index rising tick vern s := rfl
  simp [run, execTimEdge, edgeRaw, h0, hr, hl]

section
variable {u k index t0 : Nat} {rising : Bool} {raw x : Int} {s : State}

/-- With two sources, an edge of the start source alone is a start edge. -/
theorem timInterval_start (h1 : s.oneSource u = false) (ha : selMatch (s.reg (pgTim u) 0x110) k index rising = true)
    (hb : selMatch (s.reg (pgTim u) 0x114) k index rising = false) :
    s.timInterval u k index rising raw x t0 = s.timStartEdge u raw x t0 := by
  simp [State.timInterval, h1, ha, hb]

/-- With two sources, an edge of the stop source alone is a stop edge. -/
theorem timInterval_stop (h1 : s.oneSource u = false) (ha : selMatch (s.reg (pgTim u) 0x110) k index rising = false)
    (hb : selMatch (s.reg (pgTim u) 0x114) k index rising = true) :
    s.timInterval u k index rising raw x t0 = s.timStopEdge u 1 raw x := by
  simp [State.timInterval, h1, ha, hb]

theorem holdOver_of_none {v : Tim} {k : Nat} (h : v.hold.getD k none = none) (t : Int) : v.holdOver k t = true := by
  rw [Tim.holdOver, h]

/-- A ready unit opens a shot at a start edge, from which the start source holds off. -/
theorem timStartEdge_opens (hs : (s.timAt u).shot = none) (hd : (s.timAt u).doneAt = none) (hr : (s.timAt u).readyAt = none)
    (hh : (s.timAt u).hold.getD 0 none = none) (hg : (s.timAt u).gotFirst = true) (hx : atOrAfter x t0 = true) :
    s.timStartEdge u raw x t0 = s.setTim u { (s.timAt u).startHold 0 raw (s.timReg u 0x110 % 65536) with
      shot := some (x, raw), stops := 0, readyAt := none } := by
  have first : ((s.timAt u).startHold 0 raw (s.timReg u 0x110 % 65536)).gotFirst = true := hg
  simp only [State.timStartEdge, hs, hd, hr, holdOver_of_none hh, hx, first, Option.isNone_none, and_self, if_true]

/-- The stop edge behind those to be skipped, 20 ps or more after the start edge, ends the shot. -/
theorem timStopEdge_takes {x0 raw0 : Int} (hs : (s.timAt u).shot = some (x0, raw0)) (hraw : raw0 + 40 ≤ raw)
    (hh : (s.timAt u).hold.getD 1 none = none) (hk : (s.timAt u).stops = s.timSkip u) :
    s.timStopEdge u 1 raw x = s.setTim u (((s.timAt u).startHold 1 raw (s.timReg u 0x114 % 65536)).takeShot (x - x0).toNat
      (s.timReg u 0x118) raw) := by
  have due : ¬ (raw < raw0 ∨ ¬ (s.timAt u).holdOver 1 raw = true) := by rw [holdOver_of_none hh]; simp; omega
  have sure : ¬ raw < raw0 + 40 := by omega
  have last : ¬ ((s.timAt u).startHold 1 raw (s.timReg u 0x114 % 65536)).stops < s.timSkip u := Nat.not_lt.2 hk.ge
  simp only [State.timStopEdge, hs, if_neg due, if_neg sure]
  rw [if_neg (by decide), if_neg one_ne_zero, if_neg last]

/-- An edge within the gate counts (R291). -/
theorem timCount_counts (ha : selMatch (s.reg (pgTim u) 0x110) k index rising = true) (hp : (s.timAt u).prev = none)
    (hh : (s.timAt u).hold.getD 0 none = none) (hx : atOrAfter x t0 = true) (hg : x * 4096 < s.gateEnd u t0)
    (hc : (s.timAt u).gateClosed = false) : s.timCount u k index rising raw x t0 =
      s.setTim u { ({ s.timAt u with prev := some raw }).startHold 0 raw (s.timReg u 0x110 % 65536) with
        edges := (s.timAt u).edges + 1, first := if (s.timAt u).edges = 0 then x else (s.timAt u).first, last := x } := by
  have inGate : ¬ s.gateEnd u t0 ≤ x * 4096 := by omega
  simp [State.timCount, ha, hp, holdOver_of_none hh, hx, inGate, hc]

/-! ### Results and ends (R289, R290) -/

/-- A unit of intervals with the results of its shots. -/
def Tim.withResults (v : Tim) : Tim :=
  { v with mean := if v.shots = 0 then 0 else roundNat (50 * v.s1) v.shots,
           sdev := if v.shots = 0 then 0 else sampleDev v.shots v.s1 v.s2,
           minR := if v.shots = 0 then 0 else v.minX, maxR := if v.shots = 0 then 0 else v.maxX }

theorem timResults_interval (hf : s.timFreq u = false) : s.timResults u = s.setTim u (s.timAt u).withResults := by
  unfold State.timResults Tim.withResults
  by_cases h : (s.timAt u).shots = 0 <;> simp [hf, h]

/-- A measurement of intervals that ends of itself. -/
theorem timEnd_interval (hf : s.timFreq u = false) {st : TimState} {c : TimCause} {part : Bool}
    (hc : c ≠ .hostAbort ∧ c ≠ .reset) : s.timEnd u st c part = s.setTim u { (s.timAt u).withResults with
      state := st, cause := c, partialRes := part, shot := none, doneAt := none, doneEdge := s.now + 1 } := by
  simp [State.timEnd, timResults_interval hf, hc]

/-- The shot behind its limit is discarded and counted. -/
def Tim.missShot (v : Tim) : Tim := { v with shot := none, missed := sat32 (v.missed + 1), readyAt := none }

/-- A shot times out `SHOT_TIMEOUT` µs after its start edge, and at MISS_LIMIT the measurement ends (R287). -/
theorem shotTimeout_due {raw0 : Int} (hs : (s.timAt u).shot = some (x, raw0)) (hr : (s.timAt u).state = .running)
    (ht : raw0 + (s.timReg u 0x11C : Int) * 2000000 ≤ (s.now : Int) * 5000) : s.shotTimeout u =
      if 0 < s.timReg u 0x120 ∧ s.timReg u 0x120 ≤ sat32 ((s.timAt u).missed + 1)
      then (s.setTim u (s.timAt u).missShot).timEnd u .done .missLimit true else s.setTim u (s.timAt u).missShot := by
  simp only [State.shotTimeout, hs]
  rw [if_pos ⟨hr, ht⟩]
  rfl

theorem shotTimeout_missLimit {raw0 : Int} (hs : (s.timAt u).shot = some (x, raw0)) (hr : (s.timAt u).state = .running)
    (ht : raw0 + (s.timReg u 0x11C : Int) * 2000000 ≤ (s.now : Int) * 5000) (hf : s.timFreq u = false)
    (hl : 0 < s.timReg u 0x120) (hm : s.timReg u 0x120 ≤ sat32 ((s.timAt u).missed + 1)) : s.shotTimeout u =
      s.setTim u { (s.timAt u).missShot.withResults with
        state := .done, cause := .missLimit, partialRes := true, shot := none, doneAt := none, doneEdge := s.now + 1 } := by
  have hf' : (s.setTim u (s.timAt u).missShot).timFreq u = false := hf
  rw [shotTimeout_due hs hr ht, if_pos ⟨hl, hm⟩, timEnd_interval hf' (by decide), setTim_timAt, if_pos rfl, setTim_setTim]
  rfl

/-- PFCLK edge of the completion point of a gate that ends at `e`, 300 ns behind it. -/
def gateDoneAt (e : Int) : Nat := ((e + 600000 * 4096 + 5000 * 4096 - 1) / (5000 * 4096)).toNat

theorem gateClose_due (h0 : (s.timAt u).startAt = some t0) (hr : (s.timAt u).state = .running) (hf : s.timFreq u = true)
    (hc : (s.timAt u).gateClosed = false) (he : s.gateEnd u t0 ≤ (s.now : Int) * 5000 * 4096) : s.gateClose u =
      s.setTim u { s.timAt u with gateClosed := true, doneAt := some (gateDoneAt (s.gateEnd u t0)) } := by
  simp [State.gateClose, h0, hr, hf, hc, he, gateDoneAt]

/-- It is the first PFCLK edge at or behind that point. -/
theorem gateDoneAt_first {e : Int} (he : 0 ≤ e) : e + 600000 * 4096 ≤ (gateDoneAt e : Int) * 5000 * 4096 ∧
    ((gateDoneAt e : Int) - 1) * 5000 * 4096 < e + 600000 * 4096 := by
  unfold gateDoneAt
  omega

end

/-! ### The acts of a unit by itself -/

section
variable {u : Fin 32} {s : State}

theorem timHoldoffEnd_due {src : Fin 2} {at_ : Int} (h : (s.timAt u).hold.getD src none = some at_)
    (hd : at_ ≤ (s.now : Int) * 5000) : exec (.timHoldoffEnd u src) s = .next (s.setTim u { s.timAt u with hold := (s.timAt u).hold.set src none }) := by
  have run : exec (.timHoldoffEnd u src) s = execTimHoldoffEnd u src s := rfl
  rw [run, execTimHoldoffEnd, h]
  exact congrArg Host.Outcome.next (if_pos hd)

theorem timReady_due {at_ : Int} (h : (s.timAt u).readyAt = some at_) (hd : at_ ≤ (s.now : Int) * 5000) :
    exec (.timReady u) s = .next (s.setTim u { s.timAt u with readyAt := none }) := by
  have run : exec (.timReady u) s = execTimReady u s := rfl
  rw [run, execTimReady, h]
  exact congrArg Host.Outcome.next (if_pos hd)

theorem timComplete_interval (hd : s.timDue u = true) (hf : s.timFreq u = false) : exec (.timComplete u) s = .next
    (s.setTim u { (s.timAt u).withResults with
      state := .done, cause := .complete, partialRes := false, shot := none, doneAt := none, doneEdge := s.now + 1 }) :=
  congrArg Host.Outcome.next ((if_pos hd).trans (timEnd_interval hf (by decide)))

end

/-! ### SDEV (R289) -/

/-- Bit by bit from bit `n - 1` down, the search ends at the square root: it keeps `r` at most the root, and the root below
`r + 2 ^ n`. -/
theorem isqrt_eq_sqrt (x n r : Nat) (hr : r * r ≤ x) (hx : x < (r + 2 ^ n) * (r + 2 ^ n)) : isqrt x n r = Nat.sqrt x := by
  induction n generalizing r with
  | zero => exact Nat.eq_sqrt.2 ⟨hr, hx⟩
  | succ n ih =>
    rw [isqrt]
    split
    next fits => exact ih _ fits (by rw [Nat.add_assoc, ← Nat.two_mul, ← Nat.pow_succ']; exact hx)
    next exceeds => exact ih _ hr (Nat.lt_of_not_le exceeds)

/-- The square of twice SDEV before any rounding, in whole units: 10,000 times the sample variance, whose divisor is `k - 1`. -/
def devSquare (k s1 s2 : Nat) : Nat := 10000 * (k * s2 - s1 * s1) / (k * (k - 1))

theorem sampleDev_eq {k s1 s2 : Nat} (hk : 2 ≤ k) (hx : 10000 * (k * s2 - s1 * s1) < 2 ^ 192) :
    sampleDev k s1 s2 = (Nat.sqrt (devSquare k s1 s2) + 1) / 2 := by
  have small : devSquare k s1 s2 < (0 + 2 ^ 96) * (0 + 2 ^ 96) := (Nat.div_le_self _ _).trans_lt (hx.trans_eq (by norm_num))
  rw [sampleDev, if_neg (by omega), ← isqrt_eq_sqrt _ 96 0 (Nat.zero_le _) small, devSquare]

/-- Half of the integer root of `n / d`, rounded half up, is `r`: the exact root lies below `2 * r + 1` and not below `2 * r - 1`. -/
theorem half_sqrt_bounds {n d : Nat} (hd : 0 < d) {r : Nat} (hr : r = (Nat.sqrt (n / d) + 1) / 2) :
    n < (2 * r + 1) * (2 * r + 1) * d ∧ (0 < r → (2 * r - 1) * (2 * r - 1) * d ≤ n) := by
  constructor
  · have above : Nat.sqrt (n / d) < 2 * r + 1 := by omega
    exact (Nat.div_lt_iff_lt_mul hd).1 (Nat.sqrt_lt.1 above)
  · intro hpos
    have below : 2 * r - 1 ≤ Nat.sqrt (n / d) := by omega
    exact (Nat.le_div_iff_mul_le hd).1 (Nat.le_sqrt.1 below)

/-- Settles O28: each edge and each act of a unit is one store to it, and SDEV is half of the integer square root the unit takes,
rounded half up. -/
theorem intervalUnitMeasures : Obligations.IntervalUnitMeasures := by
  unfold Obligations.IntervalUnitMeasures
  refine ⟨fun u kind index rising tick vern t0 s hr h0 hl => ⟨?opens, ?ends, ?counts⟩,
    fun u src at_ x t0 s => ⟨?holdoff, ?ready, ?missed, ?missLimit, ?gate, ?complete⟩, fun k s1 s2 _ hx => ⟨?few, ?rounded⟩⟩
  case opens =>
    intro hf h1 ha hb hs hd hy hh hg hx
    refine TimGoes.of_setTim ?_
    rw [timEdge_running hr h0 hl, if_neg (by simp [hf]), timInterval_start h1 ha hb,
      timStartEdge_opens hs hd hy (by rw [hh]; rfl) hg hx]
    simp only [Tim.startHold, hh, hy]
    rfl
  case ends =>
    intro x0 raw0 hf h1 ha hb hs hraw hh hk
    obtain ⟨t, run, frame, self, others⟩ := TimGoes.of_setTim (c := .timEdge u kind index rising tick vern) (by
      rw [timEdge_running hr h0 hl, if_neg (by simp [hf]), timInterval_stop h1 ha hb, timStopEdge_takes hs hraw hh hk])
    refine ⟨t, run, frame, ?_⟩
    rw [self]
    exact ⟨rfl, rfl, rfl, rfl, rfl, rfl, others⟩
  case counts =>
    intro hf ha hp hh hx hg hc
    obtain ⟨t, run, frame, self, others⟩ := TimGoes.of_setTim (c := .timEdge u kind index rising tick vern) (by
      rw [timEdge_running hr h0 hl, if_pos hf, timCount_counts ha hp hh hx hg hc])
    refine ⟨t, run, frame, ?_⟩
    rw [self]
    exact ⟨rfl, rfl, rfl, others⟩
  case holdoff => exact fun h hd => TimGoes.of_setTim (timHoldoffEnd_due h hd)
  case ready => exact fun h hd => TimGoes.of_setTim (timReady_due h hd)
  case missed =>
    intro hs hr ht hl
    exact TimGoes.of_setTim (congrArg Host.Outcome.next ((shotTimeout_due hs hr ht).trans (if_neg (by omega))))
  case missLimit =>
    intro hs hr ht hf hl hm
    obtain ⟨t, run, frame, self, others⟩ := TimGoes.of_setTim (c := .shotTimeout u) (congrArg Host.Outcome.next
      (shotTimeout_missLimit hs hr ht hf hl hm))
    refine ⟨t, run, frame, ?_⟩
    rw [self]
    exact ⟨rfl, rfl, rfl, others⟩
  case gate =>
    intro h0 hr hf hc he
    obtain ⟨t, run, frame, becomes⟩ := TimGoes.of_setTim (c := .gateClose u)
      (congrArg Host.Outcome.next (gateClose_due h0 hr hf hc he))
    exact ⟨t, _, run, frame, becomes, gateDoneAt_first⟩
  case complete =>
    intro hd hf hn
    refine TimGoes.of_setTim ?_
    rw [timComplete_interval hd hf, Tim.withResults]
    simp [hn.ne', roundNat, ← Nat.mul_assoc]
  case few => exact fun hk => if_pos hk
  case rounded => exact fun hk => half_sqrt_bounds (Nat.mul_pos (by omega) (by omega)) (sampleDev_eq hk hx)

end Sys2Proof.Machine
end

section
/-! PROOFS. Ports of a channel (R178, R179, R186, R190, R191): which loopback acts, what CH.STAT shows of it, and the
transitions that the ports of all channels take in one cycle. -/
namespace Sys2Proof.Machine

/-! ### Loopback and CH.STAT (R186, R190, R191) -/

theorem loopModeOf_port {m : Nat} : loopModeOf m = .port ↔ m = 3 := by
  unfold loopModeOf
  split_ifs <;> simp <;> omega

/-- A reserved mode acts as NONE (R190). -/
theorem loopModeOf_none {m : Nat} : loopModeOf m = .none ↔ ¬ (1 ≤ m ∧ m ≤ 3) := by
  unfold loopModeOf
  split_ifs <;> simp <;> omega

/-- LOOP.MODE of a channel. -/
def State.loopCode (s : State) (c : Nat) : Nat := (s.reg (pgCh c) 0x10C).toNat % 8

section
variable {c : Nat} {s : State}

theorem loopMode_eq_port : s.loopMode c = .port ↔
    (s.bankAt (c / 32)).state = .on ∧ s.chanInUse c = false ∧ s.loopCode c = 3 := by
  have code : fld (s.reg (pgCh c) 0x10C) 0 3 = s.loopCode c := rfl
  rw [State.loopMode, code]
  split_ifs with free
  · simpa [free] using loopModeOf_port
  · simp only [false_iff]
    exact fun ⟨on, unused, _⟩ => free ⟨on, by simp [unused]⟩

theorem loopActs_iff : s.loopActs c = true ↔
    (s.bankAt (c / 32)).state = .on ∧ s.chanInUse c = false ∧ 1 ≤ s.loopCode c ∧ s.loopCode c ≤ 3 := by
  have code : fld (s.reg (pgCh c) 0x10C) 0 3 = s.loopCode c := rfl
  rw [State.loopActs, State.loopMode, code]
  split_ifs with free
  · simpa [free] using not_congr (loopModeOf_none (m := s.loopCode c))
  · simp only [ne_eq, not_true_eq_false, decide_false, Bool.false_eq_true, false_iff]
    exact fun ⟨on, unused, _⟩ => free ⟨on, by simp [unused]⟩

/-- The registers of a CH page are those of its channel. -/
theorem liveReg_pgCh (hc : c < 512) {off : Nat} (ho : 0x100 ≤ off) :
    s.liveReg (pgCh c) off = (readCh s c off).getD (s.reg (pgCh c) off) := by
  have block : readBlock s (pgCh c) off = readCh s c off := by
    unfold readBlock pgCh pgChip pgRcp pgFuse pgUpd pgMbox pgPcie pgHmc pgTrg pgSch pgCal
    simp (disch := omega) only [if_neg, if_pos, Nat.add_sub_cancel_left]
  rw [State.liveReg, if_neg (by omega), block]

/-- CH.STAT. -/
theorem chStat_eq (hc : c < 512) : s.liveReg (pgCh c) 0x110 = pack [(b2n (s.plinthBit c), 31), (b2n (s.loopActs c), 30),
    (b2n (s.cmpNow c).1, 1), (b2n (s.cmpNow c).2, 0)] := liveReg_pgCh hc (by omega)

/-- Two bits at the top of a word, beside two at its foot. -/
theorem pack_top_bits (a b x y : Bool) : (pack [(b2n a, 31), (b2n b, 30), (b2n x, 1), (b2n y, 0)]).getLsbD 31 = a ∧
    (pack [(b2n a, 31), (b2n b, 30), (b2n x, 1), (b2n y, 0)]).getLsbD 30 = b := by
  revert a b x y; decide

theorem chStat_plinth (hc : c < 512) : (s.liveReg (pgCh c) 0x110).getLsbD 31 = s.plinthBit c := by
  rw [chStat_eq hc]; exact (pack_top_bits ..).1

theorem chStat_loopActive (hc : c < 512) : (s.liveReg (pgCh c) 0x110).getLsbD 30 = s.loopActs c := by
  rw [chStat_eq hc]; exact (pack_top_bits ..).2

/-! ### Levels (R178, R179) -/

theorem portLevel_hiZ : s.portLevel c = .hiZ ↔ (s.bankAt (c / 32)).state = .off := by
  unfold State.portLevel
  dsimp only
  split_ifs <;> simp_all

/-- In a PORT loopback DAT is driven and EN deasserted (R190). -/
theorem portLevel_of_port (h : s.loopMode c = .port) : s.portLevel c = .driven (s.chanAt c).datOut false := by
  have on : (s.bankAt (c / 32)).state = .on := (loopMode_eq_port.1 h).1
  unfold State.portLevel
  dsimp only
  rw [if_neg (by simp [on]), if_pos h]

theorem reset_portLevel (c : Nat) : State.reset.portLevel c = .hiZ := portLevel_hiZ.2 rfl

end

/-! ### One cycle of the ports (R151, R186) -/

/-- No channel's transitions or levels change, and no message is sent. -/
structure SamePorts (s t : State) : Prop where
  now : t.now = s.now
  outbox : t.outbox = s.outbox
  sched : ∀ j, (t.chanAt j).sched = (s.chanAt j).sched
  enOut : ∀ j, (t.chanAt j).enOut = (s.chanAt j).enOut
  datOut : ∀ j, (t.chanAt j).datOut = (s.chanAt j).datOut

theorem SamePorts.trans {a b c : State} (h : SamePorts a b) (h' : SamePorts b c) : SamePorts a c :=
  ⟨h'.now.trans h.now, h'.outbox.trans h.outbox, fun j => (h'.sched j).trans (h.sched j),
   fun j => (h'.enOut j).trans (h.enOut j), fun j => (h'.datOut j).trans (h.datOut j)⟩

/-- From `s` to `t` transition `x`, the only one on its way in any channel, reaches the port of channel `c`. -/
structure PortTakes (c : Nat) (x : Trans) (s t : State) : Prop where
  outbox : t.outbox = s.outbox ++ [.port c x.en x.lvl x.at_]
  sched : ∀ j, (t.chanAt j).sched = []
  enOut : (t.chanAt c).enOut = if x.en then x.lvl else (s.chanAt c).enOut
  datOut : (t.chanAt c).datOut = if x.en then (s.chanAt c).datOut else x.lvl
  others : ∀ j, j ≠ c → (t.chanAt j).enOut = (s.chanAt j).enOut ∧ (t.chanAt j).datOut = (s.chanAt j).datOut

section
variable {c : Nat} {x : Trans} {s : State}

theorem PortTakes.before {r t : State} (h : SamePorts r s) (h' : PortTakes c x s t) : PortTakes c x r t where
  outbox := by rw [h'.outbox, h.outbox]
  sched := h'.sched
  enOut := by rw [h'.enOut, h.enOut]
  datOut := by rw [h'.datOut, h.datOut]
  others := fun j hj => ⟨(h'.others j hj).1.trans (h.enOut j), (h'.others j hj).2.trans (h.datOut j)⟩

theorem PortTakes.after {t u : State} (h : PortTakes c x s t) (h' : SamePorts t u) : PortTakes c x s u where
  outbox := by rw [h'.outbox, h.outbox]
  sched := fun j => (h'.sched j).trans (h.sched j)
  enOut := by rw [h'.enOut, h.enOut]
  datOut := by rw [h'.datOut, h.datOut]
  others := fun j hj => ⟨(h'.enOut j).trans (h.others j hj).1, (h'.datOut j).trans (h.others j hj).2⟩

/-- A channel behind a cycle in which all that was on its way to the port fell: at most it has entered the plinth state. -/
def Chan.settled (v : Chan) (now : Nat) : Chan :=
  { v with sched := [], plinth := v.plinth || v.plinthAt.any (fun t => t < (now + 1) * 4096),
           plinthAt := v.plinthAt.filter (fun t => ¬ t < (now + 1) * 4096) }

@[simp] theorem settled_sched (v : Chan) (now : Nat) : (v.settled now).sched = [] := rfl
@[simp] theorem settled_enOut (v : Chan) (now : Nat) : (v.settled now).enOut = v.enOut := rfl
@[simp] theorem settled_datOut (v : Chan) (now : Nat) : (v.settled now).datOut = v.datOut := rfl
@[simp] theorem settled_holds (v : Chan) (now : Nat) (x : Trans) : (v.settled now).holds x = v.holds x := rfl

theorem chanTick_of_idle {j : Nat} (h : (s.chanAt j).sched = []) :
    s.chanTick j = s.setChan j ((s.chanAt j).settled s.now) := by
  simp [State.chanTick, h, Chan.settled]

theorem chanTick_of_due (h : (s.chanAt c).sched = [x]) (hd : x.at_ < (s.now + 1) * 4096) :
    s.chanTick c = (s.setChan c ((s.chanAt c).settled s.now)).emit c x := by
  simp [State.chanTick, h, hd, Chan.settled]

/-- With nothing on its way to its port, a channel keeps its levels. -/
theorem chanTick_idle {j : Nat} (h : (s.chanAt j).sched = []) : SamePorts s (s.chanTick j) := by
  have read (i : Nat) : (s.chanTick j).chanAt i = if i = j then (s.chanAt j).settled s.now else s.chanAt i := by
    rw [chanTick_of_idle h, setChan_chanAt]
  refine ⟨by rw [chanTick_of_idle h]; rfl, by rw [chanTick_of_idle h]; rfl, fun i => ?_, fun i => ?_, fun i => ?_⟩ <;>
    rw [read] <;> by_cases hi : i = j <;> simp [hi, h]

theorem foldState_chanTick_idle {l : List Nat} (h : ∀ j, (s.chanAt j).sched = []) :
    SamePorts s (foldState l (fun c s => s.chanTick c) s) := by
  induction l generalizing s with
  | nil => exact ⟨rfl, rfl, fun _ => rfl, fun _ => rfl, fun _ => rfl⟩
  | cons a l ih =>
    have first : SamePorts s (s.chanTick a) := chanTick_idle (h a)
    exact first.trans (ih fun j => (first.sched j).trans (h j))

/-- Before the end of this cycle a single transition, to a level the port does not hold, is on its way to channel `c`, and none to
another channel. -/
structure OneTransition (c : Nat) (x : Trans) (s : State) : Prop where
  sched : (s.chanAt c).sched = [x]
  due : x.at_ < (s.now + 1) * 4096
  changes : (s.chanAt c).holds x = false
  others : ∀ j, j ≠ c → (s.chanAt j).sched = []

theorem OneTransition.of_samePorts {t : State} (h : OneTransition c x s) (h' : SamePorts s t) : OneTransition c x t where
  sched := by rw [h'.sched, h.sched]
  due := by rw [h'.now]; exact h.due
  changes := by rw [← h.changes, Chan.holds, Chan.holds, h'.enOut, h'.datOut]
  others := fun j hj => by rw [h'.sched, h.others j hj]

@[simp] theorem reach_sched (v : Chan) : (v.reach x).sched = v.sched := by unfold Chan.reach; split <;> rfl
@[simp] theorem reach_enOut (v : Chan) : (v.reach x).enOut = if x.en then x.lvl else v.enOut := by
  unfold Chan.reach; split <;> rfl
@[simp] theorem reach_datOut (v : Chan) : (v.reach x).datOut = if x.en then v.datOut else x.lvl := by
  unfold Chan.reach; split <;> rfl

theorem chanTick_takes (h : OneTransition c x s) : PortTakes c x s (s.chanTick c) := by
  have tick : s.chanTick c = { (s.setChan c ((s.chanAt c).settled s.now)).modChan c (fun v => v.reach x) with
      outbox := s.outbox ++ [.port c x.en x.lvl x.at_] } := by
    rw [chanTick_of_due h.sched h.due, State.emit, if_neg (by simp [h.changes])]
    rfl
  have read (j : Nat) : (s.chanTick c).chanAt j = if j = c then ((s.chanAt c).settled s.now).reach x else s.chanAt j := by
    rw [tick]
    exact (setChan_chanAt ..).trans (by by_cases hj : j = c <;> simp [hj])
  refine ⟨by rw [tick], fun j => ?_, by rw [read]; simp, by rw [read]; simp, fun j hj => by simp [read, hj]⟩
  rw [read]
  split
  · simp
  · exact h.others j ‹_›

theorem foldState_chanTick_takes {l : List Nat} (hc : c ∈ l) (h : OneTransition c x s) :
    PortTakes c x s (foldState l (fun c s => s.chanTick c) s) := by
  induction l generalizing s with
  | nil => cases hc
  | cons a l ih =>
    by_cases ha : a = c
    · subst ha
      have first := chanTick_takes h
      exact first.after (foldState_chanTick_idle first.sched)
    · have first : SamePorts s (s.chanTick a) := chanTick_idle (h.others a ha)
      exact (ih ((List.mem_cons.1 hc).resolve_left (Ne.symm ha)) (h.of_samePorts first)).before first

/-- What a map reads at a key, unless it is the default, stands in an entry of the map. -/
theorem mem_of_sget_ne {α : Type} {d : α} {m : Sparse α} {k : Nat} (h : sget d m k ≠ d) : (k, sget d m k) ∈ m := by
  induction m with
  | nil => exact absurd rfl h
  | cons e m ih =>
    obtain ⟨k', v⟩ := e
    by_cases hk : k' = k
    · simp [sget, hk]
    · rw [sget, if_neg hk] at h ⊢
      exact List.mem_cons_of_mem _ (ih h)

/-- A channel with a transition on its way takes part in the cycle. -/
theorem portTick_takes (h : OneTransition c x s) : PortTakes c x s s.portTick := by
  have listed : (c, s.chanAt c) ∈ s.chan :=
    mem_of_sget_ne fun unlisted => absurd (h.sched.symm.trans (congrArg Chan.sched unlisted)) (by simp)
  refine foldState_chanTick_takes (List.mem_map.2 ⟨_, List.mem_filter.2 ⟨listed, ?_⟩, rfl⟩) h
  simp [h.sched]

end

/-- Settles O60: the levels follow from the bank's state and the loopback that acts, and a cycle of the ports takes the one
transition once, in whatever order it visits the channels. -/
theorem portsAndLoopback : Obligations.PortsAndLoopback := by
  unfold Obligations.PortsAndLoopback
  refine ⟨reset_portLevel, fun c s => ⟨portLevel_hiZ, ?term, ?loop, ?plinth, ?port⟩,
    fun c x s sched due changes others => ?tick⟩
  case term => simp [State.termOn]
  case loop => exact fun hc => by rw [chStat_loopActive hc]; exact loopActs_iff
  case plinth =>
    intro hc
    rw [chStat_plinth hc, State.plinthBit, decide_eq_true_iff, ne_eq, loopMode_eq_port]
    exact Iff.rfl
  case port => exact fun on unused mode => portLevel_of_port (loopMode_eq_port.2 ⟨on, unused, mode⟩)
  case tick =>
    obtain ⟨outbox, sched', enOut, datOut, others'⟩ := portTick_takes ⟨sched, due, changes, others⟩
    exact ⟨outbox, sched' c, enOut, datOut, others'⟩

end Sys2Proof.Machine
end

section
/-! PROOFS. Requests of the capture contexts that complete (R32, R200, R201, R208, R348): a write request that every block takes
lands its bytes; beside it the context's queue moves on, and the context may note that it is drained or has lost an item. -/
namespace Sys2Proof.Machine

/-! ### HBM under a write request (R351) -/

/-- Where an address lies rests on the partition registers alone (R339). -/
theorem locate_congr {s t : State} (h : t.regs = s.regs) (a : Nat) : t.locate a = s.locate a := by
  have part_eq : t.part = s.part := funext fun p => by simp only [State.part, State.reg, State.regN, h]
  unfold State.locate
  rw [part_eq]

theorem hbmBlank_congr {s t : State} (hl : t.hbmLost = s.hbmLost) (k : Nat) : t.hbmBlank k = s.hbmBlank k := by
  unfold State.hbmBlank
  rw [hl]

/-- A byte reads from what is stored and from what its pseudo-channel has lost. -/
theorem hbmGet_congr {s t : State} (h : t.hbm = s.hbm) (hl : t.hbmLost = s.hbmLost) (k : Nat) : t.hbmGet k = s.hbmGet k := by
  simp only [State.hbmGet, hbmBlank_congr hl, h]

@[simp] theorem hbmPut_regs (s : State) (a : Nat) (b : Byte) : (s.hbmPut a b).regs = s.regs := by rw [hbmPut_frame]
@[simp] theorem hbmPut_hbmLost (s : State) (a : Nat) (b : Byte) : (s.hbmPut a b).hbmLost = s.hbmLost := by rw [hbmPut_frame]
@[simp] theorem hbmWrite_hbmLost (s : State) (a : Nat) (l : List Byte) : (s.hbmWrite a l).hbmLost = s.hbmLost := by
  rw [hbmWrite_frame]

theorem hbmPut_hbm_congr {s t : State} (hr : t.regs = s.regs) (h : t.hbm = s.hbm) (hl : t.hbmLost = s.hbmLost) (a : Nat)
    (b : Byte) : (t.hbmPut a b).hbm = (s.hbmPut a b).hbm := by
  unfold State.hbmPut
  rw [locate_congr hr]
  split
  · simp only [State.hbmSet, hbmBlank_congr hl, h]
  · exact h

/-- What a write leaves in HBM rests on the bytes there, on what has been lost and on the partition registers. -/
theorem hbmWrite_hbm_congr (l : List Byte) : ∀ {s t : State} (a : Nat), t.regs = s.regs → t.hbm = s.hbm →
    t.hbmLost = s.hbmLost → (t.hbmWrite a l).hbm = (s.hbmWrite a l).hbm := by
  induction l with
  | nil => exact fun a _ h _ => h
  | cons b l ih =>
    intro s t a hr h hl
    exact ih (a + 1) (by simp [hr]) (hbmPut_hbm_congr hr h hl a b) (by simp [hl])

/-- From `s` to `t` the bytes of a write at `a` have landed in HBM. -/
structure Lands (a : Nat) (l : List Byte) (s t : State) : Prop where
  hbm : t.hbm = (s.hbmWrite a l).hbm
  hbmLost : t.hbmLost = s.hbmLost

/-- A write that lands stores nothing outside its bytes. -/
theorem Lands.storesOnly {s t : State} {a : Nat} {l : List Byte} (h : Lands a l s t) : StoresOnly a l.length s t :=
  fun k hk => (hbmGet_congr h.hbm (by rw [h.hbmLost, hbmWrite_hbmLost]) k).trans (hbmWrite_storesOnly l s a k hk)

/-- A write that every block takes and the controller reports OK lands (R351). -/
theorem hbmWriteReq_lands {s : State} {a n : Nat} {l : List Byte} (hn : l.length = n)
    (hs : (s.hbmHeal a n).readStatus a n = .ok) : ∃ u, s.hbmWriteReq a l .ok = (.ok, u) ∧ Lands a l s u ∧ u.cap = s.cap := by
  subst hn
  refine ⟨(s.hbmHeal a l.length).hbmWrite a l, if_pos hs, ⟨hbmWrite_hbm_congr l a rfl rfl rfl, hbmWrite_hbmLost ..⟩, ?_⟩
  rw [hbmWrite_frame]
  rfl

theorem guardArray_of_none {s : State} {a n : Nat} (h : s.writeBreaks a n = none) (r : Res) : s.guardArray a n r = r := by
  simp only [State.guardArray, h]

/-! ### What a context notes -/

@[simp] theorem raiseEvt_capAt (s : State) (p j : Nat) (b : Word32) : (s.raiseEvt p b).capAt j = s.capAt j := by
  rw [raiseEvt_frame]; rfl

/-- From `s` to `t` contexts may have become DRAINED, with the event of that, and nothing else has changed. -/
structure DrainNoted (s t : State) : Prop where
  frame : t = { s with cap := t.cap, hdr := t.hdr, outbox := t.outbox, pcieHeld := t.pcieHeld, msixPend := t.msixPend }
  caps : ∀ j, ∃ d, t.capAt j = { s.capAt j with drained := d }

theorem DrainNoted.refl (s : State) : DrainNoted s s := ⟨rfl, fun j => ⟨(s.capAt j).drained, rfl⟩⟩

theorem DrainNoted.trans {a b c : State} (h : DrainNoted a b) (h' : DrainNoted b c) : DrainNoted a c := by
  refine ⟨by rw [h'.frame, h.frame], fun j => ?_⟩
  obtain ⟨d, first⟩ := h.caps j
  obtain ⟨d', second⟩ := h'.caps j
  exact ⟨d', by rw [second, first]⟩

theorem setDrained_noted (s : State) (i : Nat) : DrainNoted s (s.setDrained i) := by
  unfold State.setDrained
  dsimp only
  split
  · refine ⟨by rw [raiseEvt_frame]; rfl, fun j => ?_⟩
    rw [raiseEvt_capAt, setCap_capAt]
    split
    case isTrue h => exact ⟨true, by rw [h]⟩
    case isFalse => exact ⟨(s.capAt j).drained, rfl⟩
  · exact .refl s

theorem drainCheck_noted (s : State) (i : Nat) : DrainNoted s (s.drainCheck i) := by
  unfold State.drainCheck
  split
  · exact .refl s
  · exact setDrained_noted s i

section
variable {s t : State} (h : DrainNoted s t)
include h

theorem DrainNoted.hbm : t.hbm = s.hbm := by rw [h.frame]
theorem DrainNoted.hbmLost : t.hbmLost = s.hbmLost := by rw [h.frame]

/-- What does not speak of DRAINED reads as before. -/
theorem DrainNoted.reads {α : Type} (f : Cap → α) (j : Nat) (hf : ∀ v d, f { v with drained := d } = f v := by intros; rfl) :
    f (t.capAt j) = f (s.capAt j) := by
  obtain ⟨d, eq⟩ := h.caps j
  rw [eq, hf]

end

/-- From `s` to `t` contexts have lost items and the matrix is told of it; nothing else has changed (R207). -/
structure LossNoted (s t : State) : Prop where
  frame : t = { s with cap := t.cap, hdr := t.hdr, outbox := t.outbox, pcieHeld := t.pcieHeld, msixPend := t.msixPend,
                       trg := { s.trg with conds := t.trg.conds } }
  caps : ∀ j, ∃ n l v, t.capAt j = { s.capAt j with lostCount := n, lost := l, lostVec := v }

theorem loseItem_noted (s : State) (i vc : Nat) : LossNoted s (s.loseItem i vc) := by
  unfold State.loseItem
  refine ⟨by rw [cond_frame, raiseEvt_frame]; rfl, fun j => ?_⟩
  have read : ∀ (u : State) (e : Nat) (c : CondEv), (u.cond e c).capAt j = u.capAt j := fun _ _ _ => rfl
  rw [read, raiseEvt_capAt, modCap_eq, setCap_capAt]
  split
  case isTrue h => exact ⟨_, _, _, by rw [h]⟩
  case isFalse => exact ⟨(s.capAt j).lostCount, (s.capAt j).lost, (s.capAt j).lostVec, rfl⟩

/-! ### Requests that complete (R32, R200, R201, R208) -/

section
variable {site : Fin 128} {s : State}

/-- The reply to a request of before a reset of the page is counted as stale; of its context only a loss is noted beside (R32). -/
theorem oldComplete_capAt (s : State) (i : Nat) (it : CapItem) {res : HbmStatus} (h : res ≠ .reset) :
    ∃ n l v, (s.oldComplete i it res).capAt i =
      { s.capAt i with stale := sat32 ((s.capAt i).stale + 1), lostCount := n, lost := l, lostVec := v } := by
  have stale : (s.modCap i (fun v => { v with stale := sat32 (v.stale + 1) })).capAt i =
      { s.capAt i with stale := sat32 ((s.capAt i).stale + 1) } := by simp
  have written (u : State) (a : Nat) (l : List Byte) : (u.hbmWriteReq a l res).2.capAt i = u.capAt i := by
    rw [hbmWriteReq_frame]; rfl
  unfold State.oldComplete
  rw [if_neg h]
  cases it with
  | cw a d vc => exact ⟨_, _, _, (written ..).trans stale⟩
  | bm b =>
    dsimp only
    split
    · obtain ⟨n, l, v, lost⟩ := (loseItem_noted (s.modCap i (fun v => { v with stale := sat32 (v.stale + 1) })) i b.vc).caps i
      exact ⟨n, l, v, by rw [lost, stale]⟩
    · obtain ⟨n, l, v, lost⟩ := (loseItem_noted
        ((s.modCap i (fun v => { v with stale := sat32 (v.stale + 1) })).or64 b.addr b.f res).2.2 i b.vc).caps i
      exact ⟨n, l, v, by rw [lost, State.or64, written, stale]⟩

theorem captureWriteComplete_old {it : CapItem} {rest : List CapItem} {res : HbmStatus} (ho : (s.capAt site).old = it :: rest) :
    exec (.captureWriteComplete site res) s =
      .next (((s.setCap site { s.capAt site with old := rest }).oldComplete site it res).drainCheck site) := by
  change execCaptureWriteComplete site res s = _
  simp only [execCaptureWriteComplete, ho]

/-- The bytes of the first complete item land as its request completes (R208). -/
theorem captureWriteComplete_cw {a : Nat} {d : List Byte} {vc : Nat} {rest : List CapItem} (ho : (s.capAt site).old = [])
    (hq : takeFirst CapItem.complete (s.capAt site).queue = some (.cw a d vc, rest)) (hb : s.writeBreaks a d.length = none)
    (hs : (s.hbmHeal a d.length).readStatus a d.length = .ok) :
    ∃ u : State, exec (.captureWriteComplete site .ok) s = .next (u.drainCheck site) ∧ Lands a d s u ∧
      (u.capAt site).queue = rest := by
  obtain ⟨u, req, lands, caps⟩ :=
    hbmWriteReq_lands (s := s.setCap site ((s.capAt site).without CapItem.complete rest)) rfl hs
  refine ⟨u, ?_, ⟨lands.hbm.trans (hbmWrite_hbm_congr d a rfl rfl rfl), lands.hbmLost⟩, ?_⟩
  · change execCaptureWriteComplete site .ok s = _
    simp only [execCaptureWriteComplete, ho, hq, req, if_true]
    exact guardArray_of_none hb _
  · rw [State.capAt, caps]
    exact congrArg Cap.queue ((setCap_capAt ..).trans (if_pos rfl))

/-- A command that rewrites the queue of its context behind a write that lands. -/
def Updates (c : Instr) (i a : Nat) (l : List Byte) (queue : List CapItem → List CapItem) (s : State) : Prop :=
  ∃ t, exec c s = .next t ∧ Lands a l s t ∧ (t.capAt i).queue = queue (s.capAt i).queue

theorem Updates.of_modCap {c : Instr} {i a : Nat} {l : List Byte} {queue : List CapItem → List CapItem} {s u : State}
    {f : Cap → Cap} (run : exec c s = .next (u.modCap i f)) (lands : Lands a l s u) (caps : u.cap = s.cap)
    (hf : ∀ v, (f v).queue = queue v.queue) : Updates c i a l queue s := by
  refine ⟨_, run, ⟨lands.hbm, lands.hbmLost⟩, ?_⟩
  rw [modCap_eq, setCap_capAt, if_pos rfl, hf, State.capAt, caps, State.capAt]

/-- OR64 of the first bitmap update that waits for it (R200). -/
theorem or64_ok {b : BmItem} (hq : firstBm (fun b => !b.ored) (s.capAt site).queue = some b)
    (hb : s.writeBreaks b.addr 8 = none) (hs : (s.hbmHeal b.addr 8).readStatus b.addr 8 = .ok) :
    Updates (.or64 site .ok) site b.addr (leBytes 8 (BitVec.ofNat 64 (s.hbmNat b.addr 8) ||| b.f).toNat)
      (setFirstBm (fun b => !b.ored)
        { b with ored := true, ctrs := lineCtrs b (b.f &&& ~~~ BitVec.ofNat 64 (s.hbmNat b.addr 8)) }) s := by
  obtain ⟨u, req, lands, caps⟩ :=
    hbmWriteReq_lands (l := leBytes 8 (BitVec.ofNat 64 (s.hbmNat b.addr 8) ||| b.f).toNat) rfl hs
  refine .of_modCap (u := u) (f := fun v => { v with queue := setFirstBm (fun b => !b.ored) _ v.queue }) ?_ lands caps
    (fun _ => rfl)
  change execOr64 site .ok s = _
  simp only [execOr64, hq, State.or64, req, if_true]
  exact guardArray_of_none hb _

/-- ADDSAT15 of the next counter of the first bitmap update that has one left (R201). -/
theorem addsat15_ok {b : BmItem} {c : LineCtr} {l : List LineCtr}
    (hq : firstBm (fun b => b.ored && !b.ctrs.isEmpty) (s.capAt site).queue = some b) (hc : b.ctrs = c :: l)
    (hb : s.writeBreaks c.addr 2 = none) (hs : (s.hbmHeal c.addr 2).readStatus c.addr 2 = .ok) :
    Updates (.addsat15 site .ok) site c.addr (leBytes 2 (addSat15 (s.hbmNat c.addr 2) c.n c.thr))
      (setFirstBm (fun b => b.ored && !b.ctrs.isEmpty) { b with ctrs := l }) s := by
  obtain ⟨u, req, lands, caps⟩ := hbmWriteReq_lands (l := leBytes 2 (addSat15 (s.hbmNat c.addr 2) c.n c.thr)) rfl hs
  refine .of_modCap (u := u) (f := ?rewritten) ?run lands caps ?queue
  case run =>
    change execAddsat15 site .ok s = _
    simp only [execAddsat15, hq, hc, req, ne_eq, not_true, decide_false, Bool.or_false]
    exact guardArray_of_none hb _
  case queue => exact fun _ => rfl

end

/-- ADDSAT15 (R348): 15 bits that saturate and a MUST bit that stays. -/
theorem addSat15_spec {h : Nat} (hh : h < 65536) (n thr : Nat) : addSat15 h n thr < 65536 ∧
    addSat15 h n thr % 32768 = min 32767 (h % 32768 + n) ∧
    (32768 ≤ addSat15 h n thr ↔ 32768 ≤ h ∨ (thr ≠ 0 ∧ thr < min 32767 (h % 32768 + n))) := by
  unfold addSat15
  dsimp only
  split <;> omega

/-- Settles O9: a request that completes OK lands its bytes, and the queue of its context is rewritten beside that. -/
theorem captureRequestsWriteHbm : Obligations.CaptureRequestsWriteHbm := by
  unfold Obligations.CaptureRequestsWriteHbm
  refine ⟨fun site s => ⟨?write, ?or, ?add, ?stale⟩, fun h n thr hh => addSat15_spec hh n thr⟩
  case write =>
    intro a d vc rest ho hq hb hs
    obtain ⟨u, run, lands, queue⟩ := captureWriteComplete_cw ho hq hb hs
    have noted := drainCheck_noted u site
    have lands : Lands a d s (u.drainCheck site) := ⟨noted.hbm.trans lands.hbm, noted.hbmLost.trans lands.hbmLost⟩
    exact ⟨_, run, (noted.reads Cap.queue site).trans queue, lands.hbm, lands.storesOnly⟩
  case or =>
    intro b hq hb hs
    obtain ⟨t, run, lands, queue⟩ := or64_ok hq hb hs
    exact ⟨t, run, lands.hbm, queue, lands.storesOnly⟩
  case add =>
    intro b c l hq hc hb hs
    obtain ⟨t, run, lands, queue⟩ := addsat15_ok hq hc hb hs
    exact ⟨t, run, lands.hbm, queue, lands.storesOnly⟩
  case stale =>
    intro it rest res ho hres
    have noted := drainCheck_noted ((s.setCap site { s.capAt site with old := rest }).oldComplete site it res) site
    obtain ⟨n, l, v, after⟩ := oldComplete_capAt (s.setCap site { s.capAt site with old := rest }) site it hres
    rw [setCap_capAt, if_pos rfl] at after
    exact ⟨_, captureWriteComplete_old ho, (noted.reads Cap.old site).trans (congrArg Cap.old after),
      (noted.reads Cap.queue site).trans ((congrArg Cap.queue after).trans rfl),
      (noted.reads Cap.stale site).trans ((congrArg Cap.stale after).trans rfl)⟩

end Sys2Proof.Machine
end

section
/-! PROOFS. What the end of a burst leaves (R42, R62, R67, R71, R209), for what may end one: the bytes of HBM, the units of the
trigger matrix, the counts of failing vectors and the vectors in flight. -/
namespace Sys2Proof.Machine

/-! ### What stays -/

/-- From `s` to `t` the bytes of HBM and the units of the trigger matrix are as they were. -/
structure UnitsStay (s t : State) : Prop where
  hbm : t.hbm = s.hbm
  units : t.trg.units = s.trg.units

theorem UnitsStay.trans {a b c : State} (h : UnitsStay a b) (h' : UnitsStay b c) : UnitsStay a c :=
  ⟨h'.hbm.trans h.hbm, h'.units.trans h.units⟩

theorem UnitsStay.unitAt {s t : State} (h : UnitsStay s t) (u : Nat) : t.unitAt u = s.unitAt u := by
  rw [State.unitAt, h.units, State.unitAt]

/-- From `s` to `t` bursts may have ended: HBM and units stay, FAIL_VEC counts nothing and no vector in flight is lost. -/
structure EndsOnly (s t : State) : Prop extends UnitsStay s t where
  failVec : ∀ i, (t.capAt i).failVec = (s.capAt i).failVec
  inflight : ∀ q, (t.seqAt q).inflight = (s.seqAt q).inflight

theorem EndsOnly.refl (s : State) : EndsOnly s s := ⟨⟨rfl, rfl⟩, fun _ => rfl, fun _ => rfl⟩

theorem EndsOnly.trans {a b c : State} (h : EndsOnly a b) (h' : EndsOnly b c) : EndsOnly a c :=
  ⟨h.toUnitsStay.trans h'.toUnitsStay, fun i => (h'.failVec i).trans (h.failVec i),
    fun q => (h'.inflight q).trans (h.inflight q)⟩

/-- A state that agrees in HBM, the units, the contexts and the sequencers. -/
theorem EndsOnly.of_eq {s t : State} (hbm : t.hbm = s.hbm) (units : t.trg.units = s.trg.units) (cap : t.cap = s.cap)
    (seq : t.seq = s.seq) : EndsOnly s t :=
  ⟨⟨hbm, units⟩, fun i => by rw [State.capAt, cap, State.capAt], fun q => by rw [State.seqAt, seq, State.seqAt]⟩

theorem EndsOnly.foldState {α : Type} {f : α → State → State} (hf : ∀ a s, EndsOnly s (f a s)) (l : List α) (s : State) :
    EndsOnly s (foldState l f s) :=
  foldState_keeps (EndsOnly s) f (fun a u h => h.trans (hf a u)) l s (.refl s)

theorem setSeq_endsOnly {s : State} {q : Nat} {v : Seq} (h : v.inflight = (s.seqAt q).inflight) :
    EndsOnly s (s.setSeq q v) := by
  refine ⟨⟨rfl, rfl⟩, fun _ => rfl, fun j => ?_⟩
  rw [setSeq_seqAt]
  split
  case isTrue hj => rw [h, hj]
  case isFalse => rfl

theorem DrainNoted.endsOnly {s t : State} (h : DrainNoted s t) : EndsOnly s t :=
  ⟨⟨h.hbm, by rw [h.frame]⟩, h.reads Cap.failVec, fun q => by rw [h.frame]; rfl⟩

/-! ### What a final state brings about (R42) -/

theorem applyFor_frame (q : Nat) (p : BatchPart → Bool) (atEnd atStart : Bool) (vec : Nat) (seg : Word32) (s : State) :
    s.applyFor q p atEnd atStart vec seg = { s with tss := (s.applyFor q p atEnd atStart vec seg).tss } := by
  have applied (l : List BatchPart) (r : BatchPart → ApplyRec) : foldState l (fun x u => u.applyPart x (r x)) s =
      { s with tss := (foldState l (fun x u => u.applyPart x (r x)) s).tss } :=
    foldState_keeps (fun t => t = { s with tss := t.tss }) _ (fun x u hu => by rw [hu]; rfl) l s rfl
  unfold State.applyFor
  dsimp only
  rw [applied]

/-- From `s` to `t` only corrections of CAL and what they are made of have changed. -/
def Corrects (s t : State) : Prop := t = { s with cal := t.cal, chan := t.chan, sync := t.sync, freeCtr := t.freeCtr }

theorem Corrects.trans {a b c : State} (h : Corrects a b) (h' : Corrects b c) : Corrects a c := by
  unfold Corrects at *
  rw [h', h]

theorem setStaged_corrects (c : Nat) (l : List StagedTerm) (s : State) : Corrects s (s.setStaged c l) := rfl

theorem figEnter_corrects (k i : Nat) (s : State) : Corrects s (s.figEnter k i) := rfl

/-- Staged terms that enter force (R326, R327). -/
theorem enterForce_corrects (c : Nat) (p : StagedTerm → Bool) (s : State) : Corrects s (s.enterForce c p) := by
  unfold State.enterForce
  dsimp only
  split
  · rfl
  · generalize hm : foldState _ _ _ = m
    have entered : Corrects s m := by
      rw [← hm]
      exact foldState_keeps (Corrects s) _ (fun x u hu => hu.trans (figEnter_corrects _ c u)) _ _ rfl
    split
    · exact entered.trans rfl
    · split
      · exact entered.trans rfl
      · exact entered.trans rfl

theorem Corrects.endsOnly {s t : State} (h : Corrects s t) : EndsOnly s t := by
  unfold Corrects at h
  refine .of_eq ?_ ?_ ?_ ?_ <;> rw [h]

theorem calFinal_endsOnly (l : List Nat) (s : State) : EndsOnly s (s.calFinal l) :=
  .foldState (fun c u => (enterForce_corrects c _ u).endsOnly) l s

theorem bankRelease_endsOnly (s : State) : EndsOnly s s.bankRelease := by
  refine .foldState (fun b u => ?_) _ s
  dsimp only
  split
  · exact .of_eq rfl rfl rfl rfl
  · exact .refl u

/-! ### The scheduler told of a final state (R244 to R246) -/

/-- From `s` to `t` only the scheduler has changed. -/
def SchOnly (s t : State) : Prop := t = { s with sch := t.sch }

theorem SchOnly.trans {a b c : State} (h : SchOnly a b) (h' : SchOnly b c) : SchOnly a c := by
  unfold SchOnly at *
  rw [h', h]

theorem setTask_schOnly (i : Nat) (v : Task) (s : State) : SchOnly s (s.setTask i v) := rfl

section
variable {i : Nat} {ok : Bool} {s : State}

/-- Whatever becomes of the task, the scheduler alone is stored. -/
theorem advance_schOnly {r : Option TaskStatus × State} (h : s.advance i = r) : SchOnly s r.2 := by
  subst h
  unfold State.advance
  dsimp only
  repeat' split
  all_goals rfl

theorem depOn_schOnly {r : Option (Nat × TaskStatus) × State} (h : s.depOn i ok = r) : SchOnly s r.2 := by
  subst h
  unfold State.depOn
  dsimp only
  split
  · split
    · rfl
    · split
      · split
        · next h => exact (setTask_schOnly i _ s).trans (advance_schOnly h)
        · next h => exact (setTask_schOnly i _ s).trans (advance_schOnly h)
      · rfl
  · split <;> rfl

end

theorem depAll_schOnly (ok : Bool) (l : List Nat) (s : State) : SchOnly s (s.depAll ok l).2 := by
  induction l generalizing s with
  | nil => rfl
  | cons id l ih =>
    unfold State.depAll
    split
    · split
      · next h => exact (depOn_schOnly h).trans (ih _)
      · next h => exact (depOn_schOnly h).trans (ih _)
    · have counted (n : Nat) : SchOnly s { s with sch := { s.sch with depUnderflow := n } } := rfl
      exact (counted _).trans (ih _)

theorem completeAll_schOnly (n : Nat) (l : List (Nat × TaskStatus)) (s : State) : SchOnly s (State.completeAll n l s) := by
  induction n generalizing l s with
  | zero => rfl
  | succ n ih =>
    cases l with
    | nil => rfl
    | cons x l =>
      have ended : SchOnly s (s.recordEnd x.1 x.2) := rfl
      exact (ended.trans (depAll_schOnly ..)).trans (ih ..)

theorem eventAt_schOnly (i : Nat) (x : Final) (s : State) : SchOnly s (s.eventAt i x) := by
  unfold State.eventAt
  dsimp only
  split
  · next h => exact ((setTask_schOnly i _ s).trans (depOn_schOnly h)).trans (completeAll_schOnly ..)
  · next h => exact (setTask_schOnly i _ s).trans (depOn_schOnly h)

theorem postFinal_schOnly (q code : Nat) (s : State) : SchOnly s (s.postFinal q code) := by
  unfold State.postFinal
  dsimp only
  generalize hm : foldState (List.range 8) _ s = m
  have noted : SchOnly s m := by
    rw [← hm]
    refine foldState_keeps (SchOnly s) _ (fun p u hu => ?_) _ s rfl
    split
    · exact hu.trans rfl
    · exact hu
  exact foldState_keeps (SchOnly s) _ (fun i u hu => hu.trans (eventAt_schOnly i _ u)) _ m noted

theorem SchOnly.endsOnly {s t : State} (h : SchOnly s t) : EndsOnly s t := by
  unfold SchOnly at h
  refine .of_eq ?_ ?_ ?_ ?_ <;> rw [h]

/-! ### The end of a burst -/

theorem plinthAfter_endsOnly (e : Nat) (l : List Nat) (s : State) : EndsOnly s (s.plinthAfter e l) := by
  refine .of_eq ?_ ?_ ?_ ?_ <;> rw [plinthAfter_frame]

theorem cond_endsOnly (e : Nat) (c : CondEv) (s : State) : EndsOnly s (s.cond e c) := .of_eq rfl rfl rfl rfl

theorem reopen_endsOnly (s : State) : EndsOnly s s.reopen := .of_eq rfl rfl rfl rfl

theorem park_endsOnly (q : Nat) (s : State) : EndsOnly s (s.park q) := by
  unfold State.park
  dsimp only
  split
  · exact .refl s
  · have parked : EndsOnly s (s.setSeq q { s.seqAt q with parked := true }) := setSeq_endsOnly rfl
    exact parked.trans (plinthAfter_endsOnly ..)

theorem applyFor_endsOnly (q : Nat) (p : BatchPart → Bool) (atEnd atStart : Bool) (vec : Nat) (seg : Word32) (s : State) :
    EndsOnly s (s.applyFor q p atEnd atStart vec seg) := by
  refine .of_eq ?_ ?_ ?_ ?_ <;> rw [applyFor_frame]

theorem seqPageReset_endsOnly (q : Nat) (s : State) : EndsOnly s (seqPageReset q s) := by
  have reset : EndsOnly s ((s.resetRegs (pgSeq q)).pageResetDone (pgSeq q)) := .of_eq rfl rfl rfl rfl
  exact reset.trans (setSeq_endsOnly rfl)

/-- A sequencer with nothing in flight that enters its final state. -/
theorem enterFinal_endsOnly {q : Nat} {s : State} (h : (s.seqAt q).inflight = []) : EndsOnly s (s.enterFinal q) := by
  unfold State.enterFinal
  extract_lets v cause chans parked w final applied corrected drained released told posted reset
  have parks : EndsOnly s parked := park_endsOnly q s
  have ends : EndsOnly parked final := setSeq_endsOnly ((parks.inflight q).trans h).symm
  have applies : EndsOnly final applied := applyFor_endsOnly ..
  have corrects : EndsOnly applied corrected := calFinal_endsOnly ..
  have drains : EndsOnly corrected drained := .foldState (fun i u => (setDrained_noted u i).endsOnly) ..
  have releases : EndsOnly drained released := bankRelease_endsOnly _
  have tells : EndsOnly released told := by
    unfold told
    split
    · exact .refl _
    · exact cond_endsOnly ..
  have posts : EndsOnly told posted := (postFinal_schOnly ..).endsOnly
  have resets : EndsOnly posted reset := by
    unfold reset
    split
    · exact seqPageReset_endsOnly ..
    · exact .refl _
  exact ((((((((parks.trans ends).trans applies).trans corrects).trans drains).trans releases).trans tells).trans posts).trans
    resets).trans (reopen_endsOnly _)

theorem finishIf_endsOnly (q : Nat) (s : State) : EndsOnly s (s.finishIf q) := by
  unfold State.finishIf
  dsimp only
  split
  · split
    case isTrue h => exact enterFinal_endsOnly h.1
    case isFalse => exact .refl s
  · exact .refl s

theorem markEnding_endsOnly (q : Nat) (c : EndCause) (e : Nat) (s : State) : EndsOnly s (s.markEnding q c e) := by
  unfold State.markEnding
  dsimp only
  split
  · exact .refl s
  · split
    · exact setSeq_endsOnly rfl
    · split
      · exact setSeq_endsOnly rfl
      · exact .refl s

theorem sendPorts_endsOnly (ports : BitVec 6) (m : ZpMsg) (s : State) : EndsOnly s (s.sendPorts ports m) := by
  refine .of_eq ?_ ?_ ?_ ?_ <;> rw [sendPorts_frame]

/-- A barrier that fails, with the barriers that its members leave open (R62). -/
theorem cancelChain_endsOnly (n g : Nat) (c : EndCause) (except : Option Nat) (e : Nat) (s : State) :
    EndsOnly s (s.cancelChain n g c except e) := by
  induction n generalizing g c except s with
  | zero => exact .refl s
  | succ n ih =>
    unfold State.cancelChain
    split
    · exact .refl s
    · extract_lets ports reached asked sent l marked closed left
      have sends : EndsOnly s sent := by
        unfold sent
        split
        · exact sendPorts_endsOnly ..
        · exact .refl s
      have marks : EndsOnly sent marked := .foldState (fun q u => markEnding_endsOnly q c e u) l sent
      have closes : EndsOnly marked closed := .of_eq rfl rfl rfl rfl
      have leaves : EndsOnly closed left := by
        refine .foldState (fun q u => ?_) l closed
        split
        · split
          · exact ih ..
          · exact .refl u
        · exact .refl u
      have finishes : EndsOnly left (foldState l (fun q u => u.finishIf q) left) := .foldState finishIf_endsOnly l left
      exact ((((sends.trans marks).trans closes).trans leaves).trans finishes).trans (reopen_endsOnly _)

theorem memberEnds_endsOnly (q e : Nat) (s : State) : EndsOnly s (s.memberEnds q e) := by
  unfold State.memberEnds
  split
  · split
    · exact cancelChain_endsOnly ..
    · exact .refl s
  · exact .refl s

theorem endBurst_endsOnly (q : Nat) (c : EndCause) (e : Nat) (s : State) : EndsOnly s (s.endBurst q c e) := by
  unfold State.endBurst
  extract_lets l marked left
  have marks : EndsOnly s marked := .foldState (fun n u => markEnding_endsOnly n c e u) l s
  have leaves : EndsOnly marked left := by
    refine .foldState (fun n u => ?_) l marked
    split
    · exact memberEnds_endsOnly ..
    · exact .refl u
  exact (marks.trans leaves).trans (.foldState finishIf_endsOnly l left)

end Sys2Proof.Machine
end

section
/-! PROOFS. The commit of an issued vector (R195 to R206): each owned site judges its compares on its own channel list, and counts
the vector once where one fails; logs, bitmaps and raw records change no count of vectors. -/
namespace Sys2Proof.Machine

/-! ### What a commit counts -/

/-- From `s` to `t` context `j` has counted `n j` failing vectors; HBM, registers, channel lists and vectors in flight stay. -/
structure FailCounts (n : Nat → Nat) (s t : State) : Prop where
  hbm : t.hbm = s.hbm
  regs : t.regs = s.regs
  inflight : ∀ q, (t.seqAt q).inflight = (s.seqAt q).inflight
  chans : ∀ j, (t.capAt j).chans = (s.capAt j).chans
  failVec : ∀ j, (t.capAt j).failVec = (s.capAt j).failVec + n j

theorem FailCounts.refl (s : State) : FailCounts 0 s s := ⟨rfl, rfl, fun _ => rfl, fun _ => rfl, fun _ => rfl⟩

theorem FailCounts.trans {m n : Nat → Nat} {a b c : State} (h : FailCounts m a b) (h' : FailCounts n b c) : FailCounts (m + n) a c :=
  ⟨h'.hbm.trans h.hbm, h'.regs.trans h.regs, fun q => (h'.inflight q).trans (h.inflight q),
    fun j => (h'.chans j).trans (h.chans j), fun j => by rw [h'.failVec, h.failVec, Pi.add_apply, Nat.add_assoc]⟩

/-- What counts nothing may stand behind what counts. -/
theorem FailCounts.andThen {n : Nat → Nat} {a b c : State} (h : FailCounts n a b) (h' : FailCounts 0 b c) : FailCounts n a c := by
  simpa using h.trans h'

theorem FailCounts.foldState_none {α : Type} {f : α → State → State} (hf : ∀ a s, FailCounts 0 s (f a s)) (l : List α) (s : State) :
    FailCounts 0 s (foldState l f s) :=
  foldState_keeps (FailCounts 0 s) f (fun a u h => h.andThen (hf a u)) l s (.refl s)

/-- A state that agrees in HBM, registers, contexts and sequencers. -/
theorem FailCounts.of_eq {s t : State} (hbm : t.hbm = s.hbm) (regs : t.regs = s.regs) (cap : t.cap = s.cap) (seq : t.seq = s.seq) :
    FailCounts 0 s t :=
  ⟨hbm, regs, fun q => by rw [State.seqAt, seq, State.seqAt], fun j => by rw [State.capAt, cap, State.capAt],
    fun j => by rw [State.capAt, cap, State.capAt]; rfl⟩

theorem setSeq_counts {s : State} {q : Nat} {v : Seq} (h : v.inflight = (s.seqAt q).inflight) : FailCounts 0 s (s.setSeq q v) :=
  ⟨rfl, rfl, (setSeq_endsOnly h).inflight, fun _ => rfl, fun _ => rfl⟩

/-- A store to context `i` that adds `k` to its FAIL_VEC. -/
theorem setCap_counts {s : State} {i k : Nat} {v : Cap} (hc : v.chans = (s.capAt i).chans)
    (hf : v.failVec = (s.capAt i).failVec + k) : FailCounts (Pi.single i k) s (s.setCap i v) := by
  refine ⟨rfl, rfl, fun _ => rfl, fun j => ?_, fun j => ?_⟩
  · rw [setCap_capAt]
    split
    case isTrue hj => rw [hc, hj]
    case isFalse => rfl
  · rw [setCap_capAt]
    split
    case isTrue hj => rw [hf, hj, Pi.single_eq_same]
    case isFalse hj => rw [Pi.single_eq_of_ne hj, Nat.add_zero]

/-- A store to a context that leaves its channel list and FAIL_VEC. -/
theorem setCap_counts_none {s : State} {i : Nat} {v : Cap} (hc : v.chans = (s.capAt i).chans)
    (hf : v.failVec = (s.capAt i).failVec) : FailCounts 0 s (s.setCap i v) := by
  simpa using setCap_counts (k := 0) hc hf

theorem modCap_counts_none (i : Nat) (f : Cap → Cap) (s : State)
    (h : ∀ v, (f v).chans = v.chans ∧ (f v).failVec = v.failVec := by exact fun _ => ⟨rfl, rfl⟩) :
    FailCounts 0 s (s.modCap i f) :=
  setCap_counts_none (h _).1 (h _).2

theorem cond_counts (e : Nat) (c : CondEv) (s : State) : FailCounts 0 s (s.cond e c) := .of_eq rfl rfl rfl rfl

theorem raiseEvt_counts (p : Nat) (b : Word32) (s : State) : FailCounts 0 s (s.raiseEvt p b) := by
  refine .of_eq ?_ ?_ ?_ ?_ <;> rw [raiseEvt_frame]

theorem Corrects.counts {s t : State} (h : Corrects s t) : FailCounts 0 s t := by
  unfold Corrects at h
  refine .of_eq ?_ ?_ ?_ ?_ <;> rw [h]

theorem loseItem_counts (i vc : Nat) (s : State) : FailCounts 0 s (s.loseItem i vc) := by
  obtain ⟨frame, caps⟩ := loseItem_noted s i vc
  refine ⟨by rw [frame], by rw [frame], fun q => by rw [frame]; rfl, fun j => ?_, fun j => ?_⟩
  · obtain ⟨n, l, v, eq⟩ := caps j
    rw [eq]
  · obtain ⟨n, l, v, eq⟩ := caps j
    rw [eq]; rfl

theorem pushItem_counts (i vc : Nat) (it : CapItem) (s : State) : FailCounts 0 s (s.pushItem i vc it).2 := by
  unfold State.pushItem
  split
  · exact loseItem_counts i vc s
  · exact modCap_counts_none i (fun v => { v with queue := v.queue ++ [it] }) s

/-! ### One site -/

theorem capCounts_counts (i : Nat) (r : VecRec) (bad : List (Nat × Judged)) (s : State) :
    FailCounts (Pi.single i 1) s (capCounts i r bad s) := by
  unfold capCounts
  extract_lets first ts fc t
  have counted : FailCounts (Pi.single i 1) s t := setCap_counts rfl rfl
  split
  · exact counted.andThen (raiseEvt_counts ..)
  · exact counted

theorem capCross_counts (q i nb : Nat) (s : State) : FailCounts 0 s (capCross q i nb s) := by
  unfold capCross
  split
  · extract_lets t u
    have crossed : FailCounts 0 s u :=
      ((modCap_counts_none i _ s).andThen (raiseEvt_counts ..)).andThen (cond_counts ..)
    split
    · exact crossed.andThen (setSeq_counts rfl)
    · exact crossed
  · exact .refl s

theorem capLog_counts (i : Nat) (r : VecRec) (bad : List (Nat × Judged)) (s : State) : FailCounts 0 s (capLog i r bad s) := by
  unfold capLog
  split
  · exact .refl s
  · refine .foldState_none (fun g u => ?_) _ s
    extract_lets mine mask w3 n counted stored
    have counts : FailCounts 0 u counted := modCap_counts_none ..
    have stores : FailCounts 0 counted stored := by
      unfold stored
      split
      · exact pushItem_counts ..
      · exact .refl _
    split
    · exact ((counts.andThen stores).andThen (modCap_counts_none ..)).andThen (raiseEvt_counts ..)
    · exact counts.andThen stores

theorem capBitmap_counts (i : Nat) (r : VecRec) (bad : List (Nat × Judged)) (s : State) :
    FailCounts 0 s (capBitmap i r bad s) := by
  unfold capBitmap
  extract_lets cfg f
  split
  · exact .refl s
  · split
    · exact modCap_counts_none ..
    · exact pushItem_counts ..

theorem rawStore_counts {i : Nat} {r : VecRec} {data : List Byte} {s : State} {b : Bool} {t : State}
    (h : rawStore i r data s = (b, t)) : FailCounts 0 s t := by
  unfold rawStore at h
  extract_lets v ring drain at h
  split at h
  · cases h
    exact loseItem_counts ..
  · have pushed := pushItem_counts i r.vc (.cw (s.reg64 (pgCap i) 0x188 + v.rawWr % ring) data r.vc) s
    split at h
    · next hp =>
      rw [hp] at pushed
      cases h
      exact pushed.andThen (modCap_counts_none ..)
    · rw [h] at pushed
      exact pushed

theorem capRaw_counts (i : Nat) (r : VecRec) (js : List Judged) (judged bad : List (Nat × Judged)) (s : State) :
    FailCounts 0 s (capRaw i r js judged bad s) := by
  unfold capRaw
  extract_lets v cfg want
  split
  · exact .refl s
  · split
    · next h => exact rawStore_counts h
    · next t h =>
      have stored : FailCounts 0 s t := rawStore_counts h
      extract_lets posted w
      have posts : FailCounts 0 t posted := by
        unfold posted
        split
        · exact (modCap_counts_none ..).andThen (raiseEvt_counts ..)
        · split
          · exact modCap_counts_none ..
          · exact .refl t
      split
      · exact ((stored.andThen posts).andThen (modCap_counts_none ..)).andThen (raiseEvt_counts ..)
      · exact stored.andThen posts

/-- Site `i` belongs to the vector and one of its judged compares fails (R195). -/
def State.siteFails (s : State) (r : VecRec) (js : List Judged) (i : Nat) : Bool :=
  r.sites.getLsbD i && (siteJudged s i js).any (fun x => x.2.fails ≠ [])

/-- What a site judges rests on registers and on its channel list. -/
theorem FailCounts.siteFails {n : Nat → Nat} {s t : State} (h : FailCounts n s t) (r : VecRec) (js : List Judged) (i : Nat) :
    t.siteFails r js i = s.siteFails r js i := by
  have judged : siteJudged t i js = siteJudged s i js := by
    have reg_eq : t.reg = s.reg := by unfold State.reg; rw [h.regs]
    unfold siteJudged
    rw [h.chans, reg_eq]
  rw [State.siteFails, judged, State.siteFails]

/-- A site counts a vector in which it fails, once (R196). -/
theorem capSite_counts (q : Nat) (r : VecRec) (js : List Judged) (i : Nat) (s : State) :
    FailCounts (Pi.single i (s.siteFails r js i).toNat) s (capSite q r js i s) := by
  have unfailed (h : s.siteFails r js i = false) : FailCounts (Pi.single i (s.siteFails r js i).toNat) s s := by
    simpa [h] using FailCounts.refl s
  unfold capSite
  split
  case isTrue hs => exact unfailed (by simp [State.siteFails, hs])
  case isFalse hs =>
    extract_lets judged bad counted told crossed logged recorded
    refine FailCounts.andThen ?_ (capRaw_counts ..)
    unfold recorded
    split
    case isTrue hb =>
      refine unfailed ?_
      simpa [State.siteFails, bad, judged, List.filter_eq_nil_iff] using fun _ => hb
    case isFalse hb =>
      have fails : s.siteFails r js i = true := by
        simpa [State.siteFails, not_not.1 hs, bad, judged, List.filter_eq_nil_iff] using hb
      rw [fails]
      exact ((((capCounts_counts i r bad s).andThen (cond_counts ..)).andThen (capCross_counts ..)).andThen
        (capLog_counts ..)).andThen (capBitmap_counts ..)

/-- Each of different sites that fails in a vector counts it. -/
theorem foldState_capSite_counts (q : Nat) (r : VecRec) (js : List Judged) {l : List Nat} (hl : l.Nodup) (s : State) :
    FailCounts (fun j => if j ∈ l ∧ s.siteFails r js j then 1 else 0) s (foldState l (capSite q r js) s) := by
  induction l generalizing s with
  | nil =>
    rw [foldState_nil]
    convert FailCounts.refl s using 1
    funext j
    simp
  | cons i l ih =>
    obtain ⟨hi, hl⟩ := List.nodup_cons.1 hl
    have first := capSite_counts q r js i s
    have both := first.trans (ih hl (capSite q r js i s))
    rw [foldState_cons]
    convert both using 1
    funext j
    rw [Pi.add_apply, first.siteFails]
    by_cases hj : j = i
    · subst hj
      cases h : s.siteFails r js j <;> simp [hi]
    · simp [hj]

/-! ### Sites that fail -/

theorem foldl_setBit_getLsbD {w i : Nat} (hi : i < w) (l : List Nat) (m : BitVec w) :
    (l.foldl (fun m j => setBit m j) m).getLsbD i = (m.getLsbD i || decide (i ∈ l)) := by
  induction l generalizing m with
  | nil => simp
  | cons j l ih =>
    rw [List.foldl_cons, ih]
    simp [setBit, hi, Bool.or_assoc]

theorem mem_setBits {w i : Nat} {x : BitVec w} : i ∈ setBits x ↔ i < w ∧ x.getLsbD i = true := by
  simp [setBits]

theorem nodup_setBits {w : Nat} (x : BitVec w) : (setBits x).Nodup := List.nodup_range.filter _

theorem siteMask_getLsbD {i : Nat} (hi : i < 128) (l : List Nat) : (siteMask l).getLsbD i = decide (i ∈ l) := by
  rw [siteMask, foldl_setBit_getLsbD hi]
  simp

theorem failSites_getLsbD {i : Nat} (hi : i < 128) (s : State) (r : VecRec) (js : List Judged) :
    (failSites s r js).getLsbD i = s.siteFails r js i := by
  rw [failSites, siteMask_getLsbD hi, State.siteFails]
  simp only [List.mem_filter, mem_setBits, hi, true_and, Bool.decide_and, Bool.decide_eq_true]

/-! ### The commit of a vector -/

/-- The compares of a vector that are judged outside a maquette run (R195). -/
def State.judged (s : State) (r : VecRec) (obs : List ChanObs) : List Judged :=
  (r.events.filter (fun e => e.mode ≠ 4 ∧ ¬ e.dropped)).map (judgeEvent s (foundRefs s r obs) obs false)

/-- What the channels showed, and what it means, rests on registers. -/
theorem judgeEvent_congr {s t : State} (h : t.regs = s.regs) (found : List (Nat × Int)) (obs : List ChanObs) (maq : Bool)
    (e : StrobeEv) : judgeEvent t found obs maq e = judgeEvent s found obs maq e := by
  have reg_eq : t.reg = s.reg := by unfold State.reg; rw [h]
  unfold judgeEvent State.observed
  rw [reg_eq]

theorem edgeOfs_corrects (j : Option Nat) (s : State) : Corrects s (s.edgeOfs j).2 := by
  unfold State.edgeOfs
  split <;> rfl

theorem stage_corrects (c : Nat) (v : Term) (s : State) : Corrects s (s.stage c v) := by
  unfold State.stage
  dsimp only
  split
  · exact (setStaged_corrects c _ s).trans (enterForce_corrects ..)
  · exact setStaged_corrects c _ s

theorem alignResult_corrects (c : Nat) (a : AlignCnt) (s : State) : Corrects s (alignResult c a s) := by
  unfold alignResult
  extract_lets js top left right found ctr cfg cal restarted v auto f figured
  have finds : Corrects s found := (edgeOfs_corrects _ s).trans (edgeOfs_corrects _ _)
  have restarts : Corrects s restarted := finds.trans rfl
  split
  · have figures : Corrects s figured := restarts.trans rfl
    split
    · exact figures.trans (stage_corrects ..)
    · exact figures
  · exact restarts

theorem alignCount_corrects (e : StrobeEv) (diff : Bool) (s : State) : Corrects s (alignCount e diff s) := by
  unfold alignCount
  dsimp only
  split
  · split
    · exact alignResult_corrects ..
    · rfl
  · rfl

theorem modChan_corrects (c : Nat) (f : Chan → Chan) (s : State) : Corrects s (s.modChan c f) := rfl

theorem chanCounts_corrects (obs : List ChanObs) (e : StrobeEv) (s : State) : Corrects s (chanCounts obs e s) := rfl

/-- Before its sites commit, a vector leaves the vectors in flight and counts what it compared, on channels and in its
sequencer; behind them bursts may end. -/
theorem commitVector_steps {q : Nat} {r : VecRec} {rest : List VecRec} {s : State} (hi : (s.seqAt q).inflight = r :: rest)
    (hr : r.rep = none) (hm : (s.seqAt q).maquette = false) (obs : List ChanObs) :
    ∃ u, FailCounts 0 (s.setSeq q { s.seqAt q with inflight := rest }) u ∧
      EndsOnly (foldState (setBits (s.seqAt q).owned) (capSite q r (s.judged r obs)) u) (commitVector q r obs s) := by
  unfold commitVector
  extract_lets v landed found lostRefs missed evs js compared un tallied fails crossers was sited told
  have drop : landed = s.setSeq q { s.seqAt q with inflight := rest } := by simp only [landed, v, hi, List.drop_one, List.tail_cons]
  have misses : FailCounts 0 landed missed :=
    .foldState_none (fun c u => (modChan_corrects c _ u).counts) lostRefs landed
  have compares : FailCounts 0 missed compared := by
    unfold compared
    split
    · exact .refl _
    · have counted : FailCounts 0 missed (foldState evs (chanCounts obs) missed) :=
        .foldState_none (fun e u => (chanCounts_corrects obs e u).counts) evs missed
      exact counted.andThen (.foldState_none (fun e u => (alignCount_corrects e _ u).counts) evs _)
  have tallies : FailCounts 0 compared tallied := setSeq_counts rfl
  have judged : js = s.judged r obs := by
    refine List.map_congr_left (fun e _ => (judgeEvent_congr misses.regs found obs v.maquette e).trans ?_)
    rw [show v.maquette = false from hm]
    rfl
  refine ⟨tallied, drop ▸ (misses.andThen compares).andThen tallies, ?_⟩
  rw [← judged, if_neg (by simp [hr]), if_neg (by simp [v, hm])]
  have tells : EndsOnly sited told := by
    unfold told
    split
    · exact (setSeq_endsOnly rfl : EndsOnly sited (sited.setFailFlag q)).trans (cond_endsOnly ..)
    · exact .refl _
  split
  · exact tells.trans (endBurst_endsOnly ..)
  · exact tells

/-- Settles O8: the owned sites are visited once each, and what follows them counts nothing. -/
theorem commitCountsFailingVectors : Obligations.CommitCountsFailingVectors := by
  unfold Obligations.CommitCountsFailingVectors
  intro q obs r rest s hi hc hr hm js
  have judged : js = s.judged r obs := rfl
  clear_value js
  subst judged
  obtain ⟨u, before, after⟩ := commitVector_steps hi hr hm obs
  have sites := before.trans (foldState_capSite_counts q r (s.judged r obs) (nodup_setBits (s.seqAt q).owned) u)
  have ends := after.trans (finishIf_endsOnly q (commitVector q r obs s))
  have run : exec (.capCommit q obs) s = .next ((commitVector q r obs s).finishIf q) := by
    change execCapCommit q obs s = _
    simp only [execCapCommit, hi, if_pos hc]
  refine ⟨_, run, ends.hbm.trans sites.hbm, ?inflight, fun i hi => ?count⟩
  case inflight => rw [ends.inflight, sites.inflight, setSeq_seqAt, if_pos rfl]
  case count =>
    have same : u.siteFails r (s.judged r obs) i = s.siteFails r (s.judged r obs) i := before.siteFails ..
    rw [ends.failVec, sites.failVec, setSeq_capAt, failSites_getLsbD hi, ← same]
    simp [mem_setBits, hi]

end Sys2Proof.Machine
end

section
/-! PROOFS. The trigger matrix (R88, R111, R210 to R215, R218): what a write to a unit stores and what it hides from the sample
of its cycle; what a fire does to its own unit, and that its actions leave the units alone. -/
namespace Sys2Proof.Machine

/-! ### Writes to a unit, behind the sample of their cycle (R214, R215, R218) -/

theorem unitWord_of_was {s : State} {u : Nat} {x : UnitWas} (h : s.unitWas u = some x) (k : Nat) :
    unitWord s u k = x.cfg.getD k 0 := by
  simp only [unitWord, h]

theorem keepUnit_frame (s : State) (u : Nat) :
    s.keepUnit u = { s with trg := { s.trg with was := (s.keepUnit u).trg.was } } := by
  unfold State.keepUnit
  split <;> rfl

theorem keepUnit_unitAt (s : State) (u j : Nat) : (s.keepUnit u).unitAt j = s.unitAt j := by
  rw [keepUnit_frame]; rfl

theorem keepUnit_of_was {s : State} {u : Nat} {x : UnitWas} (h : s.unitWas u = some x) : s.keepUnit u = s :=
  if_pos (by simp [h])

/-- A unit about to be written is kept with the words its sample sees. -/
theorem keepUnit_unitWas (s : State) (u : Nat) :
    ∃ x, (s.keepUnit u).unitWas u = some x ∧ ∀ k < 8, x.cfg.getD k 0 = unitWord s u k := by
  cases h : s.unitWas u with
  | some x => exact ⟨x, by rw [keepUnit_of_was h, h], fun k _ => (unitWord_of_was h k).symm⟩
  | none =>
    have unkept : ∀ x ∈ s.trg.was, ¬ (x.u = u ∧ x.edge = s.now) := by
      simpa [State.unitWas, List.find?_eq_none] using h
    have others : (s.trg.was.filter (fun x => x.edge = s.now)).find? (fun x => x.u = u ∧ x.edge = s.now) = none := by
      rw [List.find?_eq_none]
      exact fun x hx => by simpa using unkept x (List.mem_of_mem_filter hx)
    refine ⟨{ edge := s.now, u := u, unit := s.unitAt u,
              cfg := (List.range 8).map (fun k => s.reg pgTrg (0x400 + 0x40 * u + 4 * k)) }, ?_, fun k hk => ?_⟩
    · rw [State.keepUnit, if_neg (by simp [h]), State.unitWas]
      dsimp only
      rw [List.find?_append, others]
      simp
    · simp only [unitWord, h]
      rw [List.getD_eq_getElem _ _ (by simpa using hk)]
      simp

/-- A write to a unit's own state stores that unit, and its sample still sees the words it saw (R215). -/
structure UnitWritten (u : Nat) (v : TrgUnit) (s t : State) : Prop where
  frame : t = { s with trg := t.trg }
  unit : Becomes State.unitAt u v s t
  word : ∀ k < 8, unitWord t u k = unitWord s u k

/-- A kept unit with one more write of the cycle behind it. -/
def UnitWas.noted (x : UnitWas) (u : Nat) (a : UnitAct) : UnitWas := if x.u = u then { x with acts := x.acts ++ [a] } else x

theorem noted_u (x : UnitWas) (u : Nat) (a : UnitAct) : (x.noted u a).u = x.u := by unfold UnitWas.noted; split <;> rfl
theorem noted_edge (x : UnitWas) (u : Nat) (a : UnitAct) : (x.noted u a).edge = x.edge := by
  unfold UnitWas.noted; split <;> rfl
theorem noted_cfg (x : UnitWas) (u : Nat) (a : UnitAct) : (x.noted u a).cfg = x.cfg := by unfold UnitWas.noted; split <;> rfl

theorem unitDo_unitWas {s : State} {u : Nat} {x : UnitWas} (h : (s.keepUnit u).unitWas u = some x) (a : UnitAct) :
    (s.unitDo u a).unitWas u = some (x.noted u a) := by
  have noted : (s.unitDo u a).unitWas u = ((s.keepUnit u).trg.was.map (·.noted u a)).find?
    (fun x => x.u = u ∧ x.edge = (s.keepUnit u).now) := rfl
  rw [noted, List.find?_map]
  simp only [Function.comp_def, noted_u, noted_edge]
  exact congrArg (Option.map (·.noted u a)) h

theorem unitDo_written (s : State) (u : Nat) (a : UnitAct) : UnitWritten u (a.act (s.unitAt u)) s (s.unitDo u a) := by
  have unit (j : Nat) : (s.unitDo u a).unitAt j = if j = u then a.act (s.unitAt u) else s.unitAt j := by
    have stored : (s.unitDo u a).unitAt j = ((s.keepUnit u).setUnit u (a.act ((s.keepUnit u).unitAt u))).unitAt j := rfl
    rw [stored, setUnit_unitAt, keepUnit_unitAt, keepUnit_unitAt]
  have frame : s.unitDo u a = { s.keepUnit u with trg := (s.unitDo u a).trg } := rfl
  refine ⟨frame.trans (by rw [keepUnit_frame]), ⟨by rw [unit, if_pos rfl], fun j hj => by rw [unit, if_neg hj]⟩, fun k hk => ?_⟩
  obtain ⟨x, kept, words⟩ := keepUnit_unitWas s u
  rw [unitWord_of_was (unitDo_unitWas kept a), noted_cfg, words k hk]

/-! ### Commands on a READY page -/

section
variable {u : Nat} {s : State}

/-- ARM of an enabled unit outside hold-off (R214). -/
theorem arm_act {v : TrgUnit} (he : v.enabled = true) (hh : v.inHoldoff = false) : UnitAct.arm.act v = { v with armed := true } := by
  simp [UnitAct.act, he, hh]

/-- EN from 0 to 1: its bit of UCTRL is stored, and the unit written behind the sample (R214, R215, R218). -/
theorem unitEnable_written (h : (s.unitAt u).enabled = false) :
    unitEnable u true s = { s with trg := (unitEnable u true s).trg, regs := (unitEnable u true s).regs } ∧
    Becomes State.unitAt u { enabled := true, armed := true, sampled := (s.unitAt u).sampled } s (unitEnable u true s) ∧
    bit ((unitEnable u true s).reg pgTrg (0x400 + 0x40 * u)) 31 = true ∧
    uctrlAt (unitEnable u true s) u = uctrlAt s u := by
  generalize hw : setBit (s.reg pgTrg (0x400 + 0x40 * u)) 31 = w
  generalize hm : (s.keepUnit u).setReg pgTrg (0x400 + 0x40 * u) w = m
  have unit_eq (j : Nat) : m.unitAt j = s.unitAt j := by rw [← hm, setReg_unitAt, keepUnit_unitAt]
  have run : unitEnable u true s = m.unitDo u (.enable true) := by
    have reg : (s.keepUnit u).reg = s.reg := by rw [keepUnit_frame]; rfl
    simp only [unitEnable, if_true, reg, hw, hm]
    exact if_neg (by simp [unit_eq, h])
  obtain ⟨frame, ⟨self, others⟩, word⟩ := unitDo_written m u (.enable true)
  rw [run]
  refine ⟨?frame, ⟨?self, ?others⟩, ?reg, ?word⟩
  case frame =>
    have base : m = { s with trg := m.trg, regs := m.regs } := by rw [← hm, keepUnit_frame]; rfl
    rw [frame]
    dsimp only
    rw [base]
  case self => rw [self, unit_eq]; rfl
  case others => exact fun j hj => by rw [others j hj, unit_eq]
  case reg =>
    have stored : (m.unitDo u (.enable true)).reg pgTrg (0x400 + 0x40 * u) = w := by
      rw [frame, ← hm]
      exact (setReg_reg ..).trans (if_pos rfl)
    rw [stored, ← hw]
    simp [bit, setBit]
  case word =>
    obtain ⟨x, kept, words⟩ := keepUnit_unitWas s u
    have kept : m.unitWas u = some x := by rw [← hm]; exact kept
    rw [uctrlAt, word 0 (by decide), unitWord_of_was kept, words 0 (by decide), uctrlAt]

/-- FORCE (R210): one HOST condition for each unit named. -/
theorem foldState_host (l : List Nat) (s : State) : foldState l (fun u s => s.cond s.now (.host u)) s =
    { s with trg := { s.trg with conds := s.trg.conds ++ l.map (fun n => (s.now, .host n)) } } := by
  induction l generalizing s with
  | nil => simp
  | cons n l ih =>
    rw [foldState_cons, ih]
    simp [State.cond]

theorem settle_flagsNow (t : Trg) (now : Nat) : (t.settle now).flagsNow = t.flagsNow := by
  unfold Trg.settle
  split
  · have unmasked (x : BitVec 8) : x &&& ~~~ 0 = x := BitVec.and_allOnes
    simp only [Trg.flagsNow, unmasked]
    exact BitVec.or_zero
  · rfl

/-- Sets and clears join those of the cycle; beside them only conditions are added. -/
theorem flagOps_trg (sets clrs : BitVec 8) (e : Nat) (s : State) : (s.flagOps sets clrs e).trg =
    { s.trg.settle s.now with flagSets := (s.trg.settle s.now).flagSets ||| sets, flagClrs := (s.trg.settle s.now).flagClrs ||| clrs,
                              conds := (s.flagOps sets clrs e).trg.conds } := by
  have told (l : List Nat) (u : State) : (foldState l (fun i s => s.cond e (.flag i)) u).trg =
      { u.trg with conds := (foldState l (fun i s => s.cond e (.flag i)) u).trg.conds } :=
    foldState_keeps (fun t => t.trg = { u.trg with conds := t.trg.conds }) _ (fun i t ht => by rw [State.cond, ht]) l u rfl
  exact told _ _

/-- What a read shows behind sets and clears of this cycle (R88). -/
theorem flagOps_flagsNow (sets clrs : BitVec 8) (e : Nat) (s : State) : (s.flagOps sets clrs e).trg.flagsNow =
    ((s.trg.settle s.now).flags &&& ~~~ ((s.trg.settle s.now).flagClrs ||| clrs)) ||| ((s.trg.settle s.now).flagSets ||| sets) := by
  rw [flagOps_trg]
  rfl

theorem flagOps_set (f : BitVec 8) (e : Nat) (s : State) : (s.flagOps f 0 e).trg.flagsNow = s.trg.flagsNow ||| f := by
  rw [flagOps_flagsNow, ← settle_flagsNow s.trg s.now, Trg.flagsNow]
  simp [BitVec.or_assoc]

/-- A clear with no set of the same cycle before it. -/
theorem flagOps_clear (f : BitVec 8) (e : Nat) (h : s.trg.flagEdge < s.now) :
    (s.flagOps 0 f e).trg.flagsNow = s.trg.flagsNow &&& ~~~ f := by
  rw [flagOps_flagsNow, Trg.settle, if_pos h]
  simp [Trg.flagsNow]

end

/-! ### A fire (R211, R212) -/

theorem UnitsStay.refl (s : State) : UnitsStay s s := ⟨rfl, rfl⟩

theorem setSeq_unitsStay (s : State) (q : Nat) (v : Seq) : UnitsStay s (s.setSeq q v) := ⟨rfl, rfl⟩

theorem raiseEvt_unitsStay (p : Nat) (b : Word32) (s : State) : UnitsStay s (s.raiseEvt p b) := by
  constructor <;> rw [raiseEvt_frame]

theorem undirect_unitsStay (q : Nat) (s : State) : UnitsStay s (s.undirect q) := by
  unfold State.undirect
  dsimp only
  split <;> exact ⟨rfl, rfl⟩

theorem redirectLead_unitsStay (q : Nat) (s : State) : UnitsStay s (s.redirectLead q) := by
  constructor <;> rw [(redirectLead_redirects q s).frame]

theorem putJump_unitsStay (q : Nat) (j : JumpReq) (old : Bool) (s : State) : UnitsStay s (s.putJump q j old) := by
  unfold State.putJump
  extract_lets behind asked
  have clears : UnitsStay s behind := by
    unfold behind
    split
    · exact undirect_unitsStay q s
    · exact .refl s
  have asks : UnitsStay s asked := clears.trans (setSeq_unitsStay ..)
  split
  · exact (asks.trans (setSeq_unitsStay ..)).trans (redirectLead_unitsStay ..)
  · exact asks

theorem jumpRequest_unitsStay (q slot src : Nat) (s : State) : UnitsStay s (s.jumpRequest q slot src) := by
  unfold State.jumpRequest
  dsimp only
  split
  · exact .refl s
  · split
    · exact setSeq_unitsStay ..
    · split
      · exact putJump_unitsStay ..
      · split
        · exact setSeq_unitsStay ..
        · exact putJump_unitsStay ..

theorem captureTrigger_unitsStay (i : Nat) (s : State) : UnitsStay s (captureTrigger i s) := by
  unfold captureTrigger
  extract_lets v ring here cut base isRec queue first mark placed done stored told
  have stores : UnitsStay s stored := ⟨rfl, rfl⟩
  have tells : UnitsStay stored told := by
    unfold told
    split
    · exact raiseEvt_unitsStay ..
    · exact .refl _
  split
  · exact (stores.trans tells).trans (raiseEvt_unitsStay ..)
  · exact stores.trans tells

theorem sendXt_frame (s : State) : s.sendXt = { s with outbox := s.sendXt.outbox } := by
  refine foldState_keeps (fun t => t = { s with outbox := t.outbox }) _ (fun p u hu => ?_) _ s rfl
  split
  · rw [hu]; rfl
  · exact hu

theorem assertXt_unitsStay (mask : BitVec 8) (s : State) : UnitsStay s (s.assertXt mask) := by
  unfold State.assertXt
  dsimp only
  constructor <;> rw [sendXt_frame]

theorem flagOps_unitsStay (sets clrs : BitVec 8) (e : Nat) (s : State) : UnitsStay s (s.flagOps sets clrs e) := by
  have settled : (s.trg.settle s.now).units = s.trg.units := by unfold Trg.settle; split <;> rfl
  exact ⟨by rw [flagOps_frame], by rw [flagOps_trg]; exact settled⟩

/-- The actions of a fire leave the units alone: what they bring about counts in the next cycle. -/
theorem fireActions_unitsStay (u : Nat) (a : BitVec 8) (s : State) : UnitsStay s (fireActions u a s) := by
  have either {c : Prop} [Decidable c] {r t : State} (h : UnitsStay r t) : UnitsStay r (if c then t else r) := by
    split
    · exact h
    · exact .refl r
  unfold fireActions
  extract_lets p q out stopped jumped flagged captured pulsed asserted
  have stops : UnitsStay s stopped := either (endBurst_endsOnly ..).toUnitsStay
  have jumps : UnitsStay stopped jumped := either (jumpRequest_unitsStay ..)
  have flags : UnitsStay jumped flagged := either (setSeq_unitsStay ..)
  have captures : UnitsStay flagged captured := either
    (foldState_keeps (UnitsStay flagged) _ (fun i t h => h.trans (captureTrigger_unitsStay i t)) _ _ (.refl flagged))
  have pulses : UnitsStay captured pulsed := either ⟨rfl, rfl⟩
  have asserts : UnitsStay pulsed asserted := either (assertXt_unitsStay ..)
  exact (((((stops.trans jumps).trans flags).trans captures).trans pulses).trans asserts).trans (either (flagOps_unitsStay ..))

/-- A fire stores its unit: cause, count, hold-off, and disarmed unless it re-arms (R211, R213, R214). -/
theorem fireUnit_stores (u : Nat) (m : BitVec 4) (s : State) : ∃ v : TrgUnit, UnitsStay (s.setUnit u v) (fireUnit u m s) ∧
    v.causeMask = m ∧ v.fireCount = sat32 ((s.unitAt u).fireCount + 1) ∧
    v.armed = ((s.unitAt u).armed && !bit (uctrlAt s u) 25) ∧ v.inHoldoff = bit (uctrlAt s u) 0 := by
  unfold fireUnit
  extract_lets w v act ho fired
  have told : UnitsStay (s.setUnit u fired) ((s.setUnit u fired).cond (s.now + 1) (.unit u)) := ⟨rfl, rfl⟩
  exact ⟨fired, told.trans (fireActions_unitsStay ..), rfl, rfl, rfl, rfl⟩

section
variable {u : Nat} {s : State}

theorem sampleUnit_fires (hw : s.unitWas u = none) (he : bit (uctrlAt s u) 31 = true) (ha : (s.unitAt u).armed = true)
    (hh : (s.unitAt u).inHoldoff = false) (hs : (s.unitAt u).sampled ≠ s.now + 1) (hm : condMask u s ≠ 0) :
    sampleUnit u s = fireUnit u (condMask u s) s := by
  have held : holdoffOver u s = false := by simp [holdoffOver, hh]
  have some_true : ¬ condMask u s = 0#4 := hm
  simp [sampleUnit, hw, sampleHere, held, he, ha, hh, hs, some_true]

end

/-- Settles O11: a write to a unit stores that unit behind the sample of its cycle, and a fire's actions leave the units alone. -/
theorem triggerUnits : Obligations.TriggerUnits := by
  unfold Obligations.TriggerUnits
  refine ⟨fun u units f s hr => ⟨?enable, ?arm, ?force, ?flagSet, ?flagClear⟩,
    fun u line x s => ⟨?fire, ?holdoff, ?pulse, ?xt⟩⟩
  case enable =>
    intro he
    have run : exec (.unitEnable u) s = .next (unitEnable u true s) := congrArg _ (whenReady_of_ready _ hr)
    exact ⟨_, run, unitEnable_written he⟩
  case arm =>
    intro he hh
    have run : exec (.unitArm u) s = .next (s.unitDo u .arm) := congrArg _ (whenReady_of_ready _ hr)
    obtain ⟨frame, unit, word⟩ := unitDo_written s u .arm
    exact ⟨_, run, frame, arm_act he hh ▸ unit, word 0 (by decide)⟩
  case force =>
    have run : exec (.force units) s = .next (foldState (setBits units) (fun u s => s.cond s.now (.host u)) s) :=
      congrArg _ (whenReady_of_ready _ hr)
    exact ⟨_, run, by rw [foldState_host], by rw [foldState_host]⟩
  case flagSet =>
    have run : exec (.flagSet f) s = .next (s.flagOps f 0 s.now) := congrArg _ (whenReady_of_ready _ hr)
    exact ⟨_, run, flagOps_frame .., flagOps_set ..⟩
  case flagClear =>
    intro he
    have run : exec (.flagClear f) s = .next (s.flagOps 0 f s.now) := congrArg _ (whenReady_of_ready _ hr)
    exact ⟨_, run, flagOps_frame .., flagOps_clear f _ he⟩
  case fire =>
    intro hw he ha hh hs hm
    obtain ⟨v, stay, mask, count, armed, holds⟩ := fireUnit_stores u (condMask u s) s
    have run : exec (.triggerFire u) s = .next (fireUnit u (condMask u s) s) := congrArg _ (sampleUnit_fires hw he ha hh hs hm)
    have self : (fireUnit u (condMask u s) s).unitAt u = v := by rw [stay.unitAt, setUnit_unitAt, if_pos rfl]
    rw [ha, Bool.true_and] at armed
    refine ⟨_, run, by rw [self, mask], by rw [self, count], by rw [self, armed], by rw [self, holds], stay.hbm, fun j hj => ?_⟩
    rw [stay.unitAt, setUnit_unitAt, if_neg hj]
  case holdoff =>
    intro hover
    have run : exec (.holdoffEnd u) s = .next (s.setUnit u (s.unitAt u).endHoldoff) := congrArg _ (if_pos hover)
    exact ⟨_, run, rfl, by rw [setUnit_unitAt, if_pos rfl]; rfl, fun j hj => by rw [setUnit_unitAt, if_neg hj]⟩
  case pulse => exact fun high due => congrArg _ (if_pos ⟨high, due⟩)
  case xt =>
    intro high due
    have run : exec (.xtAssertEnd x) s =
        .next ({ s with trg := { s.trg with xtOut := clrBit s.trg.xtOut x } } : State).sendXt := by
      change execXtAssertEnd x s = _
      rw [execXtAssertEnd]
      dsimp only
      rw [if_pos ⟨high, due⟩]
    exact ⟨_, run, sendXt_frame _⟩

end Sys2Proof.Machine
end

section
/-! PROOFS. Worker instructions (R224 to R226, R229): an instruction of the engine's program runs its row of the table and
stores the boundary behind it, from which the arithmetic instructions and the branches follow. -/
namespace Sys2Proof.Machine

/-! ### Stores to one engine -/

@[simp] theorem setWe_setWe (s : State) (k : Nat) (v w : We) : (s.setWe k v).setWe k w = s.setWe k w := by
  simp only [State.setWe, sput_sput]

@[simp] theorem setReg_limitHit (w : We) (r : Nat) (v : Word64) : (w.setReg r v).limitHit = w.limitHit := by
  unfold We.setReg
  split <;> rfl

/-- A general register other than G0 reads what was written (R224). -/
theorem setReg_reg_self (w : We) {r : Nat} (v : Word64) (hr : r ≠ 0) : (w.setReg r v).reg r = v := by
  simp only [We.setReg, We.reg, if_neg hr, sget_sput, if_true]

/-- Whether an abort is due rests on the executor slots and the cycle (R231). -/
theorem abortDue_congr {s t : State} (h : t.sch.execs = s.sch.execs) (hn : t.now = s.now) (x : Nat) :
    t.abortDue x = s.abortDue x := by
  simp only [State.abortDue, State.execAt, h, hn]

/-! ### An instruction and the boundary behind it -/

section
variable {c : Instr} {code : Nat} {e : Fin 24} {f : WInstr → We → State → WeOut} {i : WInstr} {s u : State} {w : We}
  {n : Nat}

/-- An instruction of the table that is next at the engine does its row of the table (R225). -/
theorem weExec_of_atInstr (h : AtInstr e code i s) (hc : weOpcodes.contains code = true) :
    weExec code e f s = .next (s.weBoundary e (f i (s.weAt e) s)) := by
  have entry : (s.weAt e).entry code = some (fld (vendorWord code) 0 14) := by
    simp only [We.entry, h.noStore, List.any_nil, hc, if_true, Bool.false_eq_true, if_false]
  simp only [weExec, h.runs, Nat.not_le.2 h.inRange, h.fetch, h.opcode, h.reserved, entry, weRun, h.noStore, not_true,
    if_false, if_true, ne_eq, and_false]

/-- A boundary with no abort and no time limit due: the engine goes on (R229). -/
theorem weBoundary_go (ha : u.abortDue e = false) (hl : (u.weAt e).limitHit = false) :
    s.weBoundary e (.go n u) = u.setWe e ((u.weAt e).atBoundary n u.now) := by
  have abort (v : We) : (u.setWe e v).abortDue e = false := (abortDue_congr rfl rfl e).trans ha
  simp [State.weBoundary, abort, hl, We.atBoundary]

/-- An instruction that goes on at index `n` with state `u` leaves the engine at the boundary before `n`. -/
theorem exec_of_go (h : AtInstr e code i s) (run : exec c s = weExec code e f s) (hc : weOpcodes.contains code = true)
    (go : f i (s.weAt e) s = .go n u) (now : u.now = s.now) (execs : u.sch.execs = s.sch.execs)
    (limit : (u.weAt e).limitHit = (s.weAt e).limitHit) :
    exec c s = .next (u.setWe e ((u.weAt e).atBoundary n s.now)) := by
  have no_abort : u.abortDue e = false := (abortDue_congr execs now e).trans h.noAbort
  rw [run, weExec_of_atInstr h hc, go, weBoundary_go no_abort (limit.trans h.noLimit), now]

/-- One whose only effect is what it stores to its own engine. -/
theorem WeGoes.of_setWe (h : AtInstr e code i s) (run : exec c s = weExec code e f s) (hc : weOpcodes.contains code = true)
    (go : f i (s.weAt e) s = .go n (s.setWe e w)) (limit : w.limitHit = (s.weAt e).limitHit) : WeGoes c e w n s := by
  refine ⟨_, exec_of_go h run hc go rfl rfl (by simpa using limit), rfl, by simp, fun j hj => by simp [hj]⟩

/-- One without an effect of its own. -/
theorem WeGoes.of_same (h : AtInstr e code i s) (run : exec c s = weExec code e f s) (hc : weOpcodes.contains code = true)
    (go : f i (s.weAt e) s = .go n s) : WeGoes c e (s.weAt e) n s :=
  ⟨_, exec_of_go h run hc go rfl rfl rfl, rfl, by simp, fun j hj => by simp [hj]⟩

/-! ### Arithmetic and logic (R224, R225) -/

/-- The engine behind an arithmetic instruction: RD, Z and N take the result, C the carry, and Q stays (R224). -/
def We.result (w : We) (rd : Nat) (r : Word64) (carry : Bool) : We :=
  { w.setReg rd r with flags := { z := decide (r = 0), n := r.getLsbD 63, c := carry, q := w.flags.q } }

variable {g : Word64 → Word64 → Word64} {fl : WeFlags → Word64 → Word64 → WeFlags}

/-- An arithmetic instruction takes its operands from RA and from RB or IMM. -/
theorem aluOp_goes (h : AtInstr e code i s) (run : exec c s = weExec code e (aluOp e g fl) s)
    (hc : weOpcodes.contains code = true) {r : Word64} {carry : Bool} (hr : g ((s.weAt e).reg i.ra) ((s.weAt e).opB i) = r)
    (hf : fl (s.weAt e).flags ((s.weAt e).reg i.ra) ((s.weAt e).opB i) =
      { z := decide (r = 0), n := r.getLsbD 63, c := carry, q := (s.weAt e).flags.q }) :
    WeGoes c e ((s.weAt e).result i.rd r carry) ((s.weAt e).idx + 1) s :=
  .of_setWe h run hc (by rw [aluOp, hr, hf]; rfl) (setReg_limitHit ..)

/-- One that clears C. -/
theorem alu_goes (h : AtInstr e code i s) (run : exec c s = alu code e g s) (hc : weOpcodes.contains code = true)
    {r : Word64} (hr : g ((s.weAt e).reg i.ra) ((s.weAt e).opB i) = r) :
    WeGoes c e ((s.weAt e).result i.rd r false) ((s.weAt e).idx + 1) s :=
  aluOp_goes h run hc hr (by rw [plainFlags, hr]; rfl)

end

theorem shAmt_eq (b : Word64) : shAmt b = (b &&& 63).toNat := by
  have low : (b &&& 63).toNat = b.toNat % 2 ^ 6 := by
    rw [BitVec.toNat_and]
    exact Nat.and_two_pow_sub_one_eq_mod b.toNat 6
  rw [low]
  rfl

theorem ofNat_min (a b : Word64) : (if a.toNat ≤ b.toNat then a else b) = BitVec.ofNat 64 (min a.toNat b.toNat) := by
  rw [min_def]
  split <;> simp

theorem ofNat_max (a b : Word64) : (if a.toNat ≤ b.toNat then b else a) = BitVec.ofNat 64 (max a.toNat b.toNat) := by
  rw [max_def]
  split <;> simp

/-- Settles O18: each instruction is its row of the table between the fetch and the boundary. -/
theorem workerArithmetic : Obligations.WorkerArithmetic := by
  unfold Obligations.WorkerArithmetic
  refine ⟨fun e i s => ⟨?add, ?sub, ?and, ?or, ?xor, ?shl, ?shr, ?sar, ?mul, ?min, ?max, ?cmp, ?popc, ?ctz⟩,
    fun e i s => ⟨?bitx, ?ldi, ?ldih, ?time⟩⟩
  case add => exact fun h => aluOp_goes h rfl rfl rfl rfl
  case sub => exact fun h => aluOp_goes h rfl rfl rfl rfl
  case and => exact fun h => alu_goes h rfl rfl rfl
  case or => exact fun h => alu_goes h rfl rfl rfl
  case xor => exact fun h => alu_goes h rfl rfl rfl
  case shl => exact fun h => alu_goes h rfl rfl (by rw [shAmt_eq])
  case shr => exact fun h => alu_goes h rfl rfl (by rw [shAmt_eq])
  case sar => exact fun h => alu_goes h rfl rfl (by rw [shAmt_eq])
  case mul => exact fun h => alu_goes h rfl rfl rfl
  case min => exact fun h => alu_goes h rfl rfl (by rw [ofNat_min])
  case max => exact fun h => alu_goes h rfl rfl (by rw [ofNat_max])
  case cmp => exact fun h => .of_setWe h rfl rfl rfl rfl
  case popc => exact fun h => alu_goes h rfl rfl rfl
  case ctz => exact fun h => alu_goes h rfl rfl rfl
  case bitx => exact fun h => .of_setWe h rfl rfl rfl (by simp)
  case ldi => exact fun h => .of_setWe h rfl rfl rfl (by simp)
  case ldih => exact fun h => .of_setWe h rfl rfl rfl (by simp)
  case time => exact fun h => .of_setWe h rfl rfl rfl (by simp)

/-- Settles O19: a branch names the index the engine goes on at. -/
theorem workerBranches : Obligations.WorkerBranches := by
  unfold Obligations.WorkerBranches
  refine fun e i s => ⟨?br, ?call, ?ret, ?djnz, ?djnzZero⟩
  case br =>
    intro b h taken
    exact .of_same h rfl rfl (by simp only [taken]; rfl)
  case call => exact fun h => .of_setWe h rfl rfl rfl (by simp)
  case ret => exact fun h => .of_same h rfl rfl rfl
  case djnz =>
    intro h hra
    refine .of_setWe h rfl rfl ?_ (by simp)
    have used_up : (s.weAt e).reg i.ra - 1 ≠ 0 ↔ (s.weAt e).reg i.ra ≠ 1 := not_congr sub_eq_zero
    simp only [setReg_reg_self _ _ hra, used_up, ite_not]
    rfl
  case djnzZero =>
    intro h hra
    refine .of_setWe h rfl rfl ?_ rfl
    simp [We.setReg, We.reg, hra]

end Sys2Proof.Machine
end

section
/-! PROOFS. Worker instructions at local memory and HBM (R220 to R222, R225, R226, R231): loads, stores, transfers, HWAIT and
DONE. -/
namespace Sys2Proof.Machine

/-! ### Local memory (R220) -/

theorem leNat_lt (l : List Byte) : leNat l < 256 ^ l.length := by
  induction l with
  | nil => simp [leNat]
  | cons b t ih =>
    have byte := b.isLt
    simp only [leNat, List.length_cons, pow_succ]
    omega

@[simp] theorem mread_length (m : List Host.Cell) (a n : Nat) : (mread m a n).length = n := by
  induction n generalizing a with
  | zero => rfl
  | succ n ih => simp [mread, ih]

theorem mreadLe_lt (m : List Host.Cell) (a n : Nat) : mreadLe m a n < 256 ^ n := by
  simpa [mreadLe] using leNat_lt (mread m a n)

/-- A load of up to 8 bytes is the number they hold. -/
theorem load_toNat (w : We) (a : Nat) {n : Nat} (hn : n ≤ 8) : (w.load a n).toNat = mreadLe w.lm a n := by
  have bound : 256 ^ n ≤ 2 ^ 64 := Nat.pow_le_pow_right (by decide) hn
  rw [We.load, BitVec.toNat_ofNat, Nat.mod_eq_of_lt ((mreadLe_lt w.lm a n).trans_le bound)]

/-- A legal access: aligned, inside local memory, and outside the program region when it stores (R220). -/
theorem lmCheck_none {a n al : Nat} {store : Bool} (hr : a + n ≤ 0x80000) (ha : a % al = 0)
    (hs : store = true → 0x10000 ≤ a) : lmCheck a n al store = none := by
  have inside : ¬ (a + n > lmBytes ∨ (store = true ∧ a < lmProgram)) := by
    rintro (h | ⟨h, h'⟩)
    · exact absurd hr (Nat.not_le.2 h)
    · exact absurd (hs h) (Nat.not_le.2 h')
  rw [lmCheck, if_neg inside, if_neg (not_not.2 ha)]

section
variable {c : Instr} {code : Nat} {e : Fin 24} {i : WInstr} {s : State}

theorem load_goes {n : Nat} (h : AtInstr e code i s) (run : exec c s = weExec code e (loadOp e n) s)
    (hc : weOpcodes.contains code = true) (hr : (s.weAt e).ea i + n ≤ 0x80000) (ha : (s.weAt e).ea i % n = 0) :
    WeGoes c e ((s.weAt e).setReg i.rd (BitVec.ofNat 64 (mreadLe (s.weAt e).lm ((s.weAt e).ea i) n)))
      ((s.weAt e).idx + 1) s :=
  .of_setWe h run hc (by rw [loadOp, lmCheck_none (store := false) hr ha nofun]; rfl) (setReg_limitHit ..)

theorem store_goes {n : Nat} (h : AtInstr e code i s) (run : exec c s = weExec code e (storeOp e n) s)
    (hc : weOpcodes.contains code = true) (hr : (s.weAt e).ea i + n ≤ 0x80000) (ha : (s.weAt e).ea i % n = 0)
    (hp : 0x10000 ≤ (s.weAt e).ea i) :
    WeGoes c e ((s.weAt e).store ((s.weAt e).ea i) n ((s.weAt e).reg i.rb)) ((s.weAt e).idx + 1) s :=
  .of_setWe h run hc (by rw [storeOp, lmCheck_none hr ha fun _ => hp]) rfl

/-! ### Transfers (R221) -/

/-- The transfer an instruction asks for: HBM at RA, local memory at RD, length RB, tag IMM[3:0]. -/
def We.transferOf (w : We) (i : WInstr) (write : Bool) : Transfer :=
  { tag := fld i.imm 0 4, write := write, lm := (w.reg i.rd).toNat, hbm := (w.reg i.ra).toNat, len := (w.reg i.rb).toNat }

/-- A transfer an engine may submit: sizes, alignment and addresses as R221 asks, on a free tag. -/
structure We.MaySubmit (w : We) (t : Transfer) : Prop where
  operands : 64 ≤ t.len ∧ t.len ≤ 65536 ∧ t.len % 64 = 0 ∧ t.lm % 64 = 0 ∧ t.hbm % 64 = 0
  inside : t.lm + t.len ≤ 0x80000
  program : t.write = false → 0x10000 ≤ t.lm
  free : ∀ x ∈ w.transfers, x.tag ≠ t.tag

/-- A legal transfer meets no fault: the room of the WE port alone decides. -/
theorem submitCore_legal {t : Transfer} (h : (s.weAt e).MaySubmit t) : submitCore e t.write t.lm t.hbm t.len t.tag s =
    if s.portFull 5 then
      .ok (true, (s.setWe e { s.weAt e with hbmRefused := sat32 ((s.weAt e).hbmRefused + 1) }).portRefuses 5)
    else .ok (false, s.setWe e { s.weAt e with transfers := (s.weAt e).transfers ++ [t] }) := by
  have operands : ¬ (t.len < 64 ∨ t.len > 65536 ∨ t.len % 64 ≠ 0 ∨ t.lm % 64 ≠ 0 ∨ t.hbm % 64 ≠ 0) := by
    have := h.operands
    omega
  have range : ¬ (t.lm + t.len > lmBytes ∨ (¬ t.write = true ∧ t.lm < lmProgram)) := by
    rintro (out | ⟨read, low⟩)
    · exact absurd h.inside (Nat.not_le.2 out)
    · exact absurd (h.program (by simpa using read)) (Nat.not_le.2 low)
  have tag_free : ¬ (s.weAt e).transfers.any (fun x => x.tag = t.tag) = true := by simpa using h.free
  rw [submitCore, if_neg operands, if_neg range, if_neg tag_free]

/-- With room in the port the transfer is outstanding and Q is clear. -/
theorem submitTransfer_accepted {t : Transfer} (w : We) (h : (s.weAt e).MaySubmit t) (room : s.portFull 5 = false) :
    submitTransfer e t.write t.lm t.hbm t.len t.tag w s = .go (w.idx + 1) (s.setWe e { s.weAt e with
      flags := { (s.weAt e).flags with q := false }, transfers := (s.weAt e).transfers ++ [t] }) := by
  rw [submitTransfer, submitCore_legal h, if_neg (by simp [room])]
  simp [State.setQ]

@[simp] theorem portRefuses_weAt (q j : Nat) : (s.portRefuses q).weAt j = s.weAt j := rfl

theorem setWe_portRefuses (k q : Nat) (v : We) : (s.setWe k v).portRefuses q = (s.portRefuses q).setWe k v := rfl

/-- With none it is refused: Q is set, and engine and port count it (R221, R344). -/
theorem submitTransfer_refused {t : Transfer} (w : We) (h : (s.weAt e).MaySubmit t) (full : s.portFull 5 = true) :
    submitTransfer e t.write t.lm t.hbm t.len t.tag w s = .go (w.idx + 1) ((s.portRefuses 5).setWe e { s.weAt e with
      flags := { (s.weAt e).flags with q := true }, hbmRefused := sat32 ((s.weAt e).hbmRefused + 1) }) := by
  rw [submitTransfer, submitCore_legal h, if_pos full, setWe_portRefuses]
  simp [State.setQ]

/-- HRD and HWR submit the transfer their operands name. -/
structure Transfers (c : Instr) (code : Nat) (e : Fin 24) (write : Bool) : Prop where
  listed : weOpcodes.contains code = true
  runs : ∀ s, exec c s = weExec code e (fun i w s =>
    submitTransfer e write (w.reg i.rd).toNat (w.reg i.ra).toNat (w.reg i.rb).toNat (fld i.imm 0 4) w s) s

theorem hrd_transfers (e : Fin 24) : Transfers (.hrd e) 0x40 e false := ⟨rfl, fun _ => rfl⟩
theorem hwr_transfers (e : Fin 24) : Transfers (.hwr e) 0x41 e true := ⟨rfl, fun _ => rfl⟩

section
variable {write : Bool} (h : AtInstr e code i s) (hc : Transfers c code e write)
  (legal : (s.weAt e).MaySubmit ((s.weAt e).transferOf i write))
include h hc legal

/-- With room in the port the transfer is outstanding and Q is clear. -/
theorem transfer_accepted (room : s.portFull 5 = false) : WeGoes c e { s.weAt e with
    flags := { (s.weAt e).flags with q := false },
    transfers := (s.weAt e).transfers ++ [(s.weAt e).transferOf i write] } ((s.weAt e).idx + 1) s :=
  .of_setWe h (hc.runs s) hc.listed (submitTransfer_accepted _ legal room) rfl

/-- With none it is refused: Q is set, and engine and port count it (R221, R344). -/
theorem transfer_refused (full : s.portFull 5 = true) :
    ∃ t, exec c s = .next t ∧ t = { s with we := t.we, hmc := { s.hmc with ports := t.hmc.ports } } ∧
      Becomes State.weAt e (We.atBoundary { s.weAt e with
        flags := { (s.weAt e).flags with q := true }, hbmRefused := sat32 ((s.weAt e).hbmRefused + 1) }
          ((s.weAt e).idx + 1) s.now) s t := by
  have ran := exec_of_go h (hc.runs s) hc.listed (submitTransfer_refused _ legal full) rfl rfl (by simp)
  exact ⟨_, ran, rfl, by simp, fun j hj => by simp [hj]⟩

end

/-! ### HWAIT and DONE (R222, R226, R231) -/

/-- The greatest of the values of a list, 0 of none. -/
theorem foldl_max_spec (f : Nat → Nat) (l : List Nat) (m : Nat) :
    let v := l.foldl (fun m t => max m (f t)) m
    m ≤ v ∧ (∀ t ∈ l, f t ≤ v) ∧ (v = m ∨ ∃ t ∈ l, f t = v) := by
  induction l generalizing m with
  | nil => simp
  | cons t l ih =>
    obtain ⟨above, all, some⟩ := ih (max m (f t))
    refine ⟨(le_max_left ..).trans above, List.forall_mem_cons.2 ⟨(le_max_right ..).trans above, all⟩, ?_⟩
    rcases some with eq | ⟨x, hx, eq⟩
    · rcases max_choice m (f t) with hm | ht
      · exact .inl (eq.trans hm)
      · exact .inr ⟨t, List.mem_cons_self, (eq.trans ht).symm⟩
    · exact .inr ⟨x, List.mem_cons_of_mem t hx, eq⟩

/-- The status HWAIT answers: the highest over the tags its mask names (R222). -/
def We.waitStatus (w : We) (mask : Word32) : Nat :=
  ((List.range 16).filter (fun t => mask.getLsbD t)).foldl (fun m t => max m (sget 0 w.tagStat t)) 0

theorem waitStatus_spec (w : We) (mask : Word32) :
    (∀ t < 16, mask.getLsbD t = true → sget 0 w.tagStat t ≤ w.waitStatus mask) ∧
    (w.waitStatus mask = 0 ∨ ∃ t < 16, mask.getLsbD t = true ∧ sget 0 w.tagStat t = w.waitStatus mask) := by
  obtain ⟨-, all, some⟩ := foldl_max_spec (sget 0 w.tagStat) ((List.range 16).filter (fun t => mask.getLsbD t)) 0
  refine ⟨fun t ht hm => all t (by simp [ht, hm]), some.imp id ?_⟩
  rintro ⟨t, ht, eq⟩
  rw [List.mem_filter, List.mem_range] at ht
  exact ⟨t, ht.1, ht.2, eq⟩

theorem hwait_goes (h : AtInstr e 0x42 i s) (free : ∀ t ∈ (s.weAt e).transfers, i.imm.getLsbD t.tag = false) :
    WeGoes (.hwait e) e ((s.weAt e).setReg i.rd (BitVec.ofNat 64 ((s.weAt e).waitStatus i.imm))) ((s.weAt e).idx + 1) s := by
  have none_waits : ¬ (s.weAt e).transfers.any (fun t => i.imm.getLsbD t.tag) = true := by simpa using free
  exact .of_setWe h rfl rfl (if_neg none_waits) (setReg_limitHit ..)

/-- What the scheduler is told of the end of a task (R231, R244). -/
theorem weEnd_done {u : State} {p : BitVec 8} {v : Word64} (ht : (u.weAt e).transfers = []) : u.weEnd e (.done p v) =
    (u.setWe e { u.weAt e with ending := some (.done p v) }).setExec e
      { u.execAt e with ended := some (.complete, p.toNat, v.toNat) } := by
  simp [State.weEnd, State.weFinish, ht]

theorem done_ends (h : AtInstr e 0x50 i s) (ht : (s.weAt e).transfers = []) : ∃ t, exec (.doneTask e) s = .next t ∧
    t = { s with we := t.we, sch := { s.sch with execs := t.sch.execs } } ∧
    Becomes State.weAt e { (s.weAt e).atBoundary (s.weAt e).idx s.now with
      ending := some (.done (i.imm.extractLsb' 0 8) ((s.weAt e).reg i.ra)) } s t ∧
    Becomes State.execAt e { s.execAt e with
      ended := some (.complete, i.imm.toNat % 256, ((s.weAt e).reg i.ra).toNat) } s t := by
  have finish : s.weBoundary e (.finish (.done (i.imm.extractLsb' 0 8) ((s.weAt e).reg i.ra)) s) =
      (s.setWe e ((s.weAt e).atBoundary (s.weAt e).idx s.now)).weEnd e
        (.done (i.imm.extractLsb' 0 8) ((s.weAt e).reg i.ra)) := by
    simp [State.weBoundary, h.noAbort, We.atBoundary]
  have run : exec (.doneTask e) s = .next _ := weExec_of_atInstr h rfl
  rw [if_neg (not_not.2 ht), finish, weEnd_done (by simpa [We.atBoundary] using ht)] at run
  refine ⟨_, run, rfl, ⟨by simp, fun j hj => by simp [hj]⟩, by simp, fun j hj => by simp [hj]⟩

end

/-- Settles O20: legal accesses meet no fault, a transfer asks only for room in its port, and HWAIT and DONE find nothing
outstanding. -/
theorem workerLoadsStoresAndTransfers : Obligations.WorkerLoadsStoresAndTransfers := by
  unfold Obligations.WorkerLoadsStoresAndTransfers
  refine ⟨fun e i s => ⟨?ld, ?ldh, ?st, ?sth⟩, fun e i s => ⟨?hrd, ?hwr, ?hrdRefused, ?hwrRefused, ?hwait, ?done⟩⟩
  case ld => exact fun h fits => load_goes h rfl rfl fits.1 fits.2
  case ldh => exact fun h fits => load_goes h rfl rfl fits.1 fits.2
  case st => exact fun h fits hp => store_goes h rfl rfl fits.1 fits.2 hp
  case sth => exact fun h fits hp => store_goes h rfl rfl fits.1 fits.2 hp
  case hwait => exact fun h free => ⟨_, hwait_goes h free, waitStatus_spec ..⟩
  case done => exact done_ends
  case hrd =>
    intro h ⟨h1, h2, h3, h4, h5, inside, free⟩ hp room
    exact transfer_accepted h (hrd_transfers e) ⟨⟨h1, h2, h3, h4, h5⟩, inside, fun _ => hp, free⟩ room
  case hwr =>
    intro h ⟨h1, h2, h3, h4, h5, inside, free⟩ room
    exact transfer_accepted h (hwr_transfers e) ⟨⟨h1, h2, h3, h4, h5⟩, inside, nofun, free⟩ room
  case hrdRefused =>
    intro h ⟨h1, h2, h3, h4, h5, inside, free⟩ hp full
    exact transfer_refused h (hrd_transfers e) ⟨⟨h1, h2, h3, h4, h5⟩, inside, fun _ => hp, free⟩ full
  case hwrRefused =>
    intro h ⟨h1, h2, h3, h4, h5, inside, free⟩ full
    exact transfer_refused h (hwr_transfers e) ⟨⟨h1, h2, h3, h4, h5⟩, inside, nofun, free⟩ full

end Sys2Proof.Machine
end

section
/-! PROOFS. The repair primitives and POST (R223, R225, R241, R242): what each finds in local memory, and the
entry a POST takes. -/
namespace Sys2Proof.Machine

/-! ### Bitmap words and line counters (R225) -/

section
variable {e : Fin 24} {i : WInstr} {s : State} {w : We}

/-- A doubleword loads as 0 where its 8 bytes are 0. -/
theorem load_eq_zero (w : We) (a : Nat) : w.load a 8 = 0#64 ↔ mreadLe w.lm a 8 = 0 := by
  rw [← BitVec.toNat_inj, load_toNat w a le_rfl, BitVec.toNat_zero]

/-- BMSCAN stops at the first non-zero word. -/
theorem bmscan_found {k : Nat} (hk : k < 8) (word : mreadLe w.lm ((w.reg i.ra).toNat + 8 * k) 8 ≠ 0)
    (before : ∀ j < k, mreadLe w.lm ((w.reg i.ra).toNat + 8 * j) 8 = 0) : bmscan i w =
      { w.setReg i.rd (BitVec.ofNat 64 ((w.reg i.ra).toNat + 8 * k)) with flags := { w.flags with z := false } } := by
  have first : (List.range 8).find? (fun k => w.load ((w.reg i.ra).toNat + 8 * k) 8 ≠ 0) = some k :=
    List.find?_range_eq_some.2 ⟨by simpa [load_eq_zero] using word, List.mem_range.2 hk,
      fun j hj => by simpa [load_eq_zero] using before j hj⟩
  simp only [bmscan, first]

/-- Eight words of 0: it moves on. -/
theorem bmscan_none (words : ∀ k < 8, mreadLe w.lm ((w.reg i.ra).toNat + 8 * k) 8 = 0) : bmscan i w =
    { w.setReg i.ra (w.reg i.ra + 64) with flags := { w.flags with z := true } } := by
  have none : (List.range 8).find? (fun k => w.load ((w.reg i.ra).toNat + 8 * k) 8 ≠ 0) = none :=
    List.find?_eq_none.2 fun k hk => by simpa [load_eq_zero] using words k (List.mem_range.1 hk)
  simp only [bmscan, none]

@[simp] theorem bmscan_limitHit (i : WInstr) (w : We) : (bmscan i w).limitHit = w.limitHit := by
  unfold bmscan
  dsimp only
  split <;> exact setReg_limitHit ..

theorem bmscan_goes (h : AtInstr e 0x60 i s) (hr : ((s.weAt e).reg i.ra).toNat + 64 ≤ 0x80000)
    (ha : ((s.weAt e).reg i.ra).toNat % 8 = 0) : WeGoes (.bmscan e) e (bmscan i (s.weAt e)) ((s.weAt e).idx + 1) s :=
  .of_setWe h rfl rfl (by simp only [lmCheck_none (store := false) hr ha nofun]) (bmscan_limitHit ..)

/-- A sum of distinct powers of two is the number with those bits. -/
theorem sum_two_pow_spec (p : Nat → Bool) (n : Nat) :
    let m := ((List.range n).map (fun k => if p k then 2 ^ k else 0)).sum
    m < 2 ^ n ∧ ∀ k < n, m.testBit k = p k := by
  induction n with
  | zero => simp
  | succ n ih =>
    obtain ⟨bound, bits⟩ := ih
    simp only [List.range_succ, List.map_append, List.sum_append, List.map_cons, List.map_nil, List.sum_cons, List.sum_nil,
      add_zero, pow_succ]
    generalize ((List.range n).map (fun k => if p k then 2 ^ k else 0)).sum = m at bound bits
    refine ⟨by split <;> omega, fun k hk => ?_⟩
    rcases Nat.lt_succ_iff_lt_or_eq.1 hk with below | rfl
    · split
      · rw [add_comm, Nat.testBit_two_pow_add_gt below, bits k below]
      · exact bits k below
    · have clear : m.testBit k = false := Nat.testBit_lt_two_pow bound
      split
      · next set => rw [add_comm, Nat.testBit_two_pow_add_eq, clear, set, Bool.not_false]
      · next unset => rw [add_zero, clear, eq_comm]; simpa using unset

/-- LCMUST: bit `k` of the result is the MUST bit of halfword `k`. -/
def mustBits (w : We) (a : Nat) : Nat :=
  ((List.range 16).map (fun k => if (w.load (a + 2 * k) 2).getLsbD 15 then 2 ^ k else 0)).sum

theorem mustBits_spec (w : We) (a : Nat) : mustBits w a < 65536 ∧
    ∀ k < 16, (mustBits w a).testBit k = decide (32768 ≤ mreadLe w.lm (a + 2 * k) 2) := by
  obtain ⟨bound, bits⟩ := sum_two_pow_spec (fun k => (w.load (a + 2 * k) 2).getLsbD 15) 16
  refine ⟨bound, fun k hk => (bits k hk).trans ?_⟩
  have half := mreadLe_lt w.lm (a + 2 * k) 2
  rw [← BitVec.testBit_toNat, load_toNat w _ (by decide), Nat.testBit_eq_decide_div_mod_eq, decide_eq_decide]
  omega

theorem lcmust_eq (i : WInstr) (w : We) :
    lcmust i w = { w.setReg i.rd (BitVec.ofNat 64 (mustBits w (w.reg i.ra).toNat)) with
      flags := { w.flags with z := decide (mustBits w (w.reg i.ra).toNat = 0) } } := rfl

theorem lcmust_limitHit (i : WInstr) (w : We) : (lcmust i w).limitHit = w.limitHit := by
  rw [lcmust_eq]
  simp only [setReg_limitHit]

theorem lcmust_goes (h : AtInstr e 0x61 i s) (hr : ((s.weAt e).reg i.ra).toNat + 32 ≤ 0x80000)
    (ha : ((s.weAt e).reg i.ra).toNat % 2 = 0) : WeGoes (.lcmust e) e (lcmust i (s.weAt e)) ((s.weAt e).idx + 1) s :=
  .of_setWe h rfl rfl (by simp only [lmCheck_none (store := false) hr ha nofun]) (lcmust_limitHit ..)

/-- CDEC leaves the count lowered, and MUST where it was set and the count is above the threshold. -/
theorem cdecHalf_eq (h rb thr : Nat) :
    cdecHalf h rb thr = h % 32768 - rb + if 32768 ≤ h ∧ thr < h % 32768 - rb then 32768 else 0 := by
  simp only [cdecHalf, not_le, ge_iff_le]

theorem cdecHalf_lt (h rb thr : Nat) : cdecHalf h rb thr < 65536 := by
  have low := Nat.mod_lt h (by decide : 0 < 32768)
  rw [cdecHalf_eq]
  split <;> omega

/-- The halfword fits its two bytes. -/
theorem store_cdecHalf (w : We) (a h rb thr : Nat) : w.store a 2 (BitVec.ofNat 64 (cdecHalf h rb thr)) =
    { w with lm := mwrite w.lm a (leBytes 2 (cdecHalf h rb thr)) } := by
  rw [We.store, BitVec.toNat_ofNat, Nat.mod_eq_of_lt ((cdecHalf_lt ..).trans (by decide))]

theorem cdec_goes (h : AtInstr e 0x62 i s) (hp : 0x10000 ≤ ((s.weAt e).reg i.ra).toNat)
    (hr : ((s.weAt e).reg i.ra).toNat + 2 ≤ 0x80000) (ha : ((s.weAt e).reg i.ra).toNat % 2 = 0) :
    let a := ((s.weAt e).reg i.ra).toNat
    let v := cdecHalf (mreadLe (s.weAt e).lm a 2) ((s.weAt e).reg i.rb).toNat (fld i.imm 0 15)
    WeGoes (.cdec e) e (We.setReg { s.weAt e with lm := mwrite (s.weAt e).lm a (leBytes 2 v) } i.rd (BitVec.ofNat 64 v))
      ((s.weAt e).idx + 1) s := by
  intro a v
  refine .of_setWe h rfl rfl ?_ (setReg_limitHit ..)
  simp only [lmCheck_none (store := true) hr ha fun _ => hp, load_toNat _ _ (by decide : 2 ≤ 8), store_cdecHalf]
  rfl

end

/-! ### POST (R223, R241, R242) -/

/-- The entry a POST takes for a descriptor (R242). -/
def State.postedEntry (s : State) (k : Nat) (d : Desc) : Task :=
  { state := .waiting, gen := if (s.taskAt k).gen ≥ 65535 then 1 else (s.taskAt k).gen + 1, cfg := d.cfg, dep := d.dep,
    subEdge := s.now, block := d.block, execMask := d.execMask, release := d.release, tag := d.tag,
    succs := (s.goodSuccs d.succs).eraseDups, posted := true }

section
variable {e : Fin 24} {i : WInstr} {s : State} {k : Nat} {d : Desc}

/-- A good descriptor with dependences waits in its entry; beside the table only counts move. -/
theorem takeEntry_waits (hb : d.bad = false) (hd : d.dep ≠ 0) : ∃ u,
    takeEntry k d s.now [] true s = (taskId k (s.postedEntry k d), u) ∧ SchOnly s u ∧
    u.sch.execs = s.sch.execs ∧ u.sch.tasks = sput s.sch.tasks k (s.postedEntry k d) := by
  have no_event : firstFinal d [] = none := by simp [firstFinal]
  refine ⟨?u, ?taken, ?frame, ?execs, ?tasks⟩
  case taken =>
    simp only [takeEntry, hb, hd, no_event, Bool.false_eq_true, if_false]
    rfl
  all_goals rfl

theorem freeIndex_lt (h : s.freeIndex = some k) : k < 16384 := by
  simpa [tableSize] using List.mem_of_find?_eq_some h

theorem postedEntry_gen (s : State) (k : Nat) (d : Desc) : (s.postedEntry k d).gen ≤ 65535 := by
  simp only [State.postedEntry]
  split <;> omega

/-- An identity of the table is a number of 30 bits (R238), so that a word holds it. -/
theorem taskId_lt {t : Task} (hk : k < 16384) (hg : t.gen ≤ 65535) : taskId k t < 2 ^ 64 := by
  rw [taskId]
  omega

section
variable {a : Nat} (hp : 0x10000 ≤ a) (hr : a + 64 ≤ 0x80000) (hs : s.schResetting = false)
include hp hr hs

theorem postTask_full (w : We) (hf : s.freeIndex = none) : postTask e a w s = .go (w.idx + 1) (s.refuseFull.setQ e true) := by
  simp only [postTask, postCore, lmCheck_none (store := true) hr (Nat.mod_one a) fun _ => hp, hs, hf, Bool.false_eq_true,
    if_false]

theorem postTask_free (w : We) (hf : s.freeIndex = some k) {u : State} {id : Nat}
    (hd : Desc.ofBytes (mread (s.weAt e).lm a 64) = d) (taken : takeEntry k d s.now [] true s = (id, u)) :
    postTask e a w s = .go (w.idx + 1)
      ((u.setWe e ((u.weAt e).store (a + 0x38) 4 (BitVec.ofNat 64 id))).setQ e false) := by
  simp only [postTask, postCore, lmCheck_none (store := true) hr (Nat.mod_one a) fun _ => hp, hs, hf, hd, taken,
    Bool.false_eq_true, if_false, modWe_eq]

end

/-- A store to an engine beside what became of the scheduler. -/
theorem SchOnly.setWe_frame {u : State} (h : SchOnly s u) (j : Nat) (v : We) :
    u.setWe j v = { s with we := (u.setWe j v).we, sch := (u.setWe j v).sch } := by
  unfold SchOnly at h
  rw [h]
  rfl

theorem post_runs (e : Fin 24) (s : State) :
    exec (.post e) s = weExec 0x51 e (fun i w s => postTask e (w.reg i.ra).toNat w s) s := rfl

section
variable (h : AtInstr e 0x51 i s) (hp : 0x10000 ≤ ((s.weAt e).reg i.ra).toNat)
  (hr : ((s.weAt e).reg i.ra).toNat + 64 ≤ 0x80000) (hs : s.schResetting = false)
include h hp hr hs

/-- No entry is free: Q is set and the refusal counted (R241). -/
theorem post_full (hf : s.freeIndex = none) : ∃ t, exec (.post e) s = .next t ∧
    t = { s with we := t.we, sch := { s.sch with tableFull := sat32 (s.sch.tableFull + 1) } } ∧
    Becomes State.weAt e (We.atBoundary { s.weAt e with flags := { (s.weAt e).flags with q := true } }
      ((s.weAt e).idx + 1) s.now) s t := by
  have read (j : Nat) : s.refuseFull.weAt j = s.weAt j := rfl
  have ran := exec_of_go h (post_runs e s) rfl (postTask_full hp hr hs _ hf) rfl rfl (by simp [State.setQ, read])
  simp only [State.setQ, modWe_eq, setWe_setWe, setWe_weAt, if_true, read] at ran
  exact ⟨_, ran, rfl, by simp, fun j hj => by simp [hj, read]⟩

/-- The entry is taken as posted, and its identity stands in the descriptor (R223, R242). -/
theorem post_takes (hf : s.freeIndex = some k) (hd : Desc.ofBytes (mread (s.weAt e).lm ((s.weAt e).reg i.ra).toNat 64) = d)
    (hb : d.bad = false) (hdep : d.dep ≠ 0) : ∃ t, exec (.post e) s = .next t ∧ t = { s with we := t.we, sch := t.sch } ∧
    Becomes State.weAt e (We.atBoundary { s.weAt e with
      flags := { (s.weAt e).flags with q := false },
      lm := mwrite (s.weAt e).lm (((s.weAt e).reg i.ra).toNat + 0x38) (leBytes 4 (taskId k (s.postedEntry k d))) }
        ((s.weAt e).idx + 1) s.now) s t ∧
    Becomes State.taskAt k (s.postedEntry k d) s t := by
  obtain ⟨u, taken, frame, execs, entry⟩ := takeEntry_waits (k := k) (s := s) hb hdep
  have read (j : Nat) : u.weAt j = s.weAt j := by rw [frame]; rfl
  have tasks (j : Nat) : u.taskAt j = if j = k then s.postedEntry k d else s.taskAt j := by
    rw [State.taskAt, entry, sget_sput]; rfl
  have now : u.now = s.now := by rw [frame]
  have ran := exec_of_go h (post_runs e s) rfl (postTask_free hp hr hs _ hf hd taken) now execs
    (by simp [State.setQ, read, We.store])
  simp only [State.setQ, modWe_eq, setWe_setWe, setWe_weAt, if_true, read, We.store, BitVec.toNat_ofNat,
    Nat.mod_eq_of_lt (taskId_lt (freeIndex_lt hf) (postedEntry_gen ..))] at ran
  exact ⟨_, ran, frame.setWe_frame .., ⟨by simp, fun j hj => by simp [hj, read]⟩, by simp [tasks],
    fun j hj => by simp [hj, tasks]⟩

end
end

/-- Settles O21: what BMSCAN, LCMUST and CDEC find in local memory, and the one entry a POST takes. -/
theorem workerRepairAndPost : Obligations.WorkerRepairAndPost := by
  unfold Obligations.WorkerRepairAndPost
  refine fun e i s => ⟨?found, ?none, ?lcmust, ?cdec, ?full, ?post⟩
  case found => exact fun k hk h hr ha word before => bmscan_found hk word before ▸ bmscan_goes h hr ha
  case none => exact fun h hr ha words => bmscan_none words ▸ bmscan_goes h hr ha
  case lcmust =>
    intro h hr ha
    obtain ⟨bound, bits⟩ := mustBits_spec (s.weAt e) ((s.weAt e).reg i.ra).toNat
    exact ⟨_, bound, bits, lcmust_goes h hr ha⟩
  case cdec =>
    intro h hp hr ha
    have goes := cdec_goes h hp hr ha
    simp only [cdecHalf_eq] at goes
    exact goes
  case full => exact fun h hp hr hs hf => post_full h hp hr hs hf
  case post => exact fun k h hp hr hs hf hb hdep => post_takes h hp hr hs hf rfl hb hdep

end Sys2Proof.Machine
end

section
/-! PROOFS. The life of a task on a worker engine (R219, R230, R232, R233): how its work block starts it, and what a watchdog
that expires leaves of the engine and of the task. -/
namespace Sys2Proof.Machine

/-! ### Start (R219) -/

/-- What a command whose effect is one store to an engine leaves. -/
theorem becomes_of_setWe {c : Instr} {s : State} {e : Nat} {w : We} (run : exec c s = .next (s.setWe e w)) :
    ∃ t, exec c s = .next t ∧ t = { s with we := t.we } ∧ Becomes State.weAt e w s t :=
  ⟨_, run, rfl, by simp, fun j hj => by simp [hj]⟩

/-- Values stored at keys 1 to `n` of an empty map. -/
theorem sget_foldl_sput {α : Type} (d : α) (g : Nat → α) (n r : Nat) :
    sget d ((List.range n).foldl (fun m k => sput m (k + 1) (g k)) []) r = if 1 ≤ r ∧ r ≤ n then g (r - 1) else d := by
  induction n with
  | zero => rw [if_neg (by omega)]; rfl
  | succ n ih =>
    rw [List.range_succ, List.foldl_append, List.foldl_cons, List.foldl_nil, sget_sput, ih]
    by_cases last : r = n + 1
    · rw [if_pos last, if_pos (by omega), last, Nat.add_sub_cancel]
    · have same : (1 ≤ r ∧ r ≤ n) ↔ (1 ≤ r ∧ r ≤ n + 1) := by omega
      simp only [if_neg last, same]

/-- The registers a task starts with: its five arguments in G1 to G5. -/
def blockRegs (b : List Byte) : Sparse Word64 :=
  (List.range 5).foldl (fun m k => sput m (k + 1) (BitVec.ofNat 64 (field b (0x18 + 8 * k) 8))) []

/-- An engine that starts at the ENTRY of work block `b` with program `prog` in its local memory. -/
def We.startedWith (w : We) (b prog : List Byte) (now : Nat) : We :=
  { w with
    started := true, regs := blockRegs b, flags := {}, idx := field b 0xA 2, pc := field b 0xA 2,
    lm := mwrite (mwrite w.lm 0 prog) 0x10000 b, tagStat := [], progBase := field b 0 8, progLen := field b 8 2,
    resident := true, startAt := now, boundary := now, timeLimit := field b 0xC 4, limitHit := false,
    redispatch := decide (field b 0x10 4 % 2 = 1), ending := none }

theorem startedWith_reg (w : We) (b prog : List Byte) (now r : Nat) : (w.startedWith b prog now).reg r =
    if 1 ≤ r ∧ r ≤ 5 then BitVec.ofNat 64 (field b (0x10 + 8 * r) 8) else 0 := by
  have args : sget 0 (blockRegs b) r = if 1 ≤ r ∧ r ≤ 5 then BitVec.ofNat 64 (field b (0x18 + 8 * (r - 1)) 8) else 0 :=
    sget_foldl_sput 0 (fun k => BitVec.ofNat 64 (field b (0x18 + 8 * k) 8)) 5 r
  change (if r = 0 then 0 else sget 0 (blockRegs b) r) = _
  rw [args]
  by_cases arg : 1 ≤ r ∧ r ≤ 5
  · have offset : 0x18 + 8 * (r - 1) = 0x10 + 8 * r := by omega
    rw [if_neg (by omega), if_pos arg, if_pos arg, offset]
  · rw [if_neg arg, if_neg arg, ite_self]

section
variable {e : Fin 24} {i : Nat} {s : State}

/-- Block and program read without error: the task starts. -/
theorem weLoaded_starts (hr : (s.execAt e).running = some i) (hs : (s.weAt e).started = false)
    (hd : (s.execAt e).ended = none) (ha : (s.execAt e).startAt ≤ s.now)
    {b : List Byte} (hb : s.hbmRead (s.taskAt i).block 64 = b)
    (block : s.readStatus (s.taskAt i).block 64 = .ok) (program : s.readStatus (field b 0 8) (8 * field b 8 2) = .ok)
    (hl : field b 8 2 ≤ 8192)
    (fresh : ¬ ((s.weAt e).resident = true ∧ (s.weAt e).progBase = field b 0 8 ∧ (s.weAt e).progLen = field b 8 2)) :
    weLoaded e .ok s = s.setWe e ((s.weAt e).startedWith b (s.hbmRead (field b 0 8) (8 * field b 8 2)) s.now) := by
  have loads : ¬ ((s.weAt e).started = true ∨ (s.execAt e).ended.isSome = true ∨ (s.execAt e).startAt > s.now) := by
    simp [hs, hd, ha]
  simp only [weLoaded, hr, loads, hb, min_eq_right hl, fresh, block, program, decide_false, Bool.false_eq_true, if_false,
    worstOf, ne_eq, not_true, reduceCtorEq]
  rfl

/-! ### The end of a watchdog's patience (R232, R233) -/

/-- From `s` to `t` only bytes of HBM, its marks and the count of free values have changed. -/
def HbmOnly (s t : State) : Prop := t = { s with hbm := t.hbm, hbmBad := t.hbmBad, freeCtr := t.freeCtr }

theorem HbmOnly.trans {a b c : State} (h : HbmOnly a b) (h' : HbmOnly b c) : HbmOnly a c := by
  unfold HbmOnly at *
  rw [h', h]

theorem hbmWriteReq_hbmOnly (s : State) (a : Nat) (l : List Byte) (res : HbmStatus) :
    HbmOnly s (s.hbmWriteReq a l res).2 := by
  unfold HbmOnly
  rw [hbmWriteReq_frame]

/-- The blocks of a write transfer that were on their way land, and nothing else happens (R232). -/
theorem landIssued_hbmOnly (page : Nat) (w : We) (t : Transfer) (s : State) : HbmOnly s (landIssued page w t s) := by
  refine foldState_keeps (HbmOnly s) _ (fun k u hu => hu.trans ?_) _ s rfl
  have lands (v : State) (hv : HbmOnly u v) (b : Bool) (a : Nat) (l : List Byte) :
      HbmOnly u (if b then (v.hbmWriteReq a l .ok).2 else v) := by
    split
    · exact hv.trans (hbmWriteReq_hbmOnly ..)
    · exact hv
  dsimp only
  split
  · exact lands u rfl ..
  · exact lands (u.fresh 1).2 rfl ..

/-- An engine without its transfers and without its task. -/
def We.cleared (w : We) : We := { w with transfers := [], started := false, ending := none, limitHit := false }

/-- The engine's writes that are on their way land, and its requests end (R232). -/
theorem clearTransfers_eq (e : Nat) (s : State) : ∃ u, HbmOnly s u ∧
    ((∀ t ∈ (s.weAt e).transfers, t.write = false) → u = s) ∧
    clearTransfers e s = (u.dropRequests (pgWe e)).setWe e (s.weAt e).cleared := by
  have landed : HbmOnly s (foldState ((s.weAt e).transfers.filter (fun t => t.write)) (landIssued (pgWe e) (s.weAt e)) s) :=
    foldState_keeps (HbmOnly s) _ (fun t u hu => hu.trans (landIssued_hbmOnly ..)) _ s rfl
  refine ⟨_, landed, fun reads => ?_, ?_⟩
  · rw [List.filter_eq_nil_iff.2 fun t ht => by simp [reads t ht]]
    rfl
  · have same (j : Nat) : (State.dropRequests _ (pgWe e)).weAt j = s.weAt j :=
      (congrArg (fun u : State => u.weAt j) landed).trans rfl
    rw [clearTransfers, modWe_eq, same]
    rfl

/-! ### A task goes back to its level (R233, R248) -/

@[simp] theorem setExec_setExec (s : State) (k : Nat) (v w : ExecSlots) : (s.setExec k v).setExec k w = s.setExec k w := by
  simp only [State.setExec, sput_sput]

theorem setExec_setWe (s : State) (k j : Nat) (v : ExecSlots) (w : We) :
    (s.setExec k v).setWe j w = (s.setWe j w).setExec k v := rfl

/-- The task a return leaves at the head of its level, as the `n`-th return of all. -/
def Task.backAt (t : Task) (n now : Nat) (again : Bool) : Task :=
  { t with state := .ready, entered := now + 1, head := n, executor := 0xFF, redispatched := t.redispatched || again }

theorem returnTask_eq (h : s.schResetting = false) (again : Bool) : s.returnTask i again =
    { s with sch := { s.sch with returns := s.sch.returns + 1 } }.setTask i
      ((s.taskAt i).backAt (s.sch.returns + 1) s.now again) :=
  if_neg fun resets => Bool.false_ne_true (h.symm.trans resets)

theorem returnTask_taskAt (h : s.schResetting = false) (again : Bool) (j : Nat) : (s.returnTask i again).taskAt j =
    if j = i then (s.taskAt i).backAt (s.sch.returns + 1) s.now again else s.taskAt j := by
  rw [returnTask_eq h, setTask_taskAt]
  rfl

theorem returnTask_weAt (h : s.schResetting = false) (again : Bool) (j : Nat) : (s.returnTask i again).weAt j = s.weAt j := by
  rw [returnTask_eq h]
  rfl

theorem returnTask_execAt (h : s.schResetting = false) (again : Bool) (j : Nat) :
    (s.returnTask i again).execAt j = s.execAt j := by
  rw [returnTask_eq h]
  rfl

/-- A return changes the tasks and the count of returns. -/
theorem returnTask_frame (h : s.schResetting = false) (again : Bool) : s.returnTask i again = { s with sch := { s.sch with
    tasks := (s.returnTask i again).sch.tasks, returns := s.sch.returns + 1 } } := by
  rw [returnTask_eq h]
  rfl

theorem returnPrefetch_none {x : Nat} (h : (s.execAt x).prefetch = none) : s.returnPrefetch x = s := by
  simp only [State.returnPrefetch, h]

theorem returnPrefetch_some {x : Nat} (h : (s.execAt x).prefetch = some i) :
    s.returnPrefetch x = (s.setExec x { s.execAt x with prefetch := none }).returnTask i false := by
  simp only [State.returnPrefetch, h]

/-- READY tasks that an executor may still take stay (R249). -/
theorem dropNoExecutor_same (h : ∀ j, (s.taskAt j).state = .ready →
    ∃ y ∈ execCodes (s.taskAt j), (s.execAt y).retired = false) : s.dropNoExecutor = s := by
  refine foldState_same fun j _ => if_neg ?_
  rintro ⟨ready, retired⟩
  obtain ⟨y, hy, serves⟩ := h j ready
  exact absurd (List.all_eq_true.1 retired y hy) (by simp [serves])

/-- A return leaves no task without an executor where there was none before (R249). -/
theorem returnTask_dropNoExecutor (hc : s.schResetting = false) (live : ∀ j, (s.taskAt j).state = .ready ∨ j = i →
    ∃ y ∈ execCodes (s.taskAt j), (s.execAt y).retired = false) (again : Bool) :
    (s.returnTask i again).dropNoExecutor = s.returnTask i again := by
  refine dropNoExecutor_same fun j ready => ?_
  simp only [returnTask_execAt hc]
  rw [returnTask_taskAt hc] at ready ⊢
  by_cases returned : j = i
  · rw [if_pos returned]
    exact live i (.inr rfl)
  · rw [if_neg returned] at ready ⊢
    exact live j (.inl ready)

/-- The running task of an engine that is reset goes back, when no end and no abort of it is on its way (R232). -/
theorem runReset_again (hr : (s.execAt e).running = some i) (hd : (s.execAt e).ended = none)
    (ha : (s.execAt e).abort = none) :
    s.runReset e true = (((s.setWe e { s.weAt e with started := false, ending := none, limitHit := false }).setExec e
      { s.execAt e with running := none, abort := none, ended := none }).returnTask i true) := by
  have worker : e.val < 0x20 := e.isLt.trans (by decide)
  simp [State.runReset, hr, hd, ha, State.clearRunning, worker, setExec_setWe]

/-- An engine whose watchdog has expired, its control store to be reloaded (R233). -/
def We.expired (w : We) (now : Nat) : We :=
  { w.cleared with
    wdogCount := sat32 (w.wdogCount + 1), expiries := (w.expiries ++ [now]).filter (fun y => now < y + edgesSec),
    reloading := true, reloadAt := now, csValid := false, micro := {} }

/-- The slots of an engine whose task the watchdog has taken, retired at the third expiry within a second (R233). -/
def ExecSlots.expired (x : ExecSlots) (w : We) (now : Nat) : ExecSlots :=
  { x with
    running := none, abort := none, ended := none, retired := x.retired || decide (3 ≤ (w.expired now).expiries.length) }

/-- Engine `e` has passed no boundary for 32 µs with the restartable task `i`, alone in its slots and with no end or abort on
its way. -/
structure Overdue (e : Fin 24) (i : Nat) (s : State) : Prop where
  running : (s.execAt e).running = some i
  noEnd : (s.execAt e).ended = none
  noAbort : (s.execAt e).abort = none
  noPrefetch : (s.execAt e).prefetch = none
  silent : (s.weAt e).boundary + 12800 ≤ s.now
  restartable : (s.weAt e).redispatch = true
  started : (s.weAt e).started = true
  firstTime : (s.taskAt i).redispatched = false

/-- The watchdog resets its engine, which leaves its task to go back. -/
theorem watchdog_resets (h : Overdue e i s) :
    ∃ m : State, exec (.watchdogExpiry e) s = .next (m.returnTask i true).dropNoExecutor ∧
      m = { s with we := m.we, sch := { s.sch with execs := m.sch.execs }, hmc := m.hmc, hbm := m.hbm, hbmBad := m.hbmBad,
                   freeCtr := m.freeCtr } ∧
      ((∀ t ∈ (s.weAt e).transfers, t.write = false) → m.hbm = s.hbm) ∧
      Becomes State.weAt e ((s.weAt e).expired s.now) s m ∧
      Becomes State.execAt e ((s.execAt e).expired (s.weAt e) s.now) s m := by
  obtain ⟨u, only, reads, cleared⟩ := clearTransfers_eq e s
  have engines (j : Nat) : (u.dropRequests (pgWe e)).weAt j = s.weAt j :=
    (congrArg (fun u : State => u.weAt j) only).trans rfl
  have slots (j : Nat) : (u.dropRequests (pgWe e)).execAt j = s.execAt j :=
    (congrArg (fun u : State => u.execAt j) only).trans rfl
  have frame : u.dropRequests (pgWe e) = { s with
      hmc := (u.dropRequests (pgWe e)).hmc, hbm := u.hbm, hbmBad := u.hbmBad, freeCtr := u.freeCtr } := by
    rw [only]
    rfl
  have due : (s.execAt e).running.isSome = true ∧ (s.execAt e).ended.isNone = true ∧
      (s.weAt e).boundary + wdogEdges ≤ s.now :=
    ⟨by rw [h.running]; rfl, by rw [h.noEnd]; rfl, h.silent⟩
  refine ⟨((u.dropRequests (pgWe e)).setWe e ((s.weAt e).expired s.now)).setExec e ((s.execAt e).expired (s.weAt e) s.now),
    ?run, ?frame, fun only_reads => by rw [← reads only_reads]; rfl, ⟨by simp, fun j hj => by simp [hj, engines]⟩,
    by simp, fun j hj => by simp [hj, slots]⟩
  case frame =>
    rw [frame]
    rfl
  case run =>
    change Host.Outcome.next (if _ then weExpire e s else s) = _
    rw [if_pos due]
    simp only [weExpire, h.running, State.mayRedispatch, h.started, h.restartable, h.firstTime, if_true, Bool.not_false,
      Bool.and_true, cleared, modWe_eq, setWe_weAt, setWe_setWe]
    rw [returnPrefetch_none (by simpa using h.noPrefetch),
      runReset_again (i := i) (by simp) (by simpa using h.noEnd) (by simpa using h.noAbort)]
    simp only [setExec_setWe, setExec_weAt, setExec_execAt, setExec_setExec, setWe_weAt, setWe_setWe, if_true]
    rfl

/-- A restartable task that some executor may still take goes back to the head of its level (R232, R233). -/
theorem watchdogExpiry_returns (h : Overdue e i s) (hc : s.schResetting = false)
    (serves : ∀ j, (s.taskAt j).state = .ready ∨ j = i → ∃ y ∈ execCodes (s.taskAt j),
      (s.execAt y).retired = false ∧ ¬ (y = e.val ∧ 3 ≤ ((s.weAt e).expired s.now).expiries.length)) :
    ∃ t, exec (.watchdogExpiry e) s = .next t ∧
      t = { s with we := t.we, sch := t.sch, hmc := t.hmc, hbm := t.hbm, hbmBad := t.hbmBad, freeCtr := t.freeCtr } ∧
      ((∀ tr ∈ (s.weAt e).transfers, tr.write = false) → t.hbm = s.hbm) ∧
      t.weAt e = (s.weAt e).expired s.now ∧ t.execAt e = (s.execAt e).expired (s.weAt e) s.now ∧
      Becomes State.taskAt i ((s.taskAt i).backAt (s.sch.returns + 1) s.now true) s t := by
  obtain ⟨m, run, frame, reads, engine, slots⟩ := watchdog_resets h
  have resetting : m.schResetting = false := (congrArg State.schResetting frame).trans hc
  have tasks (j : Nat) : m.taskAt j = s.taskAt j := (congrArg (fun u : State => u.taskAt j) frame).trans rfl
  have live (j : Nat) (hj : (m.taskAt j).state = .ready ∨ j = i) :
      ∃ y ∈ execCodes (m.taskAt j), (m.execAt y).retired = false := by
    rw [tasks] at hj ⊢
    obtain ⟨y, hy, live, other⟩ := serves j hj
    refine ⟨y, hy, ?_⟩
    by_cases own : y = e
    · have not_third : ¬ 3 ≤ ((s.weAt e).expired s.now).expiries.length := fun third => other ⟨own, third⟩
      rw [own] at live
      simp [own, slots.1, ExecSlots.expired, not_third, live]
    · rw [slots.2 y own, live]
  have back (j : Nat) : (m.returnTask i true).taskAt j =
      if j = i then (s.taskAt i).backAt (s.sch.returns + 1) s.now true else s.taskAt j := by
    rw [returnTask_taskAt resetting, tasks, tasks, frame]
  rw [returnTask_dropNoExecutor resetting live] at run
  refine ⟨_, run, ?_, fun only_reads => ?_, by rw [returnTask_weAt resetting, engine.1],
    by rw [returnTask_execAt resetting, slots.1], by rw [back, if_pos rfl], fun j hj => by rw [back, if_neg hj]⟩
  · rw [returnTask_frame resetting, frame]
  · rw [← reads only_reads, returnTask_frame resetting]

/-! ### Time limit and reload (R230, R233) -/

theorem taskTimeLimit_hits (hs : (s.weAt e).started = true) (ht : (s.weAt e).timeLimit ≠ 0)
    (hd : (s.weAt e).startAt + (s.weAt e).timeLimit * 400 ≤ s.now) :
    exec (.taskTimeLimit (.we e)) s = .next (s.setWe e { s.weAt e with limitHit := true }) :=
  congrArg Host.Outcome.next (if_pos ⟨hs, ht, hd⟩)

theorem controlStoreReloaded_valid (hr : (s.weAt e).reloading = true) : exec (.controlStoreReloaded e) s =
    .next (s.setWe e { s.weAt e with reloading := false, csValid := true, cs := [] }) :=
  congrArg Host.Outcome.next (if_pos hr)

end

end Sys2Proof.Machine
end

section
/-! PROOFS. The service of a worker engine (R222, R232, R234, R237): transfers that complete, OFFLINE, and the registers that
reach local memory and the control store. -/
namespace Sys2Proof.Machine

/-! ### Transfers that complete (R222) -/

theorem guardWrite_of_none {s : State} {a n : Nat} (h : s.writeBreaks a n = none) (r : Res) : s.guardWrite a n r = r := by
  simp only [State.guardWrite, h]

/-- A write that every block takes changes its bytes and their marks. -/
theorem hbmWriteReq_lands_frame {s : State} {a n : Nat} {l : List Byte} (hn : l.length = n)
    (hs : (s.hbmHeal a n).readStatus a n = .ok) : ∃ u, s.hbmWriteReq a l .ok = (.ok, u) ∧ Lands a l s u ∧
      u = { s with hbm := u.hbm, hbmBad := u.hbmBad } := by
  obtain ⟨u, req, lands, -⟩ := hbmWriteReq_lands hn hs
  have frame := hbmWriteReq_frame s a l .ok
  rw [req] at frame
  exact ⟨u, req, lands, frame⟩

theorem weFinish_goesOn {s : State} {e : Nat} (h : (s.weAt e).ending = none) : s.weFinish e = s := by
  simp only [State.weFinish, h]

/-- An engine at which a transfer has completed with status OK, with `lm` in its local memory. -/
def We.completed (w : We) (t : Transfer) (lm : List Host.Cell) : We :=
  { w with lm := lm, tagStat := sput w.tagStat t.tag 0, transfers := w.transfers.filter (fun x => x.tag ≠ t.tag) }

section
variable {e : Fin 24} {tag : Fin 16} {tr : Transfer} {s : State}

/-- The data of a read lands in local memory. -/
theorem transferDone_read (hw : tr.write = false) (he : (s.weAt e).ending = none) (hs : s.readStatus tr.hbm tr.len = .ok) :
    transferDone e tr .ok s = s.setWe e ((s.weAt e).completed tr (mwrite (s.weAt e).lm tr.lm (s.hbmRead tr.hbm tr.len))) := by
  simp only [transferDone, hw, hs, worstOf, tagCode, modWe_eq, Bool.false_eq_true, if_false]
  exact weFinish_goesOn (by simpa using he)

/-- The data of a write lands in HBM. -/
theorem transferDone_write (hw : tr.write = true) (he : (s.weAt e).ending = none)
    (hs : (s.hbmHeal tr.hbm tr.len).readStatus tr.hbm tr.len = .ok) :
    ∃ u, Lands tr.hbm (mread (s.weAt e).lm tr.lm tr.len) s u ∧ u = { s with hbm := u.hbm, hbmBad := u.hbmBad } ∧
      transferDone e tr .ok s = u.setWe e ((s.weAt e).completed tr (s.weAt e).lm) := by
  obtain ⟨u, req, lands, frame⟩ := hbmWriteReq_lands_frame (mread_length (s.weAt e).lm tr.lm tr.len) hs
  have engine : u.weAt e = s.weAt e := by rw [frame]; rfl
  refine ⟨u, lands, frame, ?_⟩
  simp only [transferDone, hw, req, tagCode, modWe_eq, if_true, engine]
  exact weFinish_goesOn (by simpa using he)

theorem hbmTransferComplete_read (hf : (s.weAt e).transfers.find? (fun t => t.tag = tag.val) = some tr)
    (hw : tr.write = false) (he : (s.weAt e).ending = none) (hs : s.readStatus tr.hbm tr.len = .ok) :
    exec (.hbmTransferComplete e tag .ok) s =
      .next (s.setWe e ((s.weAt e).completed tr (mwrite (s.weAt e).lm tr.lm (s.hbmRead tr.hbm tr.len)))) := by
  change execHbmTransferComplete e tag .ok s = _
  simp only [execHbmTransferComplete, hf, hw, transferDone_read hw he hs, Bool.false_eq_true, if_false]

theorem hbmTransferComplete_write (hf : (s.weAt e).transfers.find? (fun t => t.tag = tag.val) = some tr)
    (hw : tr.write = true) (he : (s.weAt e).ending = none) (hb : s.writeBreaks tr.hbm tr.len = none)
    (hs : (s.hbmHeal tr.hbm tr.len).readStatus tr.hbm tr.len = .ok) :
    ∃ t, exec (.hbmTransferComplete e tag .ok) s = .next t ∧ t = { s with we := t.we, hbm := t.hbm, hbmBad := t.hbmBad } ∧
      t.hbm = (s.hbmWrite tr.hbm (mread (s.weAt e).lm tr.lm tr.len)).hbm ∧ StoresOnly tr.hbm tr.len s t ∧
      Becomes State.weAt e ((s.weAt e).completed tr (s.weAt e).lm) s t := by
  obtain ⟨u, lands, frame, done⟩ := transferDone_write hw he hs
  have run : exec (.hbmTransferComplete e tag .ok) s = .next (transferDone e tr .ok s) := by
    change execHbmTransferComplete e tag .ok s = _
    simp only [execHbmTransferComplete, hf, hw, guardWrite_of_none hb, if_true]
  have engines (j : Nat) : u.weAt j = s.weAt j := by rw [frame]; rfl
  have stores := lands.storesOnly
  rw [mread_length] at stores
  rw [done] at run
  refine ⟨_, run, ?_, lands.hbm, stores, by simp, fun j hj => by simp [hj, engines]⟩
  rw [frame]
  rfl

/-- A reply that no transfer waits for is stale (R232). -/
theorem hbmTransferComplete_stale (hf : (s.weAt e).transfers.find? (fun t => t.tag = tag.val) = none) :
    exec (.hbmTransferComplete e tag .ok) s = .next (s.setWe e { s.weAt e with stale := sat32 ((s.weAt e).stale + 1) }) := by
  change execHbmTransferComplete e tag .ok s = _
  simp only [execHbmTransferComplete, hf]

/-! ### OFFLINE, LM_DATA and CS_DATA (R234, R237) -/

/-- An engine taken out of service gives its prefetched task back. -/
theorem offline_returns {j : Nat} (hr : s.ready (pgWe e) = true) (hc : s.schResetting = false)
    (hp : (s.execAt e).prefetch = some j) : ∃ t, exec (.offline e true) s = .next t ∧
      t = { s with regs := t.regs, we := t.we, sch := { s.sch with
        execs := t.sch.execs, tasks := t.sch.tasks, returns := s.sch.returns + 1 } } ∧
      (t.weAt e).offline = true ∧ (t.execAt e).offline = true ∧ (t.execAt e).prefetch = none ∧
      Becomes State.taskAt j ((s.taskAt j).backAt (s.sch.returns + 1) s.now false) s t := by
  generalize hm : ((s.setReg (pgWe e) 0x100 1).setWe e { s.weAt e with offline := true }).setExec e
    { s.execAt e with offline := true, prefetch := none } = m
  have run : exec (.offline e true) s = .next (m.returnTask j false) := by
    change Host.Outcome.next (s.whenReady (pgWe e) (weOffline e true)) = _
    rw [whenReady_of_ready _ hr]
    simp only [weOffline, if_true, modWe_eq, setReg_weAt]
    rw [returnPrefetch_some (i := j) (by simpa using hp)]
    simp [← hm]
  have resetting : m.schResetting = false := by rw [← hm]; exact hc
  have back (k : Nat) : (m.returnTask j false).taskAt k =
      if k = j then (s.taskAt j).backAt (s.sch.returns + 1) s.now false else s.taskAt k := by
    rw [returnTask_taskAt resetting, ← hm]
    rfl
  have engine : (m.returnTask j false).weAt e = { s.weAt e with offline := true } := by
    rw [returnTask_weAt resetting, ← hm]
    simp
  have slots : (m.returnTask j false).execAt e = { s.execAt e with offline := true, prefetch := none } := by
    rw [returnTask_execAt resetting, ← hm]
    simp
  refine ⟨_, run, ?_, by rw [engine], by rw [slots], by rw [slots], by rw [back, if_pos rfl],
    fun k hk => by rw [back, if_neg hk]⟩
  rw [returnTask_frame resetting, ← hm]
  rfl

theorem lmData_read (path : Path) (hi : s.weIdleOff e = true) : exec (.lmData e none path) s =
    .next { s with hostOut := BitVec.ofNat 64 (mreadLe (s.weAt e).lm (s.lmAddr e) 8) } :=
  if_pos hi

theorem lmData_write (path : Path) (hi : Word32) (hr : s.ready (pgWe e) = true) (ho : s.weIdleOff e = true) :
    exec (.lmData e (some (hi, none)) path) s = .next (s.setWe e { s.weAt e with
      lm := mwrite (s.weAt e).lm (s.lmAddr e) (leBytes 8 (hi ++ s.reg (pgWe e) 0x138).toNat) }) := by
  change Host.Outcome.next (s.whenReady (pgWe e) _) = _
  rw [whenReady_of_ready _ hr, if_pos ho]
  rfl

/-- Out of service only: an engine that may run records WE_BUSY (R237). -/
theorem lmData_busy (path : Path) (ho : s.weIdleOff e = false) : exec (.lmData e none path) s =
    .next (s.recordErr (pgWe e) errWeBusy) :=
  if_neg (by simp [ho])

theorem csData_stores (hi : Word32) (hn : (s.execAt e).running = none) (hr : s.ready (pgWe e) = true) :
    exec (.csData e hi none) s = .next (s.setWe e { s.weAt e with
      cs := sput (s.weAt e).cs ((s.reg (pgWe e) 0x140).toNat % 16384) (hi.extractLsb' 0 8 ++ s.reg (pgWe e) 0x144) }) := by
  have run : exec (.csData e hi none) s = .next (s.whenReady (pgWe e) fun s => csStore e hi s) := if_neg (by simp [hn])
  rw [run, whenReady_of_ready _ hr]
  rfl

end

/-- Settles O23: most of it is one store to the engine; the watchdog and OFFLINE also return a task to its level. -/
theorem workerTasks : Obligations.WorkerTasks := by
  unfold Obligations.WorkerTasks
  refine ⟨fun e i s hr => ⟨?start, ?limit, ?watchdog, ?reload⟩,
    fun e tag tr path hi s => ⟨?read, ?write, ?stale, ?offline, ?lmRead, ?lmWrite, ?busy, ?cs⟩⟩
  case start =>
    intro hs hd ha block program hl fresh
    have loaded := weLoaded_starts hr hs hd ha rfl block program hl fresh
    obtain ⟨t, run, frame, engine, others⟩ :=
      becomes_of_setWe (c := .workBlockLoaded e .ok) (congrArg Host.Outcome.next loaded)
    refine ⟨t, run, frame, ?_⟩
    rw [engine]
    exact ⟨rfl, rfl, rfl, rfl, rfl, fun r _ => startedWith_reg .., rfl, others⟩
  case limit => exact fun hs ht hd => becomes_of_setWe (taskTimeLimit_hits hs ht hd)
  case watchdog =>
    intro third hd ha hp hc hb hag hs hre serves
    obtain ⟨t, run, frame, reads, engine, slots, task⟩ :=
      watchdogExpiry_returns ⟨hr, hd, ha, hp, hb, hag, hs, hre⟩ hc serves
    refine ⟨t, run, frame, reads, ?_⟩
    rw [engine, slots]
    refine ⟨rfl, rfl, rfl, rfl, rfl, rfl, ?_⟩
    simpa only [Task.backAt, Bool.or_true] using task
  case reload => exact fun h => becomes_of_setWe (controlStoreReloaded_valid h)
  case read => exact fun hf hw he hs => becomes_of_setWe (hbmTransferComplete_read hf hw he hs)
  case write => exact fun hf hw he hb hs => hbmTransferComplete_write hf hw he hb hs
  case stale => exact fun hf => becomes_of_setWe (hbmTransferComplete_stale hf)
  case offline =>
    intro j hr hc hp
    simpa only [Task.backAt, Bool.or_false] using offline_returns hr hc hp
  case lmRead => exact fun h => lmData_read path h
  case lmWrite => exact fun hr h => becomes_of_setWe (lmData_write path hi hr h)
  case busy => exact fun h => ⟨_, lmData_busy path h, recordErr_frame .., recordErr_sets ..⟩
  case cs => exact fun hn hr => becomes_of_setWe (csData_stores hi hn hr)

end Sys2Proof.Machine
end

section
/-! PROOFS. Copy engines (R235, R236, R342, R344, R382) and the retries of a measure stream (R269): a request that is made
again is accepted or refused by its port alone, and a copy ends with the bytes it has written. -/
namespace Sys2Proof.Machine

/-! ### Stores beside a refusal -/

@[simp] theorem setCe_setCe (s : State) (k : Nat) (v w : Ce) : (s.setCe k v).setCe k w = s.setCe k w := by
  simp only [State.setCe, sput_sput]

@[simp] theorem setMs_setMs (s : State) (k : Nat) (v w : Ms) : (s.setMs k v).setMs k w = s.setMs k w := by
  simp only [State.setMs, sput_sput]

theorem setCe_portRefuses (s : State) (k q : Nat) (v : Ce) : (s.setCe k v).portRefuses q = (s.portRefuses q).setCe k v := rfl

theorem setMs_portRefuses (s : State) (k q : Nat) (v : Ms) : (s.setMs k v).portRefuses q = (s.portRefuses q).setMs k v := rfl

@[simp] theorem portRefuses_ceAt (s : State) (q j : Nat) : (s.portRefuses q).ceAt j = s.ceAt j := rfl
@[simp] theorem portRefuses_msAt (s : State) (q j : Nat) : (s.portRefuses q).msAt j = s.msAt j := rfl

/-- The port alone counts it (R344, R346). -/
@[simp] theorem portRefuses_hportAt (s : State) (q j : Nat) : (s.portRefuses q).hportAt j =
    if j = q then { s.hportAt q with refused := sat32 ((s.hportAt q).refused + 1) } else s.hportAt j :=
  setHport_hportAt ..

/-! ### Requests at a port (R342 to R344) -/

section
variable {port : HbmPort} {a : Nat} {owner : BitVec 16} {s : State}

/-- A request that enters its queue stands behind the others; beside it only its stack notes the time. -/
theorem acceptReq_enters (port : HbmPort) (a : Nat) (owner : BitVec 16) (s : State) : ∃ n : HbmReq,
    s.acceptReq port a owner = { s with hmc := { s.hmc with
      reqs := s.hmc.reqs ++ [n], nextId := s.hmc.nextId + 1, hstacks := (s.acceptReq port a owner).hmc.hstacks } } ∧
    n.port = portNo port ∧ n.addr = a ∧ n.owner = owner.toNat ∧ n.accepted = s.now ∧ n.issued = false := by
  refine ⟨?n, ?frame, ?port, ?addr, ?owner, ?accepted, ?issued⟩
  case frame =>
    unfold State.acceptReq
    dsimp only
    split <;> rfl
  all_goals rfl

theorem acceptReq_ceAt (port : HbmPort) (a : Nat) (owner : BitVec 16) (s : State) (j : Nat) :
    (s.acceptReq port a owner).ceAt j = s.ceAt j := by
  obtain ⟨n, frame, -⟩ := acceptReq_enters port a owner s
  rw [frame]
  rfl

theorem acceptReq_msAt (port : HbmPort) (a : Nat) (owner : BitVec 16) (s : State) (j : Nat) :
    (s.acceptReq port a owner).msAt j = s.msAt j := by
  obtain ⟨n, frame, -⟩ := acceptReq_enters port a owner s
  rw [frame]
  rfl

theorem tryReq_room (h : s.portFull (portNo port) = false) : s.tryReq port a owner = s.acceptReq port a owner :=
  if_pos (by simp [h])

theorem tryReq_full (h : s.portFull (portNo port) = true) (hr : portMayRefuse port = true) :
    s.tryReq port a owner = s.refuseReq (portNo port) a owner.toNat := by
  simp only [State.tryReq, h, hr, not_true, if_false, if_true]

/-- A refusal of a copy engine's request: it counts it and tries again 64 ns later (R235). -/
theorem refuseReq_copy {c q : Nat} (hc : c < 8) (hr : (s.copyRuns c).isSome = true) : s.refuseReq q a (0x330 + c) =
    (s.portRefuses q).setCe c { s.ceAt c with
      refused := sat32 ((s.ceAt c).refused + 1), retries := (s.ceAt c).retries ++ [(a, s.now + 26)] } := by
  have own : 0x330 ≤ 0x330 + c ∧ 0x330 + c < 0x338 ∧ ((s.portRefuses q).copyRuns (0x330 + c - 0x330)).isSome = true := by
    rw [Nat.add_sub_cancel_left]
    exact ⟨by omega, by omega, hr⟩
  rw [State.refuseReq]
  dsimp only
  rw [if_pos own, Nat.add_sub_cancel_left]
  rfl

/-- A refusal of a measure stream's request (R269). -/
theorem refuseReq_stream {m q : Nat} (hm : m < 64) : s.refuseReq q a (0x240 + m) =
    (s.portRefuses q).setMs m { s.msAt m with retries := (s.msAt m).retries ++ [(a, s.now + 26)] } := by
  have no_copy : ¬ (0x330 ≤ 0x240 + m ∧ 0x240 + m < 0x338 ∧
      ((s.portRefuses q).copyRuns (0x240 + m - 0x330)).isSome = true) := by omega
  have own : 0x240 ≤ 0x240 + m ∧ 0x240 + m < 0x280 := by omega
  rw [State.refuseReq]
  dsimp only
  rw [if_neg no_copy, if_pos own, Nat.add_sub_cancel_left]
  rfl

end

/-! ### Retries (R235, R269) -/

section
variable {c : Fin 8} {m : Fin 64} {a edge : Nat} {rest : List (Nat × Nat)} {s : State}

theorem copyRetry_tries (h : (s.ceAt c).retries = (a, edge) :: rest) (he : edge ≤ s.now) : exec (.copyRetry c) s =
    .next ((s.setCe c { s.ceAt c with retries := rest }).tryReq .ha a (BitVec.ofNat 16 (pgCe c))) := by
  change execCopyRetry c s = _
  simp only [execCopyRetry, h, if_pos he, modCe_eq]

theorem swRetry_tries (h : (s.msAt m).retries = (a, edge) :: rest) (he : edge ≤ s.now) : exec (.swRetry m) s =
    .next ((s.setMs m { s.msAt m with retries := rest }).tryReq .sw a (BitVec.ofNat 16 (pgMsf m))) := by
  change execSwRetry m s = _
  simp only [execSwRetry, h, if_pos he, modMs_eq]

theorem pgCe_toNat (c : Fin 8) : (BitVec.ofNat 16 (pgCe c)).toNat = 0x330 + c :=
  Nat.mod_eq_of_lt (by unfold pgCe; omega)

theorem pgMsf_toNat (m : Fin 64) : (BitVec.ofNat 16 (pgMsf m)).toNat = 0x240 + m :=
  Nat.mod_eq_of_lt (by unfold pgMsf; omega)

theorem copyRetry_accepted (h : (s.ceAt c).retries = (a, edge) :: rest) (he : edge ≤ s.now) (room : s.portFull 6 = false) :
    ∃ t n, exec (.copyRetry c) s = .next t ∧ t = { s with ce := t.ce, hmc := { s.hmc with
        reqs := s.hmc.reqs ++ [n], nextId := s.hmc.nextId + 1, hstacks := t.hmc.hstacks } } ∧
      Becomes State.ceAt c { s.ceAt c with retries := rest } s t ∧ n.port = 6 ∧ n.addr = a ∧ n.owner = 0x330 + c.val ∧
      n.accepted = s.now ∧ n.issued = false := by
  have run := copyRetry_tries h he
  rw [tryReq_room (port := .ha) (s := s.setCe c { s.ceAt c with retries := rest }) room] at run
  obtain ⟨n, frame, port, addr, owner, accepted, issued⟩ := acceptReq_enters .ha a (BitVec.ofNat 16 (pgCe c))
    (s.setCe c { s.ceAt c with retries := rest })
  refine ⟨_, n, run, ?_, ⟨by simp [acceptReq_ceAt], fun j hj => by simp [acceptReq_ceAt, hj]⟩, port, addr,
    owner.trans (pgCe_toNat c), accepted, issued⟩
  rw [frame]
  rfl

theorem swRetry_accepted (h : (s.msAt m).retries = (a, edge) :: rest) (he : edge ≤ s.now)
    (room : s.portFull (portNo .sw) = false) :
    ∃ t n, exec (.swRetry m) s = .next t ∧ t = { s with ms := t.ms, hmc := { s.hmc with
        reqs := s.hmc.reqs ++ [n], nextId := s.hmc.nextId + 1, hstacks := t.hmc.hstacks } } ∧
      Becomes State.msAt m { s.msAt m with retries := rest } s t ∧ n.port = portNo .sw ∧ n.addr = a ∧
      n.owner = 0x240 + m.val ∧ n.accepted = s.now ∧ n.issued = false := by
  have run := swRetry_tries h he
  rw [tryReq_room (port := .sw) (s := s.setMs m { s.msAt m with retries := rest }) room] at run
  obtain ⟨n, frame, port, addr, owner, accepted, issued⟩ := acceptReq_enters .sw a (BitVec.ofNat 16 (pgMsf m))
    (s.setMs m { s.msAt m with retries := rest })
  refine ⟨_, n, run, ?_, ⟨by simp [acceptReq_msAt], fun j hj => by simp [acceptReq_msAt, hj]⟩, port, addr,
    owner.trans (pgMsf_toNat m), accepted, issued⟩
  rw [frame]
  rfl

theorem copyRetry_refused (h : (s.ceAt c).retries = (a, edge) :: rest) (he : edge ≤ s.now) (full : s.portFull 6 = true)
    (hr : (s.copyRuns c).isSome = true) : exec (.copyRetry c) s = .next ((s.portRefuses 6).setCe c { s.ceAt c with
      refused := sat32 ((s.ceAt c).refused + 1), retries := rest ++ [(a, s.now + 26)] }) := by
  have refused := tryReq_full (s := s.setCe c { s.ceAt c with retries := rest }) (port := .ha) (a := a)
    (owner := BitVec.ofNat 16 (pgCe c)) full rfl
  rw [pgCe_toNat, refuseReq_copy (s := s.setCe c { s.ceAt c with retries := rest }) c.isLt hr, setCe_portRefuses,
    setCe_setCe] at refused
  rw [copyRetry_tries h he, refused]
  simp [portNo]

theorem swRetry_refused (h : (s.msAt m).retries = (a, edge) :: rest) (he : edge ≤ s.now)
    (full : s.portFull (portNo .sw) = true) : exec (.swRetry m) s =
      .next ((s.portRefuses (portNo .sw)).setMs m { s.msAt m with retries := rest ++ [(a, s.now + 26)] }) := by
  have refused := tryReq_full (s := s.setMs m { s.msAt m with retries := rest }) (port := .sw) (a := a)
    (owner := BitVec.ofNat 16 (pgMsf m)) full rfl
  rw [pgMsf_toNat, refuseReq_stream m.isLt, setMs_portRefuses, setMs_setMs] at refused
  rw [swRetry_tries h he, refused]
  simp

end

/-! ### Ends of a copy (R236, R382) -/

section
variable {c : Fin 8} {i : Nat} {s : State}

/-- What a copy that ends tells the scheduler and shows in its page. -/
theorem copyEnd_eq (s : State) (c : Nat) (st : TaskStatus) (n : Nat) : s.copyEnd c st n =
    (s.setExec (0x20 + c) { s.execAt (0x20 + c) with ended := some (st, 0, n) }).setCe c
      { s.ceAt c with bytes := n, status := st.code } := rfl

theorem fillBytes_length (b : CopyBlock) : b.fillBytes.length = b.len := by simp [CopyBlock.fillBytes]

theorem hbmRead_length (s : State) (a n : Nat) : (s.hbmRead a n).length = n := by simp [State.hbmRead]

/-- The bytes of a copy or fill within HBM. -/
def State.copyData (s : State) (b : CopyBlock) : List Byte := if b.fill then b.fillBytes else s.hbmRead b.src b.len

theorem copyData_length (s : State) (b : CopyBlock) : (s.copyData b).length = b.len := by
  unfold State.copyData
  split
  · exact fillBytes_length b
  · exact hbmRead_length ..

/-- They are read without error. -/
theorem copySource_ok {b : CopyBlock} (h : b.fill = true ∨ (b.srcSpace = 0 ∧ s.readStatus b.src b.len = .ok)) :
    s.copySource b = (.ok, s.copyData b, s) := by
  unfold State.copySource State.copyData
  split
  · rfl
  · next no_fill =>
    obtain ⟨space, status⟩ := h.resolve_left no_fill
    rw [if_neg (by omega), status]

/-- Engine `c` has a copy or fill within HBM that meets no error, block `b`. -/
structure CopiesWithin (c : Fin 8) (b : CopyBlock) (s : State) : Prop where
  block : s.copyBlock c = b
  toHbm : b.dstSpace = 0
  source : b.fill = true ∨ (b.srcSpace = 0 ∧ s.readStatus b.src b.len = .ok)
  blockRead : (s.ceAt c).blockStatus = .ok
  legal : copyRefused b (s.ceAt c).offMask = false
  noAbort : s.abortDue (0x20 + c) = false
  written : (s.hbmHeal b.dst b.len).readStatus b.dst b.len = .ok

/-- Its bytes land and it ends COMPLETE (R236). -/
theorem copyComplete_lands {b : CopyBlock} (h : CopiesWithin c b s) :
    ∃ u, Lands b.dst (s.copyData b) s u ∧ u = { s with hbm := u.hbm, hbmBad := u.hbmBad } ∧
      copyComplete c .ok s = u.copyEnd c .complete b.len := by
  obtain ⟨u, req, lands, frame⟩ := hbmWriteReq_lands_frame (copyData_length s b) h.written
  have within : ¬ (b.usesHost = true ∧ ¬ s.pcie.up = true) := by
    rintro ⟨host, -⟩
    rcases h.source with fill | ⟨space, -⟩
    · simp [CopyBlock.usesHost, h.toHbm, fill] at host
    · simp [CopyBlock.usesHost, h.toHbm, space] at host
  have written : s.copyWrite b (s.copyData b) = (.ok, u) := by rw [State.copyWrite, if_pos h.toHbm, req]
  refine ⟨u, lands, frame, ?_⟩
  simp only [copyComplete, h.block, h.blockRead, h.legal, h.noAbort, within, copySource_ok h.source, written, worstOf, ne_eq,
    not_true, Bool.false_eq_true, if_false, if_true]

theorem copyComplete_ends {b : CopyBlock} (hr : s.copyRuns c = some i) (h : CopiesWithin c b s)
    (free : s.writeBreaks b.dst b.len = none) :
    ∃ t, exec (.copyComplete c .ok) s = .next t ∧
      t = { s with ce := t.ce, sch := { s.sch with execs := t.sch.execs }, hbm := t.hbm, hbmBad := t.hbmBad } ∧
      t.hbm = (s.hbmWrite b.dst (s.copyData b)).hbm ∧ StoresOnly b.dst b.len s t ∧
      Becomes State.execAt (0x20 + c) { s.execAt (0x20 + c) with ended := some (.complete, 0, b.len) } s t ∧
      Becomes State.ceAt c { s.ceAt c with bytes := b.len, status := 0 } s t := by
  obtain ⟨u, lands, frame, done⟩ := copyComplete_lands h
  have run : exec (.copyComplete c .ok) s = .next (copyComplete c .ok s) := by
    change execCopyComplete c .ok s = _
    simp only [execCopyComplete, hr, h.block, h.toHbm, if_true, guardWrite_of_none free]
  have slots (j : Nat) : u.execAt j = s.execAt j := by rw [frame]; rfl
  have engines (j : Nat) : u.ceAt j = s.ceAt j := by rw [frame]; rfl
  have stores := lands.storesOnly
  rw [copyData_length] at stores
  rw [done, copyEnd_eq, slots, engines] at run
  refine ⟨_, run, ?_, lands.hbm, stores, ⟨by simp, fun j hj => by simp [hj, slots]⟩, by simp [TaskStatus.code],
    fun j hj => by simp [hj, engines]⟩
  rw [frame]
  rfl

/-- The source of a copy brings as many bytes as it is asked for, of the host's some free ones. -/
theorem copySource_spec (s : State) (b : CopyBlock) :
    (s.copySource b).2.1.length = b.len ∧ (s.copySource b).2.2 = { s with freeCtr := (s.copySource b).2.2.freeCtr } := by
  unfold State.copySource
  split
  · exact ⟨fillBytes_length b, rfl⟩
  · split
    · exact ⟨freshBytes_length .., rfl⟩
    · exact ⟨hbmRead_length .., rfl⟩

/-- What a stopped copy to the host has written waits for the link, and its length is the count (R236, R382). -/
theorem copyPart_host {b : CopyBlock} (hd : b.dstSpace = 1) (hu : s.pcie.up = false) : ∃ l u,
    s.copyPart b = (l.length, u) ∧ l.length ≤ b.len ∧
    u = { s with freeCtr := u.freeCtr, pcieHeld := s.pcieHeld ++ [.host b.dst l] } := by
  obtain ⟨count, frame⟩ := copySource_spec (s.fresh 64).2 { b with len := (s.fresh 64).1.toNat % (b.len + 1) }
  generalize hx : (s.fresh 64).2.copySource { b with len := (s.fresh 64).1.toNat % (b.len + 1) } = x at count frame
  have down : x.2.2.pcie.up = false := by rw [frame]; exact hu
  have held : x.2.2.copyWrite b x.2.1 = (.ok, { x.2.2 with pcieHeld := x.2.2.pcieHeld ++ [.host b.dst x.2.1] }) := by
    simp [State.copyWrite, hd, State.send, down]
  refine ⟨x.2.1, { x.2.2 with pcieHeld := x.2.2.pcieHeld ++ [.host b.dst x.2.1] }, ?_, ?_, ?_⟩
  · simp only [State.copyPart, hx, held, if_true, count]
  · rw [count]
    exact Nat.le_of_lt_succ (Nat.mod_lt _ (Nat.succ_pos _))
  · rw [frame]
    rfl

/-- 1 ms without a link ends a copy to the host (R382). -/
theorem copyLinkTimeout_ends {b : CopyBlock} (hr : s.copyRuns c = some i) (hb : s.copyBlock c = b) (hu : s.pcie.up = false)
    (hd : b.dstSpace = 1) (down : s.pcie.downAt + 400000 ≤ s.now)
    (long : (s.execAt (0x20 + c)).startAt + 400000 ≤ s.now) :
    ∃ t l, exec (.copyLinkTimeout c) s = .next t ∧ l.length ≤ b.len ∧
      t = { s with ce := t.ce, sch := { s.sch with execs := t.sch.execs }, freeCtr := t.freeCtr, pcieHeld := t.pcieHeld } ∧
      t.pcieHeld = s.pcieHeld ++ [.host b.dst l] ∧
      Becomes State.execAt (0x20 + c) { s.execAt (0x20 + c) with ended := some (.ceError, 0, l.length) } s t ∧
      Becomes State.ceAt c { s.ceAt c with bytes := l.length, status := 6 } s t := by
  obtain ⟨l, u, part, bound, frame⟩ := copyPart_host hd hu
  have due : max s.pcie.downAt (s.execAt (0x20 + c)).startAt + edgesMs ≤ s.now := by
    unfold edgesMs
    omega
  have run : exec (.copyLinkTimeout c) s = .next (u.copyEnd c .ceError l.length) := by
    change execCopyLinkTimeout c s = _
    simp [execCopyLinkTimeout, hr, hb, hu, hd, due, State.copyStopped, part]
  have slots (j : Nat) : u.execAt j = s.execAt j := by rw [frame]; rfl
  have engines (j : Nat) : u.ceAt j = s.ceAt j := by rw [frame]; rfl
  rw [copyEnd_eq, slots, engines] at run
  refine ⟨_, l, run, bound, ?_, ?_, ⟨by simp, fun j hj => by simp [hj, slots]⟩, by simp [TaskStatus.code],
    fun j hj => by simp [hj, engines]⟩
  · rw [frame]
    rfl
  · rw [frame]
    rfl

end

/-- Settles O24: a retry is a request at its port, and a copy that ends has stored its bytes before it reports them. -/
theorem copyEngines : Obligations.CopyEngines := by
  unfold Obligations.CopyEngines
  refine ⟨fun c a edge rest s h he => ⟨?copyAccepted, ?copyRefused⟩,
    fun m a edge rest s h he => ⟨?swAccepted, ?swRefused⟩, fun c i s hr => ⟨?completes, ?timesOut⟩⟩
  case copyAccepted => exact copyRetry_accepted h he
  case copyRefused =>
    intro full running
    exact ⟨_, copyRetry_refused h he full running, rfl, ⟨by simp, fun j hj => by simp [hj]⟩, by simp,
      fun j hj => by simp [hj]⟩
  case swAccepted => exact swRetry_accepted h he
  case swRefused =>
    intro full
    exact ⟨_, swRetry_refused h he full, rfl, ⟨by simp, fun j hj => by simp [hj]⟩, by simp,
      fun j hj => by simp [hj]⟩
  case completes =>
    exact fun hd hs free block legal ha status => copyComplete_ends hr ⟨rfl, hd, hs, block, legal, ha, status⟩ free
  case timesOut => exact fun hu hd down long => copyLinkTimeout_ends hr rfl hu hd down long

end Sys2Proof.Machine
end

section
/-! PROOFS. Task submission (R238 to R242): what a write of a submission port takes over, and how the read of the descriptor it
asks for ends. -/
namespace Sys2Proof.Machine

/-- A unit is all that changes of its kind where every read says so. -/
theorem Becomes.of_reads {α : Type} {unit : State → Nat → α} {k : Nat} {v : α} {s t : State}
    (h : ∀ j, unit t j = if j = k then v else unit s j) : Becomes unit k v s t :=
  ⟨by rw [h, if_pos rfl], fun j hj => by rw [h, if_neg hj]⟩

/-- A pair behind a write of its low word: the high word stands (R389). -/
theorem setReg_reg64_low (page off : Nat) (v : Word32) (s : State) :
    (s.setReg page off v).reg64 page off = v.toNat + 2 ^ 32 * s.regN page (off + 4) := by
  simp [State.reg64, State.regN, setReg_reg]

section
variable {p : Fin 8} {lo : Word32} {res : HbmStatus} {i : Nat} {s : State}

/-! ### The write of SUBPp_ADDR_LO (R240) -/

theorem submit_idle (hs : s.schResetting = false) (hr : s.ready pgSch = true) (idle : (s.portAt p).pending = false) :
    exec (.submit p lo none) s = .next ((s.setReg pgSch (0x200 + 0x10 * p.val) lo).setPort p { s.portAt p with
      pending := true, addr := lo.toNat + 2 ^ 32 * s.regN pgSch (0x204 + 0x10 * p.val), edge := s.now, finals := [] }) := by
  have high : 0x200 + 0x10 * p.val + 4 = 0x204 + 0x10 * p.val := by omega
  change execSubmit p lo none s = _
  simp only [execSubmit, hs, whenReady_of_ready _ hr, idle, Bool.false_eq_true, if_false, setReg_reg64_low, high, setReg_portAt,
    setReg_now]

theorem submit_pending (hs : s.schResetting = false) (hr : s.ready pgSch = true) (busy : (s.portAt p).pending = true) :
    exec (.submit p lo none) s = .next (s.recordErr pgSch 0x0043) := by
  change execSubmit p lo none s = _
  simp only [execSubmit, hs, whenReady_of_ready _ hr, busy, Bool.false_eq_true, if_false, if_true]

/-! ### The descriptor read ends (R240, R241) -/

theorem descriptorReadDone_fails (busy : (s.portAt p).pending = true)
    (failed : worstOf res (s.readStatus (s.portAt p).addr 64) ≠ .ok) : exec (.descriptorReadDone p res) s =
      .next (s.setPort p { s.portAt p with pending := false, code := 2, finals := [] }) := by
  change execDescriptorReadDone p res s = _
  simp only [execDescriptorReadDone, busy, not_true, if_false, if_pos failed]

section
variable (hs : s.schResetting = false) (busy : (s.portAt p).pending = true)
  (read : worstOf res (s.readStatus (s.portAt p).addr 64) = .ok)
include hs busy read

theorem descriptorReadDone_full (full : s.freeEntries ≤ s.reserve) : exec (.descriptorReadDone p res) s =
    .next (s.refuseFull.setPort p { s.portAt p with pending := false, code := 1, finals := [] }) := by
  change execDescriptorReadDone p res s = _
  simp only [execDescriptorReadDone, busy, read, hs, if_pos full, ne_eq, not_true, Bool.false_eq_true, if_false]

theorem descriptorReadDone_takes (room : s.reserve < s.freeEntries) (hi : s.freeIndex = some i) {id : Nat} {u : State}
    (taken : takeEntry i (Desc.ofBytes (s.hbmRead (s.portAt p).addr 64)) (s.portAt p).edge (s.portAt p).finals false s = (id, u)) :
    exec (.descriptorReadDone p res) s =
      .next (u.setPort p { s.portAt p with pending := false, code := 0, id := id, finals := [] }) := by
  change execDescriptorReadDone p res s = _
  simp only [execDescriptorReadDone, busy, read, hs, if_neg (not_le.2 room), hi, taken, ne_eq, not_true, Bool.false_eq_true,
    if_false]

end

/-! ### The entry of an accepted descriptor (R238, R239) -/

/-- The entry a host submission that waits takes, committed at `edge`. -/
def State.submittedEntry (s : State) (i : Nat) (d : Desc) (edge : Nat) : Task :=
  { state := .waiting, gen := if (s.taskAt i).gen ≥ 65535 then 1 else (s.taskAt i).gen + 1, cfg := d.cfg, dep := d.dep,
    subEdge := edge, block := d.block, execMask := d.execMask, release := d.release, tag := d.tag,
    succs := (s.goodSuccs d.succs).eraseDups }

/-- A good descriptor with dependences, whose event has not come, waits in its entry; the ports stay. -/
theorem takeEntry_submitted {d : Desc} {edge : Nat} {finals : List Final} (hb : d.bad = false) (hd : d.dep ≠ 0)
    (hf : firstFinal d finals = none) : ∃ u,
    takeEntry i d edge finals false s = (taskId i (s.submittedEntry i d edge), u) ∧ SchOnly s u ∧
    (∀ j, u.portAt j = s.portAt j) ∧ Becomes State.taskAt i (s.submittedEntry i d edge) s u := by
  refine ⟨?u, ?taken, ?frame, ?ports, ?entry⟩
  case taken =>
    simp only [takeEntry, hb, hd, hf, Bool.false_eq_true, if_false]
    rfl
  case frame => rfl
  case ports => exact fun j => rfl
  case entry => exact .of_reads fun j => setTask_taskAt s i j _

theorem descriptorReadDone_waits (hs : s.schResetting = false) (busy : (s.portAt p).pending = true)
    (read : worstOf res (s.readStatus (s.portAt p).addr 64) = .ok) (room : s.reserve < s.freeEntries)
    (hi : s.freeIndex = some i) {d : Desc} (desc : Desc.ofBytes (s.hbmRead (s.portAt p).addr 64) = d) (hb : d.bad = false)
    (hd : d.dep ≠ 0) (hf : firstFinal d (s.portAt p).finals = none) :
    ∃ t, exec (.descriptorReadDone p res) s = .next t ∧ t = { s with sch := t.sch } ∧
      Becomes State.taskAt i (s.submittedEntry i d (s.portAt p).edge) s t ∧
      Becomes State.portAt p { s.portAt p with
        pending := false, code := 0, id := taskId i (s.submittedEntry i d (s.portAt p).edge), finals := [] } s t := by
  subst desc
  obtain ⟨u, taken, frame, ports, entry⟩ := takeEntry_submitted (i := i) (edge := (s.portAt p).edge) hb hd hf
  exact ⟨_, descriptorReadDone_takes hs busy read room hi taken, frame.trans rfl, entry,
    .of_reads fun j => by rw [setPort_portAt, ports]⟩

end

/-- Settles O14: a write of a port takes the address or is refused, and each end of the descriptor read is one store to the
port beside the entry or the count it brings. -/
theorem taskSubmission : Obligations.TaskSubmission := by
  unfold Obligations.TaskSubmission
  refine fun p lo res s hs => ⟨?idle, ?pending, ?fails, ?full, ?waits⟩
  case idle => exact fun hr idle => ⟨_, submit_idle hs hr idle, rfl, .of_reads fun j => by simp⟩
  case pending => exact fun hr busy => ⟨_, submit_pending hs hr busy, recordErr_frame .., recordErr_sets ..⟩
  case fails =>
    exact fun busy failed => ⟨_, descriptorReadDone_fails busy failed, rfl, .of_reads fun j => setPort_portAt ..⟩
  case full =>
    exact fun busy read full => ⟨_, descriptorReadDone_full hs busy read full, rfl, .of_reads fun j => setPort_portAt ..⟩
  case waits =>
    exact fun i busy read room hi hb hd hf => descriptorReadDone_waits hs busy read room hi rfl hb hd hf

end Sys2Proof.Machine
end

section
/-! PROOFS. Task dispatch (R248, R249): which slot a ready task goes to, and what entering it stores in the task, its executor and
the engine. -/
namespace Sys2Proof.Machine

/-! ### Tasks that enter and leave a running slot (R235, R249) -/

section
variable (s : State) (x i j edge : Nat)

theorem startRunning_frame : s.startRunning x i edge =
    { s with sch := { s.sch with tasks := (s.startRunning x i edge).sch.tasks, execs := (s.startRunning x i edge).sch.execs },
             we := (s.startRunning x i edge).we, ce := (s.startRunning x i edge).ce } := by
  unfold State.startRunning
  dsimp only
  split <;> rfl

@[simp] theorem startRunning_taskAt : (s.startRunning x i edge).taskAt j =
    if j = i then { s.taskAt i with state := .running, executor := x } else s.taskAt j := by
  unfold State.startRunning
  dsimp only
  split <;> exact setTask_taskAt ..

@[simp] theorem startRunning_execAt : (s.startRunning x i edge).execAt j =
    if j = x then { s.execAt x with running := some i, startAt := edge, abort := none, ended := none } else s.execAt j := by
  unfold State.startRunning
  dsimp only
  split <;> exact setExec_execAt ..

end

/-! ### The slot a task goes to (R248) -/

/-- What a search of a rising list finds is the least element that passes. -/
theorem find?_least {l : List Nat} {x : Nat} {p : Nat → Bool} (hl : l.Pairwise (· < ·)) (h : l.find? p = some x) :
    ∀ y ∈ l, y < x → p y = false := by
  obtain ⟨-, before, behind, rfl, fails⟩ := List.find?_eq_some_iff_append.1 h
  intro y hy less
  rcases List.mem_append.1 hy with first | rest
  · simpa using fails y first
  · have later := (List.pairwise_append.1 hl).2.1
    rcases List.mem_cons.1 rest with rfl | rest
    · exact absurd less (lt_irrefl y)
    · exact absurd less (lt_asymm ((List.pairwise_cons.1 later).1 y rest))

theorem execCodes_rises (t : Task) : (execCodes t).Pairwise (· < ·) := by
  unfold execCodes
  split
  · exact (List.pairwise_lt_range.filter _).map _ fun a b less => Nat.add_lt_add_right less 0x20
  · exact List.pairwise_lt_range.filter _

section
variable {t : Task} {x : Nat} {s : State}

/-- The eligible executors of a task, lowest first, as `slotFor` searches them. -/
def State.candidates (s : State) (t : Task) : List Nat := (execCodes t).filter (fun x => s.eligible x)

theorem mem_candidates : x ∈ s.candidates t ↔ x ∈ execCodes t ∧ s.eligible x = true := List.mem_filter

theorem candidates_rise (s : State) (t : Task) : (s.candidates t).Pairwise (· < ·) := (execCodes_rises t).filter _

/-- The running slot is free, and no prefetched task is about to enter it (R249). -/
def ExecSlots.free (v : ExecSlots) : Bool := v.running.isNone ∧ v.prefetch.isNone

/-- The executor is busy, and its prefetch slot is free. -/
def ExecSlots.mayPrefetch (v : ExecSlots) : Bool := v.running.isSome ∧ v.prefetch.isNone

/-- Any free running slot comes before every prefetch slot. -/
theorem slotFor_eq (s : State) (t : Task) : s.slotFor t =
    (((s.candidates t).find? (fun x => (s.execAt x).free)).map (·, true)).or
      (((s.candidates t).find? (fun x => (s.execAt x).mayPrefetch)).map (·, false)) := by
  unfold State.slotFor
  dsimp only
  split
  · next x found =>
    have found : (s.candidates t).find? (fun x => (s.execAt x).free) = some x := found
    rw [found]
    rfl
  · next absent =>
    have absent : (s.candidates t).find? (fun x => (s.execAt x).free) = none := absent
    rw [absent]
    rfl

theorem slotFor_running : s.slotFor t = some (x, true) ↔ (s.candidates t).find? (fun x => (s.execAt x).free) = some x := by
  simp [slotFor_eq, Option.or_eq_some_iff]

theorem slotFor_prefetch : s.slotFor t = some (x, false) ↔
    (s.candidates t).find? (fun x => (s.execAt x).free) = none ∧
    (s.candidates t).find? (fun x => (s.execAt x).mayPrefetch) = some x := by
  simp [slotFor_eq, Option.or_eq_some_iff]

theorem free_iff {v : ExecSlots} : v.free = true ↔ v.running = none ∧ v.prefetch = none := by simp [ExecSlots.free]

theorem mayPrefetch_iff {v : ExecSlots} : v.mayPrefetch = true ↔ v.running ≠ none ∧ v.prefetch = none := by
  simp [ExecSlots.mayPrefetch, Option.isSome_iff_ne_none]

theorem not_free_iff {v : ExecSlots} : v.free = false ↔ v.running ≠ none ∨ v.prefetch ≠ none := by
  rw [← Bool.not_eq_true, free_iff, not_and_or]

/-- A free running slot is that of the lowest-numbered eligible executor which has one. -/
theorem slotFor_running_lowest (h : s.slotFor t = some (x, true)) : x ∈ execCodes t ∧ s.eligible x = true ∧
    (s.execAt x).running = none ∧ (s.execAt x).prefetch = none ∧
    ∀ y ∈ execCodes t, y < x → s.eligible y = true → (s.execAt y).running ≠ none ∨ (s.execAt y).prefetch ≠ none := by
  have found := slotFor_running.1 h
  obtain ⟨code, eligible⟩ := mem_candidates.1 (List.mem_of_find?_eq_some found)
  obtain ⟨running, prefetch⟩ := free_iff.1 (List.find?_some (p := fun x => (s.execAt x).free) found)
  exact ⟨code, eligible, running, prefetch, fun y hy less serves =>
    not_free_iff.1 (find?_least (candidates_rise s t) found y (mem_candidates.2 ⟨hy, serves⟩) less)⟩

/-- A prefetch slot is taken only where no running slot is free, on the lowest-numbered eligible executor which has one. -/
theorem slotFor_prefetch_lowest (h : s.slotFor t = some (x, false)) : x ∈ execCodes t ∧ s.eligible x = true ∧
    (s.execAt x).running ≠ none ∧ (s.execAt x).prefetch = none ∧
    (∀ y ∈ execCodes t, s.eligible y = true → (s.execAt y).running ≠ none ∨ (s.execAt y).prefetch ≠ none) ∧
    ∀ y ∈ execCodes t, y < x → s.eligible y = true → (s.execAt y).prefetch ≠ none := by
  obtain ⟨none_free, found⟩ := slotFor_prefetch.1 h
  obtain ⟨code, eligible⟩ := mem_candidates.1 (List.mem_of_find?_eq_some found)
  obtain ⟨running, prefetch⟩ := mayPrefetch_iff.1 (List.find?_some (p := fun x => (s.execAt x).mayPrefetch) found)
  have taken (y : Nat) (hy : y ∈ execCodes t) (serves : s.eligible y = true) :
      (s.execAt y).running ≠ none ∨ (s.execAt y).prefetch ≠ none :=
    not_free_iff.1 (by simpa using List.find?_eq_none.1 none_free y (mem_candidates.2 ⟨hy, serves⟩))
  refine ⟨code, eligible, running, prefetch, taken, fun y hy less serves empty => ?_⟩
  have busy : (s.execAt y).running ≠ none := (taken y hy serves).resolve_right (not_not_intro empty)
  have passed_over := find?_least (candidates_rise s t) found y (mem_candidates.2 ⟨hy, serves⟩) less
  exact absurd (mayPrefetch_iff.2 ⟨busy, empty⟩) (by simp [passed_over])

end

/-! ### DISPATCH (R248) -/

section
variable {i x : Nat} {s : State}

/-- The scheduler may dispatch, and `i` is the first ready task that has a slot. -/
structure Dispatches (i : Nat) (s : State) : Prop where
  notResetting : s.schResetting = false
  openCycle : s.sch.dispEdge = s.now → s.sch.dispCount < 2
  first : s.readyList.find? (fun j => (s.slotFor (s.taskAt j)).isSome) = some i

theorem Dispatches.permitted (h : Dispatches i s) : ¬ (s.schResetting = true ∨ (s.sch.dispEdge = s.now ∧ s.sch.dispCount ≥ 2)) := by
  rintro (resetting | ⟨now, two⟩)
  · exact absurd resetting (by simp [h.notResetting])
  · exact absurd (h.openCycle now) (not_lt.2 two)

theorem dispatch_runs (h : Dispatches i s) (slot : s.slotFor (s.taskAt i) = some (x, true)) :
    exec .dispatch s = .next (s.noteDispatch.startRunning x i s.now) := by
  change execDispatch s = _
  simp only [execDispatch, if_neg h.permitted, h.first, slot]

theorem dispatch_prefetches (h : Dispatches i s) (slot : s.slotFor (s.taskAt i) = some (x, false)) : exec .dispatch s = .next
    ((s.noteDispatch.setTask i { s.taskAt i with state := .prefetched, executor := x }).setExec x
      { s.execAt x with prefetch := some i }) := by
  change execDispatch s = _
  simp only [execDispatch, if_neg h.permitted, h.first, slot]

end

/-- Settles O15: a dispatch enters one slot, and the searches for it pass over every lower executor that does not fit. -/
theorem taskDispatch : Obligations.TaskDispatch := by
  unfold Obligations.TaskDispatch
  refine ⟨fun i x s hs cycle first => ⟨?running, ?prefetch⟩,
    fun t x s => ⟨slotFor_running_lowest, slotFor_prefetch_lowest⟩⟩
  case running =>
    intro slot
    refine ⟨_, dispatch_runs ⟨hs, cycle, first⟩ slot, ?_, .of_reads fun j => startRunning_taskAt ..,
      .of_reads fun j => startRunning_execAt ..⟩
    rw [startRunning_frame]
    rfl
  case prefetch =>
    intro slot
    exact ⟨_, dispatch_prefetches ⟨hs, cycle, first⟩ slot, rfl, .of_reads fun j => setTask_taskAt ..,
      .of_reads fun j => setExec_execAt ..⟩

end Sys2Proof.Machine
end

section
/-! PROOFS. Task release and completion (R209, R243, R244, R247, R249, R254, R255): how a task leaves the delay list or HELD, what
its completion point leaves of it and of its executor, and how its record goes out. -/
namespace Sys2Proof.Machine

/-! ### Release (R209, R243, R247) -/

section
variable {i : Nat} {s : State}

/-- A task that enters READY in order (R248). -/
def Task.readied (t : Task) (now : Nat) : Task := { t with state := .ready, entered := now + 1, head := 0 }

/-- A task of an executor class that is not wholly retired. -/
def State.Served (s : State) (t : Task) : Prop :=
  (cfgKind t.cfg = 1 ∨ cfgKind t.cfg = 2) ∧ ∃ x ∈ execCodes t, (s.execAt x).retired = false

/-- A task behind its release time that waits for no context becomes READY. -/
theorem advanceTask_readies (behind : (s.taskAt i).state ≠ .waiting)
    (drained : ¬ (cfgEvent (s.taskAt i).cfg = true ∧ s.ctxWaits (s.taskAt i) = true)) (served : s.Served (s.taskAt i)) :
    s.advanceTask i = s.setTask i ((s.taskAt i).readied s.now) := by
  obtain ⟨kind, x, hx, serves⟩ := served
  have executor : ¬ (execCodes (s.taskAt i)).all (fun x => (s.execAt x).retired) = true :=
    fun retired => absurd (List.all_eq_true.1 retired x hx) (by simp [serves])
  have not_nop : cfgKind (s.taskAt i).cfg ≠ 0 := by omega
  have ready : s.advance i = (none, s.setTask i ((s.taskAt i).readied s.now)) := by
    simp only [State.advance, behind, drained, not_nop, executor, false_and, Bool.false_eq_true, if_false]
    rfl
  simp only [State.advanceTask, ready]

/-- One task alone is due at the microsecond `s.micros td` of domain `td`, and nothing else holds it. -/
theorem delayRelease_readies {td : Fin 4} (tick : s.sch.ticks.getD td 0 < s.micros td)
    (due : (s.sch.tasks.filter (fun e => e.2.state = .delayed ∧ cfgTd e.2.cfg = td.val ∧
      tsPassed (shortTs (s.micros td * 400 * 2 ^ 40)) e.2.release)).map Prod.fst = [i])
    (delayed : (s.taskAt i).state = .delayed) (no_event : cfgEvent (s.taskAt i).cfg = false) (served : s.Served (s.taskAt i)) :
    exec (.delayRelease td) s = .next
      ({ s with sch := { s.sch with ticks := s.sch.ticks.set td (s.micros td) } }.setTask i ((s.taskAt i).readied s.now)) := by
  have readies := advanceTask_readies (i := i) (s := { s with sch := { s.sch with ticks := s.sch.ticks.set td (s.micros td) } })
    (fun waiting => by simpa using delayed.symm.trans waiting)
    (fun event => Bool.false_ne_true (no_event.symm.trans event.1)) served
  change execDelayRelease td s = _
  simp only [execDelayRelease, if_neg (not_le.2 tick), due, sortBy, List.foldr, insertBy, foldState_cons, foldState_nil]
  rw [readies]
  rfl

theorem heldRelease_readies {i : Fin 16384} (held : (s.taskAt i).state = .held) (drained : s.ctxWaits (s.taskAt i) = false)
    (served : s.Served (s.taskAt i)) : exec (.heldRelease i) s = .next (s.setTask i ((s.taskAt i).readied s.now)) := by
  have releases : (s.taskAt i).state = .held ∧ ¬ s.ctxWaits (s.taskAt i) = true := ⟨held, by simp [drained]⟩
  have readies := advanceTask_readies (by simp [held]) (fun waits => releases.2 waits.2) served
  change execHeldRelease i s = _
  simp only [execHeldRelease, if_pos releases, readies]

end

/-! ### A running slot empties (R249) -/

section
variable (s : State) (x j : Nat)

theorem clearRunning_frame : s.clearRunning x = { s with
    sch := { s.sch with execs := (s.clearRunning x).sch.execs }, we := (s.clearRunning x).we, ce := (s.clearRunning x).ce } := by
  unfold State.clearRunning
  dsimp only
  split <;> rfl

@[simp] theorem clearRunning_taskAt : (s.clearRunning x).taskAt j = s.taskAt j := by
  rw [clearRunning_frame]
  rfl

@[simp] theorem clearRunning_execAt : (s.clearRunning x).execAt j =
    if j = x then { s.execAt x with running := none, abort := none, ended := none } else s.execAt j := by
  unfold State.clearRunning
  dsimp only
  split <;> exact setExec_execAt ..

end

/-! ### Completion points (R244, R254) -/

section
variable {i x : Nat} {s : State}

/-- A task at its completion point (R244, R254). -/
def Task.completed (t : Task) (st : TaskStatus) (ts : Word64) : Task :=
  { t with state := if cfgNorec t.cfg then .free else .completing, status := st, ts := ts }

/-- The stamp of a completion record: CTRL names its domain (R254). -/
def State.recordStamp (s : State) : Word64 := s.stamp (fld (s.reg pgSch 0x100) 16 2)

theorem completeAll_nil (n : Nat) (s : State) : State.completeAll n [] s = s := by cases n <;> rfl

/-- A completion that no successor sees is one store to its task. -/
theorem completeTask_leaf (h : (s.taskAt i).succs = []) (st : TaskStatus) :
    s.completeTask i st = s.setTask i ((s.taskAt i).completed st s.recordStamp) := by
  simp only [State.completeTask, State.completeAll, h, State.depAll, List.append_nil, completeAll_nil]
  rfl

@[simp] theorem clearRunning_recordStamp (s : State) (x : Nat) : (s.clearRunning x).recordStamp = s.recordStamp := by
  rw [clearRunning_frame]
  rfl

/-- The scheduler has taken the program's status and result and noted the completion point of task `i` (R231, R251). -/
def State.notedEnd (s : State) (i prog result : Nat) : State :=
  let t := s.taskAt i
  let s := s.setTask i { t with prog := prog, result := result }
  { s with sch := { s.sch with ends := s.sch.ends ++ [(s.now, taskId i t)] } }

@[simp] theorem notedEnd_taskAt (s : State) (i prog result j : Nat) : (s.notedEnd i prog result).taskAt j =
    if j = i then { s.taskAt i with prog := prog, result := result } else s.taskAt j := setTask_taskAt ..

@[simp] theorem notedEnd_execAt (s : State) (i prog result j : Nat) :
    (s.notedEnd i prog result).execAt j = s.execAt j := rfl

@[simp] theorem notedEnd_recordStamp (s : State) (i prog result : Nat) :
    (s.notedEnd i prog result).recordStamp = s.recordStamp := rfl

/-- With no abort on its way, a running task that ends leaves its slot and completes. -/
theorem runEnds_unaborted (ha : (s.execAt x).abort = none) (st : TaskStatus) (prog result : Nat) :
    s.runEnds x i st prog result = ((s.notedEnd i prog result).clearRunning x).completeTask i st := by
  simp only [State.runEnds, ha, Option.isSome_none, Bool.or_false, Bool.false_eq_true, false_and, decide_false,
    setTask_execAt, if_false]
  rfl

theorem runEnds_leaf (ha : (s.execAt x).abort = none) (h : (s.taskAt i).succs = []) (st : TaskStatus) (prog result : Nat) :
    s.runEnds x i st prog result = ((s.notedEnd i prog result).clearRunning x).setTask i
      (Task.completed { s.taskAt i with prog := prog, result := result } st s.recordStamp) := by
  have leaf : (((s.notedEnd i prog result).clearRunning x).taskAt i).succs = [] := by simp [h]
  rw [runEnds_unaborted ha, completeTask_leaf leaf]
  simp

/-- The end an executor has reached completes its running task (R244, R249). -/
theorem taskComplete_ends {x : ExecId} {st : TaskStatus} {prog result : Nat}
    (hr : (s.execAt (execCode x)).running = some i) (he : (s.execAt (execCode x)).ended = some (st, prog, result))
    (hl : (s.execAt (execCode x)).lost = 0) :
    exec (.taskComplete x) s = .next (s.runEnds (execCode x) i st prog result) := by
  change execTaskComplete x s = _
  simp only [execTaskComplete, hl, he, State.execEnds, hr, ne_eq, not_true, if_false]

theorem taskComplete_completes {x : ExecId} {st : TaskStatus} {prog result : Nat}
    (hr : (s.execAt (execCode x)).running = some i) (he : (s.execAt (execCode x)).ended = some (st, prog, result))
    (ha : (s.execAt (execCode x)).abort = none) (hl : (s.execAt (execCode x)).lost = 0) (h : (s.taskAt i).succs = []) :
    ∃ t, exec (.taskComplete x) s = .next t ∧ t = { s with sch := t.sch, we := t.we, ce := t.ce } ∧
      Becomes State.taskAt i (Task.completed { s.taskAt i with prog := prog, result := result } st s.recordStamp) s t ∧
      Becomes State.execAt (execCode x) { s.execAt (execCode x) with running := none, ended := none } s t := by
  have run := taskComplete_ends hr he hl
  rw [runEnds_leaf ha h] at run
  refine ⟨_, run, ?frame, .of_reads fun j => ?task, .of_reads fun j => ?slots⟩
  case frame =>
    rw [clearRunning_frame]
    rfl
  case task =>
    rw [setTask_taskAt, clearRunning_taskAt, notedEnd_taskAt]
    split <;> rfl
  case slots =>
    rw [setTask_execAt, clearRunning_execAt, notedEnd_execAt, ← ha]
    rfl

/-- The prefetched task of a free executor enters its running slot (R249). -/
theorem promote_starts (hr : (s.execAt x).running = none) (hp : (s.execAt x).prefetch = some i) :
    s.promote x = (s.setExec x { s.execAt x with prefetch := none }).startRunning x i s.now := by
  simp only [State.promote, hr, hp]

theorem promote_execAt (hr : (s.execAt x).running = none) (hp : (s.execAt x).prefetch = some i) (j : Nat) :
    (s.promote x).execAt j = if j = x then { s.execAt x with
      running := some i, prefetch := none, startAt := s.now, abort := none, ended := none } else s.execAt j := by
  rw [promote_starts hr hp, startRunning_execAt]
  by_cases own : j = x <;> simp [own]

end

/-! ### Completion records (R254, R255, R392) -/

section
variable {s : State}

theorem send_up (hu : s.pcie.up = true) (a : Nat) (l : List Byte) :
    s.send (.host a l) = { s with outbox := s.outbox ++ [.host a l] } := if_pos hu

/-- While the link is up, a signal sends at most its message. -/
theorem signal_up (hu : s.pcie.up = true) (v : Nat) : ∃ l, s.signal v =
    { s with outbox := s.outbox ++ l, msixPend := (s.signal v).msixPend } := by
  unfold State.signal
  split
  · refine ⟨[.msix v], ?_⟩
    simp only [State.send, hu, if_true]
  · exact ⟨[], by rw [List.append_nil]⟩

/-- The event of a ring, and the signal of the ring's own vector where it rises unmasked (R392). -/
theorem raiseRing_cases (s : State) (r : Nat) : ∃ v w,
    s.raiseRing r = (s.setHdr pgSch v).signal w ∨ s.raiseRing r = s.setHdr pgSch v := by
  unfold State.raiseRing
  dsimp only
  exact ⟨_, _, (em _).imp (fun rises => if_pos rises) fun stays => if_neg stays⟩

theorem raiseRing_up (hu : s.pcie.up = true) (r : Nat) : ∃ l, s.raiseRing r =
    { s with hdr := (s.raiseRing r).hdr, outbox := s.outbox ++ l, msixPend := (s.raiseRing r).msixPend } := by
  obtain ⟨v, w, signals | silent⟩ := raiseRing_cases s r
  · obtain ⟨l, sent⟩ := signal_up (s := s.setHdr pgSch v) hu w
    exact ⟨l, by rw [signals, sent]; rfl⟩
  · exact ⟨[], by rw [silent, List.append_nil]; rfl⟩

/-- The record goes to the place of its ring's tail, then the tail moves, then the ring's event rises (R254, R255). -/
theorem completionRecordWrite_sends {i : Fin 16384} (hc : (s.taskAt i).state = .completing)
    (ho : s.ringOpen (cfgRing (s.taskAt i).cfg) = true) (hu : s.pcie.up = true) :
    let v := s.taskAt i
    let r := cfgRing v.cfg
    exec (.completionRecordWrite i) s = .next ((State.raiseRing { s with
      outbox := s.outbox ++ [.host (s.reg64 pgSch (ringOff r) + 32 * (s.sch.tails.getD r 0 % s.regN pgSch (ringOff r + 8)))
        (recordBytesOf i v)],
      sch := { s.sch with tails := s.sch.tails.set r ((s.sch.tails.getD r 0 + 1) % 2 ^ 32) } } r).setTask i
        { v with state := .free }) := by
  have due : (s.taskAt i).state = .completing ∧ s.ringOpen (cfgRing (s.taskAt i).cfg) = true := ⟨hc, ho⟩
  change execCompletionRecordWrite i s = _
  simp only [execCompletionRecordWrite, if_pos due, send_up hu]

theorem ringOff_size (r : Nat) : ringOff r + 8 = 0x308 + 0x20 * r := by
  unfold ringOff
  omega

theorem completionRecordWrite_frees {i : Fin 16384} (hc : (s.taskAt i).state = .completing)
    (ho : s.ringOpen (cfgRing (s.taskAt i).cfg) = true) (hu : s.pcie.up = true) :
    let v := s.taskAt i
    let r := cfgRing v.cfg
    ∃ t l, exec (.completionRecordWrite i) s = .next t ∧
      t = { s with sch := t.sch, hdr := t.hdr, outbox := t.outbox, msixPend := t.msixPend } ∧
      t.outbox = s.outbox ++ .host (s.reg64 pgSch (ringOff r) +
        32 * (s.sch.tails.getD r 0 % s.regN pgSch (0x308 + 0x20 * r))) (recordBytesOf i v) :: l ∧
      t.sch.tails = s.sch.tails.set r ((s.sch.tails.getD r 0 + 1) % 2 ^ 32) ∧
      Becomes State.taskAt i { v with state := .free } s t := by
  intro v r
  have run := completionRecordWrite_sends hc ho hu
  dsimp only at run
  rw [ringOff_size] at run
  generalize hm : ({ s with outbox := _, sch := _ } : State) = m at run
  have up : m.pcie.up = true := by rw [← hm]; exact hu
  obtain ⟨l, rung⟩ := raiseRing_up up r
  refine ⟨_, l, run, ?frame, ?sent, ?tail, .of_reads fun j => ?entry⟩
  case frame =>
    rw [rung, ← hm]
    rfl
  case sent =>
    rw [rung, ← hm]
    exact List.append_assoc ..
  case tail =>
    rw [rung, ← hm]
    rfl
  case entry =>
    rw [rung, ← hm]
    exact setTask_taskAt ..

end

/-- Settles O16: a release is one store to its task, a completion point empties the slot before it, and a record goes out
before its entry is free. -/
theorem taskReleaseAndCompletion : Obligations.TaskReleaseAndCompletion := by
  unfold Obligations.TaskReleaseAndCompletion
  refine ⟨fun td i s => ⟨?delay, ?held⟩, fun x i prog result st s => ⟨?completes, ?promotes, ?record⟩⟩
  case delay =>
    exact fun tick due delayed no_event served => ⟨_, delayRelease_readies tick due delayed no_event served, rfl, rfl,
      .of_reads fun j => setTask_taskAt ..⟩
  case held =>
    exact fun held drained served => ⟨_, heldRelease_readies held drained served, rfl, .of_reads fun j => setTask_taskAt ..⟩
  case completes => exact fun hr he ha hl h => taskComplete_completes hr he ha hl h
  case promotes =>
    exact fun hr hp => ⟨.of_reads fun j => by rw [promote_starts hr hp]; exact startRunning_taskAt ..,
      .of_reads (promote_execAt hr hp)⟩
  case record => exact completionRecordWrite_frees

end Sys2Proof.Machine
end

section
/-! PROOFS. Cancel (R250, R251): what a write of CANCEL.GO does to the task that CANCEL_ID names, by the state the task is in. -/
namespace Sys2Proof.Machine

theorem taskCancel_runs {s : State} (hr : s.ready pgSch = true) : exec .taskCancel s = .next (cancelTask s) := by
  change execTaskCancel s = _
  rw [execTaskCancel, whenReady_of_ready _ hr]

/-- The completion point of the named task fell in this cycle and its entry is free again: completion won (R251). -/
theorem cancelTask_completed {s : State} (ends : s.sch.ends.contains (s.now, s.regN pgSch 0x108) = true)
    (no_task : s.named (s.regN pgSch 0x108) = none) : cancelTask s = s.setCancel 3 := by
  simp only [cancelTask, if_pos ends, no_task]

theorem cancelTask_not_found {s : State} (ends : s.sch.ends.contains (s.now, s.regN pgSch 0x108) = false)
    (no_task : s.named (s.regN pgSch 0x108) = none) : cancelTask s = s.setCancel 4 := by
  simp only [cancelTask, ends, no_task, Bool.false_eq_true, if_false]

@[simp] theorem setCancel_taskAt (s : State) (code j : Nat) : (s.setCancel code).taskAt j = s.taskAt j := rfl
@[simp] theorem setCancel_execAt (s : State) (code j : Nat) : (s.setCancel code).execAt j = s.execAt j := rfl

/-- CANCEL_ID names entry `i`, whose completion point is not in this cycle. -/
structure Cancels (i : Nat) (s : State) : Prop where
  ends : s.sch.ends.contains (s.now, s.regN pgSch 0x108) = false
  named : s.named (s.regN pgSch 0x108) = some i

section
variable {i : Nat} {s : State}

/-! ### The slot of a cancelled task -/

theorem dropSlot_none (hp : (s.execAt (s.taskAt i).executor).prefetch ≠ some i)
    (hr : (s.execAt (s.taskAt i).executor).running ≠ some i) : s.dropSlot i = s := by
  simp only [State.dropSlot, if_neg hp, if_neg hr]

theorem dropSlot_running (hp : (s.execAt (s.taskAt i).executor).prefetch = none)
    (hr : (s.execAt (s.taskAt i).executor).running = some i) : s.dropSlot i = s.clearRunning (s.taskAt i).executor := by
  have not_prefetched : (s.execAt (s.taskAt i).executor).prefetch ≠ some i := by simp [hp]
  simp only [State.dropSlot, if_neg not_prefetched, if_pos hr]

/-! ### A task that has not reached a slot (R250) -/

theorem cancelTask_ready (h : Cancels i s) (ready : (s.taskAt i).state = .ready) :
    cancelTask s = ((s.dropSlot i).completeTask i .cancelled).setCancel 0 := by
  simp only [cancelTask, h.ends, h.named, ready, Bool.false_eq_true, if_false]

theorem cancelTask_ready_leaf (h : Cancels i s) (ready : (s.taskAt i).state = .ready) (leaf : (s.taskAt i).succs = [])
    (hp : (s.execAt (s.taskAt i).executor).prefetch ≠ some i) (hr : (s.execAt (s.taskAt i).executor).running ≠ some i) :
    cancelTask s = (s.setTask i ((s.taskAt i).completed .cancelled s.recordStamp)).setCancel 0 := by
  rw [cancelTask_ready h ready, dropSlot_none hp hr, completeTask_leaf leaf]

/-! ### A running task (R250, R251) -/

theorem cancelTask_started_now (h : Cancels i s) (running : (s.taskAt i).state = .running)
    (now : (s.execAt (s.taskAt i).executor).startAt = s.now) :
    cancelTask s = ((s.dropSlot i).completeTask i .cancelled).setCancel 0 := by
  simp only [cancelTask, h.ends, h.named, running, now, Bool.false_eq_true, if_false, if_true]

theorem cancelTask_ended (h : Cancels i s) (running : (s.taskAt i).state = .running)
    (earlier : (s.execAt (s.taskAt i).executor).startAt ≠ s.now) (ended : (s.execAt (s.taskAt i).executor).ended ≠ none) :
    cancelTask s = (s.setTask i { s.taskAt i with abortLate := true }).setCancel 3 := by
  have has_end : (s.execAt (s.taskAt i).executor).ended.isSome = true := Option.isSome_iff_ne_none.2 ended
  simp only [cancelTask, h.ends, h.named, running, if_neg earlier, if_pos has_end, Bool.false_eq_true, if_false]

theorem cancelTask_aborts (h : Cancels i s) (running : (s.taskAt i).state = .running)
    (earlier : (s.execAt (s.taskAt i).executor).startAt ≠ s.now) (going : (s.execAt (s.taskAt i).executor).ended = none)
    (unaborted : (s.execAt (s.taskAt i).executor).abort = none) : cancelTask s = { s with sch := { s.sch with
      execs := sput s.sch.execs (s.taskAt i).executor { s.execAt (s.taskAt i).executor with abort := some s.now },
      cancelCode := 1, cancelPending := some (s.regN pgSch 0x108) } } := by
  simp only [cancelTask, h.ends, h.named, running, if_neg earlier, going, unaborted, Option.isSome_none, Bool.false_eq_true,
    if_false]
  rfl

/-- A task that entered its slot in this very cycle leaves it and completes as CANCELLED (R251). -/
theorem cancelTask_started_now_leaf (h : Cancels i s) (running : (s.taskAt i).state = .running)
    (now : (s.execAt (s.taskAt i).executor).startAt = s.now) (leaf : (s.taskAt i).succs = [])
    (hp : (s.execAt (s.taskAt i).executor).prefetch = none) (hr : (s.execAt (s.taskAt i).executor).running = some i) :
    cancelTask s = ((s.clearRunning (s.taskAt i).executor).setTask i
      ((s.taskAt i).completed .cancelled s.recordStamp)).setCancel 0 := by
  have leaf : ((s.clearRunning (s.taskAt i).executor).taskAt i).succs = [] := by rw [clearRunning_taskAt, leaf]
  rw [cancelTask_started_now h running now, dropSlot_running hp hr, completeTask_leaf leaf, clearRunning_taskAt,
    clearRunning_recordStamp]

end

/-- Settles O17: each state a named task may be in has its own outcome, and each is one store to the task, or to the slots it
stands in, beside the answer. -/
theorem taskCancel : Obligations.TaskCancel := by
  unfold Obligations.TaskCancel
  intro i s hr
  rw [taskCancel_runs hr]
  refine ⟨fun ends no_task => ?completed, fun ends => ⟨?notFound, ?ready, ?aborts, ?startedNow, ?ended⟩⟩
  case completed => rw [cancelTask_completed ends no_task]; rfl
  case notFound =>
    intro no_task
    rw [cancelTask_not_found ends no_task]
    rfl
  case ready =>
    intro named ready leaf hp hr
    rw [cancelTask_ready_leaf ⟨ends, named⟩ ready leaf hp hr]
    exact ⟨_, rfl, rfl, .of_reads fun j => by rw [setCancel_taskAt]; exact setTask_taskAt ..⟩
  case aborts =>
    intro named running earlier going unaborted
    rw [cancelTask_aborts ⟨ends, named⟩ running earlier going unaborted]
    exact ⟨_, rfl, rfl, .of_reads fun j => sget_sput ..⟩
  case startedNow =>
    intro named running now leaf hp hr
    rw [cancelTask_started_now_leaf ⟨ends, named⟩ running now leaf hp hr]
    refine ⟨_, rfl, ?frame, rfl, ?status, ?slot⟩
    case frame =>
      rw [clearRunning_frame]
      rfl
    case status =>
      rw [setCancel_taskAt, setTask_taskAt, if_pos rfl]
      rfl
    case slot => rw [setCancel_execAt, setTask_execAt, clearRunning_execAt, if_pos rfl]
  case ended =>
    intro named running earlier ended
    rw [cancelTask_ended ⟨ends, named⟩ running earlier ended]
    exact ⟨_, rfl, rfl, .of_reads fun j => by rw [setCancel_taskAt, setTask_taskAt]⟩

end Sys2Proof.Machine
end

section
/-! PROOFS. Commands to measure and source streams (R256 to R266): each is a store to the run of one stream, beside a message to its
PE where the stream binds, switches or ends. -/
namespace Sys2Proof.Machine

/-! ### Stores to one stream -/

section
variable (s : State)

@[simp] theorem setSs_setSs (k : Nat) (v w : Ss) : (s.setSs k v).setSs k w = s.setSs k w := by
  simp only [State.setSs, sput_sput]

@[simp] theorem setMs_runAt (i : Fin 64) (v : Ms) (n : StreamId) :
    (s.setMs i v).runAt n = if n = .ms i then v.run else s.runAt n := by
  cases n <;> simp [State.runAt, apply_ite Ms.run, Fin.ext_iff]

@[simp] theorem setSs_runAt (i : Fin 64) (v : Ss) (n : StreamId) :
    (s.setSs i v).runAt n = if n = .ss i then v.run else s.runAt n := by
  cases n <;> simp [State.runAt, apply_ite Ss.run, Fin.ext_iff]

@[simp] theorem setRun_runAt (m n : StreamId) (r : StrRun) : (s.setRun m r).runAt n = if n = m then r else s.runAt n := by
  cases m <;> simp [State.setRun]

theorem setRun_frame (m : StreamId) (r : StrRun) :
    s.setRun m r = { s with ms := (s.setRun m r).ms, ss := (s.setRun m r).ss } := by
  cases m <;> rfl

@[simp] theorem setRun_reg (m : StreamId) (r : StrRun) (p o : Nat) : (s.setRun m r).reg p o = s.reg p o := by
  rw [setRun_frame]; rfl

@[simp] theorem setReg_runAt (p o : Nat) (w : Word32) (n : StreamId) : (s.setReg p o w).runAt n = s.runAt n := by cases n <;> rfl
@[simp] theorem peFrame_runAt (j ftype : Nat) (l : List Word32) (n : StreamId) :
    (s.peFrame j ftype l).runAt n = s.runAt n := by cases n <;> rfl
@[simp] theorem peCtrl_runAt (j : Nat) (op : PeOp) (n : StreamId) : (s.peCtrl j op).runAt n = s.runAt n := by cases n <;> rfl
@[simp] theorem peCtrl_msAt (j k : Nat) (op : PeOp) : (s.peCtrl j op).msAt k = s.msAt k := rfl
@[simp] theorem sendSample_runAt (m n : StreamId) (k : Nat) (v : Int) (stale : Bool) :
    (s.sendSample m k v stale).runAt n = s.runAt n := peFrame_runAt ..
@[simp] theorem recordErr_runAt (p : Nat) (c : BitVec 16) (info : Word32) (n : StreamId) :
    (s.recordErr p c info).runAt n = s.runAt n := by
  rw [recordErr_frame]; cases n <;> rfl

theorem sendSample_frame (m : StreamId) (k : Nat) (v : Int) (stale : Bool) : s.sendSample m k v stale =
    { s with pl := (s.sendSample m k v stale).pl, outbox := (s.sendSample m k v stale).outbox } := rfl

end

/-- A command that is one store to a measure stream changes nothing else. -/
theorem becomes_of_setMs {c : Instr} {s : State} {i : Nat} {v : Ms} (run : exec c s = .next (s.setMs i v)) :
    ∃ t, exec c s = .next t ∧ t = { s with ms := t.ms } ∧ Becomes State.msAt i v s t :=
  ⟨_, run, rfl, by simp, fun j hj => by simp [hj]⟩

theorem becomes_of_setSs {c : Instr} {s : State} {i : Nat} {v : Ss} (run : exec c s = .next (s.setSs i v)) :
    ∃ t, exec c s = .next t ∧ t = { s with ss := t.ss } ∧ Becomes State.ssAt i v s t :=
  ⟨_, run, rfl, by simp, fun j hj => by simp [hj]⟩

/-- From `s` to `t` the run of stream `m` has become `r`, and that of no other stream has changed. -/
def RunBecomes (m : StreamId) (r : StrRun) (s t : State) : Prop := ∀ n, t.runAt n = if n = m then r else s.runAt n

section
variable {m : StreamId} {r : StrRun} {s t : State}

theorem RunBecomes.self (h : RunBecomes m r s t) : t.runAt m = r := (h m).trans (if_pos rfl)

theorem RunBecomes.other (h : RunBecomes m r s t) (n : StreamId) (hn : n ≠ m) : t.runAt n = s.runAt n :=
  (h n).trans (if_neg hn)

end

section
variable {i : Fin 64} {m : StreamId} {s : State}

/-! ### Arm (R256, R258) -/

theorem streamArm_runs (hr : s.ready (pgStr m) = true) : exec (.streamArm m) s = .next (streamArm m s) := by
  change execStreamArm m s = _
  rw [execStreamArm, whenReady_of_ready _ hr]

/-- The four checks of R258 passed. -/
theorem streamArm_accepts (idle : (s.runAt m).inProgress = false) (free : s.convBusy m (s.strConv m) = false)
    (up : (s.plAt (s.strPl m)).state = .up) (good : s.strCfgBad m = none) : streamArm m s = s.strArmed m := by
  simp only [streamArm, idle, free, up, good, ne_eq, not_true, Bool.false_eq_true, if_false]

theorem streamArm_busy (idle : (s.runAt m).inProgress = false) (busy : s.convBusy m (s.strConv m) = true) :
    streamArm m s = (s.strCmd m 0x10).recordErr (pgStr m) 0x0020 := by
  simp only [streamArm, idle, busy, Bool.false_eq_true, if_false, if_true]

/-- With nothing staged for its converter no correction enters force (R326). -/
theorem convEnter_none (h : s.cal.stagedConv.find? (fun x => x.1 = strNo m) = none) (e k : Nat) : s.convEnter m e k = s := by
  simp only [State.convEnter, h]

/-- An accepted arm is a store to its stream, two result registers of a measure stream, and a message to the PE; the grid's phase
comes from a free value (R258, R260). -/
theorem strArmed_runBecomes (h : s.cal.stagedConv.find? (fun x => x.1 = strNo m) = none) :
    RunBecomes m ((s.runAt m).rearm (s.now * 4096 + (s.fresh 64).1.toNat % s.strT m)) s (s.strArmed m) := by
  intro n
  have unstaged (e k : Nat) : (s.fresh 64).2.convEnter m e k = (s.fresh 64).2 := convEnter_none (s := (s.fresh 64).2) h e k
  have runs (k : StreamId) : (s.fresh 64).2.runAt k = s.runAt k := by cases k <;> rfl
  cases m <;> simp only [State.strArmed, unstaged, peCtrl_runAt, setReg_runAt, setMs_runAt, setSs_runAt, runs] <;> rfl

theorem strArmed_frame (h : s.cal.stagedConv.find? (fun x => x.1 = strNo m) = none) : s.strArmed m = { s with
    ms := (s.strArmed m).ms, ss := (s.strArmed m).ss, regs := (s.strArmed m).regs, pl := (s.strArmed m).pl,
    outbox := (s.strArmed m).outbox, freeCtr := (s.strArmed m).freeCtr } := by
  have unstaged (e k : Nat) : (s.fresh 64).2.convEnter m e k = (s.fresh 64).2 := convEnter_none (s := (s.fresh 64).2) h e k
  cases m <;> simp only [State.strArmed, unstaged] <;> rfl

/-! ### The PE's acknowledge (R258) -/

/-- A run that enters ARMED in cycle `now`. -/
def StrRun.armed (r : StrRun) (now : Nat) (late : Bool) : StrRun :=
  { r with state := .armed, cause := .none, arming := false, armedAt := now, lateStart := late }

/-- The start instant of a stream that starts by a time compare has passed (R259). -/
def State.startPassed (s : State) (m : StreamId) : Bool :=
  s.strSrc m = 1 ∧ tsPassed (s.stamp (s.strTd m)) (s.strStartTime m)

@[simp] theorem setMs_startPassed (s : State) (k : Nat) (v : Ms) (m : StreamId) :
    (s.setMs k v).startPassed m = s.startPassed m := rfl

/-- A measure stream has no prefill: acknowledged and not held by CAL, it enters ARMED. -/
theorem strTryArmed_measure (arming : (s.msAt i).run.arming = true) (acked : (s.msAt i).run.acked = true)
    (free : (s.msAt i).run.held = false) : s.strTryArmed (.ms i) =
      s.setMs i { s.msAt i with run := (s.msAt i).run.armed s.now (s.startPassed (.ms i)) } :=
  if_pos ⟨arming, acked, rfl, by simp [State.runAt, free]⟩

theorem streamArmAck_measure (arming : (s.msAt i).run.arming = true) (free : (s.msAt i).run.held = false) :
    exec (.streamArmAck (.ms i)) s = .next (s.setMs i { s.msAt i with
      run := StrRun.armed { (s.msAt i).run with acked := true } s.now (s.startPassed (.ms i)) }) := by
  have run : exec (.streamArmAck (.ms i)) s =
      .next ((s.setMs i { s.msAt i with run := { (s.msAt i).run with acked := true } }).strTryArmed (.ms i)) :=
    congrArg Host.Outcome.next (if_pos arming)
  rw [run, strTryArmed_measure (by simpa using arming) (by simp) (by simpa using free)]
  simp only [setMs_msAt, if_true, setMs_setMs, setMs_now, setMs_startPassed]

/-- A source stream waits on for its prefill (R271). -/
theorem streamArmAck_source (arming : (s.ssAt i).run.arming = true) (short : (s.ssAt i).prefilled = false) :
    exec (.streamArmAck (.ss i)) s = .next (s.setSs i { s.ssAt i with run := { (s.ssAt i).run with acked := true } }) := by
  have run : exec (.streamArmAck (.ss i)) s =
      .next ((s.setSs i { s.ssAt i with run := { (s.ssAt i).run with acked := true } }).strTryArmed (.ss i)) :=
    congrArg Host.Outcome.next (if_pos arming)
  have short_still : Ss.prefilled { s.ssAt i with run := { (s.ssAt i).run with acked := true } } = false := short
  rw [run]
  simp [State.strTryArmed, short_still]

/-! ### Start, stop, clear (R257, R259 to R261) -/

/-- The run of a stream that starts at instant `t`: its first sample falls on the first grid index from `t` on. -/
def State.startedRun (s : State) (m : StreamId) (t : Nat) (late : Bool) : StrRun :=
  { s.runAt m with state := .running, startAt := some t, next := s.gridFrom m t, startLate := late,
                   firstTs := s.stampAt (s.strTd m) (s.gridAt m (s.gridFrom m t)) }

theorem strCmd_gridFrom (code t : Nat) : (s.strCmd m code).gridFrom m t = s.gridFrom m t := by
  simp only [State.gridFrom, State.strT, State.strCmd, setRun_reg, setRun_runAt, if_true]

theorem strStart_runBecomes (t : Nat) (late : Bool) : RunBecomes m (s.startedRun m t late) s (s.strStart m t late) := by
  intro n
  cases m <;> simp only [State.strStart, State.startedRun, setMs_runAt, setSs_runAt]

theorem strStart_frame (t : Nat) (late : Bool) :
    s.strStart m t late = { s with ms := (s.strStart m t late).ms, ss := (s.strStart m t late).ss } := by
  cases m <;> rfl

theorem streamStart_of_armed (hr : s.ready (pgStr m) = true) (armed : (s.runAt m).state = .armed) :
    exec (.streamStart m) s = .next ((s.strCmd m 0).strStart m (s.now * 4096) false) := by
  change execStreamStart m s = _
  simp only [execStreamStart, whenReady_of_ready _ hr, armed, if_true]

/-- The run of a stream that ends (R257). -/
def StrRun.ended (r : StrRun) (st : StrState) (c : StrCause) (now : Nat) : StrRun :=
  { r with state := st, cause := c, arming := false, holdNext := none,
           doneEdge := if c = .complete then now + 1 else r.doneEdge }

/-- An end stores the run; a source stream may send its END_VALUE beside that. -/
theorem strEnd_cases (m : StreamId) (st : StrState) (c : StrCause) (s : State) :
    s.strEnd m st c = s.setRun m ((s.runAt m).ended st c s.now) ∨
    ∃ k v, s.strEnd m st c = (s.setRun m ((s.runAt m).ended st c s.now)).sendSample m k v false := by
  cases m with
  | ms i => exact .inl rfl
  | ss i =>
    by_cases sends : (s.runAt (.ss i)).inProgress = true ∧ c ≠ .underrun ∧ c ≠ .peLinkLost
    · exact .inr ⟨_, _, if_pos sends⟩
    · exact .inl (if_neg sends)

theorem strEnd_runBecomes (m : StreamId) (st : StrState) (c : StrCause) (s : State) :
    RunBecomes m ((s.runAt m).ended st c s.now) s (s.strEnd m st c) := by
  intro n
  obtain stored | ⟨k, v, sent⟩ := strEnd_cases m st c s
  · rw [stored, setRun_runAt]
  · rw [sent, sendSample_runAt, setRun_runAt]

theorem strEnd_frame (m : StreamId) (st : StrState) (c : StrCause) (s : State) : s.strEnd m st c = { s with
    ms := (s.strEnd m st c).ms, ss := (s.strEnd m st c).ss, pl := (s.strEnd m st c).pl,
    outbox := (s.strEnd m st c).outbox } := by
  obtain stored | ⟨k, v, sent⟩ := strEnd_cases m st c s
  · rw [stored, setRun_frame]
  · rw [sent, sendSample_frame, setRun_frame]

theorem streamStop_of_inProgress (hr : s.ready (pgStr m) = true) (going : (s.runAt m).inProgress = true) :
    exec (.streamStop m) s =
      .next ((s.setRun m { s.runAt m with cmd := 0, stopEdge := s.now + 1 }).strEnd m .aborted .hostStop) := by
  change execStreamStop m s = _
  simp only [execStreamStop, whenReady_of_ready _ hr, going, if_true]

theorem streamClear_of_final (hr : s.ready (pgStr m) = true)
    (final : (s.runAt m).state = .done ∨ (s.runAt m).state = .aborted ∨ (s.runAt m).state = .faulted) :
    exec (.streamClear m) s = .next (s.setRun m { s.runAt m with state := .idle, cause := .none, cmd := 0 }) := by
  change execStreamClear m s = _
  simp only [execStreamClear, whenReady_of_ready _ hr, if_pos final]

/-! ### Resets and converter switches of a measure stream (R264 to R266) -/

theorem resync_of_running (running : (s.msAt i).run.state = .running) (hr : s.ready (pgMsf i) = true) :
    exec (.resync i) s = .next (s.setMs i { s.msAt i with resets := (s.msAt i).resets ++ [s.now * 4096] }) := by
  change execResync i s = _
  simp only [execResync, whenReady_of_ready _ hr, running, if_true]

/-- A field of a register as a quotient and a remainder. -/
theorem fld_eq_div_mod {w : Nat} (x : BitVec w) (lsb len : Nat) : fld x lsb len = x.toNat / 2 ^ lsb % 2 ^ len := by
  rw [fld, Nat.shiftRight_eq_div_pow]

/-- NEXT_CONV, the converter that a switch asks for (R266). -/
theorem switchField_eq (s : State) (i : Nat) : fld (s.reg (pgMsf i) 0x110) 24 2 = (s.reg (pgMsf i) 0x110).toNat / 2 ^ 24 % 4 :=
  fld_eq_div_mod ..

/-- SETTLE_EXTRA, the outputs that a switch adds to settle (R266). -/
theorem settleField_eq (s : State) (i : Nat) :
    fld (s.reg (pgMsf i) 0x10C) 16 8 = (s.reg (pgMsf i) 0x10C).toNat / 2 ^ 16 % 256 :=
  fld_eq_div_mod ..

theorem converterSwitch_of_running (running : (s.msAt i).run.state = .running) (hr : s.ready (pgMsf i) = true)
    (free : s.convBusy (.ms i) ((s.reg (pgMsf i) 0x110).toNat / 2 ^ 24 % 4) = false) :
    exec (.converterSwitch i) s = .next ((s.setMs i { s.msAt i with
      switch := some ((s.reg (pgMsf i) 0x110).toNat / 2 ^ 24 % 4, s.now), run := { (s.msAt i).run with cmd := 0 } }).peCtrl
        (s.strPl (.ms i)) (.switch ((s.reg (pgMsf i) 0x110).toNat / 2 ^ 24 % 4))) := by
  change execConverterSwitch i s = _
  simp only [execConverterSwitch, whenReady_of_ready _ hr, running, switchField_eq, free, ne_eq, not_true, Bool.false_eq_true,
    if_false]

/-- SRC with another converter in its field. -/
def bindConv (w : Word32) (c : Nat) : Word32 := (w &&& 0xFFFFFFFC) ||| BitVec.ofNat 32 c

theorem bindConv_conv (w : Word32) {c : Nat} (hc : c < 4) : fld (bindConv w c) 0 2 = c := by
  have low : (0xFFFFFFFC : Word32).toNat % 2 ^ 2 = 0 := by decide
  have kept : (w.toNat &&& (0xFFFFFFFC : Word32).toNat) % 2 ^ 2 = 0 := by
    rw [Nat.and_mod_two_pow, low, Nat.and_zero]
  rw [fld, bindConv, BitVec.toNat_or, BitVec.toNat_and, BitVec.toNat_ofNat, Nat.shiftRight_zero, Nat.or_mod_two_pow, kept,
    Nat.zero_or]
  omega

/-- Measure stream `i` bound to converter `c` (R266). -/
def State.rebound (s : State) (i c : Nat) : State := s.setReg (pgMsf i) 0x110 (bindConv (s.reg (pgMsf i) 0x110) c)

theorem rebound_strConv {c : Nat} (hc : c < 4) : (s.rebound i c).strConv (.ms i) = c := by
  rw [State.strConv, pgStr, State.rebound, setReg_reg, if_pos rfl, bindConv_conv _ hc]

/-- Of its page only the binding changes. -/
theorem rebound_reg {c o : Nat} (ho : o ≠ 0x110) : (s.rebound i c).reg (pgMsf i) o = s.reg (pgMsf i) o := by
  rw [State.rebound, setReg_reg, if_neg (by omega)]

/-- A measure stream behind a reset of its chain: nothing primed, `settle` outputs to settle, and a mean that is kept or starts
afresh (R265, R268). -/
def Ms.restarted (v : Ms) (settle : Nat) (keep prime : Bool) : Ms :=
  { v with chain := [], primed := none, ovr := false, gap := false, unsettled := settle, resyncOut := v.out,
           mean := if keep then v.mean else 0, meanSet := ¬ keep ∧ prime }

theorem msReset_setMs (s : State) (i : Fin 64) (v : Ms) (extra : Nat) : (s.setMs i v).msReset i extra =
    s.setMs i (v.restarted (settleCount (s.msPreset i) + extra) (s.msFreeze i) (s.msPrime i)) := by
  have reset : (s.setMs i v).msReset i extra = (s.setMs i v).setMs i (((s.setMs i v).msAt i).restarted
    (settleCount (s.msPreset i) + extra) (s.msFreeze i) (s.msPrime i)) := rfl
  rw [reset, setMs_setMs, setMs_msAt, if_pos rfl]

theorem modMs_setMs (s : State) (i : Nat) (v : Ms) (f : Ms → Ms) : (s.setMs i v).modMs i f = s.setMs i (f v) := by
  rw [modMs_eq, setMs_setMs, setMs_msAt, if_pos rfl]

/-- The stream whose switch acts before grid index `g`: the switch and the resets that are due go with it (R267). -/
def State.switched (s : State) (i : Fin 64) (g : Nat) : Ms :=
  Ms.restarted { s.msAt i with switch := none, resets := (s.msAt i).resets.filter (fun x => s.gridAt (.ms i) g < x) }
    (settleCount (s.msPreset i) + fld (s.reg (pgMsf i) 0x10C) 16 8) (s.msFreeze i) (s.msPrime i)

/-- At its boundary a switch rebinds the stream and restarts its chain (R265, R266). -/
theorem msEvents_switch {c e g : Nat} (waits : (s.msAt i).switch = some (c, e)) (due : s.switchDue i g = true) :
    s.msEvents i g = (s.rebound i c).setMs i (s.switched i g) := by
  have settle : fld ((s.rebound i c).reg (pgMsf i) 0x10C) 16 8 = fld (s.reg (pgMsf i) 0x10C) 16 8 := by
    rw [rebound_reg (by decide)]
  have preset : (s.rebound i c).msPreset i = s.msPreset i := by rw [State.msPreset, rebound_reg (by decide), State.msPreset]
  have freeze : (s.rebound i c).msFreeze i = s.msFreeze i := by rw [State.msFreeze, rebound_reg (by decide), State.msFreeze]
  have prime : (s.rebound i c).msPrime i = s.msPrime i := by rw [State.msPrime, rebound_reg (by decide), State.msPrime]
  have events : s.msEvents i g = (((s.rebound i c).setMs i { s.msAt i with
      resets := (s.msAt i).resets.filter (fun x => s.gridAt (.ms i) g < x) }).modMs i
        (fun v => { v with switch := none })).msReset i (fld ((s.rebound i c).reg (pgMsf i) 0x10C) 16 8) := by
    simp only [State.msEvents, due, if_true, waits]
    rfl
  rw [events, modMs_setMs, msReset_setMs, settle, preset, freeze, prime]
  rfl

theorem switchEffect_of_due (running : (s.msAt i).run.state = .running)
    (due : s.switchDue i (s.msAt i).run.next = true) (come : s.gridAt (.ms i) (s.msAt i).run.next ≤ s.now * 4096) :
    exec (.switchEffect i) s = .next (s.msEvents i (s.msAt i).run.next) :=
  congrArg Host.Outcome.next (if_pos ⟨running, due, come⟩)

end

/-- Settles O25: each command stores the run of its stream, and an end, an accepted arm or a switch may tell the PE beside that;
a switch in effect also stores the new binding. -/
theorem streamCommands : Obligations.StreamCommands := by
  unfold Obligations.StreamCommands
  refine ⟨fun i m s hr => ⟨?arms, ?busy, ?ackMeasure, ?starts, ?stops, ?clears, ?ackSource⟩,
    fun i c _ s running => ⟨?resync, ?switch, ?effect⟩⟩
  case arms =>
    intro idle free up good unstaged
    have run := streamArm_runs hr
    rw [streamArm_accepts idle free up good] at run
    have runs := strArmed_runBecomes unstaged
    refine ⟨_, run, strArmed_frame unstaged, ?_, ?_, ?_, runs.other⟩ <;> rw [runs.self] <;> rfl
  case busy =>
    intro idle busy
    have run := streamArm_runs hr
    rw [streamArm_busy idle busy] at run
    refine ⟨_, run, ?busyFrame, ?code, ?arming, recordErr_sets ..⟩
    case busyFrame => rw [recordErr_frame, State.strCmd, setRun_frame]
    all_goals simp [State.strCmd]
  case ackMeasure =>
    intro arming free
    obtain ⟨t, run, frame, stream, others⟩ := becomes_of_setMs (streamArmAck_measure arming free)
    refine ⟨t, run, frame, ?_, ?_, ?_, others⟩ <;> rw [stream] <;> rfl
  case starts =>
    intro armed
    have runs := strStart_runBecomes (m := m) (s := s.strCmd m 0) (s.now * 4096) false
    refine ⟨_, streamStart_of_armed hr armed, ?frame, ?state, ?cmd, ?startAt, ?next, ?others⟩
    case frame => rw [strStart_frame, State.strCmd, setRun_frame]
    case others => exact fun n hn => (runs.other n hn).trans (by simp [State.strCmd, hn])
    all_goals rw [runs.self]
    case next => exact strCmd_gridFrom ..
    case cmd => simp [State.startedRun, State.strCmd]
    all_goals rfl
  case stops =>
    intro going
    have runs := strEnd_runBecomes m .aborted .hostStop (s.setRun m { s.runAt m with cmd := 0, stopEdge := s.now + 1 })
    refine ⟨_, streamStop_of_inProgress hr going, ?endFrame, ?endState, ?endCause, ?endCmd, ?otherRuns⟩
    case endFrame => rw [strEnd_frame, setRun_frame]
    case otherRuns => exact fun n hn => (runs.other n hn).trans (by simp [hn])
    all_goals rw [runs.self]
    case endCmd => simp [StrRun.ended]
    all_goals rfl
  case clears =>
    exact fun final => ⟨_, streamClear_of_final hr final, setRun_frame .., by simp, fun n hn => by simp [hn]⟩
  case ackSource =>
    exact fun arming _ short => becomes_of_setSs (streamArmAck_source arming short)
  case resync => exact fun ready => becomes_of_setMs (resync_of_running running ready)
  case switch =>
    exact fun ready free => ⟨_, converterSwitch_of_running running ready free, rfl, by simp, fun j hj => by simp [hj]⟩
  case effect =>
    intro waits hc due come
    refine ⟨_, switchEffect_of_due running due come, ?_⟩
    rw [msEvents_switch waits due]
    have stream : ((s.rebound i c).setMs i (s.switched i (s.msAt i).run.next)).msAt i = s.switched i (s.msAt i).run.next := by
      rw [setMs_msAt, if_pos rfl]
    refine ⟨rfl, rebound_strConv hc, ?_⟩
    rw [stream, ← settleField_eq]
    exact ⟨rfl, rfl, rfl, rfl, fun j hj => by rw [setMs_msAt, if_neg hj]; rfl⟩

end Sys2Proof.Machine
end

section
/-! PROOFS. Samples of measure streams (R262, R263, R269, R278): a block of one sample reaches one stream, whose chain takes the
sample; a block of outputs goes to the ring word by word. -/
namespace Sys2Proof.Machine

/-! ### A frame from the PE (R278) -/

theorem streamFrame_corrupt (pl : Fin 32) (words : List Word32) (s : State) : exec (.streamFrame pl words false) s =
    .next (s.setPl pl { s.plAt pl with crcErr := sat32 ((s.plAt pl).crcErr + 1) }) := rfl

/-- A fold in which one visit alone takes effect. -/
theorem foldState_only {α : Type} {f : α → State → State} {l : List α} {a : α} {s : State} (hl : l.Nodup) (ha : a ∈ l)
    (before : ∀ b ∈ l, b ≠ a → f b s = s) (after : ∀ b ∈ l, b ≠ a → f b (f a s) = f a s) : foldState l f s = f a s := by
  induction l with
  | nil => simp at ha
  | cons b l ih =>
    obtain ⟨hb, hl⟩ := List.nodup_cons.1 hl
    rw [foldState_cons]
    by_cases hba : b = a
    · subst hba
      exact foldState_same fun c hc => after c (List.mem_cons_of_mem _ hc) (fun h => hb (h ▸ hc))
    · rw [before b (by simp) hba]
      exact ih hl ((List.mem_cons.1 ha).resolve_left (Ne.symm hba)) (fun c hc => before c (List.mem_cons_of_mem _ hc))
        (fun c hc => after c (List.mem_cons_of_mem _ hc))

/-- The stream takes the samples of frames: it runs, or a stop of this cycle ended it (R261, R278). -/
def State.frameLive (s : State) (i : Nat) : Bool := (s.msAt i).run.state = .running ∨ (s.msAt i).run.stopEdge = s.now + 1

/-- The stream takes a frame from converter `c` of link `pl`: it is bound to it, or a switch to it waits. -/
def State.frameFor (s : State) (pl c : Nat) (i : Fin 64) : Bool :=
  s.frameLive i ∧ s.strPl (.ms i) = pl ∧ (s.strConv (.ms i) = c ∨ (s.msAt i).switch.any (fun x => x.1 = c))

/-- The visit of a frame to a stream. -/
def takeFrame (pl : Nat) (words : List Word32) (i : Fin 64) (s : State) : State :=
  if s.frameFor pl (fld (words.headD 0) 22 2) i then s.msBlockOrLate i words else s

/-- A frame visits every measure stream. -/
theorem streamFrame_visits {pl : Fin 32} {words : List Word32} {s : State} (up : (s.plAt pl).state = .up)
    (measure : fld (words.headD 0) 24 8 = 0x21) : exec (.streamFrame pl words true) s =
      .next (foldState (List.finRange 64) (takeFrame pl words) s) := by
  change execStreamFrame pl words true s = _
  simp only [execStreamFrame, up, measure, not_true, ne_eq, or_self, if_false]
  congr 2
  funext i s
  cases waits : (s.msAt i).switch <;> simp [takeFrame, State.frameFor, State.frameLive, waits]

theorem takeFrame_other {pl : Nat} {words : List Word32} {i : Fin 64} {s : State}
    (h : (s.msAt i).run.state ≠ .running ∧ (s.msAt i).run.stopEdge ≠ s.now + 1) : takeFrame pl words i s = s :=
  if_neg (by simp [State.frameFor, State.frameLive, h])

/-! ### One input of the chain (R262, R267) -/

section
variable {i : Fin 64} {s : State}

/-- Sample `x` behind offset and gain (R262). -/
def StrRun.correct (r : StrRun) (x : Int) : Rat := (roundDiv ((x - r.corrOfs) * r.corrGain) (2 ^ 18) : Int)

/-- The next input of a RUNNING stream, at grid index `next`, falls inside a span: the chain has inputs, neither the last of them nor
this one ends a span, no switch waits and no reset is due. -/
structure WithinSpan (i : Fin 64) (s : State) : Prop where
  running : (s.msAt i).run.state = .running
  no_switch : (s.msAt i).switch = none
  resets_later : ∀ r ∈ (s.msAt i).resets, s.gridAt (.ms i) (s.msAt i).run.next < r
  chain : (s.msAt i).chain ≠ []
  span_open : (s.msAt i).chain.length % s.msDec i ≠ 0
  span_goes_on : ((s.msAt i).chain.length + 1) % s.msDec i ≠ 0

/-- The stream waits for the input behind the next one. -/
def Ms.passed (v : Ms) : Ms := { v with run := { v.run with next := v.run.next + 1 } }

/-- The stream behind an input that joins its chain. -/
def Ms.joined (v : Ms) (x : Rat) (ovr : Bool) : Ms :=
  { v with chain := v.chain ++ [x], run := { v.run with next := v.run.next + 1 }, ovr := v.ovr || ovr }

/-- No switch waits and no reset is due: the stream stands as before (R267). -/
theorem msEvents_none {g : Nat} (no_switch : (s.msAt i).switch = none)
    (later : ∀ r ∈ (s.msAt i).resets, s.gridAt (.ms i) g < r) : s.msEvents i g = s.setMs i (s.msAt i) := by
  have not_due : s.switchDue i g = false := by simp [State.switchDue, no_switch]
  have none_now : (s.msAt i).resets.any (fun x => decide (x ≤ s.gridAt (.ms i) g)) = false := by
    simpa using later
  have all_wait : (s.msAt i).resets.filter (fun x => decide (s.gridAt (.ms i) g < x)) = (s.msAt i).resets := by
    simpa using later
  simp only [State.msEvents, not_due, none_now, all_wait, Bool.false_eq_true, if_false]

theorem msCorrect_plain (dc_pass : (s.reg (pgMsf i) 0x124).getLsbD 31 = false) (x : Int) :
    s.msCorrect i x = ((s.msAt i).run.correct x, s) := by
  simp only [State.msCorrect, bit, dc_pass, Bool.false_eq_true, if_false, StrRun.correct]

@[simp] theorem setMs_msDec (s : State) (k j : Nat) (v : Ms) : (s.setMs k v).msDec j = s.msDec j := rfl

theorem msChain_within (chain : (s.msAt i).chain ≠ []) (goes_on : ((s.msAt i).chain.length + 1) % s.msDec i ≠ 0) (x : Rat) :
    s.msChain i x = s.setMs i { s.msAt i with chain := (s.msAt i).chain ++ [x] } := by
  simp only [State.msChain, chain, false_and, if_false, setMs_msDec, if_neg goes_on]

theorem msInput_within (h : WithinSpan i s) (dc_pass : (s.reg (pgMsf i) 0x124).getLsbD 31 = false) (x : Int) (ovr : Bool) :
    s.msInput i (s.msAt i).run.next (some x) ovr = s.setMs i ((s.msAt i).joined ((s.msAt i).run.correct x) ovr) := by
  have stored (v : Ms) : (s.setMs i v).msAt i = v := by rw [setMs_msAt, if_pos rfl]
  have events : (s.setMs i (s.msAt i).passed).msEvents i (s.msAt i).run.next = s.setMs i (s.msAt i).passed := by
    have grid : (s.setMs i (s.msAt i).passed).gridAt (.ms i) (s.msAt i).run.next = s.gridAt (.ms i) (s.msAt i).run.next := by
      simp [State.gridAt, State.runAt, State.strT, Ms.passed]
    rw [msEvents_none (by rw [stored]; exact h.no_switch) (by rw [stored, grid]; exact h.resets_later), stored, setMs_setMs]
  have input : s.msInput i (s.msAt i).run.next (some x) ovr =
      (((s.setMs i (s.msAt i).passed).msCorrect i x).2.modMs i
        (fun v => { v with ovr := v.ovr || ovr, gap := v.gap || false })).msChain i
          ((s.setMs i (s.msAt i).passed).msCorrect i x).1 := by
    have goes : ¬ (s.msAt i).run.state ≠ .running := not_not.2 h.running
    simp only [State.msInput, if_neg goes, setMs_msDec, h.span_open, Bool.false_eq_true, if_false]
    rw [← Ms.passed, events]
    rfl
  have corrected : (s.setMs i (s.msAt i).passed).msCorrect i x =
      ((s.msAt i).run.correct x, s.setMs i (s.msAt i).passed) := by
    rw [msCorrect_plain (s := s.setMs i (s.msAt i).passed) dc_pass, stored]
    rfl
  rw [input, corrected, modMs_setMs, msChain_within (by rw [stored]; exact h.chain) (by rw [stored]; exact h.span_goes_on),
    stored, setMs_setMs]
  simp only [Ms.joined, Ms.passed, Bool.or_false]

/-! ### A block of one sample (R278) -/

theorem msBlock_one {h w : Word32} (running : (s.msAt i).run.state = .running) (one : fld h 16 4 = 0)
    (next : s.gridOfSeq i (fld h 0 16) = (s.msAt i).run.next) : s.msBlockOrLate i [h, w] =
      s.msInput i (s.msAt i).run.next (some (w.extractLsb' 0 18).toInt) (w.getLsbD 31) := by
  simp [State.msBlockOrLate, running, State.msBlock, next, one, State.msInputs, bit]

/-- A block of one sample for stream `i` alone. -/
theorem streamFrame_one {pl : Fin 32} {h w : Word32} (up : (s.plAt pl).state = .up) (measure : fld h 24 8 = 0x21)
    (one : fld h 16 4 = 0) (conv : fld h 22 2 = s.strConv (.ms i)) (bound : s.strPl (.ms i) = pl.val)
    (next : s.gridOfSeq i (fld h 0 16) = (s.msAt i).run.next) (span : WithinSpan i s)
    (dc_pass : (s.reg (pgMsf i) 0x124).getLsbD 31 = false)
    (others : ∀ j : Fin 64, j ≠ i → (s.msAt j).run.state ≠ .running ∧ (s.msAt j).run.stopEdge ≠ s.now + 1) :
    exec (.streamFrame pl [h, w] true) s = .next (s.setMs i
      ((s.msAt i).joined ((s.msAt i).run.correct (w.extractLsb' 0 18).toInt) (w.getLsbD 31))) := by
  have takes : takeFrame pl [h, w] i s = s.setMs i
      ((s.msAt i).joined ((s.msAt i).run.correct (w.extractLsb' 0 18).toInt) (w.getLsbD 31)) := by
    rw [takeFrame, if_pos (by simp [State.frameFor, State.frameLive, span.running, bound, conv]),
      msBlock_one span.running one next, msInput_within span dc_pass]
  have alone : foldState (List.finRange 64) (takeFrame pl [h, w]) s = takeFrame pl [h, w] i s := by
    refine foldState_only (List.nodup_finRange 64) (List.mem_finRange i) (fun j _ hj => takeFrame_other (others j hj))
      (fun j _ hj => takeFrame_other ?_)
    rw [takes, setMs_now, setMs_msAt, if_neg (fun same => hj (Fin.ext same))]
    exact others j hj
  rw [streamFrame_visits (words := [h, w]) up measure, alone, takes]

/-! ### A block of outputs goes to the ring (R263, R269) -/

theorem worstOf_eq_ok {a b : HbmStatus} : worstOf a b = .ok ↔ a = .ok ∧ b = .ok := by
  cases a <;> cases b <;> simp [worstOf]

/-- A read ends OK exactly where every byte is in service (R351). -/
theorem readStatus_eq_ok {a n : Nat} : s.readStatus a n = .ok ↔ ∀ j < n, s.addrStatus (a + j) = .ok := by
  have folded (l : List Nat) (r : HbmStatus) : l.foldl (fun r j => worstOf r (s.addrStatus (a + j))) r = .ok ↔
      r = .ok ∧ ∀ j ∈ l, s.addrStatus (a + j) = .ok := by
    induction l generalizing r with
    | nil => simp
    | cons j l ih => rw [List.foldl_cons, ih, worstOf_eq_ok, List.forall_mem_cons, and_assoc]
  exact (folded (List.range n) .ok).trans (by simp)

/-- A write shorter than a block covers none, and clears no mark (R351). -/
theorem hbmHeal_short {a n : Nat} (hn : n < 64) : s.hbmHeal a n = s := by
  simp [State.hbmHeal, Nat.div_eq_of_lt hn]

/-- A write leaves every address in the service it was in. -/
theorem hbmWrite_addrStatus (a : Nat) (l : List Byte) (k : Nat) : (s.hbmWrite a l).addrStatus k = s.addrStatus k := by
  rw [hbmWrite_frame]
  rfl

/-- A word of a ring of `n` words at `base`, by its index. -/
def State.ringPut (s : State) (base n : Nat) (e : Nat × Word32) : State :=
  s.hbmWrite (base + 4 * (e.1 % n)) (leBytes 4 e.2.toNat)

/-- A block of words in a ring. -/
def State.ringWrite (s : State) (base n : Nat) (blk : List (Nat × Word32)) : State :=
  foldState blk (fun e s => s.ringPut base n e) s

section
variable {base n : Nat} (hn : 0 < n) (ring : ∀ j < 4 * n, s.addrStatus (base + j) = .ok)
include hn ring

/-- Where the whole ring is in service, a word's write completes OK and stores the word. -/
theorem hbmWriteReq_ringPut (e : Nat × Word32) :
    s.hbmWriteReq (base + 4 * (e.1 % n)) (leBytes 4 e.2.toNat) .ok = (.ok, s.ringPut base n e) := by
  have inside : e.1 % n < n := Nat.mod_lt _ hn
  have serves : s.readStatus (base + 4 * (e.1 % n)) 4 = .ok :=
    readStatus_eq_ok.2 fun j hj => by rw [Nat.add_assoc]; exact ring _ (by omega)
  have length : (leBytes 4 e.2.toNat).length = 4 := rfl
  simp only [State.hbmWriteReq, length, hbmHeal_short (show 4 < 64 by decide), serves, if_true, State.ringPut]

theorem foldl_hbmWriteReq_ringWrite (blk : List (Nat × Word32)) :
    blk.foldl (fun (a : HbmStatus × State) e =>
      let w := a.2.hbmWriteReq (base + 4 * (e.1 % n)) (leBytes 4 e.2.toNat) .ok
      (worstOf a.1 w.1, w.2)) (HbmStatus.ok, s) = (.ok, s.ringWrite base n blk) := by
  induction blk generalizing s with
  | nil => rfl
  | cons e blk ih =>
    rw [List.foldl_cons, hbmWriteReq_ringPut hn ring]
    exact ih fun j hj => by rw [State.ringPut, hbmWrite_addrStatus]; exact ring j hj

end

/-- A block in a ring changes no byte outside the ring. -/
theorem ringWrite_spec {base n : Nat} (hn : 0 < n) (blk : List (Nat × Word32)) :
    s.ringWrite base n blk = { s with hbm := (s.ringWrite base n blk).hbm } ∧
    StoresOnly base (4 * n) s (s.ringWrite base n blk) := by
  refine foldState_keeps (fun t => t = { s with hbm := t.hbm } ∧ StoresOnly base (4 * n) s t) _ ?_ blk s ⟨rfl, fun _ _ => rfl⟩
  rintro e t ⟨frame, stored⟩
  have inside : e.1 % n < n := Nat.mod_lt _ hn
  have locate (a : Nat) : t.locate a = s.locate a := locate_congr (by rw [frame]) a
  refine ⟨?frame, fun k outside => ?stored⟩
  case frame =>
    rw [State.ringPut, hbmWrite_frame]
    generalize (t.hbmWrite _ _).hbm = bytes
    rw [frame]
  case stored =>
    rw [← stored k outside]
    refine hbmWrite_storesOnly (leBytes 4 e.2.toNat) t _ k fun j hj x hx => ?_
    have short : j < 4 := hj
    exact outside (4 * (e.1 % n) + j) (by omega) x (by rw [← Nat.add_assoc, ← locate]; exact hx)

theorem msfOutputWrite_stores {blk : List (Nat × Word32)} (ready : s.msReady i = some blk)
    (hn : 0 < s.regN (pgMsf i) 0x138 * 1024)
    (unused : s.writeBreaks (s.reg64 (pgMsf i) 0x130) (4 * (s.regN (pgMsf i) 0x138 * 1024)) = none)
    (serves : s.readStatus (s.reg64 (pgMsf i) 0x130) (4 * (s.regN (pgMsf i) 0x138 * 1024)) = .ok) :
    exec (.msfOutputWrite i .ok) s =
      .next ((s.ringWrite (s.reg64 (pgMsf i) 0x130) (s.regN (pgMsf i) 0x138 * 1024) blk).setMs i { s.msAt i with
        buf := (s.msAt i).buf.drop blk.length, outWr := (s.msAt i).outWr + 4 * blk.length }) := by
  change execMsfOutputWrite i .ok s = _
  simp only [execMsfOutputWrite, ready]
  rw [foldl_hbmWriteReq_ringWrite hn (readStatus_eq_ok.1 serves), if_pos rfl, guardArray_of_none unused]

end

end Sys2Proof.Machine
end

section
/-! PROOFS. Samples of source streams (R270 to R276): a granule fetched, a sample sent, a cross-fade asked for and a tap written are
one store to the stream each, beside a frame to the PE or a register. -/
namespace Sys2Proof.Machine

section
variable {i : Fin 64} {s : State}

/-! ### A granule is fetched (R270, R271) -/

/-- The stream behind a granule of its segment that does not end the play. -/
def Ss.fetchedGranule (u : Ss) (l : List Int) : Ss := { u with buf := u.buf ++ l, pos := u.pos + 32 }

theorem ssFetch_granule {addr len plays nxt : Nat} {fin : Bool} (seg : (s.ssAt i).seg = some (addr, len, plays, nxt, fin))
    (more : (s.ssAt i).pos + 32 < len) (room : (s.ssAt i).buf.length + 32 ≤ ssBuffer + 7)
    (serves : s.readStatus (addr + 2 * (s.ssAt i).pos) 64 = .ok) : ssFetch i .ok s =
      s.setSs i ((s.ssAt i).fetchedGranule (samplesOf (s.hbmRead (addr + 2 * (s.ssAt i).pos) 64))) := by
  have served : ¬ worstOf .ok (s.readStatus (addr + 2 * (s.ssAt i).pos) 64) ≠ .ok := by rw [serves]; decide
  simp only [ssFetch, seg, if_neg (Nat.not_lt.2 room), if_neg served, if_pos more, Ss.fetchedGranule]

/-- A stream whose arm is over does not enter ARMED again. -/
theorem strTryArmed_not_arming {m : StreamId} (h : (s.runAt m).arming = false) : s.strTryArmed m = s :=
  if_neg (by simp [h])

theorem sampleFetchComplete_granule {addr len plays nxt : Nat} {fin : Bool} (going : (s.ssAt i).run.inProgress = true)
    (armed : (s.ssAt i).run.arming = false) (unfinished : (s.ssAt i).fetched = false)
    (seg : (s.ssAt i).seg = some (addr, len, plays, nxt, fin)) (more : (s.ssAt i).pos + 32 < len)
    (room : (s.ssAt i).buf.length + 32 ≤ ssBuffer + 7) (serves : s.readStatus (addr + 2 * (s.ssAt i).pos) 64 = .ok) :
    exec (.sampleFetchComplete i .ok) s =
      .next (s.setSs i ((s.ssAt i).fetchedGranule (samplesOf (s.hbmRead (addr + 2 * (s.ssAt i).pos) 64)))) := by
  have run : exec (.sampleFetchComplete i .ok) s = .next ((ssFetch i .ok s).strTryArmed (.ss i)) :=
    congrArg Host.Outcome.next (if_pos ⟨.inr going, by simp [unfinished]⟩)
  rw [run, ssFetch_granule seg more room serves, strTryArmed_not_arming]
  rw [setSs_runAt, if_pos rfl]
  exact armed

/-! ### A sample is sent (R272 to R275, R279) -/

/-- Inside a frame no correction enters and CAL waits (R279). -/
theorem frameBoundary_inside {m : StreamId} {k : Nat} (h : k % s.frameLen m ≠ 0) : s.frameBoundary m k = (false, s) :=
  if_neg h

theorem markSwaps_none {u : Ss} (h : u.swaps = []) (t : Nat) : u.markSwaps t = u := by
  cases u
  subst h
  rfl

/-- The stream behind a sample that it sends at `next`. -/
def Ss.sent (u : Ss) (ratio : Nat) : Ss :=
  Ss.moveOn { u with
    last := clampInt (-32768) 32767 u.corrected, samples := u.samples + 1, run := { u.run with next := u.run.next + 1 },
    clips := sat32 (u.clips + b2n (decide (clampInt (-32768) 32767 u.corrected ≠ u.corrected) && !u.run.held)),
    fade := u.fade.advance } ratio

@[simp] theorem sendSample_reg64 (s : State) (m : StreamId) (k : Nat) (v : Int) (stale : Bool) (p o : Nat) :
    (s.sendSample m k v stale).reg64 p o = s.reg64 p o := rfl

@[simp] theorem sendSample_ssAt (s : State) (m : StreamId) (k : Nat) (v : Int) (stale : Bool) (j : Nat) :
    (s.sendSample m k v stale).ssAt j = s.ssAt j := rfl

theorem ssSample_sends (inside : (s.ssAt i).samples % s.frameLen (.ss i) ≠ 0) (free : (s.ssAt i).run.held = false)
    (no_swaps : (s.ssAt i).swaps = []) (fed : (s.ssAt i).starved = false) (unfinished : (s.ssAt i).fetched = false) :
    ssSample i s = (s.sendSample (.ss i) (s.ssAt i).run.next (clampInt (-32768) 32767 (s.ssAt i).corrected) false).setSs i
      ((s.ssAt i).sent (s.reg64 (pgSsg i) 0x144)) := by
  simp [ssSample, frameBoundary_inside inside, markSwaps_none no_swaps, free, fed, unfinished, Ss.sent]

theorem sourceSampleOutput_running (running : (s.ssAt i).run.state = .running) (started : (s.ssAt i).run.startAt ≠ none)
    (come : s.gridAt (.ss i) (s.ssAt i).run.next ≤ s.now * 4096) : exec (.sourceSampleOutput i) s = .next (ssSample i s) := by
  have due : ¬ ((s.ssAt i).run.startAt.isNone = true ∨ s.now * 4096 < s.gridAt (.ss i) (s.ssAt i).run.next) := by
    simp [started, come]
  change execSourceSampleOutput i s = _
  simp only [execSourceSampleOutput, if_neg due, running, if_true]

/-- A sample is one message to the PE. -/
theorem sendSample_message (m : StreamId) (k : Nat) (v : Int) (stale : Bool) (s : State) : ∃ msg,
    s.sendSample m k v stale = { s with pl := (s.sendSample m k v stale).pl, outbox := s.outbox ++ [msg] } := ⟨_, rfl⟩

/-! ### Cross-fades and taps (R275, R276) -/

/-- SWAP_REQ as it stands in its register. -/
def State.swapAsked (s : State) (i : Nat) (target : Bool) (l : BitVec 16) : State :=
  s.setReg (pgSsg i) 0x124 (BitVec.ofNat 32 (b2n target * 65536 + l.toNat))

theorem fade_decide_other {f : Fade} {target : Bool} (h : target ≠ f.active) (l : Nat) :
    f.decide target l = { f with fade := some (target, 0, l) } :=
  if_neg h

theorem fade_decide_active {f : Fade} {target : Bool} (h : target = f.active) (l : Nat) :
    f.decide target l = { f with noop := true } :=
  if_pos h

/-- With no fade under way and no mark in this cycle, a request is decided at once (R275). -/
theorem swapReq_decides {target : Bool} {l : BitVec 16} (hr : s.ready (pgSsg i) = true)
    (no_mark : (s.ssAt i).markEdge ≠ s.now + 1) (no_fade : (s.ssAt i).fade.fade = none) : exec (.swapReq i target l) s =
      .next ((s.swapAsked i target l).setSs i { s.ssAt i with
        fadeOld := some (s.now + 1, (s.ssAt i).fade), fade := (s.ssAt i).fade.decide target (l.toNat + 1) }) := by
  change execSwapReq i target l s = _
  simp [execSwapReq, whenReady_of_ready _ hr, swapReq, no_mark, Fade.request, no_fade, State.swapAsked]

theorem becomes_of_swapReq {target : Bool} {l : BitVec 16} (hr : s.ready (pgSsg i) = true)
    (no_mark : (s.ssAt i).markEdge ≠ s.now + 1) (no_fade : (s.ssAt i).fade.fade = none) :
    ∃ t, exec (.swapReq i target l) s = .next t ∧ t = { s with ss := t.ss, regs := t.regs } ∧
      (t.ssAt i).fade = (s.ssAt i).fade.decide target (l.toNat + 1) ∧ ∀ j, j ≠ i.val → t.ssAt j = s.ssAt j :=
  ⟨_, swapReq_decides hr no_mark no_fade, rfl, by rw [setSs_ssAt, if_pos rfl], fun j hj => by rw [setSs_ssAt, if_neg hj]; rfl⟩

/-- A word of 18 bits leaves the reserved bits above them 0. -/
theorem reserved_of_lt {c : Word32} (field : c.toNat < 2 ^ 18) : c &&& 0xFFFC0000 = 0 := by
  have own : c &&& 0x3FFFF = c :=
    BitVec.eq_of_toNat_eq ((BitVec.toNat_and ..).trans (Nat.and_two_pow_sub_one_of_lt_two_pow field))
  rw [← own, BitVec.and_assoc]
  exact BitVec.and_zero

theorem coefData_runs {c : Word32} (field : c.toNat < 2 ^ 18) (hr : s.ready (pgSsg i) = true) :
    exec (.coefData i c) s = .next (coefData i c s) := by
  change execCoefData i c s = _
  simp only [execCoefData, reserved_of_lt field, whenReady_of_ready _ hr, ne_eq, not_true, if_false]

/-- The tap that COEF_ADDR names. -/
def State.coefAddr (s : State) (i : Nat) : Nat := s.regN (pgSsg i) 0x130 % 512

theorem coefData_unused {c : Word32} (unused : (s.ssAt i).fade.busy (decide (256 ≤ s.coefAddr i)) = false) :
    coefData i c s = (s.setSs i { s.ssAt i with
      taps := sput (s.ssAt i).taps (s.coefAddr i) (c.extractLsb' 0 18).toInt }).setReg (pgSsg i) 0x134 (c &&& 0x3FFFF) :=
  if_neg (Bool.eq_false_iff.1 unused)

theorem coefData_used {c : Word32} (used : (s.ssAt i).fade.busy (decide (256 ≤ s.coefAddr i)) = true) :
    coefData i c s = s.recordErr (pgSsg i) 0x0045 :=
  if_pos used

end

/-- Settles O26: a frame visits the one stream it is for, a block of outputs is the words of its ring, and what a source stream does
is one store to it. -/
theorem streamSamples : Obligations.StreamSamples := by
  unfold Obligations.StreamSamples
  refine ⟨fun i pl h w words blk s => ⟨?corrupt, ?joins, ?writes⟩,
    fun i target l c s => ⟨?fetches, ?sends, ?fades, ?stays, ?writesTap, ?refusesTap⟩⟩
  case corrupt => exact ⟨_, streamFrame_corrupt pl words s, rfl, .of_reads fun j => setPl_plAt ..⟩
  case joins =>
    intro kind count conv bound up running next no_switch others later chain span_open goes_on dc_pass
    refine becomes_of_setMs (streamFrame_one up ?kind ?count ?conv bound ?next
      ⟨running, no_switch, later, chain, span_open, goes_on⟩ dc_pass others)
    all_goals rw [fld_eq_div_mod]
    case kind => omega
    case count => exact count
    case conv => exact conv
    case next => simpa using next
  case writes =>
    intro ready hn unused serves
    obtain ⟨frame, stored⟩ := ringWrite_spec (s := s) (base := s.reg64 (pgMsf i) 0x130) hn blk
    refine ⟨_, msfOutputWrite_stores ready hn unused serves, ?frame, stored, ?word, ?stream⟩
    case frame => rw [frame]; rfl
    case word => rintro k y rfl; rfl
    case stream =>
      refine ⟨by rw [setMs_msAt, if_pos rfl], fun j hj => ?_⟩
      rw [setMs_msAt, if_neg hj, frame]
      rfl
  case fetches =>
    exact fun addr len plays nxt fin going armed unfinished seg more room serves =>
      becomes_of_setSs (sampleFetchComplete_granule going armed unfinished seg more room serves)
  case sends =>
    intro running started come free inside no_swaps fed unfinished
    have run := sourceSampleOutput_running running started come
    rw [ssSample_sends inside free no_swaps fed unfinished] at run
    obtain ⟨msg, sent⟩ := sendSample_message (.ss i) (s.ssAt i).run.next (clampInt (-32768) 32767 (s.ssAt i).corrected) false s
    refine ⟨_, msg, run, ?sentFrame, ?last, ?samples, ?next, ?acc, ?fade, fun j hj => ?others⟩
    case sentFrame => rw [sent]; rfl
    case others => rw [setSs_ssAt, if_neg hj, sendSample_ssAt]
    all_goals rw [setSs_ssAt, if_pos rfl]; rfl
  case fades =>
    intro hr no_mark no_fade other
    rw [← fade_decide_other other]
    exact becomes_of_swapReq hr no_mark no_fade
  case stays =>
    intro hr no_mark no_fade same
    rw [← fade_decide_active same]
    exact becomes_of_swapReq hr no_mark no_fade
  case writesTap =>
    intro field hr unused
    have run := coefData_runs (i := i) field hr
    rw [coefData_unused unused] at run
    exact ⟨_, run, rfl, .of_reads fun j => setSs_ssAt ..⟩
  case refusesTap =>
    intro field hr used
    have run := coefData_runs (i := i) field hr
    rw [coefData_used used] at run
    exact ⟨_, run, recordErr_frame .., recordErr_sets ..⟩

end Sys2Proof.Machine
end

section
/-! PROOFS. Commands to an interval unit (R293 to R295). An arm, a start, an abort and a clear that are taken up are one store to
the unit each; a refused arm also records its error. -/
namespace Sys2Proof.Machine

section
variable {u : Nat} {s : State}

/-! ### Arm (R293) -/

theorem timEnter_of_unstaged (unstaged : s.cal.stagedTim.find? (fun x => x.1 = u) = none) : s.timEnter u = s := by
  rw [State.timEnter, unstaged]

/-- Without staged corrections, a unit that enters ARMED keeps its command status, its last completion and its corrections alone. -/
theorem timArmed_stores (unstaged : s.cal.stagedTim.find? (fun x => x.1 = u) = none) (v : Tim) : (s.setTim u v).timArmed u =
    s.setTim u { state := .armed, cmd := v.cmd, armedAt := s.now, doneEdge := v.doneEdge, tab := v.tab, taps := v.taps, sync := v.sync,
                 lateStart := decide (s.timSrc u = 1 ∧ tsPassed (s.stamp (s.timTd u)) (s.timStartTime u) = true) } := by
  have unstaged' : (s.setTim u v).cal.stagedTim.find? (fun x => x.1 = u) = none := unstaged
  simp only [State.timArmed, timEnter_of_unstaged unstaged', setTim_timAt, if_true, setTim_setTim]
  rfl

theorem timArm_accepted (resting : (s.timAt u).inProgress = false) (in_range : s.timCfgBad u = false)
    (free : s.timCalBusy u = false) : timArm u s = (s.setTim u { s.timAt u with cmd := 0 }).timArmed u := by
  simp [timArm, resting, in_range, free]

theorem timArm_in_progress (going : (s.timAt u).inProgress = true) :
    timArm u s = (s.setTim u { s.timAt u with cmd := 4 }).recordErr (pgTim u) 0x0023 :=
  if_pos going

/-! ### Abort (R295) -/

/-- A measurement of intervals that the host ends keeps the edge of its last completion. -/
theorem timEnd_hostAbort (intervals : s.timFreq u = false) : s.timEnd u .aborted .hostAbort true =
    s.setTim u { (s.timAt u).withResults with
      state := .aborted, cause := .hostAbort, partialRes := true, shot := none, doneAt := none } := by
  simp [State.timEnd, timResults_interval intervals, Tim.withResults]

theorem timAbort_before_completion (going : (s.timAt u).inProgress = true) (not_due : s.timDue u = false)
    (intervals : s.timFreq u = false) : timAbort u s = s.setTim u { (s.timAt u).withResults with
      state := .aborted, cause := .hostAbort, partialRes := true, shot := none, doneAt := none, cmd := 0 } := by
  simp [timAbort, not_due, going, timEnd_hostAbort intervals]

end

/-! ### The commands on a READY page -/

section
variable {u : Fin 32} {s : State}

theorem timArm_runs (hr : s.ready (pgTim u) = true) : exec (.timArm u) s = .next (timArm u s) :=
  congrArg Host.Outcome.next (whenReady_of_ready _ hr)

theorem timAbort_runs (hr : s.ready (pgTim u) = true) : exec (.timAbort u) s = .next (timAbort u s) :=
  congrArg Host.Outcome.next (whenReady_of_ready _ hr)

theorem timStart_of_armed (hr : s.ready (pgTim u) = true) (armed : (s.timAt u).state = .armed) : exec (.timStart u) s =
    .next ((s.setTim u { s.timAt u with cmd := 0 }).timStart u (s.now * 4096) false) :=
  congrArg Host.Outcome.next ((whenReady_of_ready _ hr).trans (if_pos armed))

/-- The committed start is the unit's alone, with the crystal estimate of the instant and, in frequency mode, its timestamp. -/
theorem timStart_stores (s : State) (u : Nat) (v : Tim) (at_ : Nat) : (s.setTim u v).timStart u at_ false = s.setTim u { v with
    state := .running, startAt := some at_, startLate := false, est := s.xoEst,
    firstTs := if s.timFreq u then s.stampAt (s.timTd u) at_ else v.firstTs } := by
  simp only [State.timStart, setTim_timAt, if_true, setTim_setTim]
  rfl

theorem timClear_of_final (hr : s.ready (pgTim u) = true) (final : (s.timAt u).state = .done ∨ (s.timAt u).state = .aborted) :
    exec (.timClear u) s = .next (s.setTim u { s.timAt u with state := .idle, cause := .none, cmd := 0 }) :=
  congrArg Host.Outcome.next ((whenReady_of_ready _ hr).trans (if_pos final))

end

/-- Settles O27: each command taken up is one store to its unit, and the arm of a unit in progress records NOT_IDLE beside it. -/
theorem intervalUnitCommands : Obligations.IntervalUnitCommands := by
  unfold Obligations.IntervalUnitCommands
  refine fun u s hr => ⟨?accepted, ?refused, ?start, ?abort, ?clear⟩
  case accepted =>
    intro resting in_range free unstaged
    exact TimGoes.of_setTim ((timArm_runs hr).trans (congrArg Host.Outcome.next
      ((timArm_accepted resting in_range free).trans (timArmed_stores unstaged _))))
  case refused =>
    intro going
    have run := timArm_runs hr
    rw [timArm_in_progress going] at run
    refine ⟨_, run, ?frame, .of_reads fun j => ?self, recordErr_sets ..⟩
    all_goals rw [recordErr_frame]
    case frame => rfl
    case self => exact setTim_timAt ..
  case start =>
    intro armed
    exact TimGoes.of_setTim ((timStart_of_armed hr armed).trans (congrArg Host.Outcome.next (timStart_stores ..)))
  case abort =>
    intro going not_due intervals
    refine TimGoes.of_setTim ?_
    rw [timAbort_runs hr, timAbort_before_completion going not_due intervals, Tim.withResults]
    simp only [roundNat, ← Nat.mul_assoc]
  case clear => exact fun final => TimGoes.of_setTim (timClear_of_final hr final)

end Sys2Proof.Machine
end
section
/-! PROOFS. The operations of the device that keep the clock, the queue of commands and every byte of HBM: a lemma for each,
in the order of the model. The few that do not keep HBM have their lemmas with the canonical form below. -/

namespace Sys2Proof.Machine

/-- The clock, the queue of commands and HBM are as they were, as equations that `simp` rewrites with. -/
abbrev SameCalm (s t : State) : Prop :=
  t.now = s.now ∧ t.pending = s.pending ∧ t.hbm = s.hbm ∧ t.hbmLost = s.hbmLost

@[simp] theorem now_ite (c : Prop) [Decidable c] (a b : State) :
    (if c then a else b).now = if c then a.now else b.now :=
  apply_ite ..
@[simp] theorem pending_ite (c : Prop) [Decidable c] (a b : State) :
    (if c then a else b).pending = if c then a.pending else b.pending := apply_ite ..
@[simp] theorem hbm_ite (c : Prop) [Decidable c] (a b : State) :
    (if c then a else b).hbm = if c then a.hbm else b.hbm :=
  apply_ite ..
@[simp] theorem hbmLost_ite (c : Prop) [Decidable c] (a b : State) :
    (if c then a else b).hbmLost = if c then a.hbmLost else b.hbmLost := apply_ite ..

/-! ### Named operations over the state that every block shares -/

@[simp] theorem foldState_calm {α : Type} (l : List α) (f : α → State → State) (hf : ∀ a s, SameCalm s (f a s))
    (s : State) :
    SameCalm s (foldState l f s) :=
  foldState_keeps (SameCalm s) f (fun a t h => by simpa [SameCalm, hf] using h) l s ⟨rfl, rfl, rfl, rfl⟩

theorem foldState_calm_of {α : Type} {l : List α} {f : α → State → State} {s₀ s : State} (h : SameCalm s₀ s)
    (hf : ∀ a s, SameCalm s (f a s)) : SameCalm s₀ (foldState l f s) :=
  foldState_keeps (SameCalm s₀) f (fun a t h => by simpa [SameCalm, hf] using h) l s h

/-- The state an instruction of a worker engine leaves, however it ends. -/
def WeOut.after : WeOut → State
  | .go _ s | .again s | .fault _ s | .finish _ s => s

theorem SameCalm.trans {s t u : State} (h : SameCalm s t) (h' : SameCalm t u) : SameCalm s u := by
  simp_all [SameCalm]

/-! ### The register map -/

@[simp] theorem resetRegs_calm (s : State) (page keep) : SameCalm s (s.resetRegs page keep) := ⟨rfl, rfl, rfl, rfl⟩

/-! ### Named operations over the state that every block shares -/

@[simp] theorem portRefuses_calm (s : State) (q) : SameCalm s (s.portRefuses q) := ⟨rfl, rfl, rfl, rfl⟩

@[simp] theorem fresh_calm (s : State) (w) : SameCalm s (s.fresh w).2 := ⟨rfl, rfl, rfl, rfl⟩

@[simp] theorem freshBytes_calm (s : State) (n) : SameCalm s (s.freshBytes n).2 := ⟨rfl, rfl, rfl, rfl⟩

@[simp] theorem send_calm (s : State) (m) : SameCalm s (s.send m) := by
  unfold State.send
  split <;> simp [SameCalm]

@[simp] theorem signal_calm (s : State) (vector) : SameCalm s (s.signal vector) := by
  simp [State.signal, SameCalm]

@[simp] theorem peFrame_calm (s : State) (j ftype l) : SameCalm s (s.peFrame j ftype l) := ⟨rfl, rfl, rfl, rfl⟩

@[simp] theorem peCtrl_calm (s : State) (j op) : SameCalm s (s.peCtrl j op) := ⟨rfl, rfl, rfl, rfl⟩

@[simp] theorem zpTransmit_calm (s : State) (p m) : SameCalm s (s.zpTransmit p m) := ⟨rfl, rfl, rfl, rfl⟩

@[simp] theorem zpSend_calm (s : State) (p m) : SameCalm s (s.zpSend p m) := by
  simp [State.zpSend, SameCalm]

@[simp] theorem zpDrain_calm (s : State) (p n) : SameCalm s (s.zpDrain p n) := by
  induction n generalizing s with
  | zero => exact ⟨rfl, rfl, rfl, rfl⟩
  | succ n ih =>
    unfold State.zpDrain
    dsimp only
    split
    · split <;> simp [SameCalm, ih]
    · exact ⟨rfl, rfl, rfl, rfl⟩

@[simp] theorem redoReset_calm (s : State) (page) : SameCalm s (s.redoReset page) := by
  simp [State.redoReset, SameCalm]

@[simp] theorem whenReady_calm (s : State) (page) (f : State → State) (hf : ∀ s, SameCalm s (f s)) :
    SameCalm s (s.whenReady page f) := by
  unfold State.whenReady
  split
  · exact hf s
  · split <;> simp [SameCalm, hf]

@[simp] theorem rise_calm (s : State) (page) : SameCalm s (s.rise page) := by
  unfold State.rise
  split <;> simp [SameCalm]

@[simp] theorem raiseEvt_calm (s : State) (page bits) : SameCalm s (s.raiseEvt page bits) := by
  simp [State.raiseEvt, SameCalm]

@[simp] theorem recordErr_calm (s : State) (page code info) : SameCalm s (s.recordErr page code info) := by
  simp [State.recordErr, SameCalm]

@[simp] theorem pageResetDone_calm (s : State) (page) : SameCalm s (s.pageResetDone page) := ⟨rfl, rfl, rfl, rfl⟩

@[simp] theorem hbmHeal_calm (s : State) (a n) : SameCalm s (s.hbmHeal a n) := ⟨rfl, rfl, rfl, rfl⟩

@[simp] theorem cond_calm (s : State) (e c) : SameCalm s (s.cond e c) := ⟨rfl, rfl, rfl, rfl⟩

@[simp] theorem flagOps_calm (s : State) (sets clrs e) : SameCalm s (s.flagOps sets clrs e) := by
  simp [State.flagOps, SameCalm]

@[simp] theorem pulse_calm (s : State) (mask e) : SameCalm s (s.pulse mask e) := ⟨rfl, rfl, rfl, rfl⟩

@[simp] theorem trigTick_calm (s : State) : SameCalm s s.trigTick := by
  simp [State.trigTick, SameCalm]

/-! ### Use of channels and banks by sequencers, and the corrections of CAL -/

@[simp] theorem recorr_calm (s : State) (c) : SameCalm s (s.recorr c) := ⟨rfl, rfl, rfl, rfl⟩

@[simp] theorem setFig_calm (s : State) (kind idx f) : SameCalm s (s.setFig kind idx f) := ⟨rfl, rfl, rfl, rfl⟩

@[simp] theorem figEnter_calm (s : State) (kind idx) : SameCalm s (s.figEnter kind idx) := ⟨rfl, rfl, rfl, rfl⟩

@[simp] theorem setStaged_calm (s : State) (c l) : SameCalm s (s.setStaged c l) := ⟨rfl, rfl, rfl, rfl⟩

@[simp] theorem enterForce_calm (s : State) (c p) : SameCalm s (s.enterForce c p) := by
  simp [State.enterForce, SameCalm]

@[simp] theorem stage_calm (s : State) (c t) : SameCalm s (s.stage c t) := by
  simp [State.stage, SameCalm]

@[simp] theorem stageAtArm_calm (s : State) (chans) : SameCalm s (s.stageAtArm chans) := by
  simp [State.stageAtArm, SameCalm]

@[simp] theorem calBoundary_calm (s : State) (chans) : SameCalm s (s.calBoundary chans) := by
  simp [State.calBoundary, SameCalm]

@[simp] theorem calFinal_calm (s : State) (chans) : SameCalm s (s.calFinal chans) := by
  simp [State.calFinal, SameCalm]

@[simp] theorem calSettle_calm (s : State) : SameCalm s s.calSettle := by
  simp [State.calSettle, SameCalm]

/-! ### The algorithmic pattern generator -/

@[simp] theorem apgOp_calm (s : State) (q w) : SameCalm s (s.apgOp q w) := ⟨rfl, rfl, rfl, rfl⟩

@[simp] theorem apgLoad_calm (s : State) (q) : SameCalm s (apgLoad s q) := ⟨rfl, rfl, rfl, rfl⟩

/-! ### The fetch unit and the decoder of a sequencer -/

@[simp] theorem decode_calm (s : State) (q) : SameCalm s (s.decode q) := by
  unfold State.decode
  split <;> simp [SameCalm]

@[simp] theorem redirectQueue_calm (s : State) (q) : SameCalm s (s.redirectQueue q) := ⟨rfl, rfl, rfl, rfl⟩

@[simp] theorem redirectLead_calm (s : State) (q) : SameCalm s (s.redirectLead q) := by
  unfold State.redirectLead
  dsimp only
  repeat' split
  all_goals simp [SameCalm]

@[simp] theorem undirect_calm (s : State) (q) : SameCalm s (s.undirect q) := by
  simp [State.undirect, SameCalm]

@[simp] theorem mergeTrim_calm (s : State) (live) : SameCalm s (s.mergeTrim live) := ⟨rfl, rfl, rfl, rfl⟩

@[simp] theorem mergeOne_calm (s : State) (q k g vecs) : SameCalm s (s.mergeOne q k g vecs) := by
  unfold State.mergeOne
  dsimp only
  split <;> simp [SameCalm]

@[simp] theorem mergeAll_calm (s : State) (q l) : SameCalm s (s.mergeAll q l) := by
  induction l generalizing s with
  | nil => exact ⟨rfl, rfl, rfl, rfl⟩
  | cons h t ih => simp [State.mergeAll, SameCalm, ih]

/-! ### Bank power states and the plinth state of channels -/

@[simp] theorem plinthAll_calm (s : State) (l) : SameCalm s (s.plinthAll l) := by
  simp [State.plinthAll, SameCalm]

@[simp] theorem plinthAfter_calm (s : State) (e l) : SameCalm s (s.plinthAfter e l) := by
  simp [State.plinthAfter, SameCalm]

@[simp] theorem bankErr_calm (s : State) (b) : SameCalm s (bankErr s b) := by
  simp [bankErr, SameCalm]

@[simp] theorem enqueueBank_calm (s : State) (b) : SameCalm s (s.enqueueBank b) := by
  simp [State.enqueueBank, SameCalm]

@[simp] theorem dequeueBank_calm (s : State) (b) : SameCalm s (s.dequeueBank b) := ⟨rfl, rfl, rfl, rfl⟩

@[simp] theorem wantBank_calm (s : State) (b) : SameCalm s (s.wantBank b) := by
  simp [State.wantBank, SameCalm]

@[simp] theorem bankCommand_calm (s : State) (b cmd) : SameCalm s (bankCommand b cmd s) := by
  unfold bankCommand
  dsimp only
  split <;> simp [SameCalm]

@[simp] theorem bankRecorded_calm (s : State) (b) : SameCalm s (bankRecorded b s) := by
  simp [bankRecorded, SameCalm]

@[simp] theorem bankRelease_calm (s : State) : SameCalm s s.bankRelease := by
  simp [State.bankRelease, SameCalm]

@[simp] theorem bankWrite_calm (s : State) (b cmd) : SameCalm s (bankWrite b cmd s) := by
  simp [bankWrite, SameCalm]

@[simp] theorem bankStart_calm (s : State) (b) : SameCalm s (bankStart b s) := by
  simp [bankStart, SameCalm]

/-! ### Operations of the task scheduler that its commands, bursts and executors share -/

@[simp] theorem dropRequests_calm (s : State) (page) : SameCalm s (s.dropRequests page) := ⟨rfl, rfl, rfl, rfl⟩

@[simp] theorem advance_calm (s : State) (i) : SameCalm s (s.advance i).2 := by
  unfold State.advance
  dsimp only
  repeat' split
  all_goals simp [SameCalm]

@[simp] theorem recordEnd_calm (s : State) (i st) : SameCalm s (s.recordEnd i st) := ⟨rfl, rfl, rfl, rfl⟩

@[simp] theorem depOn_calm (s : State) (j ok) : SameCalm s (s.depOn j ok).2 := by
  rw [depOn_schOnly rfl]
  exact ⟨rfl, rfl, rfl, rfl⟩

@[simp] theorem depAll_calm (s : State) (ok l) : SameCalm s (s.depAll ok l).2 := by
  induction l generalizing s with
  | nil => exact ⟨rfl, rfl, rfl, rfl⟩
  | cons id l ih =>
    have dep := depOn_calm s (idIndex id) ok
    unfold State.depAll
    repeat' split
    all_goals simp_all [SameCalm]

@[simp] theorem completeAll_calm (s : State) (n l) : SameCalm s (State.completeAll n l s) := by
  induction n generalizing l s with
  | zero => simp [State.completeAll, SameCalm]
  | succ n ih => cases l <;> simp [State.completeAll, SameCalm, ih]

@[simp] theorem completeTask_calm (s : State) (i st) : SameCalm s (s.completeTask i st) := by
  simp [State.completeTask, SameCalm]

@[simp] theorem advanceTask_calm (s : State) (i) : SameCalm s (s.advanceTask i) := by
  have adv := advance_calm s i
  unfold State.advanceTask
  split <;> simp_all [SameCalm]

@[simp] theorem eventAt_calm (s : State) (i x) : SameCalm s (s.eventAt i x) := by
  have dep := depOn_calm (s.setTask i { s.taskAt i with evDone := true, ctxs := x.ctxs }) i
    (cfgEvStates (s.taskAt i).cfg |>.testBit (x.code - 4))
  unfold State.eventAt
  dsimp only
  split <;> simp_all [SameCalm]

@[simp] theorem postFinal_calm (s : State) (q code) : SameCalm s (s.postFinal q code) := by
  simp [State.postFinal, SameCalm]

/-! ### How a burst starts and ends, align groups, lockstep sets and the application of staged timing sets -/

@[simp] theorem applyPart_calm (s : State) (p r) : SameCalm s (s.applyPart p r) := ⟨rfl, rfl, rfl, rfl⟩

@[simp] theorem applyFor_calm (s : State) (q p atEnd atStart vec seg) :
    SameCalm s (s.applyFor q p atEnd atStart vec seg) := by
  simp [State.applyFor, SameCalm]

@[simp] theorem tssSettle_calm (s : State) : SameCalm s s.tssSettle := by
  simp [State.tssSettle, SameCalm]

@[simp] theorem tssAtArm_calm (s : State) (q chans) : SameCalm s (s.tssAtArm q chans) := by
  simp [State.tssAtArm, SameCalm]

@[simp] theorem sendPorts_calm (s : State) (ports m) : SameCalm s (s.sendPorts ports m) := by
  simp [State.sendPorts, SameCalm]

@[simp] theorem markEnding_calm (s : State) (q c e) : SameCalm s (s.markEnding q c e) := by
  unfold State.markEnding
  dsimp only
  repeat' split
  all_goals simp [SameCalm]

@[simp] theorem setDrained_calm (s : State) (i) : SameCalm s (s.setDrained i) := by
  simp [State.setDrained, SameCalm]

@[simp] theorem seqPageReset_calm (s : State) (q) : SameCalm s (seqPageReset q s) := ⟨rfl, rfl, rfl, rfl⟩

@[simp] theorem reopen_calm (s : State) : SameCalm s s.reopen := ⟨rfl, rfl, rfl, rfl⟩

@[simp] theorem park_calm (s : State) (q) : SameCalm s (s.park q) := by
  simp [State.park, SameCalm]

@[simp] theorem enterFinal_calm (s : State) (q) : SameCalm s (s.enterFinal q) := by
  simp [State.enterFinal, SameCalm]

@[simp] theorem finishIf_calm (s : State) (q) : SameCalm s (s.finishIf q) := by
  unfold State.finishIf
  dsimp only
  split <;> simp [SameCalm]

@[simp] theorem finishCycle_calm (s : State) : SameCalm s s.finishCycle := by
  simp [State.finishCycle, SameCalm]

@[simp] theorem cancelChain_calm (s : State) (n g c x e) : SameCalm s (State.cancelChain n g c x e s) := by
  induction n generalizing g c x s with
  | zero => exact ⟨rfl, rfl, rfl, rfl⟩
  | succ n ih =>
    unfold State.cancelChain
    split
    · exact ⟨rfl, rfl, rfl, rfl⟩
    · refine SameCalm.trans (foldState_calm_of (foldState_calm_of ?marked fun q s => ?chained)
        fun q s => finishIf_calm s q) (reopen_calm _)
      case marked => simp [SameCalm]
      case chained =>
        repeat' split
        all_goals simp [SameCalm, ih]

@[simp] theorem cancelGroup_calm (s : State) (g c except e) : SameCalm s (s.cancelGroup g c except e) := by
  simp [State.cancelGroup, SameCalm]

@[simp] theorem memberEnds_calm (s : State) (q e) : SameCalm s (s.memberEnds q e) := by
  unfold State.memberEnds
  split <;> simp [SameCalm]

@[simp] theorem endBurst_calm (s : State) (q c e) : SameCalm s (s.endBurst q c e) := by
  simp [State.endBurst, SameCalm]

@[simp] theorem startOne_calm (s : State) (q) : SameCalm s (s.startOne q) := by
  simp [State.startOne, SameCalm]

@[simp] theorem startCommit_calm (s : State) (q) : SameCalm s (s.startCommit q) := by
  simp [State.startCommit, SameCalm]

@[simp] theorem holdIf_calm (s : State) (q pz) : SameCalm s (s.holdIf q pz) := by
  simp [State.holdIf, SameCalm]

@[simp] theorem arriveAt_calm (s : State) (q) : SameCalm s (s.arriveAt q) := by
  unfold State.arriveAt
  split <;> simp [SameCalm]

@[simp] theorem masterRelease_calm (s : State) (g) : SameCalm s (s.masterRelease g) := by
  simp [State.masterRelease, SameCalm]

@[simp] theorem releaseGroup_calm (s : State) (g) : SameCalm s (s.releaseGroup g) := by
  simp [State.releaseGroup, SameCalm]

/-! ### The issue of one vector -/

@[simp] theorem execFault_calm (s : State) (q kind ts) : SameCalm s (s.execFault q kind ts) := by
  simp [State.execFault, SameCalm]

@[simp] theorem fetchFault_calm (s : State) (q kind idx) : SameCalm s (s.fetchFault q kind idx) := by
  simp [State.fetchFault, SameCalm]

@[simp] theorem heldFault_calm (s : State) (q h) : SameCalm s (s.heldFault q h) := by
  unfold State.heldFault
  split <;> simp [SameCalm]

@[simp] theorem retire_calm (s : State) (q mask) : SameCalm s (s.retire q mask) := by
  simp [State.retire, SameCalm]

@[simp] theorem boundaryRetire_calm (s : State) (q) : SameCalm s (s.boundaryRetire q) := by
  simp [State.boundaryRetire, SameCalm]

@[simp] theorem boundaryJump_calm (s : State) (q) : SameCalm s (s.boundaryJump q) := by
  unfold State.boundaryJump
  dsimp only
  split <;> simp [SameCalm]

@[simp] theorem boundary_calm (s : State) (q) : SameCalm s (s.boundary q) := by
  simp [State.boundary, SameCalm]

@[simp] theorem beforeVector_calm (s : State) (q) : SameCalm s (s.beforeVector q) := by
  simp [State.beforeVector, SameCalm]

@[simp] theorem noteUnderrun_calm (s : State) (q idx) : SameCalm s (s.noteUnderrun q idx) := by
  simp [State.noteUnderrun, SameCalm]

@[simp] theorem raiseUnderrun_calm (s : State) (q idx) : SameCalm s (s.raiseUnderrun q idx) := by
  simp [State.raiseUnderrun, SameCalm]

@[simp] theorem stallIssue_calm (s : State) (q idx) : SameCalm s (s.stallIssue q idx) := by
  simp [State.stallIssue, SameCalm]

@[simp] theorem starve_calm (s : State) (q idx) : SameCalm s (s.starve q idx) := by
  simp [State.starve, SameCalm]

@[simp] theorem vecChannel_calm (x ord st p j) (a : List StrobeEv × Nat × State) :
    SameCalm a.2.2 (vecChannel x ord st p j a).2.2 := by
  unfold vecChannel
  dsimp only
  repeat' split
  all_goals simp [SameCalm]

@[simp] theorem issueVector_calm (s : State) (x) : SameCalm s (issueVector x s) := by
  have chans : ∀ (ord st p : Nat) (l : List Nat) (a : List StrobeEv × Nat × State),
      SameCalm a.2.2 (l.foldl (fun a j => vecChannel x ord st p j a) a).2.2 := by
    intro ord st p l
    induction l with
    | nil => exact fun a => ⟨rfl, rfl, rfl, rfl⟩
    | cons j l ih => exact fun a => by simp [SameCalm, ih]
  simp [issueVector, SameCalm, chans]

@[simp] theorem pulseAt_calm (s : State) (q mask st) : SameCalm s (s.pulseAt q mask st) := by
  simp [State.pulseAt, SameCalm]

@[simp] theorem decisionPoint_calm (s : State) (q) : SameCalm s (s.decisionPoint q) := by
  simp [State.decisionPoint, SameCalm]

/-- Where the lead gives no vector, the sequencer stops in a state of the same clock and memory. -/
theorem askLead_stops {s t : State} {q r off pos need} (h : s.askLead q r off pos need = .stop t) : SameCalm s t := by
  unfold State.askLead at h
  dsimp only at h
  repeat' split at h
  all_goals simp only [LeadAns.stop.injEq, reduceCtorEq] at h
  all_goals subst h; simp [SameCalm]

@[simp] theorem runVector_calm (s : State) (x r pos need) : SameCalm s (runVector x r pos need s) := by
  unfold runVector
  split
  · exact askLead_stops ‹_›
  · repeat' split
    all_goals simp [SameCalm]

/-! ### Flag computations -/

@[simp] theorem jifClearFlag_calm (s : State) (c) : SameCalm s (jifClearFlag c s) := by
  simp [jifClearFlag, SameCalm]

@[simp] theorem setFailFlag_calm (s : State) (q) : SameCalm s (s.setFailFlag q) := ⟨rfl, rfl, rfl, rfl⟩

@[simp] theorem setTrigFlag_calm (s : State) (q) : SameCalm s (s.setTrigFlag q) := ⟨rfl, rfl, rfl, rfl⟩

/-! ### What measure and source streams share -/

@[simp] theorem setRun_calm (s : State) (m r) : SameCalm s (s.setRun m r) := by
  unfold State.setRun
  split <;> simp [SameCalm]

@[simp] theorem strCmd_calm (s : State) (m code) : SameCalm s (s.strCmd m code) := by
  simp [State.strCmd, SameCalm]

@[simp] theorem strStart_calm (s : State) (m t late) : SameCalm s (s.strStart m t late) := by
  unfold State.strStart
  split <;> simp [SameCalm]

@[simp] theorem strTimeStart_calm (s : State) (m) : SameCalm s (s.strTimeStart m) := by
  simp [State.strTimeStart, SameCalm]

@[simp] theorem convEnter_calm (s : State) (m e k) : SameCalm s (s.convEnter m e k) := by
  unfold State.convEnter
  split <;> simp [SameCalm]

@[simp] theorem frameBoundary_calm (s : State) (m k) : SameCalm s (s.frameBoundary m k).2 := by
  unfold State.frameBoundary
  dsimp only
  repeat' split
  all_goals simp [SameCalm]

@[simp] theorem sendSample_calm (s : State) (m idx v stale) :
    SameCalm s (s.sendSample m idx v stale) := ⟨rfl, rfl, rfl, rfl⟩

@[simp] theorem strEnd_calm (s : State) (m st c) : SameCalm s (s.strEnd m st c) := by
  unfold State.strEnd
  dsimp only
  split <;> simp [SameCalm]

@[simp] theorem strLinkLost_calm (s : State) (j) : SameCalm s (s.strLinkLost j) := by
  simp [State.strLinkLost, SameCalm]

@[simp] theorem markStreams_calm (s : State) (q id t) : SameCalm s (s.markStreams q id t) := by
  simp [State.markStreams, SameCalm]

/-! ### The ports of a channel -/

@[simp] theorem emit_calm (s : State) (c x) : SameCalm s (s.emit c x) := by
  simp [State.emit, SameCalm]

@[simp] theorem chanTick_calm (s : State) (c) : SameCalm s (s.chanTick c) := by
  simp [State.chanTick, SameCalm]

@[simp] theorem portTick_calm (s : State) : SameCalm s s.portTick := by
  simp [State.portTick, SameCalm]

/-! ### Interval measurement units -/

@[simp] theorem timEnter_calm (s : State) (u) : SameCalm s (s.timEnter u) := by
  unfold State.timEnter
  split <;> simp [SameCalm]

@[simp] theorem timArmed_calm (s : State) (u) : SameCalm s (s.timArmed u) := by
  simp [State.timArmed, SameCalm]

@[simp] theorem timArm_calm (s : State) (u) : SameCalm s (timArm u s) := by
  simp [timArm, SameCalm]

@[simp] theorem timStart_calm (s : State) (u t late) : SameCalm s (s.timStart u t late) := ⟨rfl, rfl, rfl, rfl⟩

@[simp] theorem markTim_calm (s : State) (q id t) : SameCalm s (s.markTim q id t) := by
  simp [State.markTim, SameCalm]

@[simp] theorem timResults_calm (s : State) (u) : SameCalm s (s.timResults u) := by
  simp [State.timResults, SameCalm]

@[simp] theorem timEnd_calm (s : State) (u st c part) : SameCalm s (s.timEnd u st c part) := by
  simp [State.timEnd, SameCalm]

@[simp] theorem timAbort_calm (s : State) (u) : SameCalm s (timAbort u s) := by
  simp [timAbort, SameCalm]

@[simp] theorem timReset_calm (s : State) (u) : SameCalm s (timReset u s) := by
  simp [timReset, SameCalm]

@[simp] theorem timStartEdge_calm (s : State) (u raw x t) : SameCalm s (s.timStartEdge u raw x t) := by
  simp [State.timStartEdge, SameCalm]

@[simp] theorem timStopEdge_calm (s : State) (u k raw x) : SameCalm s (s.timStopEdge u k raw x) := by
  unfold State.timStopEdge
  dsimp only
  repeat' split
  all_goals simp [SameCalm]

@[simp] theorem timInterval_calm (s : State) (u kind index rising raw x t) :
    SameCalm s (s.timInterval u kind index rising raw x t) := by
  simp [State.timInterval, SameCalm]

@[simp] theorem timCount_calm (s : State) (u kind index rising raw x t) :
    SameCalm s (s.timCount u kind index rising raw x t) := by
  unfold State.timCount
  dsimp only
  repeat' split
  all_goals simp [SameCalm]

@[simp] theorem shotTimeout_calm (s : State) (u) : SameCalm s (s.shotTimeout u) := by
  unfold State.shotTimeout
  dsimp only
  split <;> simp [SameCalm]

@[simp] theorem gateClose_calm (s : State) (u) : SameCalm s (s.gateClose u) := by
  unfold State.gateClose
  dsimp only
  split <;> simp [SameCalm]

@[simp] theorem timTick_calm (s : State) : SameCalm s s.timTick := by
  simp [State.timTick, SameCalm]

/-! ### The pattern instructions -/

@[simp] theorem startRun_calm (s : State) (q d rest) : SameCalm s (s.startRun q d rest) := ⟨rfl, rfl, rfl, rfl⟩

@[simp] theorem beginRun_calm (s : State) (q op) : SameCalm s (beginRun q op s) := by
  unfold beginRun
  dsimp only
  repeat' split
  all_goals simp [SameCalm]

@[simp] theorem goTo_calm (s : State) (q idx pz) : SameCalm s (s.goTo q idx pz) := by
  simp [State.goTo, SameCalm]

@[simp] theorem nextInstr_calm (s : State) (q i) : SameCalm s (nextInstr q i s) := by
  simp [nextInstr, SameCalm]

@[simp] theorem endlAct_calm (s : State) (q i r) : SameCalm s (endlAct q i r s) := by
  unfold endlAct
  dsimp only
  split <;> simp [SameCalm]

@[simp] theorem callAct_calm (s : State) (q i) : SameCalm s (callAct q i s) := by
  simp [callAct, SameCalm]

@[simp] theorem retAct_calm (s : State) (q i) : SameCalm s (retAct q i s) := by
  unfold retAct
  split <;> simp [SameCalm]

@[simp] theorem jmpAct_calm (s : State) (q i) : SameCalm s (jmpAct q i s) := by
  simp [jmpAct, SameCalm]

@[simp] theorem jifFirst_calm (s : State) (q i) : SameCalm s (jifFirst q i s) := by
  simp [jifFirst, SameCalm]

@[simp] theorem jifAct_calm (s : State) (q i) : SameCalm s (jifAct q i s) := by
  unfold jifAct
  dsimp only
  split <;> simp [SameCalm]

@[simp] theorem waitFirst_calm (s : State) (q i f) : SameCalm s (waitFirst q i f s) := ⟨rfl, rfl, rfl, rfl⟩

@[simp] theorem waitAct_calm (s : State) (q i) : SameCalm s (waitAct q i s) := ⟨rfl, rfl, rfl, rfl⟩

@[simp] theorem pushMark_calm (s : State) (q m) : SameCalm s (s.pushMark q m) := ⟨rfl, rfl, rfl, rfl⟩

@[simp] theorem deliverMark_calm (s : State) (q id t) : SameCalm s (s.deliverMark q id t) := by
  simp [State.deliverMark, SameCalm]

@[simp] theorem markFirst_calm (s : State) (q i st) : SameCalm s (markFirst q i st s) := by
  simp [markFirst, SameCalm]

@[simp] theorem tsetAct_calm (s : State) (q i) : SameCalm s (tsetAct q i s) := by
  simp [tsetAct, SameCalm]

@[simp] theorem apgOwn_calm (s : State) (q i) : SameCalm s (apgOwn q i s) := by
  simp [apgOwn, SameCalm]

@[simp] theorem apgEachAct_calm (s : State) (q i) : SameCalm s (apgEachAct q i s) := by
  simp [apgEachAct, SameCalm]

/-! ### Operand forms -/

@[simp] theorem smaskAct_calm (s : State) (q i) : SameCalm s (smaskAct q i s) := by
  simp [smaskAct, SameCalm]

/-! ### The pattern instructions -/

@[simp] theorem alignAct_calm (s : State) (q i) : SameCalm s (alignAct q i s) := by
  unfold alignAct
  split <;> simp [SameCalm]

@[simp] theorem stopAct_calm (s : State) (q) : SameCalm s (stopAct q s) := by
  simp [stopAct, SameCalm]

@[simp] theorem applyAs_calm (s : State) (q i) : SameCalm s (applyAs q i s) := by
  simp [applyAs, SameCalm]

@[simp] theorem matchExit_calm (s : State) (q i met) : SameCalm s (matchExit q i met s) := by
  simp [matchExit, SameCalm]

@[simp] theorem segmentEnd_calm (s : State) (q r owned) : SameCalm s (segmentEnd q r owned s) := by
  simp [segmentEnd, SameCalm]

@[simp] theorem opFirst_calm (s : State) (q i slot) : SameCalm s (opFirst q i slot s) := by
  simp [opFirst, SameCalm]

@[simp] theorem opAct_calm (s : State) (q i r) : SameCalm s (opAct q i r s) := by
  simp [opAct, SameCalm]

@[simp] theorem runEnd_calm (s : State) (q i r) : SameCalm s (runEnd q i r s) := by
  simp [runEnd, SameCalm]

@[simp] theorem finishRun_calm (s : State) (q i r) : SameCalm s (finishRun q i r s) := by
  simp [finishRun, SameCalm]

@[simp] theorem finishRep_calm (s : State) (q i r) : SameCalm s (finishRep q i r s) := by
  unfold finishRep
  split
  · exact ⟨rfl, rfl, rfl, rfl⟩
  · split <;> simp [SameCalm]

@[simp] theorem slotVector_calm (s : State) (q r) : SameCalm s (slotVector q r s) := by
  simp [slotVector, SameCalm]

@[simp] theorem slotEnd_calm (s : State) (q r pos) : SameCalm s (slotEnd q r pos s) := by
  simp [slotEnd, SameCalm]

@[simp] theorem slotStep_calm (s : State) (q) : SameCalm s (slotStep q s) := by
  unfold slotStep
  dsimp only
  repeat' split
  all_goals simp [SameCalm]

@[simp] theorem issueSlots_calm (s : State) (q n) : SameCalm s (issueSlots q n s) := by
  induction n generalizing s with
  | zero => exact ⟨rfl, rfl, rfl, rfl⟩
  | succ n ih => unfold issueSlots; split <;> simp [SameCalm, ih]

@[simp] theorem jifEval_calm (s : State) (q) : SameCalm s (s.jifEval q) := by
  unfold State.jifEval
  dsimp only
  split <;> simp [SameCalm]

@[simp] theorem seqCycle_calm (s : State) (q) : SameCalm s (s.seqCycle q) := by
  simp [State.seqCycle, SameCalm]

@[simp] theorem runInstr_calm (s : State) (q op) : SameCalm s (runInstr q op s) := by
  simp [runInstr, SameCalm]

/-! ### The host's commands to a sequencer and what its fetches bring -/

@[simp] theorem setCmd_calm (s : State) (q bit code) : SameCalm s (s.setCmd q bit code) := ⟨rfl, rfl, rfl, rfl⟩

@[simp] theorem armTake_calm (s : State) (q) : SameCalm s (armTake q s) := by
  simp [armTake, SameCalm]

@[simp] theorem refuseArm_calm (s : State) (q code info) : SameCalm s (refuseArm q code info s) := by
  simp [refuseArm, SameCalm]

@[simp] theorem armCap_calm (s : State) (q chans i) : SameCalm s (armCap q chans i s) := ⟨rfl, rfl, rfl, rfl⟩

@[simp] theorem armChan_calm (s : State) (c) : SameCalm s (armChan c s) := by
  simp [armChan, SameCalm]

@[simp] theorem acceptArm_calm (s : State) (q c) : SameCalm s (acceptArm q c s) := by
  simp [acceptArm, SameCalm]

@[simp] theorem abortSeq_calm (s : State) (q) : SameCalm s (abortSeq q s) := by
  simp [abortSeq, SameCalm]

@[simp] theorem resumeSeq_calm (s : State) (q) : SameCalm s (resumeSeq q s) := ⟨rfl, rfl, rfl, rfl⟩

@[simp] theorem putJump_calm (s : State) (q j old) : SameCalm s (s.putJump q j old) := by
  simp [State.putJump, SameCalm]

@[simp] theorem jumpRequest_calm (s : State) (q slot src) : SameCalm s (s.jumpRequest q slot src) := by
  unfold State.jumpRequest
  dsimp only
  repeat' split
  all_goals simp [SameCalm]

@[simp] theorem unstall_calm (s : State) (q) : SameCalm s (s.unstall q) := by
  simp [State.unstall, SameCalm]

@[simp] theorem imageFetched_calm (s : State) (q k res) : SameCalm s (imageFetched q k res s) := by
  simp [imageFetched, SameCalm]

@[simp] theorem segFetched_calm (s : State) (q k res) : SameCalm s (segFetched q k res s) := by
  simp [segFetched, SameCalm]

@[simp] theorem keepSegs_calm (s : State) (q l) : SameCalm s (s.keepSegs q l) := by
  simp [State.keepSegs, SameCalm]

@[simp] theorem grow_calm (s : State) (q res n f) : SameCalm s (s.grow q res n f).2 := by
  simp [State.grow, SameCalm]

@[simp] theorem leadFetched_calm (s : State) (q n res) : SameCalm s (leadFetched q n res s) := by
  unfold leadFetched
  dsimp only
  repeat' split
  all_goals simp [SameCalm]

/-! ### Align barriers as their events reach the chip, and edges of the TRIG_IN balls -/

@[simp] theorem lineStarts_calm (s : State) (src rising extra) : SameCalm s (lineStarts src rising extra s) := by
  simp [lineStarts, SameCalm]

@[simp] theorem xtStarts_calm (s : State) (line rising) : SameCalm s (xtStarts line rising s) := by
  simp [xtStarts, SameCalm]

/-! ### Capture -/

@[simp] theorem edgeOfs_calm (s : State) (j) : SameCalm s (s.edgeOfs j).2 := by
  unfold State.edgeOfs
  split <;> simp [SameCalm]

@[simp] theorem alignResult_calm (s : State) (c a) : SameCalm s (alignResult c a s) := by
  simp [alignResult, SameCalm]

@[simp] theorem alignCount_calm (s : State) (e diff) : SameCalm s (alignCount e diff s) := by
  simp [alignCount, SameCalm]

@[simp] theorem loseItem_calm (s : State) (i vc) : SameCalm s (s.loseItem i vc) := by
  simp [State.loseItem, SameCalm]

@[simp] theorem pushItem_calm (s : State) (i vc it) : SameCalm s (s.pushItem i vc it).2 := by
  unfold State.pushItem
  split <;> simp [SameCalm]

@[simp] theorem capCounts_calm (s : State) (i r bad) : SameCalm s (capCounts i r bad s) := by
  simp [capCounts, SameCalm]

@[simp] theorem capCross_calm (s : State) (q i nb) : SameCalm s (capCross q i nb s) := by
  unfold capCross
  dsimp only
  repeat' split
  all_goals simp [SameCalm]

@[simp] theorem capLog_calm (s : State) (i r bad) : SameCalm s (capLog i r bad s) := by
  simp [capLog, SameCalm]

@[simp] theorem capBitmap_calm (s : State) (i r bad) : SameCalm s (capBitmap i r bad s) := by
  simp [capBitmap, SameCalm]

@[simp] theorem rawStore_calm (s : State) (i r data) : SameCalm s (rawStore i r data s).2 := by
  unfold rawStore
  dsimp only
  split
  · simp [SameCalm]
  · have p := pushItem_calm s i r.vc (.cw (s.reg64 (pgCap i) 0x188 + (s.capAt i).rawWr % (s.rawCap i (s.capAt i).recBytes * (s.capAt i).recBytes)) data r.vc)
    split <;> simp_all [SameCalm]

@[simp] theorem capRaw_calm (s : State) (i r js judged bad) : SameCalm s (capRaw i r js judged bad s) := by
  unfold capRaw
  have stored := rawStore_calm s i r (rawRecord s i r js bad (s.capAt i).trigPend)
  extract_lets v cfg want ofs
  split
  · exact ⟨rfl, rfl, rfl, rfl⟩
  · split <;> rename_i h <;> rw [h] at stored <;> dsimp only at stored
    · exact stored
    · repeat' split
      all_goals simp [SameCalm, stored]

@[simp] theorem capSite_calm (s : State) (q r js i) : SameCalm s (capSite q r js i s) := by
  simp [capSite, SameCalm]

@[simp] theorem matchResult_calm (s : State) (q r failed) : SameCalm s (matchResult q r failed s) := by
  unfold matchResult
  dsimp only
  split <;> simp [SameCalm]

@[simp] theorem chanCounts_calm (s : State) (obs e) : SameCalm s (chanCounts obs e s) := ⟨rfl, rfl, rfl, rfl⟩

@[simp] theorem commitVector_calm (s : State) (q r obs) : SameCalm s (commitVector q r obs s) := by
  simp [commitVector, SameCalm]

@[simp] theorem drainCheck_calm (s : State) (i) : SameCalm s (s.drainCheck i) := by
  simp [State.drainCheck, SameCalm]

/-! ### The trigger matrix -/

@[simp] theorem keepUnit_calm (s : State) (u) : SameCalm s (s.keepUnit u) := by
  simp [State.keepUnit, SameCalm]

@[simp] theorem sendXt_calm (s : State) : SameCalm s s.sendXt := by
  simp [State.sendXt, SameCalm]

@[simp] theorem assertXt_calm (s : State) (mask) : SameCalm s (s.assertXt mask) := by
  simp [State.assertXt, SameCalm]

@[simp] theorem captureTrigger_calm (s : State) (i) : SameCalm s (captureTrigger i s) := by
  simp [captureTrigger, SameCalm]

@[simp] theorem fireActions_calm (s : State) (u a) : SameCalm s (fireActions u a s) := by
  simp [fireActions, SameCalm]

@[simp] theorem fireUnit_calm (s : State) (u m) : SameCalm s (fireUnit u m s) := by
  simp [fireUnit, SameCalm]

@[simp] theorem unitDo_calm (s : State) (u a) : SameCalm s (s.unitDo u a) := by
  simp [State.unitDo, SameCalm]

@[simp] theorem sampleHere_calm (s : State) (u) : SameCalm s (sampleHere u s) := by
  simp [sampleHere, SameCalm]

@[simp] theorem sampleUnit_calm (s : State) (u) : SameCalm s (sampleUnit u s) := by
  unfold sampleUnit
  split <;> simp [SameCalm]

@[simp] theorem unitEnable_calm (s : State) (u on) : SameCalm s (unitEnable u on s) := by
  unfold unitEnable
  dsimp only
  repeat' split
  all_goals simp [SameCalm]

@[simp] theorem trgReset_calm (s : State) : SameCalm s (trgReset s) := ⟨rfl, rfl, rfl, rfl⟩

/-! ### Commands on the timing set store and its staged commit path, and writes of the APG tables -/

@[simp] theorem setTss_calm (s : State) (f) : SameCalm s (s.setTss f) := ⟨rfl, rfl, rfl, rfl⟩

@[simp] theorem closeNow_calm (s : State) (q) : SameCalm s (s.closeNow q) := by
  simp [State.closeNow, SameCalm]

/-! ### Commands of the task scheduler -/

@[simp] theorem takeEntry_calm (s : State) (i d edge finals posted) :
    SameCalm s (takeEntry i d edge finals posted s).2 := by
  unfold takeEntry
  dsimp only
  repeat' split
  all_goals simp [SameCalm]

@[simp] theorem refuseFull_calm (s : State) : SameCalm s s.refuseFull := ⟨rfl, rfl, rfl, rfl⟩

@[simp] theorem startRunning_calm (s : State) (x i edge) : SameCalm s (s.startRunning x i edge) := by
  simp [State.startRunning, SameCalm]

@[simp] theorem noteDispatch_calm (s : State) : SameCalm s s.noteDispatch := ⟨rfl, rfl, rfl, rfl⟩

@[simp] theorem returnTask_calm (s : State) (i again) : SameCalm s (s.returnTask i again) := by
  simp [State.returnTask, SameCalm]

@[simp] theorem returnPrefetch_calm (s : State) (x) : SameCalm s (s.returnPrefetch x) := by
  unfold State.returnPrefetch
  split <;> simp [SameCalm]

@[simp] theorem dropNoExecutor_calm (s : State) : SameCalm s s.dropNoExecutor := by
  simp [State.dropNoExecutor, SameCalm]

@[simp] theorem clearRunning_calm (s : State) (x) : SameCalm s (s.clearRunning x) := by
  simp [State.clearRunning, SameCalm]

@[simp] theorem promote_calm (s : State) (x) : SameCalm s (s.promote x) := by
  unfold State.promote
  dsimp only
  split <;> simp [SameCalm]

@[simp] theorem cancelOutcome_calm (s : State) (id aborted) : SameCalm s (s.cancelOutcome id aborted) := by
  simp [State.cancelOutcome, SameCalm]

@[simp] theorem runEnds_calm (s : State) (x i st prog result) : SameCalm s (s.runEnds x i st prog result) := by
  simp [State.runEnds, SameCalm]

@[simp] theorem execEnds_calm (s : State) (x st prog result) : SameCalm s (s.execEnds x st prog result) := by
  unfold State.execEnds
  split <;> simp [SameCalm]

@[simp] theorem runReset_calm (s : State) (x again) : SameCalm s (s.runReset x again) := by
  unfold State.runReset
  dsimp only
  split <;> simp [SameCalm]

@[simp] theorem prefetchReset_calm (s : State) (x) : SameCalm s (s.prefetchReset x) := by
  unfold State.prefetchReset
  split <;> simp [SameCalm]

@[simp] theorem setCancel_calm (s : State) (code) : SameCalm s (s.setCancel code) := ⟨rfl, rfl, rfl, rfl⟩

@[simp] theorem dropSlot_calm (s : State) (i) : SameCalm s (s.dropSlot i) := by
  simp [State.dropSlot, SameCalm]

@[simp] theorem cancelTask_calm (s : State) : SameCalm s (cancelTask s) := by
  unfold cancelTask
  dsimp only
  repeat' split
  all_goals simp [SameCalm]

@[simp] theorem raiseRing_calm (s : State) (r) : SameCalm s (s.raiseRing r) := by
  simp [State.raiseRing, SameCalm]

@[simp] theorem schReset_calm (s : State) : SameCalm s (schReset s) := by
  unfold schReset
  refine foldState_calm_of (foldState_calm _ _ (fun x s => ?_) _) (by simp [SameCalm])
  split <;> simp [SameCalm]

/-! ### Worker engines, what their instructions and their microcode share -/

@[simp] theorem setQ_calm (s : State) (e q) : SameCalm s (s.setQ e q) := ⟨rfl, rfl, rfl, rfl⟩

@[simp] theorem weFinish_calm (s : State) (e) : SameCalm s (s.weFinish e) := by
  unfold State.weFinish
  dsimp only
  split <;> simp [SameCalm]

@[simp] theorem weEnd_calm (s : State) (e x) : SameCalm s (s.weEnd e x) := by
  simp [State.weEnd, SameCalm]

@[simp] theorem weBoundary_calm (s : State) (e o) : SameCalm o.after (s.weBoundary e o) := by
  unfold State.weBoundary
  cases o <;> simp [SameCalm, WeOut.after]

/-! ### The microcode engine of a worker engine -/

@[simp] theorem selRead_calm (s : State) (e i m lit sel) : SameCalm s (selRead e i m lit sel s).2 := by
  unfold selRead
  dsimp only
  repeat' split
  all_goals simp [SameCalm]

@[simp] theorem selWrite_calm (s : State) (e i sel v m) : SameCalm s (selWrite e i sel v m s).2 := by
  unfold selWrite
  dsimp only
  repeat' split
  all_goals simp [SameCalm]

/-! ### Worker engines -/

@[simp] theorem weLoaded_calm (s : State) (e res) : SameCalm s (weLoaded e res s) := by
  unfold weLoaded
  split <;> simp [SameCalm]

@[simp] theorem weOffline_calm (s : State) (e off) : SameCalm s (weOffline e off s) := by
  simp [weOffline, SameCalm]

@[simp] theorem lmStore_calm (s : State) (e hi) : SameCalm s (lmStore e hi s) := ⟨rfl, rfl, rfl, rfl⟩

@[simp] theorem csStore_calm (s : State) (e hi) : SameCalm s (csStore e hi s) := ⟨rfl, rfl, rfl, rfl⟩

/-! ### Copy engines -/

@[simp] theorem copySource_calm (s : State) (b) : SameCalm s (s.copySource b).2.2 := by
  unfold State.copySource
  dsimp only
  repeat' split
  all_goals simp [SameCalm]

@[simp] theorem copyEnd_calm (s : State) (c st bytes) : SameCalm s (s.copyEnd c st bytes) := ⟨rfl, rfl, rfl, rfl⟩

/-! ### Commands of the measure and source streams -/

@[simp] theorem strArmed_calm (s : State) (m) : SameCalm s (s.strArmed m) := by
  unfold State.strArmed
  split <;> simp [SameCalm]

@[simp] theorem streamArm_calm (s : State) (m) : SameCalm s (streamArm m s) := by
  unfold streamArm
  repeat' split
  all_goals simp [SameCalm]

@[simp] theorem strTryArmed_calm (s : State) (m) : SameCalm s (s.strTryArmed m) := by
  simp [State.strTryArmed, SameCalm]

@[simp] theorem strReset_calm (s : State) (m) : SameCalm s (strReset m s) := by
  unfold strReset
  dsimp only
  split <;> simp [SameCalm]

@[simp] theorem msReset_calm (s : State) (i extra) : SameCalm s (s.msReset i extra) := ⟨rfl, rfl, rfl, rfl⟩

@[simp] theorem msEvents_calm (s : State) (i g) : SameCalm s (s.msEvents i g) := by
  unfold State.msEvents
  dsimp only
  repeat' split
  all_goals simp [SameCalm]

@[simp] theorem msLose_calm (s : State) (i k) : SameCalm s (s.msLose i k) := by
  simp [State.msLose, SameCalm]

@[simp] theorem msOutput_calm (s : State) (i) : SameCalm s (s.msOutput i) := by
  simp [State.msOutput, SameCalm]

@[simp] theorem msChain_calm (s : State) (i x2) : SameCalm s (s.msChain i x2) := by
  unfold State.msChain
  dsimp only
  repeat' split
  all_goals simp [SameCalm]

@[simp] theorem msCorrect_calm (s : State) (i x) : SameCalm s (s.msCorrect i x).2 := by
  unfold State.msCorrect
  split <;> simp [SameCalm]

@[simp] theorem msInput_calm (s : State) (i g x ovr) : SameCalm s (s.msInput i g x ovr) := by
  unfold State.msInput
  dsimp only
  repeat' split
  all_goals simp [SameCalm]

@[simp] theorem msInputs_calm (s : State) (i g l) : SameCalm s (s.msInputs i g l) := by
  induction l generalizing s g with
  | nil => exact ⟨rfl, rfl, rfl, rfl⟩
  | cons x l ih => simp [State.msInputs, SameCalm, ih]

@[simp] theorem msBlock_calm (s : State) (i words) : SameCalm s (s.msBlock i words) := by
  simp [State.msBlock, SameCalm]

@[simp] theorem msBlockOrLate_calm (s : State) (i words) : SameCalm s (s.msBlockOrLate i words) := by
  simp [State.msBlockOrLate, SameCalm]

@[simp] theorem ssFault_calm (s : State) (i) : SameCalm s (s.ssFault i) := by
  simp [State.ssFault, SameCalm]

@[simp] theorem ssFetch_calm (s : State) (i res) : SameCalm s (ssFetch i res s) := by
  unfold ssFetch
  dsimp only
  repeat' split
  all_goals simp [SameCalm]

@[simp] theorem ssSample_calm (s : State) (i) : SameCalm s (ssSample i s) := by
  simp [ssSample, SameCalm]

@[simp] theorem swapReq_calm (s : State) (i target fadeM1) : SameCalm s (swapReq i target fadeM1 s) := by
  unfold swapReq
  dsimp only
  split <;> simp [SameCalm]

@[simp] theorem coefData_calm (s : State) (i v) : SameCalm s (coefData i v s) := by
  simp [coefData, SameCalm]

/-! ### Commands of the calibration unit and of the fuses -/

@[simp] theorem calStart_calm (s : State) (k i) : SameCalm s (s.calStart k i) := by
  unfold State.calStart
  dsimp only
  split <;> simp [SameCalm]

@[simp] theorem calLeave_calm (s : State) : SameCalm s s.calLeave := by
  unfold State.calLeave
  dsimp only
  repeat' split
  all_goals simp [SameCalm]

@[simp] theorem calCmd_calm (s : State) (code) : SameCalm s (calCmd s code) := ⟨rfl, rfl, rfl, rfl⟩

@[simp] theorem calRun_calm (s : State) : SameCalm s (calRun s) := by
  unfold calRun
  split <;> simp [SameCalm]

@[simp] theorem extData_calm (s : State) (v) : SameCalm s (extData v s) := by
  simp [extData, SameCalm]

@[simp] theorem convFit_calm (s : State) (mlo mhi vlo vhi) : SameCalm s (convFit mlo mhi vlo vhi s).2 := by
  unfold convFit
  split <;> simp [SameCalm]

@[simp] theorem stageConv_calm (s : State) (k g o) : SameCalm s (s.stageConv k g o) := ⟨rfl, rfl, rfl, rfl⟩

@[simp] theorem stageTim_calm (s : State) (u f) : SameCalm s (s.stageTim u f) := by
  simp [State.stageTim, SameCalm]

@[simp] theorem stageSync_calm (s : State) (v) : SameCalm s (s.stageSync v) := by
  simp [State.stageSync, SameCalm]

theorem calResult_calm {s t : State} {k i m b v} (h : calResult k i m s = some (b, v, t)) : SameCalm s t := by
  have withCal : ∀ (u : State) (c : Cal), SameCalm s u → SameCalm s { u with cal := c } := fun _ _ h => h
  unfold calResult at h
  split at h
  case h_8 =>
    rw [← (Prod.mk.inj (Prod.mk.inj (Option.some.inj h)).2).2]
    exact withCal _ _ (stageSync_calm ..)
  all_goals (try split at h)
  all_goals simp only [Option.some.injEq, Prod.mk.injEq, reduceCtorEq] at h
  all_goals obtain ⟨-, -, rfl⟩ := h
  all_goals simp [SameCalm]

@[simp] theorem calDone_calm (s : State) (k i m temp resid) : SameCalm s (calDone k i m temp resid s) := by
  unfold calDone
  split
  · exact ⟨rfl, rfl, rfl, rfl⟩
  · have staged := calResult_calm ‹_›
    dsimp only
    split <;> simp_all [SameCalm]

@[simp] theorem calSettleUnits_calm (s : State) : SameCalm s s.calSettleUnits := by
  unfold State.calSettleUnits
  refine foldState_calm_of (foldState_calm _ _ (fun m s => ?_) _) fun u s => ?_
  · split <;> simp [SameCalm]
  · repeat' split
    all_goals simp [SameCalm]

@[simp] theorem setFuse_calm (s : State) (f) : SameCalm s (s.setFuse f) := ⟨rfl, rfl, rfl, rfl⟩

@[simp] theorem fuseScan_calm (s : State) : SameCalm s s.fuseScan := ⟨rfl, rfl, rfl, rfl⟩

@[simp] theorem burn_calm (s : State) (len gen) : SameCalm s (s.burn len gen).2 := by
  unfold State.burn
  dsimp only
  repeat' split
  all_goals simp [SameCalm]

@[simp] theorem burnStop_calm (s : State) : SameCalm s s.burnStop := by
  unfold State.burnStop
  split <;> simp [SameCalm]

/-! ### Time domains and SYNC -/

@[simp] theorem tdState_calm (s : State) (d st) : SameCalm s (s.tdState d st) := by
  simp [State.tdState, SameCalm]

@[simp] theorem pairRecord_calm (s : State) (d) : SameCalm s (s.pairRecord d) := by
  simp [State.pairRecord, SameCalm]

@[simp] theorem steer_calm (s : State) (d a2) : SameCalm s (s.steer d a2) := by
  simp [State.steer, SameCalm]

@[simp] theorem holdover_calm (s : State) (d) : SameCalm s (s.holdover d) := by
  simp [State.holdover, SameCalm]

@[simp] theorem tdMiss_calm (s : State) (d) : SameCalm s (s.tdMiss d) := by
  simp [State.tdMiss, SameCalm]

@[simp] theorem timeLinkLost_calm (s : State) (p) : SameCalm s (s.timeLinkLost p) := by
  simp [State.timeLinkLost, SameCalm]

@[simp] theorem ttUpdate_calm (s : State) (p d t4) : SameCalm s (ttUpdate p d t4 s) := by
  unfold ttUpdate
  split <;> simp [SameCalm]

@[simp] theorem pairSwitch_calm (s : State) (k) : SameCalm s (s.pairSwitch k) := ⟨rfl, rfl, rfl, rfl⟩

@[simp] theorem pairSwitchCmd_calm (s : State) (d) : SameCalm s (pairSwitchCmd d s) := by
  simp [pairSwitchCmd, SameCalm]

@[simp] theorem fixPhase_calm (s : State) (t) : SameCalm s (s.fixPhase t) := ⟨rfl, rfl, rfl, rfl⟩

@[simp] theorem tdEdge_calm (s : State) (d) : SameCalm s (s.tdEdge d) := by
  simp [State.tdEdge, SameCalm]

@[simp] theorem pairEdge_calm (s : State) (k) : SameCalm s (s.pairEdge k) := by
  simp [State.pairEdge, SameCalm]

@[simp] theorem timeEdge_calm (s : State) : SameCalm s s.timeEdge := by
  simp [State.timeEdge, SameCalm]

/-! ### Commands of the HBM controller -/

@[simp] theorem modHmc_calm (s : State) (f) : SameCalm s (s.modHmc f) := ⟨rfl, rfl, rfl, rfl⟩

@[simp] theorem acceptReq_calm (s : State) (port addr owner) : SameCalm s (s.acceptReq port addr owner) := by
  unfold State.acceptReq
  dsimp only
  split <;> simp [SameCalm]

@[simp] theorem refuseReq_calm (s : State) (q addr owner) : SameCalm s (s.refuseReq q addr owner) := by
  simp [State.refuseReq, SameCalm]

@[simp] theorem tryReq_calm (s : State) (port addr owner) : SameCalm s (s.tryReq port addr owner) := by
  simp [State.tryReq, SameCalm]

@[simp] theorem countStale_calm (s : State) (page) : SameCalm s (s.countStale page) := by
  simp [State.countStale, SameCalm]

@[simp] theorem forceReset_calm (s : State) (pc) : SameCalm s (s.forceReset pc) := ⟨rfl, rfl, rfl, rfl⟩

@[simp] theorem pcFails_calm (s : State) (pc) : SameCalm s (s.pcFails pc) := by
  simp [State.pcFails, SameCalm]

@[simp] theorem ueAt_calm (s : State) (x addr) : SameCalm s (s.ueAt x addr) := by
  simp [State.ueAt, SameCalm]

@[simp] theorem ceErrAt_calm (s : State) (x addr) : SameCalm s (s.ceErrAt x addr) := ⟨rfl, rfl, rfl, rfl⟩

@[simp] theorem served_calm (s : State) (r) : SameCalm s (s.served r) := ⟨rfl, rfl, rfl, rfl⟩

@[simp] theorem changeTrains_calm (s : State) (h) : SameCalm s (s.changeTrains h) := by
  simp [State.changeTrains, SameCalm]

@[simp] theorem completeReq_calm (s : State) (r st ce) : SameCalm s (s.completeReq r st ce) := by
  unfold State.completeReq
  dsimp only
  split <;> simp [SameCalm]

@[simp] theorem freqStat_calm (s : State) (code) : SameCalm s (s.freqStat code) := ⟨rfl, rfl, rfl, rfl⟩

@[simp] theorem retrain_calm (s : State) (h rate) : SameCalm s (s.retrain h rate) := by
  simp [State.retrain, SameCalm]

@[simp] theorem freqReq_calm (s : State) (h rate) : SameCalm s (freqReq h rate s) := by
  unfold freqReq
  dsimp only
  repeat' split
  all_goals simp [SameCalm]

@[simp] theorem buildPart0_calm (s : State) : SameCalm s s.buildPart0 := by
  simp [State.buildPart0, SameCalm]

@[simp] theorem trainReport_calm (s : State) (h rep) : SameCalm s (s.trainReport h rep) := by
  simp [State.trainReport, SameCalm]

@[simp] theorem stackPower_calm (s : State) (h) : SameCalm s (s.stackPower h) := by
  simp [State.stackPower, SameCalm]

@[simp] theorem bootTrained_calm (s : State) (h) : SameCalm s (s.bootTrained h) := by
  simp [State.bootTrained, SameCalm]

@[simp] theorem hbmStep_calm (s : State) (h rep) : SameCalm s (hbmStep h rep s) := by
  unfold hbmStep
  dsimp only
  split <;> simp [SameCalm]

@[simp] theorem hmcReset_calm (s : State) : SameCalm s (hmcReset s) := ⟨rfl, rfl, rfl, rfl⟩

/-! ### PE links -/

@[simp] theorem plTrain_calm (s : State) (j) : SameCalm s (s.plTrain j) := ⟨rfl, rfl, rfl, rfl⟩

@[simp] theorem armLost_calm (s : State) (j) : SameCalm s (s.armLost j) := by
  simp [State.armLost, SameCalm]

@[simp] theorem plLose_calm (s : State) (j) : SameCalm s (s.plLose j) := by
  simp [State.plLose, SameCalm]

@[simp] theorem plFail_calm (s : State) (j) : SameCalm s (s.plFail j) := by
  simp [State.plFail, SameCalm]

@[simp] theorem heartbeat_calm (s : State) (j) : SameCalm s (heartbeat j s) := ⟨rfl, rfl, rfl, rfl⟩

@[simp] theorem badFrame_calm (s : State) (j) : SameCalm s (badFrame j s) := ⟨rfl, rfl, rfl, rfl⟩

@[simp] theorem plTick_calm (s : State) : SameCalm s s.plTick := by
  simp [State.plTick, SameCalm]

@[simp] theorem plDesc_calm (s : State) (j d) : SameCalm s (plDesc j d s) := ⟨rfl, rfl, rfl, rfl⟩

@[simp] theorem plLocked_calm (s : State) (j) : SameCalm s (plLocked j s) := by
  simp [plLocked, SameCalm]

@[simp] theorem plTimeout_calm (s : State) (j) : SameCalm s (plTimeout j s) := by
  simp [plTimeout, SameCalm]

@[simp] theorem plProbe_calm (s : State) (j) : SameCalm s (plProbe j s) := by
  simp [plProbe, SameCalm]

@[simp] theorem plRetrain_calm (s : State) (j) : SameCalm s (plRetrain j s) := by
  simp [plRetrain, SameCalm]

@[simp] theorem plEnable_calm (s : State) (j on) : SameCalm s (plEnable j on s) := by
  simp [plEnable, SameCalm]

@[simp] theorem plReset_calm (s : State) (j) : SameCalm s (plReset j s) := by
  simp [plReset, SameCalm]

/-! ### Management firmware as its mailbox shows it, bundles, flash slots and update sessions -/

@[simp] theorem modMgt_calm (s : State) (f) : SameCalm s (s.modMgt f) := ⟨rfl, rfl, rfl, rfl⟩

@[simp] theorem modSess_calm (s : State) (f) : SameCalm s (s.modSess f) := ⟨rfl, rfl, rfl, rfl⟩

@[simp] theorem pushReq_calm (s : State) (r) : SameCalm s (s.pushReq r) := ⟨rfl, rfl, rfl, rfl⟩

@[simp] theorem answer_calm (s : State) (r status pay) : SameCalm s (s.answer r status pay) := by
  unfold State.answer
  dsimp only
  split <;> simp [SameCalm]

@[simp] theorem rejectHead_calm (s : State) (n) : SameCalm s (s.rejectHead n) := by
  induction n generalizing s with
  | zero => exact ⟨rfl, rfl, rfl, rfl⟩
  | succ n ih =>
    unfold State.rejectHead
    repeat' split
    all_goals simp [SameCalm, ih]

@[simp] theorem reject_calm (s : State) : SameCalm s s.reject := by
  simp [State.reject, SameCalm]

@[simp] theorem doorbell_calm (s : State) : SameCalm s (doorbell s) := by
  simp [doorbell, SameCalm]

@[simp] theorem mboxReset_calm (s : State) : SameCalm s (mboxReset s) := by
  simp [mboxReset, SameCalm]

@[simp] theorem fuseBit_calm (s : State) (b) : SameCalm s (s.fuseBit b) := ⟨rfl, rfl, rfl, rfl⟩

@[simp] theorem setFlash_calm (s : State) (f) : SameCalm s (s.setFlash f) := ⟨rfl, rfl, rfl, rfl⟩

@[simp] theorem sessEnd_calm (s : State) (st r status) : SameCalm s (s.sessEnd st r status) := by
  unfold State.sessEnd
  dsimp only
  split <;> simp [SameCalm]

@[simp] theorem sessFail_calm (s : State) (r) : SameCalm s (s.sessFail r) := by
  simp [State.sessFail, SameCalm]

@[simp] theorem sessPortLost_calm (s : State) (p) : SameCalm s (s.sessPortLost p) := by
  simp [State.sessPortLost, SameCalm]

@[simp] theorem updOpen_calm (s : State) (r) : SameCalm s (updOpen r s) := by
  simp [updOpen, SameCalm]

@[simp] theorem sessHeader_calm (s : State) : SameCalm s s.sessHeader := by
  unfold State.sessHeader
  dsimp only
  split <;> simp [SameCalm]

@[simp] theorem sessProgram_calm (s : State) : SameCalm s s.sessProgram := by
  simp [State.sessProgram, SameCalm]

@[simp] theorem sessData_calm (s : State) (l) : SameCalm s (s.sessData l) := by
  simp [State.sessData, SameCalm]

@[simp] theorem updData_calm (s : State) (r) : SameCalm s (updData r s) := by
  unfold updData
  dsimp only
  repeat' split
  all_goals simp [SameCalm]

@[simp] theorem sessFlit_calm (s : State) (p l) : SameCalm s (s.sessFlit p l) := by
  simp [State.sessFlit, SameCalm]

@[simp] theorem updCommit_calm (s : State) (r) : SameCalm s (updCommit r s) := by
  simp [updCommit, SameCalm]

@[simp] theorem updAbort_calm (s : State) (r) : SameCalm s (updAbort r s) := by
  simp [updAbort, SameCalm]

@[simp] theorem updPin_calm (s : State) (r) : SameCalm s (updPin r s) := by
  simp [updPin, SameCalm]

@[simp] theorem flashDone_calm (s : State) (op) : SameCalm s (flashDone op s) := by
  unfold flashDone
  split <;> simp [SameCalm]

@[simp] theorem epochBump_calm (s : State) (r) : SameCalm s (epochBump r s) := by
  simp [epochBump, SameCalm]

@[simp] theorem revoke_calm (s : State) (r) : SameCalm s (revoke r s) := by
  simp [revoke, SameCalm]

@[simp] theorem fuseBuf_calm (s : State) (r) : SameCalm s (fuseBuf r s) := by
  simp [fuseBuf, SameCalm]

@[simp] theorem fuseBurn_calm (s : State) (r) : SameCalm s (fuseBurn r s) := by
  have b := burn_calm s (fld (r.w 1) 16 8) (fld (r.w 1) 0 16)
  unfold fuseBurn
  split <;> simp_all [SameCalm]

/-! ### Zheind ports -/

@[simp] theorem xtUpdate_calm (s : State) (lost) : SameCalm s (s.xtUpdate lost) := by
  simp [State.xtUpdate, SameCalm]

@[simp] theorem xtTick_calm (s : State) : SameCalm s s.xtTick := by
  simp [State.xtTick, SameCalm]

@[simp] theorem zpHello_calm (s : State) (p) : SameCalm s (s.zpHello p) := ⟨rfl, rfl, rfl, rfl⟩

@[simp] theorem zpTrain_calm (s : State) (p) : SameCalm s (s.zpTrain p) := ⟨rfl, rfl, rfl, rfl⟩

@[simp] theorem zpRetrain_calm (s : State) (p) : SameCalm s (s.zpRetrain p) := by
  simp [State.zpRetrain, SameCalm]

@[simp] theorem barriersLost_calm (s : State) (p) : SameCalm s (s.barriersLost p) := by
  simp [State.barriersLost, SameCalm]

@[simp] theorem zpLose_calm (s : State) (p) : SameCalm s (s.zpLose p) := by
  simp [State.zpLose, SameCalm]

@[simp] theorem zpFail_calm (s : State) (p) : SameCalm s (s.zpFail p) := by
  simp [State.zpFail, SameCalm]

@[simp] theorem zpFresh_calm (s : State) (p) : SameCalm s (s.zpFresh p) := ⟨rfl, rfl, rfl, rfl⟩

@[simp] theorem zpHelloIn_calm (s : State) (p verMax chipId) : SameCalm s (zpHelloIn p verMax chipId s) := by
  simp [zpHelloIn, SameCalm]

@[simp] theorem zpReplay_calm (s : State) (p) : SameCalm s (s.zpReplay p) := by
  simp [State.zpReplay, SameCalm]

@[simp] theorem zpActive_calm (s : State) (p) : SameCalm s (s.zpActive p) := by
  unfold State.zpActive
  dsimp only
  split <;> simp [SameCalm]

@[simp] theorem zpStepEnd_calm (s : State) (p fom partner) : SameCalm s (zpStepEnd p fom partner s) := by
  unfold zpStepEnd
  dsimp only
  repeat' split
  all_goals simp [SameCalm]

@[simp] theorem zpRetrainCmd_calm (s : State) (p) : SameCalm s (zpRetrainCmd p s) := by
  simp [zpRetrainCmd, SameCalm]

@[simp] theorem rateReq_calm (s : State) (p rate) : SameCalm s (rateReq p rate s) := by
  unfold rateReq
  dsimp only
  repeat' split
  all_goals simp [SameCalm]

@[simp] theorem zpRestart_calm (s : State) (p) : SameCalm s (zpRestart p s) := by
  simp [zpRestart, SameCalm]

@[simp] theorem zpEnable_calm (s : State) (p on) : SameCalm s (zpEnable p on s) := by
  simp [zpEnable, SameCalm]

@[simp] theorem zpReset_calm (s : State) (p) : SameCalm s (zpReset p s) := by
  simp [zpReset, SameCalm]

@[simp] theorem zpRefuse_calm (s : State) (p) : SameCalm s (s.zpRefuse p) := by
  simp [State.zpRefuse, SameCalm]

@[simp] theorem sparedTx_calm (s : State) (p) : SameCalm s (s.sparedTx p) := by
  simp [State.sparedTx, SameCalm]

@[simp] theorem zpSequenced_calm (s : State) (p f b) : SameCalm s (s.zpSequenced p f b) := by
  simp [State.zpSequenced, SameCalm]

@[simp] theorem flitReceive_calm (s : State) (p b) : SameCalm s (flitReceive p b s) := by
  simp [flitReceive, SameCalm]

@[simp] theorem laneFailure_calm (s : State) (p lane) : SameCalm s (laneFailure p lane s) := by
  unfold laneFailure
  dsimp only
  repeat' split
  all_goals simp [SameCalm]

@[simp] theorem spareReq_calm (s : State) (p mask) : SameCalm s (spareReq p mask s) := by
  unfold spareReq
  split <;> simp [SameCalm]

@[simp] theorem spareMarkEnd_calm (s : State) (p) : SameCalm s (spareMarkEnd p s) := by
  simp [spareMarkEnd, SameCalm]

/-! ### The PCI Express endpoint -/

@[simp] theorem modPcie_calm (s : State) (f) : SameCalm s (s.modPcie f) := ⟨rfl, rfl, rfl, rfl⟩

@[simp] theorem bar4Fail_calm (s : State) (a) : SameCalm s (s.bar4Fail a) := by
  simp [State.bar4Fail, SameCalm]

@[simp] theorem pcieLost_calm (s : State) : SameCalm s s.pcieLost := ⟨rfl, rfl, rfl, rfl⟩

/-! ### Accesses of the register pages -/

@[simp] theorem writeRise_calm (s : State) (page) : SameCalm s (s.writeRise page) := by
  simp [State.writeRise, SameCalm]

@[simp] theorem evtRawClear_calm (s : State) (page bits) : SameCalm s (evtRawClear page bits s) := by
  simp [evtRawClear, SameCalm]

@[simp] theorem evtMaskWrite_calm (s : State) (page v) : SameCalm s (evtMaskWrite page v s) := by
  simp [evtMaskWrite, SameCalm]

@[simp] theorem errorClear_calm (s : State) (page) : SameCalm s (errorClear page s) := ⟨rfl, rfl, rfl, rfl⟩

@[simp] theorem freezePage_calm (s : State) (page on) : SameCalm s (freezePage page on s) := by
  simp [freezePage, SameCalm]

@[simp] theorem enablePage_calm (s : State) (page on) : SameCalm s (enablePage page on s) := by
  simp [enablePage, SameCalm]

@[simp] theorem seqSoftReset_calm (s : State) (q) : SameCalm s (seqSoftReset q s) := by
  simp [seqSoftReset, SameCalm]

@[simp] theorem chSoftReset_calm (s : State) (c) : SameCalm s (chSoftReset c s) := ⟨rfl, rfl, rfl, rfl⟩

@[simp] theorem capSoftReset_calm (s : State) (i) : SameCalm s (capSoftReset i s) := ⟨rfl, rfl, rfl, rfl⟩

@[simp] theorem tssSoftReset_calm (s : State) : SameCalm s (tssSoftReset s) := ⟨rfl, rfl, rfl, rfl⟩

@[simp] theorem srcChanged_calm (s : State) (d) : SameCalm s (s.srcChanged d) := by
  simp [State.srcChanged, SameCalm]

@[simp] theorem timeSoftReset_calm (s : State) (d) : SameCalm s (timeSoftReset d s) := by
  simp [timeSoftReset, SameCalm]

@[simp] theorem schTick_calm (s : State) : SameCalm s s.schTick := by
  simp [State.schTick, SameCalm]

@[simp] theorem written_calm (s : State) (page off old v) : SameCalm s (s.written page off old v) := by
  simp [State.written, SameCalm]

@[simp] theorem storeReg_calm (s : State) (page off r v) : SameCalm s (s.storeReg page off r v) := by
  simp [State.storeReg, SameCalm]

@[simp] theorem msixWrite_calm (s : State) (k v) : SameCalm s (msixWrite k v s) := by
  unfold msixWrite
  dsimp only
  repeat' split
  all_goals simp [SameCalm]

@[simp] theorem wordRead_calm (s : State) (page off path) :
    SameCalm s (wordRead page off path s) := ⟨rfl, rfl, rfl, rfl⟩

/-! ### Rails, resets, clocks and boot -/

@[simp] theorem pageUp_calm (s : State) (page) : SameCalm s (s.pageUp page) := ⟨rfl, rfl, rfl, rfl⟩

@[simp] theorem pagesUp_calm (s : State) (l) : SameCalm s (s.pagesUp l) := by
  simp [State.pagesUp, SameCalm]

@[simp] theorem loadTrims_calm (s : State) : SameCalm s s.loadTrims := by
  simp [State.loadTrims, SameCalm]

@[simp] theorem boot_calm (s : State) : SameCalm s s.boot := by
  unfold State.boot
  dsimp only
  split <;> simp [SameCalm]

@[simp] theorem tryRelease_calm (s : State) : SameCalm s s.tryRelease := by
  simp [State.tryRelease, SameCalm]

@[simp] theorem clockStage_calm (s : State) : SameCalm s s.clockStage := by
  simp [State.clockStage, SameCalm]

@[simp] theorem startZp_calm (s : State) (p) : SameCalm s (s.startZp p) := by
  simp [State.startZp, SameCalm]

@[simp] theorem startPls_calm (s : State) (g) : SameCalm s (s.startPls g) := by
  simp [State.startPls, SameCalm]

@[simp] theorem banksStage_calm (s : State) : SameCalm s s.banksStage := by
  simp [State.banksStage, SameCalm]

@[simp] theorem loadStore_calm (s : State) (e) : SameCalm s (s.loadStore e) := ⟨rfl, rfl, rfl, rfl⟩

@[simp] theorem bootTick_calm (s : State) : SameCalm s s.bootTick := by
  unfold State.bootTick
  dsimp only
  repeat' split
  all_goals simp [SameCalm]

/-! ### Starts by a time compare -/

@[simp] theorem seqTimeStart_calm (s : State) (q) : SameCalm s (seqTimeStart q s) := by
  simp [seqTimeStart, SameCalm]

@[simp] theorem timTimeStart_calm (s : State) (u) : SameCalm s (timTimeStart u s) := by
  simp [timTimeStart, SameCalm]

/-! ### One PFCLK edge -/

@[simp] theorem dropConds_calm (s : State) : SameCalm s s.dropConds := ⟨rfl, rfl, rfl, rfl⟩

@[simp] theorem schCascades_calm (s : State) : SameCalm s s.schCascades := by
  unfold State.schCascades
  refine foldState_calm_of ⟨rfl, rfl, rfl, rfl⟩ fun x s => ?_
  repeat' split
  all_goals simp [SameCalm]

@[simp] theorem reportTick_calm (s : State) : SameCalm s s.reportTick := by
  unfold State.reportTick
  refine foldState_calm _ _ (fun x s => ?_) s
  dsimp only
  split <;> split <;> simp [SameCalm]

@[simp] theorem taskTick_calm (s : State) : SameCalm s s.taskTick := by
  simp [State.taskTick, SameCalm]

@[simp] theorem stretchTick_calm (s : State) : SameCalm s s.stretchTick := by
  simp [State.stretchTick, SameCalm]

@[simp] theorem parkTick_calm (s : State) : SameCalm s s.parkTick := by
  unfold State.parkTick
  refine foldState_calm _ _ (fun q s => ?_) s
  repeat' split
  all_goals simp [SameCalm]

@[simp] theorem issueTick_calm (s : State) : SameCalm s s.issueTick := by
  simp [State.issueTick, SameCalm]

@[simp] theorem unitTick_calm (s : State) : SameCalm s s.unitTick := by
  simp [State.unitTick, SameCalm]

end Sys2Proof.Machine
end

section
/-! PROOFS. The commands that keep the clock, the queue of commands and HBM: each goes on to a state that differs from the one
before elsewhere only, with the instructions and the micro-operations of a worker engine first. -/

namespace Sys2Proof.Machine

/-- The command goes on, to a state with property `P`. -/
def GoesOn (P : State → Prop) : Res → Prop
  | .next t => P t
  | .fault _ => False
  | .refused _ => False

@[simp] theorem goesOn_next (P : State → Prop) (t : State) : GoesOn P (.next t) ↔ P t := Iff.rfl

theorem submitCore_calm {e : Nat} {wr : Bool} {lm a n tag : Nat} {s t : State} {q : Bool}
    (h : submitCore e wr lm a n tag s = .ok (q, t)) : SameCalm s t := by
  unfold submitCore at h
  dsimp only at h
  repeat' split at h
  all_goals simp only [reduceCtorEq, Except.ok.injEq, Prod.mk.injEq] at h
  all_goals obtain ⟨-, rfl⟩ := h
  all_goals simp [SameCalm]

theorem postCore_calm {e a : Nat} {s t : State} {q : Bool} (h : postCore e a s = .ok (q, t)) : SameCalm s t := by
  unfold postCore at h
  repeat' split at h
  all_goals simp only [reduceCtorEq, Except.ok.injEq, Prod.mk.injEq] at h
  all_goals obtain ⟨-, rfl⟩ := h
  all_goals simp [SameCalm]

theorem submitTransfer_calm (e : Nat) (wr : Bool) (lm a n tag : Nat) (w : We) (s : State) :
    SameCalm s (submitTransfer e wr lm a n tag w s).after := by
  unfold submitTransfer
  split
  · exact ⟨rfl, rfl, rfl, rfl⟩
  · simpa [WeOut.after, SameCalm] using submitCore_calm ‹_›

theorem postTask_calm (e a : Nat) (w : We) (s : State) : SameCalm s (postTask e a w s).after := by
  unfold postTask
  split
  · exact ⟨rfl, rfl, rfl, rfl⟩
  · simpa [WeOut.after, SameCalm] using postCore_calm ‹_›

/-- The state a micro-operation leaves. -/
def MOut.after : MOut → State
  | .cont _ s => s
  | .stop o => o.after

theorem next_calm (m : MRun) (idx : Nat) (s : State) : SameCalm s (m.next idx s).after := by
  unfold MRun.next
  split
  · exact ⟨rfl, rfl, rfl, rfl⟩
  · split <;> exact ⟨rfl, rfl, rfl, rfl⟩

theorem microSys_calm (e : Nat) (i : WInstr) (mw : MWord) (a b : Word64) (m : MRun) (s : State) :
    SameCalm s (microSys e i mw a b m s).after := by
  unfold microSys
  split
  case h_3 =>
    split
    · exact ⟨rfl, rfl, rfl, rfl⟩
    · simpa [MOut.after, SameCalm] using postCore_calm ‹_›
  case h_5 => split <;> exact ⟨rfl, rfl, rfl, rfl⟩
  all_goals simp [MOut.after, WeOut.after, SameCalm]

theorem microOp_calm (e : Nat) (i : WInstr) (mw : MWord) (a b : Word64) (m : MRun) (s : State) :
    SameCalm s (microOp e i mw a b m s).after := by
  unfold microOp
  dsimp only
  split
  · repeat' split
    all_goals simp [MOut.after, SameCalm]
  · split
    case h_6 =>
      split
      · exact ⟨rfl, rfl, rfl, rfl⟩
      · simpa [MOut.after, SameCalm] using submitCore_calm ‹_›
    case h_7 => exact microSys_calm ..
    all_goals (try split)
    all_goals simp [MOut.after, WeOut.after, SameCalm]

theorem microStep_calm (e : Nat) (i : WInstr) (m : MRun) (s : State) : SameCalm s (microStep e i m s).after := by
  unfold microStep
  dsimp only
  split
  · exact ⟨rfl, rfl, rfl, rfl⟩
  · split
    · exact SameCalm.trans (by simp [SameCalm]) (next_calm ..)
    · exact SameCalm.trans (by simp [SameCalm]) (microOp_calm ..)

theorem microLoop_calm (e : Nat) (i : WInstr) (n : Nat) (m : MRun) (s : State) :
    SameCalm s (microLoop e i n m s).after := by
  induction n generalizing m s with
  | zero => exact ⟨rfl, rfl, rfl, rfl⟩
  | succ n ih =>
    have word := microStep_calm e i m s
    unfold microLoop
    split <;> rename_i h <;> rw [h] at word
    · exact word
    · exact word.trans (ih ..)

/-- What an instruction does as the table says, its routine may do as well. -/
theorem weRun_calm {f : WInstr → We → State → WeOut} (hf : ∀ i w s, SameCalm s (f i w s).after) (e entry : Nat)
    (i : WInstr)
    (s : State) : SameCalm s (weRun e entry f i s).after := by
  unfold weRun
  dsimp only
  repeat' split
  · exact hf ..
  · exact SameCalm.trans ⟨rfl, rfl, rfl, rfl⟩ (hf ..)
  · exact SameCalm.trans ⟨rfl, rfl, rfl, rfl⟩ (microLoop_calm ..)

theorem weExec_goesOn {f : WInstr → We → State → WeOut} (hf : ∀ i w s, SameCalm s (f i w s).after) (code e : Nat)
    (s : State) : GoesOn (SameCalm s) (weExec code e f s) := by
  unfold weExec
  dsimp only
  repeat' split
  case h_2.isFalse.isFalse => exact (weRun_calm hf ..).trans (weBoundary_calm ..)
  all_goals simp [SameCalm, WeOut.after]

theorem alu_goesOn (code e : Nat) (g : Word64 → Word64 → Word64) (s : State) : GoesOn (SameCalm s) (alu code e g s) :=
  weExec_goesOn (fun _ _ _ => ⟨rfl, rfl, rfl, rfl⟩) ..

theorem loadOp_calm (e n : Nat) (i : WInstr) (w : We) (s : State) : SameCalm s (loadOp e n i w s).after := by
  unfold loadOp; split <;> exact ⟨rfl, rfl, rfl, rfl⟩
theorem storeOp_calm (e n : Nat) (i : WInstr) (w : We) (s : State) : SameCalm s (storeOp e n i w s).after := by
  unfold storeOp; split <;> exact ⟨rfl, rfl, rfl, rfl⟩

theorem takeReq_goesOn {f : MboxReq → State → State} (hf : ∀ r s, SameCalm s (f r s)) (c : Nat) (s : State) :
    GoesOn (SameCalm s) (takeReq c f s) := by
  unfold takeReq
  repeat' split
  all_goals simp [SameCalm, hf]

@[simp] theorem execBankWake_goesOn (s : State) (b) : GoesOn (SameCalm s) (execBankWake b s) := by
  simp [execBankWake, SameCalm]

@[simp] theorem execBankSleep_goesOn (s : State) (b) : GoesOn (SameCalm s) (execBankSleep b s) := by
  simp [execBankSleep, SameCalm]

@[simp] theorem execBankOff_goesOn (s : State) (b) : GoesOn (SameCalm s) (execBankOff b s) := by
  simp [execBankOff, SameCalm]

@[simp] theorem execBankStart_goesOn (s : State) (b) : GoesOn (SameCalm s) (execBankStart b s) := by
  simp [execBankStart, SameCalm]

@[simp] theorem execBankWakeDone_goesOn (s : State) (b) : GoesOn (SameCalm s) (execBankWakeDone b s) := by
  simp [execBankWakeDone, SameCalm]

@[simp] theorem execBankPowerUpDone_goesOn (s : State) (b) : GoesOn (SameCalm s) (execBankPowerUpDone b s) := by
  simp [execBankPowerUpDone, SameCalm]

@[simp] theorem execBankEntryEnd_goesOn (s : State) (b) : GoesOn (SameCalm s) (execBankEntryEnd b s) := by
  simp [execBankEntryEnd, SameCalm]

@[simp] theorem execTimArm_goesOn (s : State) (u) : GoesOn (SameCalm s) (execTimArm u s) := by
  simp [execTimArm, SameCalm]

@[simp] theorem execTimStart_goesOn (s : State) (u) : GoesOn (SameCalm s) (execTimStart u s) := by
  simp [execTimStart, SameCalm]

@[simp] theorem execTimComplete_goesOn (s : State) (u) : GoesOn (SameCalm s) (execTimComplete u s) := by
  simp [execTimComplete, SameCalm]

@[simp] theorem execTimAbort_goesOn (s : State) (u) : GoesOn (SameCalm s) (execTimAbort u s) := by
  simp [execTimAbort, SameCalm]

@[simp] theorem execTimClear_goesOn (s : State) (u) : GoesOn (SameCalm s) (execTimClear u s) := by
  simp [execTimClear, SameCalm]

@[simp] theorem execTimEdge_goesOn (s : State) (u kind index rising tick vern) :
    GoesOn (SameCalm s) (execTimEdge u kind index rising tick vern s) := by
  unfold execTimEdge
  dsimp only
  repeat' split
  all_goals simp [SameCalm]

@[simp] theorem execTimHoldoffEnd_goesOn (s : State) (u src) : GoesOn (SameCalm s) (execTimHoldoffEnd u src s) := by
  unfold execTimHoldoffEnd
  dsimp only
  repeat' split
  all_goals simp [SameCalm]

@[simp] theorem execTimReady_goesOn (s : State) (u) : GoesOn (SameCalm s) (execTimReady u s) := by
  unfold execTimReady
  dsimp only
  repeat' split
  all_goals simp [SameCalm]

@[simp] theorem execShotTimeout_goesOn (s : State) (u) : GoesOn (SameCalm s) (execShotTimeout u s) := by
  simp [execShotTimeout, SameCalm]

@[simp] theorem execGateClose_goesOn (s : State) (u) : GoesOn (SameCalm s) (execGateClose u s) := by
  simp [execGateClose, SameCalm]

@[simp] theorem execEmit_goesOn (s : State) (q) : GoesOn (SameCalm s) (execEmit q s) := by
  simp [execEmit, SameCalm]

@[simp] theorem execRpt_goesOn (s : State) (q) : GoesOn (SameCalm s) (execRpt q s) := by
  simp [execRpt, SameCalm]

@[simp] theorem execLoop_goesOn (s : State) (q) : GoesOn (SameCalm s) (execLoop q s) := by
  simp [execLoop, SameCalm]

@[simp] theorem execEndl_goesOn (s : State) (q) : GoesOn (SameCalm s) (execEndl q s) := by
  simp [execEndl, SameCalm]

@[simp] theorem execCall_goesOn (s : State) (q) : GoesOn (SameCalm s) (execCall q s) := by
  simp [execCall, SameCalm]

@[simp] theorem execRet_goesOn (s : State) (q) : GoesOn (SameCalm s) (execRet q s) := by
  simp [execRet, SameCalm]

@[simp] theorem execJmp_goesOn (s : State) (q) : GoesOn (SameCalm s) (execJmp q s) := by
  simp [execJmp, SameCalm]

@[simp] theorem execJif_goesOn (s : State) (q) : GoesOn (SameCalm s) (execJif q s) := by
  simp [execJif, SameCalm]

@[simp] theorem execWaitRun_goesOn (s : State) (q) : GoesOn (SameCalm s) (execWaitRun q s) := by
  simp [execWaitRun, SameCalm]

@[simp] theorem execMarkRun_goesOn (s : State) (q) : GoesOn (SameCalm s) (execMarkRun q s) := by
  simp [execMarkRun, SameCalm]

@[simp] theorem execTset_goesOn (s : State) (q) : GoesOn (SameCalm s) (execTset q s) := by
  simp [execTset, SameCalm]

@[simp] theorem execApg_goesOn (s : State) (q) : GoesOn (SameCalm s) (execApg q s) := by
  simp [execApg, SameCalm]

@[simp] theorem execSmask_goesOn (s : State) (q) : GoesOn (SameCalm s) (execSmask q s) := by
  simp [execSmask, SameCalm]

@[simp] theorem execAlign_goesOn (s : State) (q) : GoesOn (SameCalm s) (execAlign q s) := by
  simp [execAlign, SameCalm]

@[simp] theorem execStop_goesOn (s : State) (q) : GoesOn (SameCalm s) (execStop q s) := by
  simp [execStop, SameCalm]

@[simp] theorem execMatchRun_goesOn (s : State) (q) : GoesOn (SameCalm s) (execMatchRun q s) := by
  simp [execMatchRun, SameCalm]

@[simp] theorem execWaitEnd_goesOn (s : State) (q) : GoesOn (SameCalm s) (execWaitEnd q s) := by
  unfold execWaitEnd
  dsimp only
  repeat' split
  all_goals simp [SameCalm]

@[simp] theorem execFillVector_goesOn (s : State) (q) : GoesOn (SameCalm s) (execFillVector q s) := by
  unfold execFillVector
  dsimp only
  repeat' split
  all_goals simp [SameCalm]

@[simp] theorem execArm_goesOn (s : State) (q) : GoesOn (SameCalm s) (execArm q s) := by
  simp [execArm, SameCalm]

@[simp] theorem execPrefillComplete_goesOn (s : State) (q) : GoesOn (SameCalm s) (execPrefillComplete q s) := by
  unfold execPrefillComplete
  dsimp only
  repeat' split
  all_goals simp [SameCalm]

@[simp] theorem execStart_goesOn (s : State) (q) : GoesOn (SameCalm s) (execStart q s) := by
  simp [execStart, SameCalm]

@[simp] theorem execAbort_goesOn (s : State) (q) : GoesOn (SameCalm s) (execAbort q s) := by
  simp [execAbort, SameCalm]

@[simp] theorem execClear_goesOn (s : State) (q) : GoesOn (SameCalm s) (execClear q s) := by
  simp [execClear, SameCalm]

@[simp] theorem execPause_goesOn (s : State) (q) : GoesOn (SameCalm s) (execPause q s) := by
  simp [execPause, SameCalm]

@[simp] theorem execResume_goesOn (s : State) (q) : GoesOn (SameCalm s) (execResume q s) := by
  simp [execResume, SameCalm]

@[simp] theorem execAutoResume_goesOn (s : State) (q) : GoesOn (SameCalm s) (execAutoResume q s) := by
  unfold execAutoResume
  dsimp only
  repeat' split
  all_goals simp [SameCalm]

@[simp] theorem execSiteRetire_goesOn (s : State) (q w bits) : GoesOn (SameCalm s) (execSiteRetire q w bits s) := by
  simp [execSiteRetire, SameCalm]

@[simp] theorem execJumpReq_goesOn (s : State) (q slot) : GoesOn (SameCalm s) (execJumpReq q slot s) := by
  simp [execJumpReq, SameCalm]

@[simp] theorem execMarkIdRead_goesOn (s : State) (q _path) : GoesOn (SameCalm s) (execMarkIdRead q _path s) := by
  unfold execMarkIdRead
  dsimp only
  repeat' split
  all_goals simp [SameCalm]

@[simp] theorem execStrmWr_goesOn (s : State) (q lo hi) : GoesOn (SameCalm s) (execStrmWr q lo hi s) := by
  unfold execStrmWr
  split <;> simp [SameCalm]

@[simp] theorem execFetchComplete_goesOn (s : State) (q what res n) :
    GoesOn (SameCalm s) (execFetchComplete q what res n s) := by
  unfold execFetchComplete
  dsimp only
  repeat' split
  all_goals simp [SameCalm]

@[simp] theorem execAlignRelease_goesOn (s : State) (g) : GoesOn (SameCalm s) (execAlignRelease g s) := by
  simp [execAlignRelease, SameCalm]

@[simp] theorem execAlignTimeout_goesOn (s : State) (g) : GoesOn (SameCalm s) (execAlignTimeout g s) := by
  simp [execAlignTimeout, SameCalm]

@[simp] theorem execArrive_goesOn (s : State) (port g) : GoesOn (SameCalm s) (execArrive port g s) := by
  unfold execArrive
  dsimp only
  repeat' split
  all_goals simp [SameCalm]

@[simp] theorem execRelease_goesOn (s : State) (port g t) : GoesOn (SameCalm s) (execRelease port g t s) := by
  unfold execRelease
  dsimp only
  repeat' split
  all_goals simp [SameCalm]

@[simp] theorem execCancel_goesOn (s : State) (port g) : GoesOn (SameCalm s) (execCancel port g s) := by
  simp [execCancel, SameCalm]

@[simp] theorem execTrigInEdge_goesOn (s : State) (line rising) :
    GoesOn (SameCalm s) (execTrigInEdge line rising s) := by
  simp [execTrigInEdge, SameCalm]

@[simp] theorem execCapCommit_goesOn (s : State) (q obs) : GoesOn (SameCalm s) (execCapCommit q obs s) := by
  unfold execCapCommit
  split <;> simp [SameCalm]

@[simp] theorem execTriggerFire_goesOn (s : State) (u) : GoesOn (SameCalm s) (execTriggerFire u s) := by
  simp [execTriggerFire, SameCalm]

@[simp] theorem execPulseEnd_goesOn (s : State) (line) : GoesOn (SameCalm s) (execPulseEnd line s) := by
  simp [execPulseEnd, SameCalm]

@[simp] theorem execXtAssertEnd_goesOn (s : State) (line) : GoesOn (SameCalm s) (execXtAssertEnd line s) := by
  simp [execXtAssertEnd, SameCalm]

@[simp] theorem execHoldoffEnd_goesOn (s : State) (u) : GoesOn (SameCalm s) (execHoldoffEnd u s) := by
  simp [execHoldoffEnd, SameCalm]

@[simp] theorem execUnitArm_goesOn (s : State) (u) : GoesOn (SameCalm s) (execUnitArm u s) := by
  simp [execUnitArm, SameCalm]

@[simp] theorem execUnitEnable_goesOn (s : State) (u) : GoesOn (SameCalm s) (execUnitEnable u s) := by
  simp [execUnitEnable, SameCalm]

@[simp] theorem execForce_goesOn (s : State) (units) : GoesOn (SameCalm s) (execForce units s) := by
  simp [execForce, SameCalm]

@[simp] theorem execFlagSet_goesOn (s : State) (flags) : GoesOn (SameCalm s) (execFlagSet flags s) := by
  simp [execFlagSet, SameCalm]

@[simp] theorem execFlagClear_goesOn (s : State) (flags) : GoesOn (SameCalm s) (execFlagClear flags s) := by
  simp [execFlagClear, SameCalm]

@[simp] theorem execPush_goesOn (s : State) : GoesOn (SameCalm s) (execPush s) := by
  simp [execPush, SameCalm]

@[simp] theorem execCloseBatch_goesOn (s : State) : GoesOn (SameCalm s) (execCloseBatch s) := by
  simp [execCloseBatch, SameCalm]

@[simp] theorem execDiscard_goesOn (s : State) : GoesOn (SameCalm s) (execDiscard s) := by
  simp [execDiscard, SameCalm]

@[simp] theorem execApplyIdRead_goesOn (s : State) (_path) : GoesOn (SameCalm s) (execApplyIdRead _path s) := by
  unfold execApplyIdRead
  split <;> simp [SameCalm]

@[simp] theorem execSubmit_goesOn (s : State) (p lo hi) : GoesOn (SameCalm s) (execSubmit p lo hi s) := by
  unfold execSubmit
  repeat' split
  all_goals simp [SameCalm]

@[simp] theorem execDescriptorReadDone_goesOn (s : State) (p res) :
    GoesOn (SameCalm s) (execDescriptorReadDone p res s) := by
  unfold execDescriptorReadDone
  dsimp only
  repeat' split
  all_goals simp [SameCalm]

@[simp] theorem execDelayRelease_goesOn (s : State) (td) : GoesOn (SameCalm s) (execDelayRelease td s) := by
  unfold execDelayRelease
  dsimp only
  repeat' split
  all_goals simp [SameCalm]

@[simp] theorem execHeldRelease_goesOn (s : State) (t) : GoesOn (SameCalm s) (execHeldRelease t s) := by
  simp [execHeldRelease, SameCalm]

@[simp] theorem execDispatch_goesOn (s : State) : GoesOn (SameCalm s) (execDispatch s) := by
  unfold execDispatch
  repeat' split
  all_goals simp [SameCalm]

@[simp] theorem execTaskComplete_goesOn (s : State) (x) : GoesOn (SameCalm s) (execTaskComplete x s) := by
  unfold execTaskComplete
  dsimp only
  repeat' split
  all_goals simp [SameCalm]

@[simp] theorem execTaskCancel_goesOn (s : State) : GoesOn (SameCalm s) (execTaskCancel s) := by
  simp [execTaskCancel, SameCalm]

@[simp] theorem execCompletionRecordWrite_goesOn (s : State) (t) :
    GoesOn (SameCalm s) (execCompletionRecordWrite t s) := by
  unfold execCompletionRecordWrite
  dsimp only
  repeat' split
  all_goals simp [SameCalm]

@[simp] theorem execAdd_goesOn (s : State) (e) :
    GoesOn (SameCalm s) (execAdd e s) := weExec_goesOn (fun _ _ _ => ⟨rfl, rfl, rfl, rfl⟩) ..

@[simp] theorem execSub_goesOn (s : State) (e) :
    GoesOn (SameCalm s) (execSub e s) := weExec_goesOn (fun _ _ _ => ⟨rfl, rfl, rfl, rfl⟩) ..

@[simp] theorem execAndOp_goesOn (s : State) (e) : GoesOn (SameCalm s) (execAndOp e s) := alu_goesOn ..

@[simp] theorem execOrOp_goesOn (s : State) (e) : GoesOn (SameCalm s) (execOrOp e s) := alu_goesOn ..

@[simp] theorem execXorOp_goesOn (s : State) (e) : GoesOn (SameCalm s) (execXorOp e s) := alu_goesOn ..

@[simp] theorem execShl_goesOn (s : State) (e) : GoesOn (SameCalm s) (execShl e s) := alu_goesOn ..

@[simp] theorem execShr_goesOn (s : State) (e) : GoesOn (SameCalm s) (execShr e s) := alu_goesOn ..

@[simp] theorem execSar_goesOn (s : State) (e) : GoesOn (SameCalm s) (execSar e s) := alu_goesOn ..

@[simp] theorem execMul_goesOn (s : State) (e) : GoesOn (SameCalm s) (execMul e s) := alu_goesOn ..

@[simp] theorem execMinOp_goesOn (s : State) (e) : GoesOn (SameCalm s) (execMinOp e s) := alu_goesOn ..

@[simp] theorem execMaxOp_goesOn (s : State) (e) : GoesOn (SameCalm s) (execMaxOp e s) := alu_goesOn ..

@[simp] theorem execCmp_goesOn (s : State) (e) :
    GoesOn (SameCalm s) (execCmp e s) := weExec_goesOn (fun _ _ _ => ⟨rfl, rfl, rfl, rfl⟩) ..

@[simp] theorem execPopc_goesOn (s : State) (e) : GoesOn (SameCalm s) (execPopc e s) := alu_goesOn ..

@[simp] theorem execCtz_goesOn (s : State) (e) : GoesOn (SameCalm s) (execCtz e s) := alu_goesOn ..

@[simp] theorem execBitx_goesOn (s : State) (e) :
    GoesOn (SameCalm s) (execBitx e s) := weExec_goesOn (fun _ _ _ => ⟨rfl, rfl, rfl, rfl⟩) ..

@[simp] theorem execLdi_goesOn (s : State) (e) :
    GoesOn (SameCalm s) (execLdi e s) := weExec_goesOn (fun _ _ _ => ⟨rfl, rfl, rfl, rfl⟩) ..

@[simp] theorem execLdih_goesOn (s : State) (e) :
    GoesOn (SameCalm s) (execLdih e s) := weExec_goesOn (fun _ _ _ => ⟨rfl, rfl, rfl, rfl⟩) ..

@[simp] theorem execBr_goesOn (s : State) (e) : GoesOn (SameCalm s) (execBr e s) :=
  weExec_goesOn (fun _ _ _ => by split <;> exact ⟨rfl, rfl, rfl, rfl⟩) ..

@[simp] theorem execWeCall_goesOn (s : State) (e) :
    GoesOn (SameCalm s) (execWeCall e s) := weExec_goesOn (fun _ _ _ => ⟨rfl, rfl, rfl, rfl⟩) ..

@[simp] theorem execWeRet_goesOn (s : State) (e) :
    GoesOn (SameCalm s) (execWeRet e s) := weExec_goesOn (fun _ _ _ => ⟨rfl, rfl, rfl, rfl⟩) ..

@[simp] theorem execDjnz_goesOn (s : State) (e) :
    GoesOn (SameCalm s) (execDjnz e s) := weExec_goesOn (fun _ _ _ => ⟨rfl, rfl, rfl, rfl⟩) ..

@[simp] theorem execLd_goesOn (s : State) (e) :
    GoesOn (SameCalm s) (execLd e s) := weExec_goesOn (fun _ _ _ => loadOp_calm ..) ..

@[simp] theorem execSt_goesOn (s : State) (e) :
    GoesOn (SameCalm s) (execSt e s) := weExec_goesOn (fun _ _ _ => storeOp_calm ..) ..

@[simp] theorem execLdh_goesOn (s : State) (e) :
    GoesOn (SameCalm s) (execLdh e s) := weExec_goesOn (fun _ _ _ => loadOp_calm ..) ..

@[simp] theorem execSth_goesOn (s : State) (e) :
    GoesOn (SameCalm s) (execSth e s) := weExec_goesOn (fun _ _ _ => storeOp_calm ..) ..

@[simp] theorem execHrd_goesOn (s : State) (e) :
    GoesOn (SameCalm s) (execHrd e s) := weExec_goesOn (fun _ _ _ => submitTransfer_calm ..) ..

@[simp] theorem execHwr_goesOn (s : State) (e) :
    GoesOn (SameCalm s) (execHwr e s) := weExec_goesOn (fun _ _ _ => submitTransfer_calm ..) ..

@[simp] theorem execHwait_goesOn (s : State) (e) : GoesOn (SameCalm s) (execHwait e s) :=
  weExec_goesOn (fun _ _ _ => by dsimp only; split <;> exact ⟨rfl, rfl, rfl, rfl⟩) ..

@[simp] theorem execDoneTask_goesOn (s : State) (e) : GoesOn (SameCalm s) (execDoneTask e s) :=
  weExec_goesOn (fun _ _ _ => by split <;> exact ⟨rfl, rfl, rfl, rfl⟩) ..

@[simp] theorem execPost_goesOn (s : State) (e) :
    GoesOn (SameCalm s) (execPost e s) := weExec_goesOn (fun _ _ _ => postTask_calm ..) ..

@[simp] theorem execWeTime_goesOn (s : State) (e) :
    GoesOn (SameCalm s) (execWeTime e s) := weExec_goesOn (fun _ _ _ => ⟨rfl, rfl, rfl, rfl⟩) ..

@[simp] theorem execBmscan_goesOn (s : State) (e) : GoesOn (SameCalm s) (execBmscan e s) :=
  weExec_goesOn (fun _ _ _ => by split <;> exact ⟨rfl, rfl, rfl, rfl⟩) ..

@[simp] theorem execLcmust_goesOn (s : State) (e) : GoesOn (SameCalm s) (execLcmust e s) :=
  weExec_goesOn (fun _ _ _ => by split <;> exact ⟨rfl, rfl, rfl, rfl⟩) ..

@[simp] theorem execCdec_goesOn (s : State) (e) : GoesOn (SameCalm s) (execCdec e s) :=
  weExec_goesOn (fun _ _ _ => by dsimp only; split <;> exact ⟨rfl, rfl, rfl, rfl⟩) ..

@[simp] theorem execWorkBlockLoaded_goesOn (s : State) (e res) :
    GoesOn (SameCalm s) (execWorkBlockLoaded e res s) := by
  simp [execWorkBlockLoaded, SameCalm]

@[simp] theorem execTaskTimeLimit_goesOn (s : State) (x) : GoesOn (SameCalm s) (execTaskTimeLimit x s) := by
  unfold execTaskTimeLimit
  split <;> simp [SameCalm]

@[simp] theorem execControlStoreReloaded_goesOn (s : State) (e) :
    GoesOn (SameCalm s) (execControlStoreReloaded e s) := by
  simp [execControlStoreReloaded, SameCalm]

@[simp] theorem execOffline_goesOn (s : State) (e off) : GoesOn (SameCalm s) (execOffline e off s) := by
  simp [execOffline, SameCalm]

@[simp] theorem execLmData_goesOn (s : State) (e write _path) : GoesOn (SameCalm s) (execLmData e write _path s) := by
  unfold execLmData
  split
  · split <;> simp [SameCalm]
  · refine whenReady_calm _ _ _ fun s => ?_
    repeat' split
    all_goals simp [SameCalm]

@[simp] theorem execStreamArm_goesOn (s : State) (m) : GoesOn (SameCalm s) (execStreamArm m s) := by
  simp [execStreamArm, SameCalm]

@[simp] theorem execStreamArmAck_goesOn (s : State) (m) : GoesOn (SameCalm s) (execStreamArmAck m s) := by
  simp [execStreamArmAck, SameCalm]

@[simp] theorem execStreamStart_goesOn (s : State) (m) : GoesOn (SameCalm s) (execStreamStart m s) := by
  simp [execStreamStart, SameCalm]

@[simp] theorem execStreamStop_goesOn (s : State) (m) : GoesOn (SameCalm s) (execStreamStop m s) := by
  simp [execStreamStop, SameCalm]

@[simp] theorem execStreamClear_goesOn (s : State) (m) : GoesOn (SameCalm s) (execStreamClear m s) := by
  simp [execStreamClear, SameCalm]

@[simp] theorem execResync_goesOn (s : State) (i) : GoesOn (SameCalm s) (execResync i s) := by
  simp [execResync, SameCalm]

@[simp] theorem execConverterSwitch_goesOn (s : State) (i) : GoesOn (SameCalm s) (execConverterSwitch i s) := by
  simp [execConverterSwitch, SameCalm]

@[simp] theorem execSwitchEffect_goesOn (s : State) (i) : GoesOn (SameCalm s) (execSwitchEffect i s) := by
  simp [execSwitchEffect, SameCalm]

@[simp] theorem execStreamFrame_goesOn (s : State) (pl words crcOk) :
    GoesOn (SameCalm s) (execStreamFrame pl words crcOk s) := by
  unfold execStreamFrame
  repeat' split
  all_goals simp [SameCalm]

@[simp] theorem execSampleFetchComplete_goesOn (s : State) (i res) :
    GoesOn (SameCalm s) (execSampleFetchComplete i res s) := by
  simp [execSampleFetchComplete, SameCalm]

@[simp] theorem execSourceSampleOutput_goesOn (s : State) (i) : GoesOn (SameCalm s) (execSourceSampleOutput i s) := by
  unfold execSourceSampleOutput
  dsimp only
  repeat' split
  all_goals simp [SameCalm]

@[simp] theorem execSwapReq_goesOn (s : State) (i target fadeM1) :
    GoesOn (SameCalm s) (execSwapReq i target fadeM1 s) := by
  simp [execSwapReq, SameCalm]

@[simp] theorem execCalMeasurementStart_goesOn (s : State) (t) :
    GoesOn (SameCalm s) (execCalMeasurementStart t s) := by
  simp [execCalMeasurementStart, SameCalm]

@[simp] theorem execCalRelease_goesOn (s : State) (t) : GoesOn (SameCalm s) (execCalRelease t s) := by
  simp [execCalRelease, SameCalm]

@[simp] theorem execCalRun_goesOn (s : State) : GoesOn (SameCalm s) (execCalRun s) := by
  simp [execCalRun, SameCalm]

@[simp] theorem execCalAbort_goesOn (s : State) : GoesOn (SameCalm s) (execCalAbort s) := by
  simp [execCalAbort, SameCalm]

@[simp] theorem execCalMeasurementDone_goesOn (s : State) (m temp resid) :
    GoesOn (SameCalm s) (execCalMeasurementDone m temp resid s) := by
  unfold execCalMeasurementDone
  split <;> simp [SameCalm]

@[simp] theorem execBurn_goesOn (s : State) (_path) : GoesOn (SameCalm s) (execBurn _path s) := by
  refine whenReady_calm _ _ _ fun s => ?_
  have b := burn_calm s (fld (s.reg pgFuse 0x110) 16 8) (fld (s.reg pgFuse 0x110) 0 16)
  dsimp only
  split <;> rename_i h <;> rw [h] at b <;> exact b

@[simp] theorem execFuseWordProgrammed_goesOn (s : State) (ok) :
    GoesOn (SameCalm s) (execFuseWordProgrammed ok s) := by
  unfold execFuseWordProgrammed
  repeat' split
  all_goals simp [SameCalm]

@[simp] theorem execBufData_goesOn (s : State) (v) : GoesOn (SameCalm s) (execBufData v s) := by
  simp [execBufData, SameCalm]

@[simp] theorem execVqpsLoss_goesOn (s : State) : GoesOn (SameCalm s) (execVqpsLoss s) := by
  simp [execVqpsLoss, SameCalm]

@[simp] theorem execPtmExchange_goesOn (s : State) (td theta) : GoesOn (SameCalm s) (execPtmExchange td theta s) := by
  unfold execPtmExchange
  split <;> simp [SameCalm]

@[simp] theorem execUpdateMissed_goesOn (s : State) (td) : GoesOn (SameCalm s) (execUpdateMissed td s) := by
  simp [execUpdateMissed, SameCalm]

@[simp] theorem execTtSyncSend_goesOn (s : State) (port td) : GoesOn (SameCalm s) (execTtSyncSend port td s) := by
  simp [execTtSyncSend, SameCalm]

@[simp] theorem execTtSync_goesOn (s : State) (port td t1 fine) :
    GoesOn (SameCalm s) (execTtSync port td t1 fine s) := by
  simp [execTtSync, SameCalm]

@[simp] theorem execTtDreq_goesOn (s : State) (port td fine) : GoesOn (SameCalm s) (execTtDreq port td fine s) := by
  simp [execTtDreq, SameCalm]

@[simp] theorem execTtDresp_goesOn (s : State) (port td t4) : GoesOn (SameCalm s) (execTtDresp port td t4 s) := by
  simp [execTtDresp, SameCalm]

@[simp] theorem execPairSwitch_goesOn (s : State) (td) : GoesOn (SameCalm s) (execPairSwitch td s) := by
  simp [execPairSwitch, SameCalm]

@[simp] theorem execTimeLoad_goesOn (s : State) (td) : GoesOn (SameCalm s) (execTimeLoad td s) := by
  simp [execTimeLoad, SameCalm]

@[simp] theorem execRephase_goesOn (s : State) : GoesOn (SameCalm s) (execRephase s) := by
  refine whenReady_calm _ _ _ fun s => ?_
  repeat' split
  all_goals simp [SameCalm]

@[simp] theorem execSyncPulse_goesOn (s : State) (off) : GoesOn (SameCalm s) (execSyncPulse off s) := by
  simp [execSyncPulse, SameCalm]

@[simp] theorem execHbmRequest_goesOn (s : State) (port addr owner) :
    GoesOn (SameCalm s) (execHbmRequest port addr owner s) := by
  simp [execHbmRequest, SameCalm]

@[simp] theorem execCopyRetry_goesOn (s : State) (c) : GoesOn (SameCalm s) (execCopyRetry c s) := by
  unfold execCopyRetry
  split <;> simp [SameCalm]

@[simp] theorem execSwRetry_goesOn (s : State) (i) : GoesOn (SameCalm s) (execSwRetry i s) := by
  unfold execSwRetry
  split <;> simp [SameCalm]

@[simp] theorem execRequestIssue_goesOn (s : State) (pc) : GoesOn (SameCalm s) (execRequestIssue pc s) := by
  unfold execRequestIssue
  split <;> simp [SameCalm]

@[simp] theorem execHbmRequestComplete_goesOn (s : State) (id res ce) :
    GoesOn (SameCalm s) (execHbmRequestComplete id res ce s) := by
  unfold execHbmRequestComplete
  repeat' split
  all_goals simp [SameCalm]

@[simp] theorem execRefresh_goesOn (s : State) (pc) : GoesOn (SameCalm s) (execRefresh pc s) := by
  simp [execRefresh, SameCalm]

@[simp] theorem execStackTempRead_goesOn (s : State) (st temp) :
    GoesOn (SameCalm s) (execStackTempRead st temp s) := by
  simp [execStackTempRead, SameCalm]

@[simp] theorem execSelfRefreshEntry_goesOn (s : State) (st) : GoesOn (SameCalm s) (execSelfRefreshEntry st s) := by
  unfold execSelfRefreshEntry
  dsimp only
  repeat' split
  all_goals simp [SameCalm]

@[simp] theorem execSelfRefreshExit_goesOn (s : State) (st) : GoesOn (SameCalm s) (execSelfRefreshExit st s) := by
  unfold execSelfRefreshExit
  dsimp only
  repeat' split
  all_goals simp [SameCalm]

@[simp] theorem execScrub_goesOn (s : State) (addr ce ue) : GoesOn (SameCalm s) (execScrub addr ce ue s) := by
  unfold execScrub
  repeat' split
  all_goals simp [SameCalm]

@[simp] theorem execFreqReq_goesOn (s : State) (st rate) : GoesOn (SameCalm s) (execFreqReq st rate s) := by
  simp [execFreqReq, SameCalm]

@[simp] theorem execHbmTrainingStepEnd_goesOn (s : State) (st rep) :
    GoesOn (SameCalm s) (execHbmTrainingStepEnd st rep s) := by
  simp [execHbmTrainingStepEnd, SameCalm]

@[simp] theorem execPcFail_goesOn (s : State) (pc) : GoesOn (SameCalm s) (execPcFail pc s) := by
  simp [execPcFail, SameCalm]

@[simp] theorem execHeartbeat_goesOn (s : State) (pl) : GoesOn (SameCalm s) (execHeartbeat pl s) := by
  simp [execHeartbeat, SameCalm]

@[simp] theorem execHbAck_goesOn (s : State) (pl seq status crcOk) :
    GoesOn (SameCalm s) (execHbAck pl seq status crcOk s) := by
  simp [execHbAck, SameCalm]

@[simp] theorem execHeartbeatPauseEnd_goesOn (s : State) (pl) : GoesOn (SameCalm s) (execHeartbeatPauseEnd pl s) := by
  simp [execHeartbeatPauseEnd, SameCalm]

@[simp] theorem execReceiverLossOfLock_goesOn (s : State) (pl) :
    GoesOn (SameCalm s) (execReceiverLossOfLock pl s) := by
  simp [execReceiverLossOfLock, SameCalm]

@[simp] theorem execCtrlResp_goesOn (s : State) (pl seq crcOk) :
    GoesOn (SameCalm s) (execCtrlResp pl seq crcOk s) := by
  simp [execCtrlResp, SameCalm]

@[simp] theorem execCtrlResend_goesOn (s : State) (pl) : GoesOn (SameCalm s) (execCtrlResend pl s) := by
  unfold execCtrlResend
  dsimp only
  repeat' split
  all_goals simp [SameCalm]

@[simp] theorem execDesc_goesOn (s : State) (pl d crcOk) : GoesOn (SameCalm s) (execDesc pl d crcOk s) := by
  simp [execDesc, SameCalm]

@[simp] theorem execUpdateFrame_goesOn (s : State) (pl) : GoesOn (SameCalm s) (execUpdateFrame pl s) := by
  simp [execUpdateFrame, SameCalm]

@[simp] theorem execDoorbell_goesOn (s : State) : GoesOn (SameCalm s) (execDoorbell s) := by
  simp [execDoorbell, SameCalm]

@[simp] theorem execMboxAck_goesOn (s : State) : GoesOn (SameCalm s) (execMboxAck s) := by
  simp [execMboxAck, SameCalm]

@[simp] theorem execMboxMessage_goesOn (s : State) (port words) :
    GoesOn (SameCalm s) (execMboxMessage port words s) := by
  simp [execMboxMessage, SameCalm]

@[simp] theorem execUpdOpen_goesOn (s : State) :
    GoesOn (SameCalm s) (execUpdOpen s) := takeReq_goesOn (by simp [SameCalm]) ..

@[simp] theorem execUpdData_goesOn (s : State) :
    GoesOn (SameCalm s) (execUpdData s) := takeReq_goesOn (by simp [SameCalm]) ..

@[simp] theorem execUpdCommit_goesOn (s : State) :
    GoesOn (SameCalm s) (execUpdCommit s) := takeReq_goesOn (by simp [SameCalm]) ..

@[simp] theorem execUpdAbort_goesOn (s : State) :
    GoesOn (SameCalm s) (execUpdAbort s) := takeReq_goesOn (by simp [SameCalm]) ..

@[simp] theorem execUpdPin_goesOn (s : State) :
    GoesOn (SameCalm s) (execUpdPin s) := takeReq_goesOn (by simp [SameCalm]) ..

@[simp] theorem execUpdStatus_goesOn (s : State) :
    GoesOn (SameCalm s) (execUpdStatus s) := takeReq_goesOn (by simp [SameCalm]) ..

@[simp] theorem execFlashProgramComplete_goesOn (s : State) (ok) :
    GoesOn (SameCalm s) (execFlashProgramComplete ok s) := by
  unfold execFlashProgramComplete
  split <;> simp [SameCalm]

@[simp] theorem execSessionTimeout_goesOn (s : State) : GoesOn (SameCalm s) (execSessionTimeout s) := by
  simp [execSessionTimeout, SameCalm]

@[simp] theorem execVersions_goesOn (s : State) :
    GoesOn (SameCalm s) (execVersions s) := takeReq_goesOn (by simp [SameCalm]) ..

@[simp] theorem execTemps_goesOn (s : State) :
    GoesOn (SameCalm s) (execTemps s) := takeReq_goesOn (by simp [SameCalm]) ..

@[simp] theorem execEpochBump_goesOn (s : State) :
    GoesOn (SameCalm s) (execEpochBump s) := takeReq_goesOn (by simp [SameCalm]) ..

@[simp] theorem execRevoke_goesOn (s : State) :
    GoesOn (SameCalm s) (execRevoke s) := takeReq_goesOn (by simp [SameCalm]) ..

@[simp] theorem execFuseBuf_goesOn (s : State) :
    GoesOn (SameCalm s) (execFuseBuf s) := takeReq_goesOn (by simp [SameCalm]) ..

@[simp] theorem execFuseBurn_goesOn (s : State) :
    GoesOn (SameCalm s) (execFuseBurn s) := takeReq_goesOn (by simp [SameCalm]) ..

@[simp] theorem execHello_goesOn (s : State) (port verMax chipId) :
    GoesOn (SameCalm s) (execHello port verMax chipId s) := by
  simp [execHello, SameCalm]

@[simp] theorem execLinkTrainingStepEnd_goesOn (s : State) (l fom partner) :
    GoesOn (SameCalm s) (execLinkTrainingStepEnd l fom partner s) := by
  unfold execLinkTrainingStepEnd
  split <;> simp [SameCalm]

@[simp] theorem execTrainingStepTimeout_goesOn (s : State) (l) :
    GoesOn (SameCalm s) (execTrainingStepTimeout l s) := by
  unfold execTrainingStepTimeout
  split <;> simp [SameCalm]

@[simp] theorem execAbsentProbe_goesOn (s : State) (l) : GoesOn (SameCalm s) (execAbsentProbe l s) := by
  unfold execAbsentProbe
  split <;> simp [SameCalm]

@[simp] theorem execRetrain_goesOn (s : State) (l) : GoesOn (SameCalm s) (execRetrain l s) := by
  unfold execRetrain
  split <;> simp [SameCalm]

@[simp] theorem execRateReq_goesOn (s : State) (port rate) : GoesOn (SameCalm s) (execRateReq port rate s) := by
  simp [execRateReq, SameCalm]

@[simp] theorem execLinkLost_goesOn (s : State) (port) : GoesOn (SameCalm s) (execLinkLost port s) := by
  simp [execLinkLost, SameCalm]

@[simp] theorem execLinkRestart_goesOn (s : State) (l) : GoesOn (SameCalm s) (execLinkRestart l s) := by
  unfold execLinkRestart
  split <;> simp [SameCalm]

@[simp] theorem execFlitReceive_goesOn (s : State) (port bytes) :
    GoesOn (SameCalm s) (execFlitReceive port bytes s) := by
  simp [execFlitReceive, SameCalm]

@[simp] theorem execReplayTimeout_goesOn (s : State) (port) : GoesOn (SameCalm s) (execReplayTimeout port s) := by
  simp [execReplayTimeout, SameCalm]

@[simp] theorem execLaneFailure_goesOn (s : State) (port lane) :
    GoesOn (SameCalm s) (execLaneFailure port lane s) := by
  simp [execLaneFailure, SameCalm]

@[simp] theorem execSpareReq_goesOn (s : State) (port mask) : GoesOn (SameCalm s) (execSpareReq port mask s) := by
  simp [execSpareReq, SameCalm]

@[simp] theorem execSpareMarkEnd_goesOn (s : State) (port) : GoesOn (SameCalm s) (execSpareMarkEnd port s) := by
  simp [execSpareMarkEnd, SameCalm]

@[simp] theorem execPcieLinkDown_goesOn (s : State) : GoesOn (SameCalm s) (execPcieLinkDown s) := by
  simp [execPcieLinkDown, SameCalm]

@[simp] theorem execPcieReset_goesOn (s : State) : GoesOn (SameCalm s) (execPcieReset s) := by
  simp [execPcieReset, SameCalm]

@[simp] theorem execPcieLinkUp_goesOn (s : State) (width speed) :
    GoesOn (SameCalm s) (execPcieLinkUp width speed s) := by
  simp [execPcieLinkUp, SameCalm]

@[simp] theorem execFwReady_goesOn (s : State) : GoesOn (SameCalm s) (execFwReady s) := by
  simp [execFwReady, SameCalm]

@[simp] theorem execRefclkDetect_goesOn (s : State) : GoesOn (SameCalm s) (execRefclkDetect s) := by
  simp [execRefclkDetect, SameCalm]

@[simp] theorem execBootDone_goesOn (s : State) : GoesOn (SameCalm s) (execBootDone s) := by
  simp [execBootDone, SameCalm]

@[simp] theorem execResetNRelease_goesOn (s : State) : GoesOn (SameCalm s) (execResetNRelease s) := by
  simp [execResetNRelease, SameCalm]

@[simp] theorem execRailPowerGood_goesOn (s : State) (rail) : GoesOn (SameCalm s) (execRailPowerGood rail s) := by
  simp [execRailPowerGood, SameCalm]

@[simp] theorem execRefclkLoss_goesOn (s : State) : GoesOn (SameCalm s) (execRefclkLoss s) := by
  simp [execRefclkLoss, SameCalm]

@[simp] theorem execPllStop_goesOn (s : State) : GoesOn (SameCalm s) (execPllStop s) := by
  unfold execPllStop
  split <;> simp [SameCalm]

@[simp] theorem execTempWarn_goesOn (s : State) (temp) : GoesOn (SameCalm s) (execTempWarn temp s) := by
  simp [execTempWarn, SameCalm]

@[simp] theorem execTimeCompareFire_goesOn (s : State) (u) : GoesOn (SameCalm s) (execTimeCompareFire u s) := by
  unfold execTimeCompareFire
  split <;> simp [SameCalm]

end Sys2Proof.Machine
end

section
/-! PROOFS. The canonical form of HBM (R351) through every operation that writes HBM or loses its bytes, and through an edge. -/

namespace Sys2Proof.Machine

/-- The clock and the queue of commands stay, and HBM stays in canonical form. -/
structure StaysCanonical (s t : State) : Prop where
  now : t.now = s.now
  pending : t.pending = s.pending
  wf : s.hbmWf = true → t.hbmWf = true

theorem hbmBlank_of_calm {s t : State} (h : SameCalm s t) (k : Nat) : t.hbmBlank k = s.hbmBlank k :=
  hbmBlank_congr h.2.2.2 k

theorem SameCalm.canonical {s t : State} (h : SameCalm s t) : StaysCanonical s t := by
  obtain ⟨now, pending, hbm, lost⟩ := h
  refine ⟨now, pending, fun wf => ?_⟩
  simpa only [State.hbmWf, hbm, hbmBlank_congr lost] using wf

theorem StaysCanonical.trans {s t u : State} (h : StaysCanonical s t) (h' : StaysCanonical t u) :
    StaysCanonical s u :=
  ⟨h'.now.trans h.now, h'.pending.trans h.pending, h'.wf ∘ h.wf⟩

theorem StaysCanonical.andCalm {s t u : State} (h : StaysCanonical s t) (h' : SameCalm t u) : StaysCanonical s u :=
  h.trans h'.canonical

theorem SameCalm.andCanonical {s t u : State} (h : SameCalm s t) (h' : StaysCanonical t u) : StaysCanonical s u :=
  h.canonical.trans h'

theorem StaysCanonical.refl (s : State) : StaysCanonical s s := ⟨rfl, rfl, id⟩

theorem foldState_canonical {α : Type} {f : α → State → State} (hf : ∀ a s, StaysCanonical s (f a s)) (l : List α)
    (s : State) :
    StaysCanonical s (foldState l f s) :=
  foldState_keeps (StaysCanonical s) f (fun a t h => h.trans (hf a t)) l s (.refl s)

theorem hbmWriteReq_canonical (s : State) (a : Nat) (l : List Byte) (res : HbmStatus) :
    StaysCanonical s (s.hbmWriteReq a l res).2 where
  now := by rw [hbmWriteReq_frame]
  pending := by rw [hbmWriteReq_frame]
  wf := hbmWriteReq_wf s a l res

theorem hbmLose_canonical (s : State) (pc : Nat) : StaysCanonical s (s.hbmLose pc) := ⟨rfl, rfl, hbmLose_wf s pc⟩

theorem oldComplete_canonical (s : State) (i : Nat) (it : CapItem) (res : HbmStatus) :
    StaysCanonical s (s.oldComplete i it res) := by
  have counted : SameCalm s (s.modCap i (fun v => { v with stale := sat32 (v.stale + 1) })) := ⟨rfl, rfl, rfl, rfl⟩
  unfold State.oldComplete
  split
  · split <;> exact SameCalm.canonical (by simp [SameCalm])
  · dsimp only
    split
    · exact counted.andCanonical (hbmWriteReq_canonical ..)
    · refine counted.andCanonical (StaysCanonical.andCalm ?_ (loseItem_calm ..))
      split
      · exact .refl _
      · exact hbmWriteReq_canonical ..

theorem transferDone_canonical (e : Nat) (t : Transfer) (res : HbmStatus) (s : State) :
    StaysCanonical s (transferDone e t res s) := by
  unfold transferDone
  dsimp only
  split
  · exact (hbmWriteReq_canonical s t.hbm (mread (s.weAt e).lm t.lm t.len) res).andCalm (by simp [SameCalm])
  · split <;> exact SameCalm.canonical (by simp [SameCalm])

theorem landIssued_canonical (page : Nat) (w : We) (t : Transfer) (s : State) :
    StaysCanonical s (landIssued page w t s) := by
  refine foldState_canonical (fun k s => ?_) _ s
  dsimp only
  split <;> split
  · exact hbmWriteReq_canonical ..
  · exact .refl s
  · exact SameCalm.andCanonical (fresh_calm s 1) (hbmWriteReq_canonical ..)
  · exact (fresh_calm s 1).canonical

theorem clearTransfers_canonical (e : Nat) (s : State) : StaysCanonical s (clearTransfers e s) :=
  (foldState_canonical (landIssued_canonical (pgWe e) (s.weAt e)) ((s.weAt e).transfers.filter (fun t => t.write)) s).andCalm
    (by simp [clearTransfers, SameCalm])

theorem weExpire_canonical (e : Nat) (s : State) : StaysCanonical s (weExpire e s) :=
  (clearTransfers_canonical e s).andCalm (by simp [weExpire, SameCalm])

theorem weReset_canonical (e : Nat) (s : State) : StaysCanonical s (weReset e s) :=
  (clearTransfers_canonical e s).andCalm (by simp [weReset, SameCalm])

theorem copyWrite_canonical (s : State) (b : CopyBlock) (l : List Byte) : StaysCanonical s (s.copyWrite b l).2 := by
  unfold State.copyWrite
  split
  · exact hbmWriteReq_canonical ..
  · split <;> exact SameCalm.canonical (by simp [SameCalm])

theorem copyPart_canonical (s : State) (b : CopyBlock) : StaysCanonical s (s.copyPart b).2 :=
  SameCalm.andCanonical (by simp [SameCalm]) (copyWrite_canonical ..)

theorem copyStopped_canonical (s : State) (c : Nat) (b : CopyBlock) (st : TaskStatus) :
    StaysCanonical s (s.copyStopped c b st) :=
  (copyPart_canonical s b).andCalm (copyEnd_calm ..)

theorem copyComplete_canonical (c : Nat) (res : HbmStatus) (s : State) : StaysCanonical s (copyComplete c res s) := by
  unfold copyComplete
  dsimp only
  repeat' split
  case isFalse.isFalse.isFalse.isFalse.isFalse.isTrue =>
    exact SameCalm.andCanonical (copySource_calm ..) ((copyWrite_canonical ..).andCalm (copyEnd_calm ..))
  all_goals first | exact copyStopped_canonical .. | exact SameCalm.canonical (by simp [SameCalm])

theorem ceReset_canonical (c : Nat) (s : State) : StaysCanonical s (ceReset c s) := by
  unfold ceReset
  extract_lets v r u w
  have stopped : StaysCanonical s u := by
    unfold u
    split
    · exact (copyPart_canonical ..).andCalm ⟨rfl, rfl, rfl, rfl⟩
    · exact .refl s
  exact stopped.andCalm (by simp [w, SameCalm])

theorem pcReset_canonical (pc : Nat) (s : State) : StaysCanonical s (pcReset pc s) :=
  SameCalm.andCanonical (forceReset_calm s pc) ((hbmLose_canonical _ pc).andCalm (by simp [pcReset, SameCalm]))

theorem bar4Do_canonical (s : State) (a : Nat) (write : Option (List Byte)) (n : Nat) (res : HbmStatus) :
    StaysCanonical s (s.bar4Do a write n res) := by
  unfold State.bar4Do
  split
  · have stored := hbmWriteReq_canonical s a ‹_› res
    split <;> rename_i h <;> rw [h] at stored
    · exact stored
    · exact stored.andCalm (bar4Fail_calm ..)
  · split <;> exact SameCalm.canonical (by simp [SameCalm])

theorem bar4Access_canonical (off : Nat) (write : Option (List Byte)) (n : Nat) (res : HbmStatus) (s : State) :
    StaysCanonical s (bar4Access off write n res s) := by
  unfold bar4Access
  split
  · exact SameCalm.canonical (by simp [SameCalm])
  · exact bar4Do_canonical ..

theorem ite_canonical {c : Prop} [Decidable c] {s a b : State} (ha : StaysCanonical s a) (hb : StaysCanonical s b) :
    StaysCanonical s (if c then a else b) := by
  split <;> assumption

theorem unitSoftReset_canonical (page : Nat) (s : State) : StaysCanonical s (unitSoftReset page s) := by
  have calm : ∀ {t : State}, SameCalm s t → StaysCanonical s t := SameCalm.canonical
  unfold unitSoftReset
  iterate 7 refine ite_canonical (calm (by simp [SameCalm])) ?_
  iterate 2 refine ite_canonical (calm ((strReset_calm ..).trans (resetRegs_calm ..))) ?_
  refine ite_canonical ((weReset_canonical (page - 0x310) s).andCalm (by simp [SameCalm])) ?_
  refine ite_canonical ((ceReset_canonical (page - 0x330) s).andCalm (by simp [SameCalm])) ?_
  iterate 4 refine ite_canonical (calm (by simp [SameCalm])) ?_
  exact calm (by simp [SameCalm])

theorem pageResetRun_canonical (page : Nat) (s : State) : StaysCanonical s (pageResetRun page s) := by
  unfold pageResetRun
  extract_lets u v begun
  have dropped : SameCalm s u := by unfold u; split <;> simp [SameCalm]
  have entered : SameCalm s begun := dropped
  repeat' split
  case isFalse.isFalse.isFalse.isTrue => exact entered.andCanonical ((pcReset_canonical (page - 0x80) begun).andCalm (by simp [SameCalm]))
  case isFalse.isFalse.isFalse.isFalse =>
    exact SameCalm.andCanonical (t := v) dropped ((unitSoftReset_canonical page v).andCalm (by simp [SameCalm]))
  all_goals exact (entered.trans (by simp [SameCalm])).canonical

theorem pageSoftReset_canonical (page : Nat) (s : State) : StaysCanonical s (pageSoftReset page s) := by
  unfold pageSoftReset
  split
  · exact .refl s
  · split
    · exact (recordErr_calm ..).canonical
    · exact SameCalm.andCanonical (by simp [SameCalm]) (pageResetRun_canonical ..)

theorem redoTick_canonical (s : State) : StaysCanonical s s.redoTick :=
  (foldState_canonical pageResetRun_canonical _ s).andCalm ⟨rfl, rfl, rfl, rfl⟩

/-- A wiped chip has lost every byte of HBM, which is then in canonical form. -/
theorem wiped_canonical (s : State) (phase : ChipPhase) (cause : Word32) :
    StaysCanonical s (s.wiped phase cause) where
  now := (burnStop_calm s).1
  pending := (burnStop_calm s).2.1
  wf := fun _ => rfl

theorem chipReset_canonical (s : State) (cause : Word32) : StaysCanonical s (s.chipReset cause) :=
  (wiped_canonical ..).andCalm (tryRelease_calm _)

theorem edge_calm_but_clock (s : State) : s.edge.pending = s.pending ∧ s.edge.now = s.now + 1 ∧
    (s.hbmWf = true → s.edge.hbmWf = true) := by
  have ended : StaysCanonical s s.redoTick.timTick.reportTick.finishCycle := (redoTick_canonical s).andCalm (by simp [SameCalm])
  have begun : SameCalm { s.redoTick.timTick.reportTick.finishCycle with now := s.redoTick.timTick.reportTick.finishCycle.now + 1 } s.edge := by
    simp [State.edge, SameCalm]
  obtain ⟨now, pending, wf⟩ := begun.canonical
  refine ⟨pending.trans ended.pending, now.trans (congrArg (· + 1) ended.now), fun h => wf (ended.wf h)⟩

end Sys2Proof.Machine
end

section
/-! PROOFS. What a command can answer: a next state of the same clock and queue with HBM in canonical form, or the undefined
behaviour of an item of R396, which only accesses of registers, tables, control stores and memory can be. -/

namespace Sys2Proof.Machine

/-- The command goes on to a state with property `P`, or it is undefined behaviour of an item of R396. -/
def Answers (P : State → Prop) : Res → Prop
  | .next t => P t
  | .fault (.undefinedBehaviour k) => 1 ≤ k ∧ k ≤ 13
  | .refused _ => False

@[simp] theorem answers_next (P : State → Prop) (t : State) : Answers P (.next t) ↔ P t := Iff.rfl
@[simp] theorem answers_fault (P : State → Prop) (k : Nat) :
    Answers P (.fault (.undefinedBehaviour k)) ↔ 1 ≤ k ∧ k ≤ 13 := Iff.rfl

theorem undefined_answers {P : State → Prop} (k : Nat) (h : 1 ≤ k ∧ k ≤ 13 := by decide) :
    Answers P (.fault (.undefinedBehaviour k)) := h

theorem GoesOn.mono {P Q : State → Prop} {r : Res} (h : GoesOn P r) (hPQ : ∀ t, P t → Q t) : GoesOn Q r := by
  cases r with
  | next t => exact hPQ t h
  | fault k => exact h
  | refused k => exact h

theorem GoesOn.answers {P : State → Prop} {r : Res} (h : GoesOn P r) : Answers P r := by
  cases r with
  | next t => exact h
  | fault k => exact h.elim
  | refused k => exact h

/-! ### Items of R396 -/

/-- The items that bytes of HBM in use carry: 6, 7 and 11 of a burst, 13 of a task. -/
theorem writeBreaks_item {s : State} {a n k : Nat} (h : s.writeBreaks a n = some k) : 1 ≤ k ∧ k ≤ 13 := by
  have burst : ∀ q, ∀ x ∈ s.burstBytes q, 1 ≤ x.2.2 ∧ x.2.2 ≤ 13 := by
    intro q x hx
    unfold State.burstBytes at hx
    dsimp only at hx
    split at hx
    · simp at hx
    · simp only [List.mem_cons, List.not_mem_nil, or_false] at hx
      rcases hx with rfl | rfl | rfl | rfl | rfl | rfl | rfl | rfl | rfl <;> simp
  have task : ∀ x ∈ s.taskBytes, 1 ≤ x.2.2 ∧ x.2.2 ≤ 13 := by
    intro x hx
    simp only [State.taskBytes, List.mem_append, List.mem_map] at hx
    rcases hx with ((⟨e, -, rfl⟩ | ⟨e, -, rfl⟩) | ⟨e, -, rfl⟩) | ⟨e, -, rfl⟩ <;> simp
  obtain ⟨x, hx, rfl⟩ := Option.map_eq_some_iff.1 h
  rcases List.mem_append.1 (List.mem_of_find?_eq_some hx) with hx | hx
  · obtain ⟨q, -, hx⟩ := List.mem_flatMap.1 hx
    exact burst q x hx
  · exact task x hx

theorem guardWrite_answers {P : State → Prop} {s t : State} {a n : Nat} (h : P t) :
    Answers P (s.guardWrite a n (.next t)) := by
  unfold State.guardWrite
  split
  · exact writeBreaks_item ‹_›
  · exact h

theorem guardArray_answers {P : State → Prop} {s t : State} {a n : Nat} (h : P t) :
    Answers P (s.guardArray a n (.next t)) := by
  unfold State.guardArray
  split
  · exact undefined_answers _
  · exact h

/-! ### Accesses of registers and tables -/

theorem onPage_answers {f : State → State} (hf : ∀ s, StaysCanonical s (f s)) (page : Nat) (s : State) :
    Answers (StaysCanonical s) (onPage page f s) := by
  unfold onPage
  split
  · exact SameCalm.andCanonical (redoReset_calm ..) (hf _)
  · exact undefined_answers _

theorem bothWords_answers {f : Nat → Word32 → State → Except Fault State}
    (hf : ∀ off v s, Answers (StaysCanonical s) (toRes (f off v s))) (off : Nat) (lo : Word32) (hi : Option Word32) (s : State) :
    Answers (StaysCanonical s) (toRes (bothWords off lo hi f s)) := by
  unfold bothWords
  split
  · exact undefined_answers _
  · have first := hf off lo s
    split <;> rename_i h <;> rw [h] at first
    · exact first
    · rename_i t
      cases hi with
      | none => exact first
      | some w =>
        have second := hf (off + 4) w t
        dsimp only
        cases h2 : f (off + 4) w t with
        | ok u => rw [h2] at second; exact first.trans second
        | error e => rw [h2] at second; exact second

theorem tssWord_answers (off : Nat) (v : Word32) (s : State) :
    Answers (StaysCanonical s) (toRes (tssWord off v s)) := by
  have calm : ∀ {t : State}, SameCalm s t → StaysCanonical s t := SameCalm.canonical
  unfold tssWord
  dsimp only
  repeat' split
  all_goals simp [toRes, calm, SameCalm]

theorem apgTabWord_answers (off : Nat) (v : Word32) (s : State) :
    Answers (StaysCanonical s) (toRes (apgTabWord off v s)) := by
  have calm : ∀ {t : State}, SameCalm s t → StaysCanonical s t := SameCalm.canonical
  unfold apgTabWord
  repeat' split
  all_goals simp [toRes, calm, SameCalm]

theorem blockWrite_answers (page off : Nat) (r : RegSpec) (v : Word32) (path : Path) (s : State) :
    Answers (StaysCanonical s) (toRes (blockWrite page off r v path s)) := by
  have calm : ∀ {t : State}, SameCalm s t → StaysCanonical s t := SameCalm.canonical
  unfold blockWrite
  dsimp only
  repeat' split
  all_goals simp [toRes, calm, SameCalm]

theorem headerWrite_answers (page off : Nat) (v : Word32) (s : State) :
    Answers (StaysCanonical s) (toRes (headerWrite page off v s)) := by
  have calm : ∀ {t : State}, SameCalm s t → StaysCanonical s t := SameCalm.canonical
  unfold headerWrite
  dsimp only
  repeat' split
  case isTrue.isFalse.isTrue => exact SameCalm.andCanonical (by simp [SameCalm]) (pageSoftReset_canonical ..)
  all_goals simp [toRes, calm, SameCalm]

theorem wordWrite_answers (bar2 : Bool) (path : Path) (addr : Nat) (v : Word32) (s : State) :
    Answers (StaysCanonical s) (toRes (wordWrite bar2 path addr v s)) := by
  unfold wordWrite
  extract_lets page off
  split
  · exact undefined_answers 1
  split
  · exact (msixWrite_calm ..).canonical
  split
  · split
    · exact .refl s
    · exact undefined_answers 1
  split
  · exact undefined_answers 1
  split
  · exact headerWrite_answers ..
  split
  · exact undefined_answers 1
  split
  · exact undefined_answers 2
  · exact blockWrite_answers ..

theorem ite_answers {P : State → Prop} {c : Prop} [Decidable c] {a b : Res} (ha : Answers P a) (hb : Answers P b) :
    Answers P (if c then a else b) := by
  split <;> assumption

theorem lowWordRead_answers (bar2 : Bool) (addr : BitVec 26) (path : Path) (s : State) :
    Answers (StaysCanonical s) (execLowWordRead bar2 addr path s) := by
  have calm : ∀ {r : Res}, GoesOn (SameCalm s) r → Answers (StaysCanonical s) r :=
    fun h => (h.mono fun _ => SameCalm.canonical).answers
  have given : ∀ v, Answers (StaysCanonical s) (.next { s with hostOut := v }) := fun v => calm ⟨rfl, rfl, rfl, rfl⟩
  unfold execLowWordRead
  extract_lets a page off
  refine ite_answers (undefined_answers 3) (ite_answers ?tables (ite_answers (given _) (ite_answers (given _)
    (ite_answers (ite_answers (given _) (undefined_answers 1)) ?registers))))
  case tables => exact ite_answers (given _) (ite_answers (given _) (ite_answers (given _) (undefined_answers 1)))
  case registers =>
    refine ite_answers (calm (execApplyIdRead_goesOn ..)) (ite_answers (calm (execMarkIdRead_goesOn ..)) (ite_answers
      (calm (recordErr_calm ..)) (ite_answers (calm (wordRead_calm ..)) (undefined_answers 1))))

/-! ### Commands -/

theorem castHeaderReadDone_answers (q : Fin 64) (res : HbmStatus) (s : State) :
    Answers (StaysCanonical s) (execCastHeaderReadDone q res s) := by
  unfold execCastHeaderReadDone
  repeat' split
  any_goals exact undefined_answers _
  · exact (refuseArm_calm ..).canonical
  · exact (acceptArm_calm ..).canonical
  · exact .refl s

theorem captureWriteComplete_answers (site : Fin 128) (res : HbmStatus) (s : State) :
    Answers (StaysCanonical s) (execCaptureWriteComplete site res s) := by
  have stored : ∀ v, SameCalm s (s.setCap site v) := fun v => ⟨rfl, rfl, rfl, rfl⟩
  unfold execCaptureWriteComplete
  dsimp only
  split
  · exact (stored _).andCanonical ((oldComplete_canonical ..).andCalm (drainCheck_calm ..))
  · split
    · rename_i rest _
      refine guardArray_answers ((stored ((s.capAt site).without CapItem.complete rest)).andCanonical
        (StaysCanonical.andCalm ?_ (drainCheck_calm ..)))
      split
      · exact hbmWriteReq_canonical ..
      · exact (loseItem_calm ..).canonical
    · refine SameCalm.canonical (t := State.drainCheck _ site) ?_
      split <;> simp [SameCalm]
    · exact .refl s

theorem or64_answers (site : Fin 128) (res : HbmStatus) (s : State) :
    Answers (StaysCanonical s) (execOr64 site res s) := by
  unfold execOr64
  dsimp only
  split
  · exact .refl s
  · exact guardArray_answers ((hbmWriteReq_canonical ..).andCalm ⟨rfl, rfl, rfl, rfl⟩)

theorem addsat15_answers (site : Fin 128) (res : HbmStatus) (s : State) :
    Answers (StaysCanonical s) (execAddsat15 site res s) := by
  unfold execAddsat15
  dsimp only
  split
  · exact .refl s
  · split
    · exact .refl s
    · exact guardArray_answers ((hbmWriteReq_canonical ..).andCalm ⟨rfl, rfl, rfl, rfl⟩)

theorem hbmTransferComplete_answers (e : Fin 24) (tag : Fin 16) (res : HbmStatus) (s : State) :
    Answers (StaysCanonical s) (execHbmTransferComplete e tag res s) := by
  unfold execHbmTransferComplete
  dsimp only
  split
  · split
    · exact guardWrite_answers (transferDone_canonical ..)
    · exact transferDone_canonical ..
  · exact SameCalm.canonical ⟨rfl, rfl, rfl, rfl⟩

theorem copyComplete_answers (c : Fin 8) (res : HbmStatus) (s : State) :
    Answers (StaysCanonical s) (execCopyComplete c res s) := by
  unfold execCopyComplete
  dsimp only
  split
  · split
    · exact guardWrite_answers (copyComplete_canonical ..)
    · exact copyComplete_canonical ..
  · exact .refl s

/-- Samples are written one after the other. -/
theorem foldl_write_canonical {base n : Nat} {res : HbmStatus} (blk : List (Nat × Word32)) (a : HbmStatus × State) :
    StaysCanonical a.2 (blk.foldl (fun (a : HbmStatus × State) e =>
      let w := a.2.hbmWriteReq (base + 4 * (e.1 % n)) (leBytes 4 e.2.toNat) res
      (worstOf a.1 w.1, w.2)) a).2 := by
  induction blk generalizing a with
  | nil => exact .refl _
  | cons e l ih =>
    let w := a.2.hbmWriteReq (base + 4 * (e.1 % n)) (leBytes 4 e.2.toNat) res
    exact (hbmWriteReq_canonical ..).trans (ih (worstOf a.1 w.1, w.2))

theorem msfOutputWrite_answers (i : Fin 64) (res : HbmStatus) (s : State) :
    Answers (StaysCanonical s) (execMsfOutputWrite i res s) := by
  unfold execMsfOutputWrite
  dsimp only
  split
  · exact .refl s
  · split
    · exact guardArray_answers ((foldl_write_canonical _ (.ok, s)).andCalm ⟨rfl, rfl, rfl, rfl⟩)
    · exact SameCalm.canonical (by simp [SameCalm])

theorem bar4Access_answers (off : BitVec 32) (write : Option (List Byte)) (len : Nat) (res : HbmStatus) (s : State) :
    Answers (StaysCanonical s) (execBar4Access off write len res s) := by
  unfold execBar4Access
  split
  · exact .refl s
  · split
    · exact guardWrite_answers (bar4Access_canonical ..)
    · exact bar4Access_canonical ..

theorem bar4Retry_goesOn (s : State) : GoesOn (StaysCanonical s) (execBar4Retry s) := by
  unfold execBar4Retry
  simp only [goesOn_next]
  split
  · split
    · exact .refl s
    · split
      · exact SameCalm.canonical (by simp [SameCalm])
      · exact SameCalm.andCanonical (t := s.modPcie _) ⟨rfl, rfl, rfl, rfl⟩ (bar4Do_canonical ..)
  · exact .refl s

theorem copyLinkTimeout_goesOn (c : Fin 8) (s : State) : GoesOn (StaysCanonical s) (execCopyLinkTimeout c s) := by
  unfold execCopyLinkTimeout
  split
  · exact ite_canonical (copyStopped_canonical ..) (.refl s)
  · exact .refl s

theorem watchdogExpiry_goesOn (e : Fin 24) (s : State) : GoesOn (StaysCanonical s) (execWatchdogExpiry e s) :=
  ite_canonical (weExpire_canonical e s) (.refl s)

theorem whenReady_canonical {f : State → State} (hf : ∀ s, StaysCanonical s (f s)) (s : State) (page : Nat) :
    StaysCanonical s (s.whenReady page f) :=
  ite_canonical (hf s) (ite_canonical (SameCalm.andCanonical (redoReset_calm ..) (hf _)) (.refl s))

theorem chipReset_goesOn (key : BitVec 8) (s : State) : GoesOn (StaysCanonical s) (execChipReset key s) :=
  whenReady_canonical (fun _ => ite_canonical (chipReset_canonical ..) (recordErr_calm ..).canonical) ..

theorem powerOnReset_goesOn (s : State) : GoesOn (StaysCanonical s) (execPowerOnReset s) :=
  (wiped_canonical s .reset 1).andCalm (by simp [SameCalm])

theorem vddAuxLoss_goesOn (s : State) : GoesOn (StaysCanonical s) (execVddAuxLoss s) :=
  (wiped_canonical s .unpowered 0).andCalm ⟨rfl, rfl, rfl, rfl⟩

theorem resetN_goesOn (s : State) : GoesOn (StaysCanonical s) (execResetN s) := by
  have held : StaysCanonical s (s.modMgt (fun m => { m with resetN := true })) := SameCalm.canonical ⟨rfl, rfl, rfl, rfl⟩
  exact ite_canonical (held.trans (chipReset_canonical ..)) held

theorem railFault_goesOn (rail : Fin 7) (s : State) : GoesOn (StaysCanonical s) (execRailFault rail s) := by
  have fell : SameCalm s (s.modMgt (fun m => { m with rails := clrBit m.rails rail })) := ⟨rfl, rfl, rfl, rfl⟩
  exact ite_canonical (ite_canonical ((fell.trans (raiseEvt_calm ..)).andCanonical (chipReset_canonical ..)) fell.canonical) (.refl s)

theorem mgtWatchdog_goesOn (s : State) : GoesOn (StaysCanonical s) (execMgtWatchdog s) := by
  refine ite_canonical (StaysCanonical.trans (ite_canonical ?_ (.refl s)) (chipReset_canonical ..)) (.refl s)
  exact SameCalm.canonical ⟨rfl, rfl, rfl, rfl⟩

/-! ### Every command -/

/-- Of all commands only these can be undefined behaviour (R396). -/
def mayFault : Instr → Prop
  | .registerWrite .. | .lowWordRead .. | .pageSoftReset .. | .freeze .. | .errorClear .. | .evtRawClear .. | .evtMaskWrite ..
  | .tssTableWrite .. | .apgTableWrite .. | .extData .. | .coefData .. | .csData .. | .castHeaderReadDone .. | .bar4Access ..
  | .copyComplete .. | .hbmTransferComplete .. | .captureWriteComplete .. | .or64 .. | .addsat15 .. | .msfOutputWrite .. => True
  | _ => False

theorem exec_goesOn (c : Instr) (s : State) (h : ¬ mayFault c) : GoesOn (StaysCanonical s) (exec c s) := by
  have calm : ∀ {r : Res}, GoesOn (SameCalm s) r → GoesOn (StaysCanonical s) r := fun h => h.mono fun _ => SameCalm.canonical
  cases c
  case chipReset => exact chipReset_goesOn ..
  case resetN => exact resetN_goesOn ..
  case powerOnReset => exact powerOnReset_goesOn ..
  case vddAuxLoss => exact vddAuxLoss_goesOn ..
  case railFault => exact railFault_goesOn ..
  case mgtWatchdog => exact mgtWatchdog_goesOn ..
  case watchdogExpiry => exact watchdogExpiry_goesOn ..
  case copyLinkTimeout => exact copyLinkTimeout_goesOn ..
  case bar4Retry => exact bar4Retry_goesOn ..
  all_goals first | exact absurd trivial h | exact calm (by simp [exec])

theorem exec_answers (c : Instr) (s : State) : Answers (StaysCanonical s) (exec c s) := by
  have calm : ∀ {t : State}, SameCalm s t → StaysCanonical s t := SameCalm.canonical
  cases c
  case registerWrite bar2 addr lo hi path => exact bothWords_answers (wordWrite_answers bar2 path) ..
  case lowWordRead => exact lowWordRead_answers ..
  case pageSoftReset page => exact onPage_answers (pageSoftReset_canonical page.toNat) ..
  case freeze => exact onPage_answers (fun _ => (freezePage_calm ..).canonical) ..
  case errorClear => exact onPage_answers (fun _ => (errorClear_calm ..).canonical) ..
  case evtRawClear => exact onPage_answers (fun _ => (evtRawClear_calm ..).canonical) ..
  case evtMaskWrite => exact onPage_answers (fun _ => (evtMaskWrite_calm ..).canonical) ..
  case tssTableWrite => exact bothWords_answers tssWord_answers ..
  case apgTableWrite => exact bothWords_answers apgTabWord_answers ..
  case extData v => exact ite_answers (undefined_answers 2) (calm (by simp [SameCalm]))
  case coefData i v => exact ite_answers (undefined_answers 2) (calm (by simp [SameCalm]))
  case csData =>
    exact ite_answers (undefined_answers 10)
      (calm (whenReady_calm _ _ _ fun s => by split <;> simp [SameCalm]))
  case castHeaderReadDone => exact castHeaderReadDone_answers ..
  case bar4Access => exact bar4Access_answers ..
  case copyComplete => exact copyComplete_answers ..
  case hbmTransferComplete => exact hbmTransferComplete_answers ..
  case captureWriteComplete => exact captureWriteComplete_answers ..
  case or64 => exact or64_answers ..
  case addsat15 => exact addsat15_answers ..
  case msfOutputWrite => exact msfOutputWrite_answers ..
  all_goals exact (exec_goesOn _ s (by simp [mayFault])).answers

end Sys2Proof.Machine
end

section
/-! PROOFS. The statements about a step as a whole: the canonical form of HBM, the front command, an edge, undefined behaviour. -/

namespace Sys2Proof.Machine

/-- Settles O55: an edge keeps HBM in canonical form, and so does every command that goes on. -/
theorem stepKeepsTheInvariant : Obligations.StepKeepsTheInvariant := by
  unfold Obligations.StepKeepsTheInvariant Goes State.Inv
  intro s t wf goes
  cases h : s.pending with
  | nil =>
    rw [show step s = .next s.edge by unfold step; rw [h]] at goes
    rw [← Host.Outcome.next.inj goes]
    exact (edge_calm_but_clock s).2.2 wf
  | cons c l =>
    have answers := exec_answers c { s with pending := l }
    rw [show exec c { s with pending := l } = .next t by rw [← goes]; unfold step; rw [h]] at answers
    exact answers.wf wf

/-- Settles O52: an edge adds one to the clock and runs no command. -/
theorem idleStepIsOneEdge : Obligations.IdleStepIsOneEdge := by
  unfold Obligations.IdleStepIsOneEdge step
  intro s idle
  obtain ⟨pending, now, -⟩ := edge_calm_but_clock s
  rw [idle] at pending ⊢
  exact ⟨s.edge, rfl, now, pending⟩

/-- Settles O56: each command goes on but for those of the list, whose undefined behaviour is of an item of R396. -/
theorem onlyListedActsAreUndefined : Obligations.OnlyListedActsAreUndefined := by
  unfold Obligations.OnlyListedActsAreUndefined
  intro c s
  have answers := exec_answers c s
  have goes := exec_goesOn c s
  cases h : exec c s with
  | next t => exact .inl ⟨t, rfl⟩
  | fault k =>
    rw [h] at answers goes
    obtain ⟨k⟩ := k
    refine .inr ⟨k, rfl, answers.1, answers.2, ?_⟩
    have listed : mayFault c := not_not.1 goes
    cases c <;> trivial
  | refused r => rw [h] at answers; exact answers.elim

/-- Settles O51. -/
theorem stepRunsTheFrontCommand : Obligations.StepRunsTheFrontCommand := by
  unfold Obligations.StepRunsTheFrontCommand step
  intro c l s front
  rw [front]

/-- Settles O54: HBM lists no byte after reset. -/
theorem resetKeepsTheInvariant : Obligations.ResetKeepsTheInvariant := by
  unfold Obligations.ResetKeepsTheInvariant State.Inv
  exact reset_hbmWf

end Sys2Proof.Machine
end

section
/-! PROOFS. Page headers after reset (R384, R386): a read of a header register is live, and the header is that of reset. -/

namespace Sys2Proof.Machine

/-- No header is frozen or thaws at reset, so a read of a header register is live. -/
theorem reset_readReg_header {page off : Nat} (header : off < 0x100) :
    State.reset.readReg page off = readHdr State.reset page off := by
  have live : State.reset.readReg page off = State.reset.liveReg page off := rfl
  rw [live, State.liveReg, if_pos header]

/-- Nothing is staged or held at reset. -/
theorem reset_pageStale (page : Nat) : State.reset.pageStale page = false := by
  unfold State.pageStale
  repeat' split
  all_goals rfl

theorem reset_pageStat (page : Nat) : readHdr State.reset page 0xC = 0 := by
  have stat : readHdr State.reset page 0xC = pack [(b2n (State.reset.pageStale page), 3), (0, 2), (0, 1), (0, 0)] := rfl
  rw [stat, reset_pageStale]
  rfl

theorem reset_evtPend (page : Nat) : readHdr State.reset page 0x18 = 0 := by
  change PageHdr.pend {} = 0
  rfl

/-- Settles O53: every page has the header of reset, and no page is frozen or stale. -/
theorem headersAfterReset : Obligations.HeadersAfterReset := by
  unfold Obligations.HeadersAfterReset
  intro page _
  iterate 8 rw [reset_readReg_header (by decide)]
  exact ⟨rfl, rfl, reset_pageStat page, rfl, rfl, reset_evtPend page, rfl, rfl⟩

end Sys2Proof.Machine
end

section
/-! PROOFS. The soft reset of the HMC page (R360), and what a reset of a page's registers returns and keeps. -/

namespace Sys2Proof.Machine

/-! ### Registers after a reset of their page -/

theorem sget_filter_key {α : Type} (d : α) (m : Sparse α) (p : Nat → Bool) (j : Nat) :
    sget d (m.filter (fun e => p e.1)) j = if p j then sget d m j else d := by
  induction m with
  | nil => simp [sget]
  | cons e m ih =>
    obtain ⟨k, v⟩ := e
    by_cases hk : k = j
    · subst hk
      cases hp : p k <;> simp [sget, hp, ih]
    · cases hp : p k <;> simp [sget, hp, hk, ih]

/-- A reset of the registers of a page returns each that is not kept to its reset value, and no register of another page. -/
theorem resetRegs_reg (s : State) (page : Nat) (keep : Nat → Bool) {p off : Nat} (h : off < 0x1000) :
    (s.resetRegs page keep).reg p off = if p = page ∧ keep off = false then resetAt p off else s.reg p off := by
  have key : (p * 0x1000 + off) / 0x1000 = p ∧ (p * 0x1000 + off) % 0x1000 = off := by omega
  have read := sget_filter_key (resetAt p off) s.regs (fun k => decide (k / 0x1000 ≠ page ∨ keep (k % 0x1000))) (p * 0x1000 + off)
  simp only [key.1, key.2] at read
  refine read.trans ?_
  by_cases hp : p = page <;> cases keep off <;> simp [hp, State.reg]

/-! ### The soft reset of the HMC page (R360) -/

section
variable {s : State}

theorem exec_pageSoftReset_pgHmc {page : BitVec 16} (hp : page.toNat = pgHmc) (hr : s.ready pgHmc = true) :
    exec (.pageSoftReset page) s = .next (pageSoftReset pgHmc s) := by
  have run : exec (.pageSoftReset page) s = onPage page.toNat (pageSoftReset page.toNat) s := rfl
  rw [run, hp, onPage, if_pos (by decide), redoReset_ready s pgHmc hr]

/-- A READY HMC page runs its reset: no use refuses it. -/
theorem pageSoftReset_pgHmc (hr : s.ready pgHmc = true) : pageSoftReset pgHmc s =
    pageResetRun pgHmc (s.modHdr pgHmc (fun h => { h with resetEdge := s.now + 1 })) := by
  simp only [State.ready, PageHdr.ready, Bool.and_eq_true, Bool.not_eq_true'] at hr
  obtain ⟨⟨up, idle⟩, -⟩ := hr
  exact (if_neg (by simp [up, idle])).trans (if_neg (by simp [State.resetRefused, pgHmc]))

/-- Of the controller the reset empties the counters of the ports alone: requests stay. -/
theorem pageResetRun_pgHmc_hmc : (pageResetRun pgHmc s).hmc = { s.hmc with ports := [] } := rfl

theorem pageResetRun_pgHmc_hbm : (pageResetRun pgHmc s).hbm = s.hbm := rfl

theorem pageResetRun_pgHmc_reg {p off : Nat} (h : off < 0x1000) : (pageResetRun pgHmc s).reg p off =
    if p = pgHmc ∧ (off = 0x100 ∨ off = 0x11C ∨ off = 0x120) then resetAt p off else s.reg p off := by
  refine (resetRegs_reg _ pgHmc (fun off => off ≠ 0x100 ∧ off ≠ 0x11C ∧ off ≠ 0x120) h).trans (if_congr ?_ rfl rfl)
  simp only [decide_eq_false_iff_not]
  tauto

end

/-- Settles O59: CTRL, SCRUB_PERIOD and UE_LIMIT are the registers that the reset does not keep. -/
theorem hmcPageSoftReset : Obligations.HmcPageSoftReset := by
  unfold Obligations.HmcPageSoftReset
  intro page s hp hr
  refine ⟨_, exec_pageSoftReset_pgHmc hp hr, ?_⟩
  rw [pageSoftReset_pgHmc hr, pageResetRun_pgHmc_hmc, pageResetRun_pgHmc_hbm]
  refine ⟨rfl, fun _ _ => rfl, ?_, ?_, ?_, rfl, fun p off h other => ?_⟩
  iterate 3 exact (pageResetRun_pgHmc_reg (by decide)).trans (if_pos (by simp))
  exact (pageResetRun_pgHmc_reg h).trans (if_neg other)

end Sys2Proof.Machine
end

section
/-! PROOFS. Fuses (R332, R335): the payload buffer, the refusals of a burn request in their order, the words a burn programs, and
the stop of a burn. -/

namespace Sys2Proof.Machine

section
variable {s : State} {path : Path}

/-! ### The payload buffer -/

theorem exec_bufData (v : Word32) (hr : s.ready pgFuse = true) : exec (.bufData v) s =
    .next ((s.setFuse { s.fuse with buf := sput s.fuse.buf ((s.reg pgFuse 0x128).toNat % 512) v }).setReg pgFuse 0x128
      (BitVec.ofNat 32 (((s.reg pgFuse 0x128).toNat % 512 + 1) % 512))) := by
  change execBufData v s = _
  rw [execBufData, whenReady_of_ready _ hr]
  simp only [fld_eq_div_mod, pow_zero, Nat.div_one, Nat.reducePow]

/-! ### A burn request (R335) -/

/-- RECORD_LEN as the command reads it. -/
def State.burnLen (s : State) : Nat := fld (s.reg pgFuse 0x110) 16 8

theorem burnLen_eq (s : State) : s.burnLen = (s.reg pgFuse 0x110).toNat / 65536 % 256 := fld_eq_div_mod ..

theorem exec_burn_refused {code : Nat} (hr : s.ready pgFuse = true)
    (refused : ∀ gen, s.burn s.burnLen gen = (some code, s)) :
    exec (.burn path) s = .next { s with fuse := { s.fuse with cmdStat := code } } := by
  change execBurn path s = _
  rw [execBurn, whenReady_of_ready _ hr]
  dsimp only
  rw [← State.burnLen, refused]
  rfl

theorem exec_burn_begins {b : Burn} (hr : s.ready pgFuse = true)
    (begun : s.burn s.burnLen (fld (s.reg pgFuse 0x110) 0 16) = (none, s.setFuse { s.fuse with
      free := s.fuse.free - (s.burnLen + 1), burnBlock := fuseBlocks - s.fuse.free, burn := some b })) :
    exec (.burn path) s = .next (s.setFuse { s.fuse with
      free := s.fuse.free - (s.burnLen + 1), burnBlock := fuseBlocks - s.fuse.free, burn := some b }) := by
  change execBurn path s = _
  rw [execBurn, whenReady_of_ready _ hr]
  dsimp only
  rw [← State.burnLen, begun]

variable {len gen : Nat}

theorem burn_while_burning (going : s.fuse.burn ≠ none) : s.burn len gen = (some 1, s) :=
  if_pos (Option.isSome_iff_ne_none.2 going)

theorem burn_without_room (idle : s.fuse.burn = none) (full : s.fuse.free < len + 1) : s.burn len gen = (some 2, s) :=
  (if_neg (by simp [idle])).trans (if_pos full)

theorem burn_without_vqps (idle : s.fuse.burn = none) (room : len + 1 ≤ s.fuse.free) (low : s.vqps = false) :
    s.burn len gen = (some 3, s) :=
  (if_neg (by simp [idle])).trans ((if_neg (by omega)).trans (if_pos (by simp [low])))

theorem burn_of_bad_length (idle : s.fuse.burn = none) (room : len + 1 ≤ s.fuse.free) (good : s.vqps = true)
    (bad : len = 0 ∨ 64 < len) : s.burn len gen = (some 4, s) :=
  (if_neg (by simp [idle])).trans ((if_neg (by omega)).trans ((if_neg (by simp [good])).trans (if_pos bad)))

/-- The words of a record that a burn programs in the blocks from `b`: its header, its payload and, last, the commit word. -/
def State.recordWords (s : State) (len gen b : Nat) : List (Nat × Word32) :=
  let pay := (List.range (8 * len)).map (fun k => sget 0 s.fuse.buf k)
  let head : List Word32 := [recordMagic, BitVec.ofNat 32 ((255 - len) * 256 + len), crc32 (wordBytes pay),
    BitVec.ofNat 32 ((65535 - gen) * 65536 + gen)]
  (head ++ pay).zipIdx.map (fun x => (blockWord b + (if x.2 < 4 then x.2 else x.2 + 4), x.1)) ++ [(blockWord b + 7, recordCommit)]

theorem recordWords_length (b : Nat) : (s.recordWords len gen b).length = 8 * len + 5 := by
  simp [State.recordWords]

theorem recordWords_getLast? (b : Nat) : (s.recordWords len gen b).getLast? = some (576 + 8 * b + 7, 0x5AC396E1) :=
  List.getLast?_concat ..

theorem burn_begins (idle : s.fuse.burn = none) (room : len + 1 ≤ s.fuse.free) (good : s.vqps = true) (some_len : 0 < len)
    (most : len ≤ 64) : s.burn len gen = (none, s.setFuse { s.fuse with
      free := s.fuse.free - (len + 1), burnBlock := fuseBlocks - s.fuse.free,
      burn := some { block := fuseBlocks - s.fuse.free, words := s.recordWords len gen (fuseBlocks - s.fuse.free), edge := s.now } }) :=
  (if_neg (by simp [idle])).trans ((if_neg (by omega)).trans ((if_neg (by simp [good])).trans (if_neg (by omega))))

/-! ### The steps of a burn and its loss of VQPS (R332) -/

theorem fuseWord_sput {n j : Nat} {w : Word32} {t : State} (h : t.fuse.words = sput s.fuse.words n w) :
    t.fuseWord j = if j = n then w else s.fuseWord j := by
  rw [State.fuseWord, h]
  exact sget_sput ..

theorem exec_fuseWordProgrammed {b n e : Nat} {w : Word32} {l : List (Nat × Word32)}
    (going : s.fuse.burn = some { block := b, words := (n, w) :: l, edge := e }) (reads_back : s.fuseWord n ||| w = w)
    (due : e + 4000 ≤ s.now) : exec (.fuseWordProgrammed true) s = .next (s.setFuse (
      let f := { s.fuse with words := sput s.fuse.words n w }
      if l = [] then { f with burn := none, cmdStat := 0 } else { f with burn := some { block := b, words := l, edge := s.now } })) := by
  change execFuseWordProgrammed true s = _
  rw [execFuseWordProgrammed, going]
  exact (if_neg (by simpa [edgesWord] using due)).trans (if_pos ⟨rfl, reads_back⟩)

/-- A burn that stops sets at most bits of the word it programs. -/
theorem burnStop_stops (s : State) : ∃ t, s.burnStop = t ∧ t = { s with fuse := t.fuse, freeCtr := t.freeCtr } ∧
    t.fuse.burn = none ∧ ∀ j, s.fuseWord j &&& ~~~ (t.fuseWord j) = 0 := by
  unfold State.burnStop
  split
  · split
    · exact ⟨_, rfl, rfl, rfl, fun j => BitVec.and_not_self _⟩
    · refine ⟨_, rfl, rfl, rfl, fun j => ?_⟩
      change s.fuseWord j &&& ~~~ (sget 0 (sput s.fuse.words _ _) j) = 0
      rw [sget_sput]
      split
      · subst j
        rw [BitVec.not_or, ← BitVec.and_assoc, BitVec.and_not_self]
        exact BitVec.zero_and
      · exact BitVec.and_not_self _
  · exact ⟨_, rfl, rfl, rfl, fun j => BitVec.and_not_self _⟩

end

/-- Settles O34: the refusals in the order in which a burn tests them, each with what the earlier ones leave. -/
theorem fuseRecords : Obligations.FuseRecords := by
  unfold Obligations.FuseRecords
  intro path v s f a len refused
  have burnLen : s.burnLen = len := burnLen_eq s
  refine ⟨?buffer, ?burning, ?full, ?low, ?badLength, ?begins, ?word, ?loss⟩
  case buffer =>
    intro hr
    refine ⟨_, exec_bufData v hr, rfl, fun j => sget_sput .., ?_⟩
    rw [setReg_reg, if_pos rfl, BitVec.toNat_ofNat]
    omega
  case burning => exact fun hr going => exec_burn_refused hr fun _ => burn_while_burning going
  case full => exact fun hr idle full => exec_burn_refused hr fun _ => burn_without_room idle (burnLen ▸ full)
  case low => exact fun hr idle room low => exec_burn_refused hr fun _ => burn_without_vqps idle (burnLen ▸ room) low
  case badLength =>
    exact fun hr idle room good bad => exec_burn_refused hr fun _ => burn_of_bad_length idle (burnLen ▸ room) good (burnLen ▸ bad)
  case begins =>
    intro hr idle room good some_len most
    rw [← burnLen] at room some_len most ⊢
    exact ⟨_, _, exec_burn_begins hr (burn_begins idle room good some_len most), rfl, rfl, recordWords_length _,
      recordWords_getLast? _⟩
  case word =>
    intro b n w l e going reads_back due
    refine ⟨_, exec_fuseWordProgrammed going reads_back due, rfl, fun j => fuseWord_sput ?_, ?_, ?_⟩
    · split <;> rfl
    · rintro rfl
      exact ⟨rfl, rfl⟩
    · intro more
      rw [if_neg more]
      rfl
  case loss =>
    obtain ⟨t, stops, frame, off, keeps⟩ := burnStop_stops { s with mgt := { s.mgt with rails := clrBit s.mgt.rails 6 } }
    refine ⟨t, congrArg Host.Outcome.next stops, ?_, off, ?_, keeps⟩
    · rw [frame]
    · rw [frame]
      simp [State.vqps, clrBit]

end Sys2Proof.Machine
end

section
/-! PROOFS. Messages of two-way time transfer (R305): each is one send on a port that serves the domain or is served by it. -/

namespace Sys2Proof.Machine

section
variable {s : State} {port : Fin 6} {d : Fin 4}

theorem exec_ttSyncSend (up : s.timePort port = true) (serves : s.servesTd d port = true) : exec (.ttSyncSend port d) s =
    .next ((s.fresh 12).2.send (.zp port (.ttSync d ((s.fresh 12).2.stampAt d
      ((s.fresh 12).2.now * 4096 + (s.fresh 12).1.toNat))))) :=
  congrArg Host.Outcome.next (if_pos ⟨up, serves⟩)

/-- A member keeps the three times it knows of the exchange and asks for the fourth. -/
theorem exec_ttSync (t1 : Word64) (fine : Fin 4096) (up : s.timePort port = true) (source : s.tdSrc d = 3)
    (serves : s.tdPort d = port.val) : exec (.ttSync port d t1 fine) s =
      .next (((s.fresh 12).2.modTd d (fun v => { v with
        exch := some (t1, s.ownStamp d fine, s.ownStamp d (s.fresh 12).1.toNat) })).send (.zp port (.ttDreq d))) :=
  congrArg Host.Outcome.next (if_pos ⟨up, source, serves⟩)

theorem exec_ttDreq (fine : Fin 4096) (up : s.timePort port = true) (serves : s.servesTd d port = true) :
    exec (.ttDreq port d fine) s = .next (s.zpSend port (.ttDresp d (s.stampAt d (s.now * 4096 + fine.val)))) :=
  congrArg Host.Outcome.next (if_pos ⟨up, serves⟩)

/-- A port with nothing before the message sends it with the next sequence number. -/
theorem zpSend_transmits (m : ZpMsg) (none_waits : (s.zpAt port).waiting = []) (can : (s.zpAt port).canSend = true) :
    s.zpSend port m = s.zpTransmit port m := if_pos ⟨none_waits, can⟩

theorem zpTransmit_zpAt (p : Nat) (m : ZpMsg) (j : Nat) : (s.zpTransmit p m).zpAt j = if j = p then
    let v := s.zpAt p
    { v with txSeq := (v.txSeq + 1) % 4096, credMsg := v.credMsg - 1, ackAt := if v.kept = [] then s.now else v.ackAt,
             kept := v.kept ++ [{ seq := v.txSeq, msg := m }] } else s.zpAt j := setZp_zpAt ..

end

/-- Settles O30: each message of the exchange is one send, and the member's keeping of t1, t2 and t3 one store to its domain. -/
theorem timeTransferMessages : Obligations.TimeTransferMessages := by
  unfold Obligations.TimeTransferMessages
  intro d port t1 fine s up
  refine ⟨fun serves => ⟨_, _, exec_ttSyncSend up serves, rfl⟩, fun source on_port => ?_, fun serves none_waits can => ?_⟩
  · exact ⟨_, _, exec_ttSync t1 fine up source on_port, rfl, .of_reads fun j => setTd_tdAt ..⟩
  · refine ⟨_, exec_ttDreq fine up serves, ?_, ?_⟩
    all_goals rw [zpSend_transmits _ none_waits can]
    · rfl
    · exact ⟨by rw [zpTransmit_zpAt, if_pos rfl], fun j hj => by rw [zpTransmit_zpAt, if_neg hj]⟩

end Sys2Proof.Machine
end

section
/-! PROOFS. Steering of a domain outside a redundant pair (R307, R308): an update and a missed interval are each one store to the
domain. -/

namespace Sys2Proof.Machine

section
variable {s : State} {d : Nat}

/-! ### A domain outside a redundant pair -/

theorem setTd_setTd (v w : TimeDom) : (s.setTd d v).setTd d w = s.setTd d w := by
  rw [State.setTd, State.setTd, sput_sput]
  rfl

theorem tdState_outside_pair (alone : s.pairEn d = false) (st : TdState) :
    s.tdState d st = s.setTd d { s.tdAt d with state := st } := if_neg (by simp [alone])

theorem pairRecord_outside_pair (alone : s.pairEn d = false) : s.pairRecord d = s := if_neg (by simp [alone])

/-- What an update of offset `θ` does to the time, the integrator and the rate of the domain. -/
def State.steerMove (s : State) (d : Nat) (θ : Int) : TimeDom :=
  let v := s.tdAt d
  if bit (s.reg (pgTime d) 0x100) 8 ∧ (θ.natAbs : Int) * 5 > (s.regN (pgTime d) 0x168 : Int) * 2 ^ 41 then
    { v with t := ((v.t : Int) - θ).toNat, stepCount := sat32 (v.stepCount + 1) }
  else
    let integ := v.integ - θ >>> fld (s.reg (pgTime d) 0x170) 0 8
    { v with integ := integ,
             rate := clampInt (-s.slewMax d) (s.slewMax d) (integ - θ >>> fld (s.reg (pgTime d) 0x170) 8 8) }

/-- Updates in a row near the master, with this one. -/
def State.steerGood (s : State) (d : Nat) (θ : Int) : Nat :=
  let near : Bool := θ.natAbs * 5 < 2 ^ 41
  if (s.tdAt d).state = .holdover then b2n near else if near then (s.tdAt d).good + 1 else 0

theorem steer_stores (alone : s.pairEn d = false) (θ : Int) : s.steer d θ = s.setTd d { s.steerMove d θ with
    good := s.steerGood d θ, missRun := 0, offset := centiPs θ,
    state := if s.steerGood d θ ≥ 8 ∧ (s.tdAt d).state ≠ .holdover then .locked else .acquire } := by
  have stored : ∀ v : TimeDom, (s.setTd d v).pairEn d = false := fun _ => alone
  unfold State.steer
  dsimp only
  rw [tdState_outside_pair (stored _), setTd_setTd, pairRecord_outside_pair (stored _), setTd_tdAt, if_pos rfl]
  rfl

theorem steerGood_of_steered {θ : Int} (steered : (s.tdAt d).state ≠ .holdover) :
    s.steerGood d θ = if (θ.natAbs : Int) * 5 < 2 ^ 41 then (s.tdAt d).good + 1 else 0 := by
  have near : θ.natAbs * 5 < 2 ^ 41 ↔ (θ.natAbs : Int) * 5 < 2 ^ 41 := by omega
  simp only [State.steerGood, if_neg steered, decide_eq_true_eq, near]

/-- A domain locks with the eighth update in a row near the master (R308). -/
theorem steer_slews {θ : Int} (alone : s.pairEn d = false) (steered : (s.tdAt d).state ≠ .holdover)
    (slews : ¬ (bit (s.reg (pgTime d) 0x100) 8 ∧ (θ.natAbs : Int) * 5 > (s.regN (pgTime d) 0x168 : Int) * 2 ^ 41)) :
    s.steer d θ = s.setTd d { s.tdAt d with
      integ := (s.tdAt d).integ - θ >>> ((s.reg (pgTime d) 0x170).toNat % 256),
      rate := clampInt (-s.slewMax d) (s.slewMax d) ((s.tdAt d).integ - θ >>> ((s.reg (pgTime d) 0x170).toNat % 256) -
        θ >>> ((s.reg (pgTime d) 0x170).toNat / 256 % 256)),
      good := if (θ.natAbs : Int) * 5 < 2 ^ 41 then (s.tdAt d).good + 1 else 0, missRun := 0, offset := centiPs θ,
      state := if (θ.natAbs : Int) * 5 < 2 ^ 41 ∧ 7 ≤ (s.tdAt d).good then .locked else .acquire } := by
  rw [steer_stores alone, steerGood_of_steered steered, State.steerMove, if_neg slews]
  have lock : ((if (θ.natAbs : Int) * 5 < 2 ^ 41 then (s.tdAt d).good + 1 else 0) ≥ 8 ∧ (s.tdAt d).state ≠ .holdover) ↔
      ((θ.natAbs : Int) * 5 < 2 ^ 41 ∧ 7 ≤ (s.tdAt d).good) := by
    rw [and_iff_left steered]
    by_cases near : (θ.natAbs : Int) * 5 < 2 ^ 41
    · rw [if_pos near, and_iff_right near]
      exact Nat.succ_le_succ_iff
    · rw [if_neg near]
      exact iff_of_false (by decide) fun h => near h.1
  simp only [fld_eq_div_mod, pow_zero, Nat.div_one, Nat.reducePow, lock]

theorem steerMove_steps {θ : Int} (on : bit (s.reg (pgTime d) 0x100) 8 = true)
    (far : (s.regN (pgTime d) 0x168 : Int) * 2 ^ 41 < (θ.natAbs : Int) * 5) : s.steerMove d θ = { s.tdAt d with
      t := (((s.tdAt d).t : Int) - θ).toNat, stepCount := sat32 ((s.tdAt d).stepCount + 1) } := if_pos ⟨on, far⟩

theorem holdover_outside_pair (alone : s.pairEn d = false) (keeps : bit (s.reg (pgTime d) 0x100) 9 = false) :
    s.holdover d = if (s.tdAt d).state = .holdover then s else s.setTd d { s.tdAt d with state := .holdover } := by
  unfold State.holdover
  rw [if_neg (c := bit _ 9 = true) (by simp [keeps]), tdState_outside_pair alone]

/-- The third interval missed in a row leads to HOLDOVER (R307). -/
theorem tdMiss_third (alone : s.pairEn d = false) (keeps : bit (s.reg (pgTime d) 0x100) 9 = false)
    (third : 2 ≤ (s.tdAt d).missRun) : s.tdMiss d = s.setTd d { s.tdAt d with
      missed := sat32 ((s.tdAt d).missed + 1), missRun := (s.tdAt d).missRun + 1, exch := none, state := .holdover } := by
  unfold State.tdMiss
  dsimp only
  rw [if_pos (by omega), holdover_outside_pair (s := s.setTd d _) alone keeps, setTd_tdAt, if_pos rfl, setTd_setTd]
  split
  · rename_i h
    dsimp only at h
    rw [← h]
  · rfl

theorem tdMiss_early (early : (s.tdAt d).missRun < 2) : s.tdMiss d = s.setTd d { s.tdAt d with
    missed := sat32 ((s.tdAt d).missed + 1), missRun := (s.tdAt d).missRun + 1, exch := none } := if_neg (by omega)

/-- The state in which a PTM exchange has just given a time. -/
def State.ptmTaken (s : State) : State := { s with pcie := { s.pcie with ptmOn := true, ptmValid := true } }

theorem exec_ptmExchange {d : Fin 4} (θ : Int) (source : s.tdSrc d = 2) :
    exec (.ptmExchange d (some θ)) s = .next (s.ptmTaken.steer d θ) := by
  change execPtmExchange d (some θ) s = _
  rw [execPtmExchange]
  simp only [Option.isSome_some, Bool.or_true]
  exact congrArg Host.Outcome.next (if_pos source)

theorem exec_updateMissed {d : Fin 4} (steered : s.steered d = true) : exec (.updateMissed d) s = .next (s.tdMiss d) :=
  congrArg Host.Outcome.next (if_pos steered)

/-- The state in which a member has the fourth time of its exchange. -/
def State.exchanged (s : State) (d : Nat) (delay : Int) : State :=
  s.setTd d { s.tdAt d with exch := none, delay := centiPs delay }

theorem exec_ttDresp {d : Fin 4} {port : Fin 6} {t1 t2 t3 : Word64} (t4 : Word64) (up : s.timePort port = true)
    (source : s.tdSrc d = 3) (on_port : s.tdPort d = port.val) (begun : (s.tdAt d).exch = some (t1, t2, t3)) :
    exec (.ttDresp port d t4) s = .next ((s.exchanged d (((t2 - t1).toInt * 1562500 + (t4 - t3).toInt * 1562500) / 2)).steer d
      (((t2 - t1).toInt * 1562500 - (t4 - t3).toInt * 1562500) / 2 - ofCentiPs (s.reg (pgTime d) 0x150).toInt)) := by
  refine (congrArg Host.Outcome.next (if_pos ⟨up, source, on_port⟩)).trans ?_
  rw [ttUpdate, begun]
  rfl

theorem steerMove_keeps (θ : Int) : (s.steerMove d θ).exch = (s.tdAt d).exch ∧ (s.steerMove d θ).delay = (s.tdAt d).delay := by
  unfold State.steerMove
  dsimp only
  split <;> exact ⟨rfl, rfl⟩

end

/-- Settles O29: every update of a domain outside a pair is one store to that domain. -/
theorem domainSteering : Obligations.DomainSteering := by
  unfold Obligations.DomainSteering
  intro d port θ t1 t2 t3 t4 s alone v cfg pll lim slew integ near a b
  have alone' : s.ptmTaken.pairEn d = false := alone
  refine ⟨?slews, ?steps, ?missed, ?third, ?exchange⟩
  case slews =>
    intro source slews steered
    refine ⟨_, exec_ptmExchange θ source, ?_⟩
    rw [steer_slews alone' steered slews]
    refine ⟨rfl, .of_reads fun j => (setTd_tdAt ..).trans (if_congr Iff.rfl ?_ rfl)⟩
    simp only [near, decide_eq_true_eq]
    rfl
  case steps =>
    intro source on far
    refine ⟨_, exec_ptmExchange θ source, ?_⟩
    rw [steer_stores alone', steerMove_steps (s := s.ptmTaken) on far]
    refine ⟨rfl, ?_, ?_, ?_, fun j hj => by rw [setTd_tdAt, if_neg hj]; rfl⟩
    all_goals
      rw [setTd_tdAt, if_pos rfl]
      rfl
  case missed =>
    intro steered early
    exact ⟨_, (exec_updateMissed steered).trans (congrArg _ (tdMiss_early early)), rfl, .of_reads fun j => setTd_tdAt ..⟩
  case third =>
    intro steered third keeps
    exact ⟨_, (exec_updateMissed steered).trans (congrArg _ (tdMiss_third alone keeps third)), rfl,
      .of_reads fun j => setTd_tdAt ..⟩
  case exchange =>
    intro up source on_port begun
    refine ⟨_, exec_ttDresp t4 up source on_port begun, ?_⟩
    have self : (s.exchanged d ((a + b) / 2)).tdAt d = { s.tdAt d with exch := none, delay := centiPs ((a + b) / 2) } :=
      (setTd_tdAt ..).trans (if_pos rfl)
    obtain ⟨exch, delay⟩ := steerMove_keeps (s := s.exchanged d ((a + b) / 2)) (d := d)
      ((a - b) / 2 - ofCentiPs (s.reg (pgTime d) 0x150).toInt)
    rw [self] at exch delay
    rw [steer_stores (s := s.exchanged d _) alone]
    refine ⟨rfl, ?_, ?_, ?_, fun j hj => ?_⟩
    · rw [setTd_tdAt, if_pos rfl]; exact exch
    · rw [setTd_tdAt, if_pos rfl]; exact delay
    · rw [setTd_tdAt, if_pos rfl]
    · rw [setTd_tdAt, if_neg hj]; exact (setTd_tdAt ..).trans (if_neg hj)

end Sys2Proof.Machine
end

section
/-! PROOFS. The time base (R299 to R310): loads, exchanges of roles, the phase of SYNC, and an edge, which visits each domain once. -/

namespace Sys2Proof.Machine

/-! ### Every domain visited once -/

/-- From `s` to `t` the domains below `n` have become what `g` makes of each, and nothing else has changed. -/
structure DomainsPass (n : Nat) (g : Nat → TimeDom → TimeDom) (s t : State) : Prop where
  frame : t = { s with td := t.td }
  reads : ∀ j, t.tdAt j = if j < n then g j (s.tdAt j) else s.tdAt j

theorem foldState_domains {f : Nat → State → State} {g : Nat → TimeDom → TimeDom} {s : State}
    (hf : ∀ d u, u = { s with td := u.td } → f d u = { u with td := (f d u).td } ∧
      ∀ j, (f d u).tdAt j = if j = d then g d (u.tdAt d) else u.tdAt j) (n : Nat) :
    DomainsPass n g s (foldState (List.range n) f s) := by
  induction n with
  | zero => exact ⟨rfl, fun _ => rfl⟩
  | succ n ih =>
    obtain ⟨frame, reads⟩ := ih
    have last : foldState (List.range (n + 1)) f s = f n (foldState (List.range n) f s) := by
      rw [foldState, List.range_succ, List.foldl_append]
      rfl
    obtain ⟨frame', reads'⟩ := hf n _ frame
    rw [last]
    refine ⟨by rw [frame', frame], fun j => ?_⟩
    rw [reads', reads, reads]
    rcases Nat.lt_trichotomy j n with h | rfl | h
    · rw [if_neg (by omega), if_pos h, if_pos (by omega)]
    · rw [if_pos rfl, if_neg (by omega), if_pos (by omega)]
    · rw [if_neg (by omega), if_neg (by omega), if_neg (by omega)]

section
variable {s : State} {d : Fin 4}

/-! ### Loads and exchanges of roles -/

theorem exec_timeLoad (hr : s.ready (pgTime d) = true) (grid : s.tdSrc d = 1) :
    exec (.timeLoad d) s = .next (s.setTd d (if s.pulsed = true then
      { s.tdAt d with loadPending := false, loadEdge := s.now + 1, loadAt := some (s.now + 1) }
      else { s.tdAt d with loadPending := true, loadEdge := s.now + 1 })) :=
  congrArg Host.Outcome.next ((whenReady_of_ready _ hr).trans (if_pos grid))

theorem pairSwitchCmd_acts (paired : s.pairEn d = true) (first : (s.pairAt (d.val / 2)).switchEdge ≠ s.now + 1) :
    pairSwitchCmd d s = if s.standbyLocked (d.val / 2) then s.pairSwitch (d.val / 2) else s.recordErr (pgTime d) 0x0047 :=
  if_neg (by simp [paired, first])

theorem exec_pairSwitch (hr : s.ready (pgTime d) = true) (paired : s.pairEn d = true)
    (first : (s.pairAt (d.val / 2)).switchEdge ≠ s.now + 1) : exec (.pairSwitch d) s =
      .next (if s.standbyLocked (d.val / 2) then s.pairSwitch (d.val / 2) else s.recordErr (pgTime d) 0x0047) :=
  congrArg Host.Outcome.next ((whenReady_of_ready _ hr).trans (pairSwitchCmd_acts paired first))

/-! ### The phase of SYNC (R299, R300) -/

/-- Nothing runs whose grid a new phase would move. -/
def State.gridIdle (s : State) : Prop := (∀ q < 64, s.inProgress q = false) ∧ s.anyStream = false ∧ s.anyTim = false

theorem gridIdle_iff : s.gridIdle ↔
    ¬ ((List.range 64).any (fun q => s.inProgress q) = true ∨ s.anyStream = true ∨ s.anyTim = true) := by
  simp [State.gridIdle]

theorem exec_rephase_before_pulse (hr : s.ready (pgTime 0) = true) (idle : s.gridIdle) (ahead : s.pulsed = false) :
    exec .rephase s = .next { s with sync := { s.sync with rephase := true, rephaseEdge := s.now + 1 } } := by
  refine congrArg Host.Outcome.next ((whenReady_of_ready _ hr).trans ((if_neg (gridIdle_iff.1 idle)).trans ?_))
  split
  · exact if_neg (by simp [ahead])
  · rfl

theorem exec_rephase_after_pulse {t : Nat} (hr : s.ready (pgTime 0) = true) (idle : s.gridIdle) (pulsed : s.pulsed = true)
    (pulse : s.sync.pulseAt = some t) : exec .rephase s = .next (s.fixPhase t) := by
  refine congrArg Host.Outcome.next ((whenReady_of_ready _ hr).trans ((if_neg (gridIdle_iff.1 idle)).trans ?_))
  rw [pulse]
  exact if_pos pulsed

theorem exec_rephase_refused (hr : s.ready (pgTime 0) = true) (going : ¬ s.gridIdle) :
    exec .rephase s = .next (s.recordErr (pgTime 0) 0x0046) :=
  congrArg Host.Outcome.next ((whenReady_of_ready _ hr).trans (if_pos (not_not.1 (mt gridIdle_iff.2 going))))

/-- A load of a GRID domain that the pulse at `t` serves. -/
def State.serveLoad (s : State) (t : Nat) (v : TimeDom) : TimeDom :=
  if v.loadPending ∧ s.follows t v.loadEdge then v.take s.now else v

/-- The state in which a pulse at `t` has been stamped. -/
def State.pulseTaken (s : State) (t : Nat) : State :=
  { s with sync := { s.sync with ts := s.stampAt (fld (s.reg (pgTime 0) 0x200) 28 2) t, pulseAt := some t } }

/-- The pulse at `t` and the loads it serves. -/
def State.pulseServed (s : State) (t : Nat) : State :=
  foldState (List.range 4) (fun d s => s.modTd d (s.serveLoad t)) (s.pulseTaken t)

theorem pulseServed_passes (s : State) (t : Nat) :
    DomainsPass 4 (fun _ => s.serveLoad t) (s.pulseTaken t) (s.pulseServed t) := by
  refine foldState_domains (fun d u same => ⟨rfl, fun j => ?_⟩) 4
  have serve : u.serveLoad t = s.serveLoad t := by rw [same]; rfl
  rw [modTd_eq, serve, setTd_tdAt]

theorem exec_syncPulse (off : Fin 4096) (s : State) : exec (.syncPulse off) s = .next (
    let t := s.now * 4096 + off.val
    let u := s.pulseServed t
    if u.mgt.pllLocked ∧ (¬ u.sync.fixed ∨ (u.sync.rephase ∧ u.follows t u.sync.rephaseEdge)) then u.fixPhase t
    else if u.slipped t then ({ u with sync := { u.sync with slips := sat32 (u.sync.slips + 1) } }).raiseEvt (pgTime 0) 1
    else u) := rfl

/-- Beside the domains a pulse changes what `pulseTaken` does. -/
theorem pulseServed_frame (t : Nat) : s.pulseServed t = { s.pulseTaken t with td := (s.pulseServed t).td } :=
  (pulseServed_passes s t).frame
theorem pulseServed_mgt (t : Nat) : (s.pulseServed t).mgt = s.mgt := by rw [pulseServed_frame]; rfl
theorem pulseServed_now (t : Nat) : (s.pulseServed t).now = s.now := by rw [pulseServed_frame]; rfl
theorem pulseServed_sync (t : Nat) : (s.pulseServed t).sync = (s.pulseTaken t).sync := by rw [pulseServed_frame]

theorem exec_syncPulse_fixes {off : Fin 4096} (locked : s.mgt.pllLocked = true)
    (fixes : s.sync.fixed = false ∨ (s.sync.rephase = true ∧ s.follows (s.now * 4096 + off.val) s.sync.rephaseEdge = true)) :
    exec (.syncPulse off) s = .next ((s.pulseServed (s.now * 4096 + off.val)).fixPhase (s.now * 4096 + off.val)) := by
  rw [exec_syncPulse]
  refine congrArg _ (if_pos ?_)
  simp only [State.follows, pulseServed_mgt, pulseServed_now, pulseServed_sync]
  exact ⟨locked, fixes.imp_left (by simp [State.pulseTaken])⟩

/-- The phase that a pulse at `t` fixes takes effect at the next edge. -/
theorem fixPhase_pulseServed (t : Nat) : (s.pulseServed t).fixPhase t = { s with
    td := (s.pulseServed t).td, cal := { s.cal with syncDue := true },
    sync := { (s.pulseTaken t).sync with fixed := true, rephase := false, phase := t % 512, origin := s.now + 1, lastAt := some t } } := by
  rw [State.fixPhase, pulseServed_sync, pulseServed_now, pulseServed_frame]
  rfl

theorem fixPhase_pulseServed_tdAt (t : Nat) {j : Nat} (h : j < 4) :
    ((s.pulseServed t).fixPhase t).tdAt j = if (s.tdAt j).loadPending = true ∧ s.follows t (s.tdAt j).loadEdge = true then
      { s.tdAt j with loadPending := false, loadAt := some (s.now + 1) } else s.tdAt j := by
  have read : ((s.pulseServed t).fixPhase t).tdAt j = if j < 4 then s.serveLoad t (s.tdAt j) else s.tdAt j :=
    (pulseServed_passes s t).reads j
  rw [read, if_pos h]
  rfl

/-! ### One edge of the domains (R302, R306) -/

/-- A domain at an edge. -/
def State.domainEdge (s : State) (d : Nat) (v : TimeDom) : TimeDom :=
  let rate := if s.tdSrc d = 1 then 0 else if s.steered d then v.rate else (s.reg (pgTime d) 0x144).toInt
  if v.loadAt = some s.now then
    { v with t := s.loadTime d, rate := 0, loadAt := none, loaded := true, state := .free, stepCount := sat32 (v.stepCount + 1) }
  else if s.tdSrc d = 1 ∧ ¬ v.loaded then v
  else { v with t := ((v.t : Int) + 2 ^ 40 + rate).toNat, rate := rate }

theorem tdEdge_reads (s : State) (d : Nat) : s.tdEdge d = { s with td := (s.tdEdge d).td } ∧
    ∀ j, (s.tdEdge d).tdAt j = if j = d then s.domainEdge d (s.tdAt d) else s.tdAt j := by
  unfold State.tdEdge State.domainEdge State.effRate
  dsimp only
  split
  · exact ⟨rfl, fun j => setTd_tdAt ..⟩
  · split
    · exact ⟨rfl, fun j => by split <;> simp [*]⟩
    · exact ⟨rfl, fun j => setTd_tdAt ..⟩

theorem pairEdge_tdAt (s : State) (k j : Nat) : (s.pairEdge k).tdAt j = s.tdAt j := by
  unfold State.pairEdge
  dsimp only
  split <;> rfl

theorem timeEdge_tdAt (s : State) {j : Nat} (h : j < 4) : s.timeEdge.tdAt j = s.domainEdge j (s.tdAt j) := by
  have passed : DomainsPass 4 s.domainEdge s (foldState (List.range 4) (fun d s => s.tdEdge d) s) := by
    refine foldState_domains (fun d u same => ?_) 4
    have edge : u.domainEdge d = s.domainEdge d := by rw [same]; rfl
    rw [← edge]
    exact tdEdge_reads u d
  have pairs := foldState_keeps (fun u => u.tdAt j = (foldState (List.range 4) (fun d s => s.tdEdge d) s).tdAt j)
    (fun k u => u.pairEdge k) (fun k u hu => (pairEdge_tdAt u k j).trans hu) (List.range 2) _ rfl
  exact pairs.trans ((passed.reads j).trans (if_pos h))

variable {v : TimeDom} {k : Nat}

theorem domainEdge_loads (due : v.loadAt = some s.now) : s.domainEdge k v = { v with
    t := s.loadTime k, rate := 0, loadAt := none, loaded := true, state := .free, stepCount := sat32 (v.stepCount + 1) } :=
  if_pos due

theorem domainEdge_waits (not_due : v.loadAt ≠ some s.now) (grid : s.tdSrc k = 1) (waits : v.loaded = false) :
    s.domainEdge k v = v := (if_neg not_due).trans (if_pos ⟨grid, by simp [waits]⟩)

theorem domainEdge_advances (not_due : v.loadAt ≠ some s.now) (counts : s.tdSrc k = 1 → v.loaded = true) :
    (s.domainEdge k v).t = ((v.t : Int) + 2 ^ 40 +
      if s.tdSrc k = 1 then 0 else if s.steered k then v.rate else (s.reg (pgTime k) 0x144).toInt).toNat := by
  unfold State.domainEdge
  dsimp only
  rw [if_neg not_due, if_neg (by simpa using counts)]

end

/-- Settles O31: the commands store to one domain, one pair or SYNC alone, and an edge visits each domain once. -/
theorem timeBase : Obligations.TimeBase := by
  unfold Obligations.TimeBase
  refine ⟨fun d off s => ?_, fun d s => ?_⟩
  · intro p idle v at_
    have phase : at_ % 512 = off.val % 512 := by omega
    refine ⟨?load, ?exchange, ?unlocked, ?ahead, ?behind, ?busy, ?pulse⟩
    case load => exact fun hr grid => ⟨_, exec_timeLoad hr grid, rfl, .of_reads fun j => setTd_tdAt ..⟩
    case exchange =>
      intro hr paired first locked
      refine ⟨_, (exec_pairSwitch hr paired first).trans (congrArg _ (if_pos locked)), rfl, ?_, ?_, ?_, fun j hj => ?_⟩
      iterate 3 exact congrArg _ ((setPair_pairAt ..).trans (if_pos rfl))
      exact (setPair_pairAt ..).trans (if_neg hj)
    case unlocked =>
      intro hr paired first free
      refine ⟨_, (exec_pairSwitch hr paired first).trans (congrArg _ (if_neg (by simp [free]))), recordErr_frame ..,
        recordErr_sets ..⟩
    case ahead => exact exec_rephase_before_pulse
    case behind =>
      exact fun hr nothing pulsed pulse =>
        ⟨_, exec_rephase_after_pulse hr nothing pulsed pulse, rfl, rfl, phase, rfl, rfl⟩
    case busy => exact fun hr going => ⟨_, exec_rephase_refused hr going, recordErr_frame .., recordErr_sets ..⟩
    case pulse =>
      intro locked fixes
      refine ⟨_, exec_syncPulse_fixes locked fixes, ?_, ?_, ?_, ?_, ?_, ?_, ?_, fun j hj => fixPhase_pulseServed_tdAt at_ hj⟩
      all_goals rw [fixPhase_pulseServed]
      · exact phase
      · rfl
      · rfl
  · intro v t
    have edge : t = s.domainEdge d v := timeEdge_tdAt s d.isLt
    rw [edge]
    refine ⟨?due, domainEdge_waits, ?grid, ?steered, ?free⟩
    case due => exact fun due => by rw [domainEdge_loads due]; exact ⟨rfl, rfl⟩
    case grid =>
      intro not_due grid loaded
      rw [domainEdge_advances not_due fun _ => loaded, if_pos grid]
      omega
    case steered =>
      intro not_due steered
      have other : s.tdSrc d ≠ 1 := by
        have := of_decide_eq_true steered
        omega
      rw [domainEdge_advances not_due fun h => absurd h other, if_neg other, if_pos steered]
    case free =>
      intro not_due free
      have alone : s.steered d = false := by simp [State.steered, free]
      rw [domainEdge_advances not_due (by simp [free]), if_neg (by simp [free]), if_neg (by simp [alone])]

end Sys2Proof.Machine
end

section
/-! PROOFS. Commands of the calibration unit (R317 to R337): targets taken and given up, and a term that is staged, which waits or
enters force with the others of its channel. -/

namespace Sys2Proof.Machine

/-! ### Entry into force (R326, R327) -/

/-- From `s` to `t` only the figures of CAL and the correction that SYNC shows have changed. -/
def Figures (s t : State) : Prop :=
  t = { s with cal := { s.cal with figs := t.cal.figs, bootDone := t.cal.bootDone }, sync := { s.sync with corr := t.sync.corr } }

theorem Figures.trans {s t u : State} (h : Figures s t) (h' : Figures t u) : Figures s u := by
  unfold Figures at *
  rw [h', h]

theorem Figures.stagedOf {s t : State} (h : Figures s t) (c : Nat) : t.stagedOf c = s.stagedOf c := by
  rw [h]
  rfl

theorem Figures.terms {s t : State} (h : Figures s t) (c : Nat) : t.terms c = s.terms c := by
  rw [h]
  rfl

theorem Figures.corrects {r s t : State} (h : Figures s t) (hs : s = { r with cal := s.cal, chan := s.chan }) :
    t = { r with cal := t.cal, chan := t.chan, sync := { r.sync with corr := t.sync.corr } } := by
  unfold Figures at h
  rw [h, hs]

theorem figEnter_figures (k i : Nat) (s : State) : Figures s (s.figEnter k i) := rfl

/-- The state in which the terms `go` of a channel have entered force and `wait` still wait. -/
def State.inForce (s : State) (c : Nat) (go wait : List StagedTerm) : State :=
  ({ s with cal := { s.cal with
    terms := sput s.cal.terms c (go.foldl (fun t (x : StagedTerm) => x.term.apply t) (s.terms c)) } }.setStaged c wait).recorr c

theorem enterForce_figures {s : State} {c : Nat} {p : StagedTerm → Bool} (some_go : (s.stagedOf c).filter p ≠ []) :
    Figures (s.inForce c ((s.stagedOf c).filter p) ((s.stagedOf c).filter (fun x => ¬ p x))) (s.enterForce c p) := by
  unfold State.enterForce
  dsimp only
  rw [if_neg some_go]
  generalize hm : foldState _ _ _ = m
  have entered : Figures (s.inForce c ((s.stagedOf c).filter p) ((s.stagedOf c).filter (fun x => ¬ p x))) m := by
    rw [← hm]
    exact foldState_keeps (Figures _) _ (fun x u hu => hu.trans (figEnter_figures _ c u)) _ _ rfl
  split
  · exact entered.trans rfl
  · split
    · exact entered.trans rfl
    · exact entered.trans rfl

section
variable {s : State} {c : Nat}

theorem inForce_terms (go wait : List StagedTerm) :
    (s.inForce c go wait).terms c = go.foldl (fun t (x : StagedTerm) => x.term.apply t) (s.terms c) :=
  (sget_sput ..).trans (if_pos rfl)

theorem setStaged_stagedOf (l : List StagedTerm) : (s.setStaged c l).stagedOf c = l := by
  unfold State.setStaged State.stagedOf
  dsimp only
  split
  · rename_i h
    rw [sget_sdel, if_pos rfl, h]
  · rw [sget_sput, if_pos rfl]

theorem inForce_stagedOf (go wait : List StagedTerm) : (s.inForce c go wait).stagedOf c = wait := setStaged_stagedOf wait

/-! ### Staging a term -/

/-- A term staged now. -/
def State.stagedNow (s : State) (c : Nat) (t : Term) : StagedTerm := { term := t, edge := s.now, atArm := s.chanArmedNow c }

/-- The terms that wait for the channel once `t` is staged. -/
def State.stagedWith (s : State) (c : Nat) (t : Term) : List StagedTerm :=
  (s.stagedOf c).filter (fun x => ¬ x.term.same t) ++ [s.stagedNow c t]

theorem stage_waits {t : Term} (waits : s.chanInUse c = true ∨ s.chanFinalNow c = none) :
    s.stage c t = s.setStaged c (s.stagedWith c t) :=
  if_neg fun ⟨free, (final : (s.chanFinalNow c).isSome = true)⟩ => waits.elim free fun never => by simp [never] at final

theorem stagedNow_mem_stage {t : Term} (waits : s.chanInUse c = true ∨ s.chanFinalNow c = none) :
    s.stagedNow c t ∈ (s.stage c t).stagedOf c := by
  rw [stage_waits waits, setStaged_stagedOf]
  exact List.mem_append_right _ (List.mem_singleton_self _)

/-- In the cycle of the channel's final state every waiting term enters force with the one staged. -/
theorem stage_enters {t : Term} (free : s.chanInUse c = false) (final : (s.chanFinalNow c).isSome = true) :
    Figures ((s.setStaged c (s.stagedWith c t)).inForce c (s.stagedWith c t) []) (s.stage c t) := by
  have run : s.stage c t = (s.setStaged c (s.stagedWith c t)).enterForce c (fun _ => true) :=
    if_pos ⟨Bool.eq_false_iff.1 free, final⟩
  have entered := enterForce_figures (s := s.setStaged c (s.stagedWith c t)) (c := c) (p := fun _ => true)
  rw [setStaged_stagedOf, List.filter_true] at entered
  rw [run]
  simpa using entered (by simp [State.stagedWith])

theorem stage_enters_frame {t : Term} (free : s.chanInUse c = false) (final : (s.chanFinalNow c).isSome = true) :
    s.stage c t = { s with
      cal := (s.stage c t).cal, chan := (s.stage c t).chan, sync := { s.sync with corr := (s.stage c t).sync.corr } } :=
  (stage_enters free final).corrects rfl

theorem stage_enters_stagedOf {t : Term} (free : s.chanInUse c = false) (final : (s.chanFinalNow c).isSome = true) :
    (s.stage c t).stagedOf c = [] :=
  ((stage_enters free final).stagedOf c).trans (inForce_stagedOf _ [])

/-- The last of the terms that enter force stands over those before it. -/
theorem stage_enters_terms {t : Term} (free : s.chanInUse c = false) (final : (s.chanFinalNow c).isSome = true) :
    ∃ before, (s.stage c t).terms c = t.apply before := by
  refine ⟨((s.stagedOf c).filter (fun x => ¬ x.term.same t)).foldl (fun t (x : StagedTerm) => x.term.apply t) (s.terms c), ?_⟩
  rw [(stage_enters free final).terms, inForce_terms, State.stagedWith, List.foldl_append]
  rfl

end
/-! ### Targets taken and given up (R18, R189, R318) -/

section
variable {s : State} {k i b : Nat}

theorem calStart_frame (s : State) (k i : Nat) : s.calStart k i = { s with
    cal := (s.calStart k i).cal, bank := (s.calStart k i).bank, ms := (s.calStart k i).ms, ss := (s.calStart k i).ss } := by
  unfold State.calStart
  dsimp only
  split
  · rfl
  · split
    · rw [setRun_frame]
      rfl
    · rfl

theorem setRun_cal (m : StreamId) (r : StrRun) : (s.setRun m r).cal = s.cal := by rw [setRun_frame]

theorem calStart_running (s : State) (k i : Nat) : (s.calStart k i).cal.running = some (k, i) := by
  unfold State.calStart
  dsimp only
  split
  · rfl
  · split
    · rw [setRun_cal]
      rfl
    · rfl

/-- A measurement on a bank makes the bank CAL_BUSY. -/
theorem calStart_bank (on_bank : calBank k i = some b) :
    (s.calStart k i).bank = (s.setBank b { s.bankAt b with calBusy := true }).bank := by
  unfold State.calStart
  dsimp only
  rw [on_bank]
  rfl

theorem calStart_becomes (on_bank : calBank k i = some b) :
    Becomes State.bankAt b { s.bankAt b with calBusy := true } s (s.calStart k i) :=
  becomes_of_bank_eq (calStart_bank on_bank)

theorem calLeave_bank (going : s.cal.running = some (k, i)) (on_bank : calBank k i = some b) : s.calLeave =
    ({ s with cal := { s.cal with running := none, wanted := false } }).setBank b { s.bankAt b with calBusy := false } := by
  unfold State.calLeave
  rw [going]
  dsimp only
  rw [on_bank]
  rfl

/-! ### Commands (R319, R337) -/

/-- The target that CAL_RUN names. -/
def State.runKind (s : State) : Nat := fld (s.reg pgCal 0x10C) 28 4
def State.runIndex (s : State) : Nat := fld (s.reg pgCal 0x10C) 0 16

theorem runKind_eq (s : State) : s.runKind = (s.reg pgCal 0x10C).toNat / 2 ^ 28 := by
  have small := (s.reg pgCal 0x10C).isLt
  rw [State.runKind, fld_eq_div_mod]
  omega

theorem runIndex_eq (s : State) : s.runIndex = (s.reg pgCal 0x10C).toNat % 65536 :=
  (fld_eq_div_mod ..).trans (by rw [pow_zero, Nat.div_one]; rfl)

theorem exec_calRun (hr : s.ready pgCal = true) : exec .calRun s = .next (calRun s) :=
  congrArg Host.Outcome.next (whenReady_of_ready _ hr)

theorem calRun_bad (bad : targetOk s.runKind s.runIndex = false) : calRun s = calCmd s 3 :=
  if_pos (Bool.eq_false_iff.1 bad)

theorem calRun_starts (good : targetOk s.runKind s.runIndex = true) (measured : s.runKind ≠ 3) (idle : s.cal.running = none)
    (free : s.calFree s.runKind s.runIndex = true) : calRun s = calCmd (s.calStart s.runKind s.runIndex) 0 :=
  (if_neg (not_not.2 good)).trans ((if_neg measured).trans (if_pos ⟨by simp [idle], free⟩))

/-- The state in which a request that waited for CAL is no longer PENDING. -/
def State.requestDropped (s : State) : State :=
  match s.cal.runReq with
  | some (a, b) => s.setFig a b { s.fig a b with pending := false }
  | none => s

theorem requestDropped_frame (s : State) : s.requestDropped = { s with cal := { s.cal with figs := s.requestDropped.cal.figs } } := by
  unfold State.requestDropped
  split <;> rfl

/-- The state in which the run of a target waits in the place of any earlier one. -/
def State.runWaits (s : State) (k i : Nat) : State :=
  let t := { s.requestDropped with cal := { s.requestDropped.cal with runReq := some (k, i) } }
  calCmd (t.setFig k i { t.fig k i with pending := true }) 2

theorem calRun_waits (good : targetOk s.runKind s.runIndex = true) (measured : s.runKind ≠ 3)
    (busy : s.cal.running ≠ none ∨ s.calFree s.runKind s.runIndex = false) : calRun s = s.runWaits s.runKind s.runIndex := by
  refine (if_neg (not_not.2 good)).trans ((if_neg measured).trans ((if_neg ?_).trans rfl))
  rintro ⟨idle, free⟩
  exact busy.elim (· (Option.isNone_iff_eq_none.1 idle)) fun busy => Bool.eq_false_iff.1 busy free

theorem runWaits_frame (s : State) (k i : Nat) : s.runWaits k i = { s with cal := (s.runWaits k i).cal } := by
  unfold State.runWaits
  rw [requestDropped_frame]
  rfl

theorem runWaits_running (s : State) (k i : Nat) : (s.runWaits k i).cal.running = s.cal.running := by
  have keeps : (s.runWaits k i).cal.running = s.requestDropped.cal.running := rfl
  rw [keeps, requestDropped_frame]

theorem runWaits_pending (s : State) (k i : Nat) : ((s.runWaits k i).fig k i).pending = true :=
  congrArg CalFig.pending ((sget_sput ..).trans (if_pos rfl))

theorem exec_calAbort (hr : s.ready pgCal = true) :
    exec .calAbort s = .next (if s.cal.running.isSome then calCmd s.calLeave 0 else calCmd s 1) :=
  congrArg Host.Outcome.next (whenReady_of_ready _ hr)

/-- A value of 16 bits leaves the reserved bits above them 0. -/
theorem reserved_of_lt_65536 {v : Word32} (field : v.toNat < 65536) : v &&& 0xFFFF0000 = 0 := by
  have own : v &&& 0xFFFF = v :=
    BitVec.eq_of_toNat_eq ((BitVec.toNat_and ..).trans (Nat.and_two_pow_sub_one_of_lt_two_pow (n := 16) field))
  rw [← own, BitVec.and_assoc]
  exact BitVec.and_zero

/-- The state in which EXT_DATA has kept a value of path `x` of channel `c`. -/
def State.extKept (s : State) (c x : Nat) (d : BitVec 16) : State :=
  { s with cal := { s.cal with ext := sput s.cal.ext (3 * c + x) d } }

theorem exec_extData {v : Word32} {c x : Nat} (hr : s.ready pgCal = true) (field : v.toNat < 65536)
    (hc : (s.reg pgCal 0x180).toNat % 512 = c) (hx : (s.reg pgCal 0x180).toNat / 65536 % 4 = x) (path : x ≠ 3) :
    exec (.extData v) s = .next ((s.extKept c x (v.extractLsb' 0 16)).stage c (.ext x (v.extractLsb' 0 16).toInt)) := by
  have chan : fld (s.reg pgCal 0x180) 0 9 = c := by rw [fld_eq_div_mod, pow_zero, Nat.div_one, ← hc]; rfl
  have way : fld (s.reg pgCal 0x180) 16 2 = x := (fld_eq_div_mod ..).trans hx
  refine (if_neg (not_not.2 (reserved_of_lt_65536 field))).trans (congrArg Host.Outcome.next ((whenReady_of_ready _ hr).trans ?_))
  rw [extData, chan, way]
  exact if_neg path

/-- The external correction of a path among those of its channel. -/
theorem ext_apply (t : ChanTerms) {x : Nat} (v : Int) (h : x < 3) :
    [((Term.ext x v).apply t).extDat, ((Term.ext x v).apply t).extEn, ((Term.ext x v).apply t).extCmp].getD x 0 = v := by
  match x, h with
  | 0, _ => rfl
  | 1, _ => rfl
  | 2, _ => rfl

end

/-- Settles O32: a run starts, waits or is refused by the state of its target, and EXT_DATA stages one term, which enters force at
once in the cycle of the channel's final state. -/
theorem calibrationCommands : Obligations.CalibrationCommands := by
  unfold Obligations.CalibrationCommands
  intro v s hr w k i x c
  have kind : s.runKind = k := runKind_eq s
  have index : s.runIndex = i := runIndex_eq s
  rw [← kind, ← index]
  refine ⟨?bad, ?starts, ?waits, ?idle, ?abort, ?staged, ?enters⟩
  case bad => exact fun bad => (exec_calRun hr).trans (congrArg _ (calRun_bad bad))
  case starts =>
    intro good measured idle free
    refine ⟨_, (exec_calRun hr).trans (congrArg _ (calRun_starts good measured idle free)), ?_,
      calStart_running s _ _, rfl, fun b on_bank => calStart_becomes on_bank⟩
    rw [calCmd, calStart_frame]
  case waits =>
    exact fun good measured busy => ⟨_, (exec_calRun hr).trans (congrArg _ (calRun_waits good measured busy)), runWaits_frame ..,
      runWaits_running .., rfl, rfl, runWaits_pending ..⟩
  case idle => exact fun idle => (exec_calAbort hr).trans (congrArg _ (if_neg (by simp [idle])))
  case abort =>
    intro b going
    refine ⟨_, (exec_calAbort hr).trans (congrArg _ (if_pos (by simp [going]))), ?_⟩
    rw [calLeave_bank going rfl]
    exact ⟨rfl, rfl, rfl, becomes_of_bank_eq rfl⟩
  case staged =>
    intro field path waits
    have mem := stagedNow_mem_stage (s := s.extKept c (x.toNat / 65536 % 4) (v.extractLsb' 0 16)) (c := c)
      (t := .ext (x.toNat / 65536 % 4) (v.extractLsb' 0 16).toInt) waits
    refine ⟨_, exec_extData hr field rfl rfl path, ?_, ?_, ?_, mem⟩
    all_goals rw [stage_waits (s := s.extKept _ _ _) waits]; rfl
  case enters =>
    intro field path free final
    refine ⟨_, exec_extData hr field rfl rfl path, stage_enters_frame (s := s.extKept _ _ _) free final,
      stage_enters_stagedOf (s := s.extKept _ _ _) free final, ?_⟩
    obtain ⟨before, terms⟩ := stage_enters_terms (s := s.extKept c (x.toNat / 65536 % 4) (v.extractLsb' 0 16))
      (t := .ext (x.toNat / 65536 % 4) (v.extractLsb' 0 16).toInt) free final
    rw [terms]
    exact ext_apply before _ (by omega)

end Sys2Proof.Machine
end

section
/-! PROOFS. Measurements of the calibration unit (R317 to R329): corrections as saturated sums, starts and releases of targets, and
the result of a deskew. -/

namespace Sys2Proof.Machine

section
variable {s : State} {k i b : Nat}

/-! ### Corrections of a channel (R317) -/

theorem satCorr_toInt (v : Int) : (satCorr v).toInt = max (-32768) (min 32767 v) := by
  rw [satCorr, BitVec.toInt_ofInt_eq_self (by decide)]
  · rfl
  all_goals
    simp only [clampInt]
    omega

theorem recorr_chanAt (c j : Nat) : (s.recorr c).chanAt j = if j = c then
    let t := s.terms c
    { s.chanAt c with
      corrDat := satCorr (s.bankRef c 0 + t.onDat + t.extDat + t.sync),
      corrEn := satCorr (s.bankRef c 1 + t.onEn + t.extEn + t.sync),
      corrCmp := satCorr (s.bankRef c 2 + t.onCmp + t.extCmp + t.sync + t.align) } else s.chanAt j :=
  setChan_chanAt ..

/-! ### Targets (R318, R319) -/

theorem exec_calMeasurementStart {tg : CalTarget} (hr : s.ready pgCal = true) (good : targetOk tg.kind tg.index = true)
    (measured : tg.kind ≠ 3) (idle : s.cal.running = none) (free : s.calFree tg.kind tg.index = true)
    (scheduled : s.calScheduled tg.kind tg.index = true) (first : s.calBefore tg.kind tg.index = false) :
    exec (.calMeasurementStart tg) s = .next (s.calStart tg.kind tg.index) :=
  congrArg Host.Outcome.next (if_pos
    ⟨hr, good, measured, Option.isNone_iff_eq_none.2 idle, free, .inl scheduled, Bool.eq_false_iff.1 first⟩)

theorem exec_calRelease {tg : CalTarget} (going : s.cal.running = some (tg.kind, tg.index))
    (wanted : s.calWanted tg.kind tg.index = true) : exec (.calRelease tg) s = .next s.calLeave :=
  congrArg Host.Outcome.next (if_pos ⟨going, wanted⟩)

/-! ### A deskew result (R327, R329) -/

/-- The state in which a deskew result of channel `i` is staged and its figures are kept. -/
def State.deskewed (s : State) (i : Nat) (d e c temp : Int) (resid : Nat) : State :=
  let u := s.setStaged i (s.stagedWith i (.deskew d e c))
  (u.fresh 16).2.setFig 1 i { u.fig 1 i with
    insufficient := false, temp := temp, value := resid, result := (u.fresh 16).1.toInt, last := some u.now }

theorem exec_calMeasurementDone_deskew {d e c temp : Int} {resid : Nat} (going : s.cal.running = some (1, i))
    (waits : s.chanInUse i = true ∨ s.chanFinalNow i = none) :
    exec (.calMeasurementDone (.deskew d e c) temp resid) s = .next (s.deskewed i d e c temp resid).calLeave := by
  change execCalMeasurementDone _ temp resid s = _
  have staged : calResult 1 i (.deskew d e c) s = some (false, none, s.stage i (.deskew d e c)) := rfl
  rw [execCalMeasurementDone, going]
  dsimp only
  rw [calDone, staged, stage_waits waits]
  rfl

end

/-- Settles O33: a start and a release are one store to CAL beside the target's own, and a deskew result stages one term. -/
theorem calibrationMeasurements : Obligations.CalibrationMeasurements := by
  unfold Obligations.CalibrationMeasurements
  refine ⟨fun tg d e c temp resid i s => ⟨?start, ?release, ?deskew⟩, fun c s => ⟨?_, ?_, ?_, ?other⟩⟩
  case start =>
    exact fun hr good measured idle free scheduled first => ⟨_, exec_calMeasurementStart hr good measured idle free scheduled first,
      calStart_frame .., calStart_running .., fun b on_bank => calStart_becomes on_bank⟩
  case release =>
    intro b going on_bank wanted
    refine ⟨_, exec_calRelease going wanted, ?_⟩
    rw [calLeave_bank going on_bank]
    exact ⟨rfl, becomes_of_bank_eq rfl⟩
  case deskew =>
    intro going waits
    refine ⟨_, exec_calMeasurementDone_deskew going waits, ?_⟩
    rw [calLeave_bank (s := s.deskewed i d e c temp resid) (k := 1) (i := i) going rfl]
    have mem := stagedNow_mem_stage (t := .deskew d e c) waits
    rw [stage_waits waits] at mem
    have fig : (s.deskewed i d e c temp resid).fig 1 i = _ := (sget_sput ..).trans (if_pos rfl)
    exact ⟨rfl, rfl, mem, congrArg CalFig.temp fig, congrArg CalFig.value fig, congrArg CalFig.last fig, rfl, becomes_of_bank_eq rfl⟩
  case other => exact fun j hj => (recorr_chanAt c j).trans (if_neg hj)
  all_goals
    rw [recorr_chanAt, if_pos rfl]
    exact satCorr_toInt _

end Sys2Proof.Machine
end

section
/-! PROOFS. Requests of the HBM controller (R341 to R347): acceptance and refusal, the pick of a pseudo-channel, and completion. -/

namespace Sys2Proof.Machine

/-! ### The order of requests (R345) -/

/-- `better` is a strict order whose ties are alike: what ranks above `b` or not below it ranks above or not below the same. -/
theorem better_asymm (now : Nat) (a b : HbmReq) (h : a.better now b = true) : b.better now a = false := by
  unfold HbmReq.better at h ⊢
  cases ha : a.aged now <;> cases hb : b.aged now <;> simp [ha, hb] at h ⊢ <;> omega

theorem better_or_better (now : Nat) (a b c : HbmReq) (h : a.better now c = true) :
    a.better now b = true ∨ b.better now c = true := by
  unfold HbmReq.better at h ⊢
  cases ha : a.aged now <;> cases hb : b.aged now <;> cases hc : c.aged now <;> simp_all <;> omega

theorem better_of_reqFirst {now last : Nat} {a b : HbmReq} (h : reqFirst now last a b = true) : b.better now a = false := by
  rcases of_decide_eq_true h with h | ⟨h, -⟩
  · exact better_asymm now a b h
  · exact Bool.eq_false_iff.2 h

theorem better_of_not_reqFirst {now last : Nat} {a b : HbmReq} (h : ¬ reqFirst now last a b = true) : a.better now b = false :=
  Bool.eq_false_iff.2 fun above => h (decide_eq_true (.inl above))

theorem firstBy_mem {α : Type} {lt : α → α → Bool} {l : List α} {r : α} (h : firstBy lt l = some r) : r ∈ l := by
  induction l generalizing r with
  | nil => simp [firstBy] at h
  | cons a l ih =>
    unfold firstBy at h
    split at h
    · rename_i b hb
      split at h
      · exact List.mem_cons_of_mem _ (ih (h ▸ hb))
      · exact Option.some.inj h ▸ List.mem_cons_self
    · exact Option.some.inj h ▸ List.mem_cons_self

theorem firstBy_eq_none {α : Type} {lt : α → α → Bool} {l : List α} (h : firstBy lt l = none) : l = [] := by
  cases l with
  | nil => rfl
  | cons a l =>
    unfold firstBy at h
    split at h <;> [split at h; skip] <;> cases h

/-- Nothing of the list ranks above the request that goes first. -/
theorem firstBy_reqFirst {now last : Nat} {l : List HbmReq} {r : HbmReq} (h : firstBy (reqFirst now last) l = some r) :
    ∀ x ∈ l, x.better now r = false := by
  induction l generalizing r with
  | nil => simp
  | cons a l ih =>
    have self : a.better now a = false := Bool.eq_false_iff.2 fun above => by simp [better_asymm now a a above] at above
    unfold firstBy at h
    split at h
    · rename_i b hb
      have rest := ih hb
      split at h <;> cases h
      · rename_i first
        exact List.forall_mem_cons.2 ⟨better_of_reqFirst first, rest⟩
      · rename_i first
        refine List.forall_mem_cons.2 ⟨self, fun x hx => Bool.eq_false_iff.2 fun above => ?_⟩
        rcases better_or_better now x b a above with h | h
        · simp [rest x hx] at h
        · simp [better_of_not_reqFirst first] at h
    · rename_i empty
      cases h
      rw [firstBy_eq_none empty]
      exact List.forall_mem_cons.2 ⟨self, by simp⟩

/-- The pick of a pseudo-channel is the first of the requests of its queue that can issue. -/
theorem nextIssue_firstBy {s : State} {pc : Nat} {r : HbmReq} (h : s.nextIssue pc = some r) :
    firstBy (reqFirst s.now (s.pcAt pc).lastBank) ((s.pcQueue pc).filter (fun x => s.canIssue pc (s.pcQueue pc) x)) = some r := by
  unfold State.nextIssue at h
  dsimp only at h
  split at h
  · cases h
  · exact h

section
variable {s : State} {port : HbmPort} {owner : BitVec 16} {addr : Nat}

/-! ### Acceptance and refusal (R341, R342, R344) -/

/-- A request as its port takes it. -/
def State.reqOf (s : State) (port : HbmPort) (addr : Nat) (owner : BitVec 16) : HbmReq :=
  let loc := s.locate addr
  let br := bankRow (s.hashAt addr) ((loc.map Prod.snd).getD 0)
  { id := s.hmc.nextId, port := portNo port, addr := addr, loc := loc, bank := br.1, row := br.2, owner := owner.toNat,
    accepted := s.now, forced := match loc with
      | none => some (HbmStatus.unmapped, s.now)
      | some x => if (s.pcAt x.1).down then some (HbmStatus.reset, s.now) else none }

theorem acceptReq_frame : s.acceptReq port addr owner = { s with hmc := { s.hmc with
    reqs := s.hmc.reqs ++ [s.reqOf port addr owner], nextId := s.hmc.nextId + 1,
    hstacks := (s.acceptReq port addr owner).hmc.hstacks } } := by
  unfold State.acceptReq State.reqOf
  dsimp only
  split <;> rfl

theorem exec_hbmRequest_accepted (room : s.portFull (portNo port) = false) :
    exec (.hbmRequest port addr owner) s = .next (s.acceptReq port addr owner) :=
  congrArg Host.Outcome.next (if_pos (Bool.eq_false_iff.1 room))

theorem exec_hbmRequest_full (full : s.portFull (portNo port) = true) : exec (.hbmRequest port addr owner) s =
    .next (if portMayRefuse port then s.refuseReq (portNo port) addr owner.toNat else s) :=
  congrArg Host.Outcome.next (if_neg (not_not.2 full))

theorem refuseReq_frame (q addr owner : Nat) : s.refuseReq q addr owner = { s with
    hmc := { s.hmc with ports := (s.portRefuses q).hmc.ports }, ce := (s.refuseReq q addr owner).ce,
    ms := (s.refuseReq q addr owner).ms } := by
  unfold State.refuseReq
  dsimp only
  repeat' split
  all_goals rfl

theorem hportAt_congr {t : State} (h : t.hmc.ports = s.hmc.ports) (j : Nat) : t.hportAt j = s.hportAt j := by
  rw [State.hportAt, h, State.hportAt]

theorem refuseReq_becomes (q addr owner : Nat) :
    Becomes State.hportAt q { s.hportAt q with refused := sat32 ((s.hportAt q).refused + 1) } s (s.refuseReq q addr owner) :=
  .of_reads fun j => (hportAt_congr (by rw [refuseReq_frame]; rfl) j).trans (setHport_hportAt ..)

/-! ### Issue (R345, R347) -/

/-- The state in which request `r` of a pseudo-channel is issued and those it passed count it. -/
def State.issuedReq (s : State) (pc : Nat) (r : HbmReq) : State :=
  s.modHmc (fun m => { m with reqs := m.reqs.map (fun x =>
    if x.id = r.id then { x with issued := true }
    else if x.loc.map Prod.fst = some pc ∧ ¬ x.issued ∧ x.bank = r.bank ∧ x.id < r.id then { x with passed := x.passed + 1 }
    else x) })

theorem exec_requestIssue {pc : Fin 64} {r : HbmReq} (picked : s.nextIssue pc = some r) : exec (.requestIssue pc) s =
    .next ((s.issuedReq pc r).setPc pc { s.pcAt pc with
      lastBank := r.bank, openRow := sput (s.pcAt pc).openRow r.bank r.row }) := by
  change execRequestIssue pc s = _
  rw [execRequestIssue, picked]
  rfl

theorem issued_of_mem_issuedReq {pc : Nat} {r x : HbmReq} (mem : x ∈ (s.issuedReq pc r).hmc.reqs) (same : x.id = r.id) :
    x.issued = true := by
  obtain ⟨y, -, rfl⟩ := List.mem_map.1 mem
  by_cases hy : y.id = r.id
  · rw [if_pos hy]
  · rw [if_neg hy] at same
    exact absurd (by split at same <;> exact same) hy

/-! ### Completion (R346, R347) -/

/-- The state in which request `r` has left the controller and its port counts it. -/
def State.leftReq (s : State) (r : HbmReq) : State :=
  (s.modHmc (fun m => { m with reqs := m.reqs.filter (fun x => x.id ≠ r.id) })).served r

theorem changeTrains_steady {h : Nat} (steady : (s.stackAt h).changing = false) : s.changeTrains h = s :=
  if_neg (by simp [steady])

theorem completeReq_leaves {r : HbmReq} {x : Nat × Nat} (live : r.stale = false) (place : r.loc = some x)
    (steady : (s.stackAt (x.1 / 32)).changing = false) : s.completeReq r .ok false =
      (s.leftReq r).setStack (x.1 / 32) { s.stackAt (x.1 / 32) with lastReq := s.now } := by
  unfold State.completeReq
  dsimp only
  rw [if_neg (by simp [live]), place]
  dsimp only
  rw [if_neg (by simp), if_neg (by simp), changeTrains_steady]
  · rfl
  · exact congrArg HbmStack.changing ((setStack_stackAt ..).trans (if_pos rfl)) |>.trans steady

theorem exec_hbmRequestComplete {id : Nat} {r : HbmReq} (found : s.hmc.reqs.find? (fun y => y.id = id) = some r)
    (issued : r.issued = true) (free : r.forced = none) (first : s.blockOrdered r = false) :
    exec (.hbmRequestComplete id .ok false) s = .next (s.completeReq r .ok false) := by
  have final : r.final s.now .ok = some .ok := by rw [HbmReq.final, free, issued]; rfl
  change execHbmRequestComplete id .ok false s = _
  rw [execHbmRequestComplete, found]
  dsimp only
  rw [final]
  exact congrArg Host.Outcome.next (if_neg (Bool.eq_false_iff.1 first))

theorem leftReq_hportAt (r : HbmReq) (j : Nat) : (s.leftReq r).hportAt j = if j = r.port then
    let v := s.hportAt r.port
    let lat := s.now - r.accepted
    let late : Bool := match portTarget r.port with | some t => t < lat | none => false
    { v with served := v.served + 1, late := sat32 (v.late + b2n late), maxLat := max v.maxLat (sat32 (lat * 5 / 2)) }
    else s.hportAt j := setHport_hportAt ..

end

/-- Settles O35: a request is accepted, refused or waits by its port alone, and the pick of a pseudo-channel is the first of its
queue in an order whose ties are alike. -/
theorem hbmRequests : Obligations.HbmRequests := by
  unfold Obligations.HbmRequests
  refine ⟨fun port addr owner pc id r s => ⟨?accepted, ?refused, ?waits, ?issued, ?completed⟩, fun pc r s picked => ?_⟩
  case accepted =>
    intro room
    refine ⟨_, s.reqOf port addr owner, exec_hbmRequest_accepted room, acceptReq_frame, rfl, rfl, rfl, rfl, rfl, rfl, rfl, ?_⟩
    intro unmapped
    have forced : (s.reqOf port addr owner).forced = match (s.reqOf port addr owner).loc with
      | none => some (HbmStatus.unmapped, s.now)
      | some x => if (s.pcAt x.1).down then some (HbmStatus.reset, s.now) else none := rfl
    rw [forced, unmapped]
  case refused =>
    intro full may
    refine ⟨_, (exec_hbmRequest_full full).trans (congrArg _ (if_pos may)), ?_, refuseReq_becomes ..⟩
    rw [refuseReq_frame]
  case waits => exact fun full waits => (exec_hbmRequest_full full).trans (congrArg _ (if_neg (Bool.eq_false_iff.1 waits)))
  case issued =>
    exact fun picked => ⟨_, exec_requestIssue picked, rfl, List.length_map .., fun x => issued_of_mem_issuedReq,
      .of_reads fun j => setPc_pcAt ..⟩
  case completed =>
    intro x found issued free live place steady first
    have self : (s.leftReq r).hportAt r.port = _ := (leftReq_hportAt r _).trans (if_pos rfl)
    refine ⟨_, (exec_hbmRequestComplete found issued free first).trans
      (congrArg _ (completeReq_leaves live place steady)), rfl, ?_, ?_, ?_, fun j hj => ?_⟩
    · exact congrArg HPort.served self
    · exact congrArg HPort.maxLat self
    · exact (congrArg HPort.refused self).trans rfl
    · exact (leftReq_hportAt r j).trans (if_neg hj)
  have first := nextIssue_firstBy picked
  obtain ⟨queued, can⟩ := List.mem_filter.1 (firstBy_mem first)
  exact ⟨queued, can, fun x hx can => firstBy_reqFirst first x (List.mem_filter.2 ⟨hx, can⟩)⟩

end Sys2Proof.Machine
end

section
/-! PROOFS. The PCI Express endpoint (R344, R381, R382, R407): accesses through BAR4 and the loss and return of the link. -/

namespace Sys2Proof.Machine

section
variable {s : State} {a n : Nat} {l : List Byte}

/-! ### One access through BAR4 (R381) -/

theorem bar4Addr_eq (s : State) (off : Nat) : s.bar4Addr off = (s.reg pgPcie 0x104).toNat % 1024 * 2 ^ 26 + off := by
  rw [State.bar4Addr, fld_eq_div_mod, pow_zero, Nat.div_one]
  rfl

theorem bar4Do_reads (serves : s.readStatus a n = .ok) :
    s.bar4Do a none n .ok = { s with outbox := s.outbox ++ [.bar4 (some (s.hbmRead a n))] } :=
  if_pos (by rw [serves]; rfl)

/-- A write that the blocks of its bytes take lands and is not answered. -/
theorem bar4Do_writes (serves : (s.hbmHeal a l.length).readStatus a l.length = .ok) :
    ∃ u, s.bar4Do a (some l) n .ok = u ∧ Lands a l s u ∧ u = { s with hbm := u.hbm, hbmBad := u.hbmBad } := by
  obtain ⟨u, req, lands, frame⟩ := hbmWriteReq_lands_frame rfl serves
  refine ⟨u, ?_, lands, frame⟩
  unfold State.bar4Do
  dsimp only
  rw [req]

theorem exec_bar4Access_read {off : BitVec 32} (up : s.pcie.up = true) (room : s.portFull 6 = false)
    (serves : s.readStatus (s.bar4Addr off.toNat) n = .ok) : exec (.bar4Access off none n .ok) s =
      .next { s with outbox := s.outbox ++ [.bar4 (some (s.hbmRead (s.bar4Addr off.toNat) n))] } := by
  refine (if_neg (not_not.2 up)).trans (congrArg Host.Outcome.next ?_)
  exact (if_neg (Bool.eq_false_iff.1 room)).trans (bar4Do_reads serves)

theorem exec_bar4Access_write {off : BitVec 32} (up : s.pcie.up = true) (room : s.portFull 6 = false)
    (unused : s.writeBreaks (s.bar4Addr off.toNat) l.length = none) : exec (.bar4Access off (some l) n .ok) s =
      .next (s.bar4Do (s.bar4Addr off.toNat) (some l) n .ok) := by
  refine (if_neg (not_not.2 up)).trans ((guardWrite_of_none unused _).trans (congrArg Host.Outcome.next ?_))
  exact if_neg (Bool.eq_false_iff.1 room)

theorem exec_bar4Access_waits {off : BitVec 32} (up : s.pcie.up = true) (full : s.portFull 6 = true) :
    exec (.bar4Access off none n .ok) s = .next ((s.portRefuses 6).modPcie (fun v => { v with
      bar4 := v.bar4 ++ [{ off := s.bar4Addr off.toNat, write := none, len := n, res := .ok, at_ := s.now }] })) :=
  (if_neg (not_not.2 up)).trans (congrArg Host.Outcome.next (if_pos full))

theorem exec_bar4Retry {b : Bar4Retry} {rest : List Bar4Retry} (waits : s.pcie.bar4 = b :: rest) (due : b.at_ + 26 ≤ s.now)
    (room : s.portFull 6 = false) : exec .bar4Retry s =
      .next ((s.modPcie (fun v => { v with bar4 := rest })).bar4Do b.off b.write b.len b.res) := by
  change execBar4Retry s = _
  rw [execBar4Retry, waits]
  exact congrArg Host.Outcome.next ((if_neg (by simpa [edges64ns] using due)).trans (if_neg (Bool.eq_false_iff.1 room)))

/-! ### The link (R382, R407) -/

theorem pcieLost_of_up (up : s.pcie.up = true) : s.pcieLost = { s with msixOn := 0, msixPend := 0, pcie := { s.pcie with
    up := false, width := 0, speed := 0, downCount := sat32 (s.pcie.downCount + 1), downAt := s.now, ptmOn := false,
    ptmValid := false, bar4 := s.pcie.bar4.filter (fun x => x.write.isSome) } } := by
  simp only [State.pcieLost, State.modPcie, up, if_true]

end

/-- Settles O40: an access that the HA port takes reads or lands at once, and one that waits does so at its retry. -/
theorem pcieEndpoint : Obligations.PcieEndpoint := by
  unfold Obligations.PcieEndpoint
  intro off l n width speed b rest s a lost
  have addr : s.bar4Addr off.toNat = a := bar4Addr_eq s off.toNat
  refine ⟨?read, ?write, ?full, ?readAgain, ?writeAgain, fun up => ⟨?down, ?reset⟩, ?returns⟩
  case read =>
    rw [← addr]
    exact exec_bar4Access_read
  case write =>
    rw [← addr]
    intro up room unused serves
    obtain ⟨u, run, lands, frame⟩ := bar4Do_writes (n := n) serves
    exact ⟨u, (exec_bar4Access_write up room unused).trans (congrArg _ run), frame, lands.hbm, lands.storesOnly⟩
  case full =>
    rw [← addr]
    exact fun up full => ⟨_, exec_bar4Access_waits up full, rfl, congrArg HPort.refused ((setHport_hportAt ..).trans (if_pos rfl))⟩
  case readAgain =>
    intro waits due room is_read ok serves
    refine (exec_bar4Retry waits due room).trans (congrArg _ ?_)
    rw [is_read, ok]
    exact bar4Do_reads (s := s.modPcie _) serves
  case writeAgain =>
    intro waits due room is_write ok serves
    obtain ⟨u, run, lands, frame⟩ := bar4Do_writes (s := s.modPcie (fun v => { v with bar4 := rest })) (n := b.len) serves
    have stored : Lands b.off l s u := ⟨lands.hbm.trans (hbmWrite_hbm_congr l b.off rfl rfl rfl), lands.hbmLost⟩
    refine ⟨u, (exec_bar4Retry waits due room).trans (congrArg _ ?_), frame, stored.hbm, stored.storesOnly⟩
    rw [is_write, ok]
    exact run
  case down => exact congrArg Host.Outcome.next ((if_pos up).trans (pcieLost_of_up up))
  case reset => exact congrArg (fun u : State => Host.Outcome.next (u.modPcie (fun v => { v with bar4 := [] }))) (pcieLost_of_up up)
  case returns =>
    intro down powered running clocked
    exact congrArg Host.Outcome.next (if_neg (by simp [down, powered, running, clocked]))

end Sys2Proof.Machine
end

section
/-! PROOFS. Flits and lanes of a ZHEIND port (R369 to R372): O38 fails where a port carries an update session whose commit another
port asked for. -/

namespace Sys2Proof.Machine

/-- Port 5 is up and holds the update session, and the commit that waits came over port 0: the loss of port 5 ends the session,
whose answer goes to port 0. -/
def foreignCommit : State := { wZp { state := .up } with mgt := { sess := {
  state := .committing, owner := some (some 5), commitReq := some { src := some 0, words := [], edge := 0 } } } }

theorem foreignCommit_linkLost : exec (.linkLost 5) foreignCommit = .next (foreignCommit.zpLose 5) := rfl

/-- The answer waits at port 0, which is not up. -/
theorem foreignCommit_answers : ((foreignCommit.zpLose 5).zpAt 0).waiting ≠ (foreignCommit.zpAt 0).waiting := by decide +kernel

/-- Refutes O38: `linkLost` of a port whose session has a commit request from another port answers over that other port. The
statement says that no other port changes, of every state; a state in which a commit came from the session's holder meets it. -/
theorem not_zheindService : ¬ Obligations.ZheindService := by
  unfold Obligations.ZheindService
  intro h
  obtain ⟨-, -, -, -, -, -, -, -, lost⟩ := h 5 [] 0 0 (false, false) foreignCommit (by decide)
  obtain ⟨t, run, -, -, -, -, -, -, -, -, others⟩ := lost rfl (by decide +kernel)
  have next := Host.Outcome.next.inj (foreignCommit_linkLost.symm.trans run)
  exact foreignCommit_answers (congrArg Zp.waiting (next ▸ others 0 (by decide)))

end Sys2Proof.Machine
end

section
/-! PROOFS. PE links (R377 to R380, R406): heartbeats, frames of control, the steps of training and the loss of a link. -/

namespace Sys2Proof.Machine

theorem setPl_setPl (s : State) (k : Nat) (v w : Pl) : (s.setPl k v).setPl k w = s.setPl k w := by
  simp only [State.setPl, sput_sput]

section
variable {s : State} {j : Fin 32}

/-! ### Heartbeats (R379) -/

theorem exec_heartbeat (up : (s.plAt j).state = .up) (in_time : (s.plAt j).hbEdge = 0)
    (due : (s.plAt j).hbSent = false ∨ ((s.plAt j).hbAcked = true ∧ (s.plAt j).hbAt + 400 ≤ s.now)) :
    exec (.heartbeat j) s = .next (heartbeat j s) := by
  refine congrArg Host.Outcome.next (if_pos ⟨up, in_time, ?_⟩)
  exact due.imp (fun h => by simp [h]) And.right

/-- A heartbeat after an acknowledged one, and the first, count no miss. -/
theorem heartbeat_without_miss (answered : (s.plAt j).hbSent = false ∨ (s.plAt j).hbAcked = true) :
    heartbeat j s = (s.setPl j { s.plAt j with
      hbSeq := ((s.plAt j).hbSeq + 1) % 65536, hbSent := true, hbAcked := false, hbAt := s.now,
      txSeq := ((s.plAt j).txSeq + 1) % 4096 }).send
        (.pe j (frameWords 1 (s.plAt j).txSeq [BitVec.ofNat 32 (((s.plAt j).hbSeq + 1) % 65536)])) := by
  have missed : ((s.plAt j).hbSent && !(s.plAt j).hbAcked) = false := by rcases answered with h | h <;> simp [h]
  unfold heartbeat
  simp only [missed, State.peFrame, setPl_plAt, if_true, setPl_setPl, Bool.false_eq_true, and_false, if_false]

theorem exec_hbAck {hb : BitVec 16} {st : BitVec 8} (up : (s.plAt j).state = .up) (sent : (s.plAt j).hbSent = true)
    (in_time : (s.plAt j).hbEdge = 0) (echo : hb.toNat = (s.plAt j).hbSeq) : exec (.hbAck j hb st true) s =
      .next (s.setPl j { s.plAt j with hbAcked := true, hbMiss := 0, hbEdge := 0, peStatus := st.toNat }) := by
  refine congrArg Host.Outcome.next ((if_neg (by simp)).trans ((if_neg (by simp [up, sent])).trans ((if_neg ?_).trans (if_pos echo))))
  simp [in_time]

/-! ### CTRL frames (R378) -/

theorem exec_ctrlResp {n : Fin 4096} : exec (.ctrlResp j n true) s = .next (
    if (s.plAt j).ctrl.any (fun f => f.seq = n.val) then
      s.setPl j { s.plAt j with ctrl := (s.plAt j).ctrl.filter (fun f => f.seq ≠ n.val) }
    else if (s.plAt j).lostCtrl.contains n.val then s.setPl j { s.plAt j with stale := sat32 ((s.plAt j).stale + 1) } else s) :=
  rfl

theorem any_seq_eq_false {l : List CtrlFrame} {n : Nat} (h : ∀ g ∈ l, g.seq ≠ n) : ¬ (l.any (fun f => f.seq = n)) = true := by
  simpa using h

theorem exec_ctrlResend {f : CtrlFrame} (late : (s.plAt j).ctrl.find? (fun g => g.sentAt + 1600 ≤ s.now) = some f)
    (again : f.resends < 3) : exec (.ctrlResend j) s = .next ((s.setPl j { s.plAt j with
      ctrlRetry := sat32 ((s.plAt j).ctrlRetry + 1),
      ctrl := (s.plAt j).ctrl.map (fun g => if g.seq = f.seq then { g with resends := g.resends + 1, sentAt := s.now } else g)
      }).send (.peCtrl j f.seq f.op)) := by
  have found : (s.plAt j).ctrl.find? (fun f => f.sentAt + edgesCtrl ≤ s.now) = some f := late
  change execCtrlResend j s = _
  rw [execCtrlResend]
  dsimp only
  rw [found]
  exact congrArg Host.Outcome.next (if_neg (by omega))

/-! ### Training and firmware (R377, R380, R406) -/

theorem exec_linkTrainingStepEnd_pl {fom : List Nat} {partner : BitVec 9} (training : (s.plAt j).state = .training) :
    exec (.linkTrainingStepEnd (.pl j) fom partner) s = .next (s.setPl j { s.plAt j with locked := true }) :=
  congrArg Host.Outcome.next (if_pos training)

theorem exec_desc {d : PeDesc} (training : (s.plAt j).state = .training) (locked : (s.plAt j).locked = true) :
    exec (.desc j d true) s = .next (plDesc j d s) :=
  congrArg Host.Outcome.next ((if_neg (by simp)).trans (if_pos (.inl ⟨training, locked⟩)))

theorem exec_updateFrame {l : List Word32} (waits : (s.plAt j).state = .version)
    (more : (s.plAt j).updSent + 32 < s.mgt.peWords.length) (words : (s.mgt.peWords.drop (s.plAt j).updSent).take 32 = l) :
    exec (.updateFrame j) s = .next ((s.setPl j { s.plAt j with
      updSent := (s.plAt j).updSent + 32, txSeq := ((s.plAt j).txSeq + 1) % 4096 }).send
        (.pe j (frameWords 7 (s.plAt j).txSeq l))) := by
  have length : l.length = 32 := by rw [← words, List.length_take, List.length_drop]; omega
  refine congrArg Host.Outcome.next ((if_pos ⟨waits, by omega⟩).trans ?_)
  dsimp only
  rw [words, length, if_neg (by omega)]
  simp only [State.peFrame, setPl_plAt, if_true, setPl_setPl]

/-! ### The loss of a link (R379) -/

/-- The link as its loss leaves it. -/
def Pl.lose (v : Pl) (now : Nat) : Pl := { v with
  state := .lost, lostCount := sat32 (v.lostCount + 1), ctrl := [],
  lostCtrl := (v.lostCtrl ++ v.ctrl.map (fun f => f.seq)).eraseDups, hbSent := false, hbAcked := true, hbEdge := 0,
  attempts := 0, answered := false, locked := false, pauseEnd := now + 6400 }

theorem armLost_unused (unused : ∀ m, s.strPl m ≠ j.val) : s.armLost j = s :=
  foldState_same fun m _ => if_neg fun h => unused m h.2

theorem strLinkLost_unused (unused : ∀ m, s.strPl m ≠ j.val) : s.strLinkLost j = s :=
  foldState_same fun m _ => if_neg fun h => unused m h.2

/-- Without a burst or a stream on it the loss of a link is one store to the link. -/
theorem plLose_unused (no_burst : ∀ q < 64, ∀ c ∈ (s.seqAt q).cast.chans, c / 16 ≠ j.val) (no_stream : ∀ m, s.strPl m ≠ j.val) :
    s.plLose j = s.setPl j ((s.plAt j).lose s.now) := by
  have bursts : foldState (List.range 64) (fun q s =>
      let v := s.seqAt q
      if (v.state = .armed ∨ v.state = .running ∨ v.state = .hold) ∧ v.cast.chans.any (fun c => c / 16 = j) then
        s.endBurst q .peLinkLost s.now else s) (s.setPl j ((s.plAt j).lose s.now)) = s.setPl j ((s.plAt j).lose s.now) :=
    foldState_same fun q hq => if_neg fun ⟨_, used⟩ => by
      obtain ⟨c, hc, on_link⟩ := List.any_eq_true.1 used
      exact no_burst q (List.mem_range.1 hq) c hc (of_decide_eq_true on_link)
  have kept : (s.setPl j ((s.plAt j).lose s.now)).strLinkLost j = s.setPl j ((s.plAt j).lose s.now) := strLinkLost_unused no_stream
  refine (congrArg (fun u : State => (u.strLinkLost j).armLost j) bursts).trans ?_
  rw [kept]
  exact armLost_unused no_stream

end
/-- Settles O39: each frame and each event of a link is one store to the link, with what it sends. -/
theorem peLinks : Obligations.PeLinks := by
  unfold Obligations.PeLinks
  refine ⟨fun j st n f hb s => ⟨?heartbeat, ?echo, ?answered, ?stale, ?unknown, ?again, ?badCrc⟩,
    fun j d fom partner s => ⟨?locks, ?describes, ?updates, ?loses, ?retrains⟩⟩
  case heartbeat =>
    intro up in_time due
    refine ⟨_, (exec_heartbeat up in_time due).trans (congrArg _ (heartbeat_without_miss (due.imp_right And.left))), rfl,
      .of_reads fun k => setPl_plAt ..⟩
  case echo =>
    intro up sent in_time echo
    refine ⟨_, exec_hbAck up sent in_time echo, rfl, .of_reads fun k => (setPl_plAt ..).trans ?_⟩
    rw [← in_time]
  case answered =>
    intro mem seq
    have found : (s.plAt j).ctrl.any (fun f => f.seq = n.val) = true := List.any_eq_true.2 ⟨f, mem, decide_eq_true seq⟩
    exact ⟨_, exec_ctrlResp.trans (congrArg _ (if_pos found)), rfl, .of_reads fun k => setPl_plAt ..⟩
  case stale =>
    intro unknown dropped
    exact ⟨_, exec_ctrlResp.trans (congrArg _ ((if_neg (any_seq_eq_false unknown)).trans (if_pos (by simpa using dropped)))), rfl,
      .of_reads fun k => setPl_plAt ..⟩
  case unknown =>
    exact fun unknown kept =>
      exec_ctrlResp.trans (congrArg _ ((if_neg (any_seq_eq_false unknown)).trans (if_neg (by simpa using kept))))
  case again => exact fun late again => ⟨_, exec_ctrlResend late again, rfl, .of_reads fun k => setPl_plAt ..⟩
  case badCrc => exact ⟨_, rfl, rfl, .of_reads fun k => setPl_plAt ..⟩
  case locks => exact fun training => ⟨_, exec_linkTrainingStepEnd_pl training, rfl, .of_reads fun k => setPl_plAt ..⟩
  case describes =>
    intro training locked major fw
    have taken : (plDesc j d s).plAt j = _ := (setPl_plAt ..).trans (if_pos rfl)
    refine ⟨_, exec_desc training locked, rfl, ?_, ?_, ?_, ?_, ?_, fun k hk => (setPl_plAt ..).trans (if_neg hk)⟩
    all_goals rw [taken]
    · exact if_pos (decide_eq_true ⟨major, .inl fw⟩)
    · rw [major]; rfl
  case updates => exact fun waits more => ⟨_, exec_updateFrame waits more rfl, rfl, .of_reads fun k => setPl_plAt ..⟩
  case loses =>
    intro up no_burst no_stream
    exact ⟨_, congrArg Host.Outcome.next ((if_pos (.inl up)).trans (plLose_unused no_burst no_stream)), rfl,
      .of_reads fun k => setPl_plAt ..⟩
  case retrains =>
    exact fun lost paused due on => ⟨_, congrArg Host.Outcome.next (if_pos ⟨lost, paused, due, on⟩), rfl,
      .of_reads fun k => setPl_plAt ..⟩

end Sys2Proof.Machine
end

section
/-! PROOFS. Page headers (R384 to R391): events, errors and FREEZE are each one store to the header; what a SOFT_RESET of an APG, CAP
or UPD page returns. -/

namespace Sys2Proof.Machine

/-! ### A command of a page header acts on its page (R384, R386) -/

/-- The state with `r` as the pages whose reset acts again when the cycle ends. -/
def State.noted (s : State) (r : List Nat) : State := { s with redo := r }

theorem redoReset_noted (s : State) (page : Nat) : s.redoReset page = s.noted (s.redoReset page).redo := redoReset_frame s page

section
variable {s : State} {page : Nat}

theorem onPage_exists (f : State → State) (here : pageExists page = true) :
    onPage page f s = .next (f (s.redoReset page)) := if_pos here

theorem onPage_reserved (f : State → State) (reserved : pageExists page = false) :
    onPage page f s = .fault (.undefinedBehaviour 1) := if_neg (Bool.eq_false_iff.1 reserved)

/-! ### Events (R391) -/

/-- From `s` to `t` only messages to the host have been sent or kept back. -/
def Signals (s t : State) : Prop := t = { s with outbox := t.outbox, pcieHeld := t.pcieHeld, msixPend := t.msixPend }

theorem Signals.trans {s t u : State} (h : Signals s t) (h' : Signals t u) : Signals s u := by
  unfold Signals at *
  rw [h', h]

theorem rise_signals (s : State) (p : Nat) : Signals s (s.rise p) := by
  unfold Signals
  conv_lhs => rw [rise_frame]

theorem signal_signals (s : State) (v : Nat) : Signals s (s.signal v) := by
  unfold Signals
  conv_lhs => rw [signal_frame]

theorem foldState_signals {α : Type} {f : α → State → State} (hf : ∀ a s, Signals s (f a s)) (l : List α) (s : State) :
    Signals s (foldState l f s) :=
  foldState_keeps (Signals s) f (fun a u h => h.trans (hf a u)) l s rfl

theorem writeRise_signals (s : State) (p : Nat) : Signals s (s.writeRise p) := by
  unfold State.writeRise
  dsimp only
  split
  · have rings : ∀ l : List Nat, Signals s (foldState l (fun r s =>
        s.signal (fld (s.reg pgSch (ringOff r + 0xC)) 0 11)) s) := fun l => foldState_signals (fun _ _ => signal_signals ..) l s
    split
    · exact (rings _).trans (rise_signals ..)
    · exact rings _
  · split
    · exact rise_signals ..
    · rfl

theorem Signals.hdrAt {s t : State} (h : Signals s t) (j : Nat) : t.hdrAt j = s.hdrAt j := by
  rw [h]
  rfl

/-- A store to the header of a page followed by what it signals. -/
theorem Signals.of_setHdr {r : List Nat} {v : PageHdr} {t : State} (h : Signals ((s.noted r).setHdr page v) t) :
    t = { s with redo := r, hdr := t.hdr, outbox := t.outbox, pcieHeld := t.pcieHeld, msixPend := t.msixPend } ∧
      Becomes State.hdrAt page v s t := by
  refine ⟨?_, .of_reads fun j => (h.hdrAt j).trans (setHdr_hdrAt ..)⟩
  unfold Signals at h
  rw [h]
  rfl

/-! ### Errors and FREEZE (R385, R387) -/

/-- The header as a write of 1 to ERROR leaves it. -/
def PageHdr.errorsCleared (h : PageHdr) (now : Nat) : PageHdr :=
  match h.errCyc with
  | some (e, c, i) =>
    if e = now then { h with error := true, errCode := c, errInfo := i, errEdge := now + 1 }
    else { h with error := false, errCode := 0, errInfo := 0 }
  | none => { h with error := false, errCode := 0, errInfo := 0 }

theorem errorClear_stores (s : State) (page : Nat) : errorClear page s = s.setHdr page ((s.hdrAt page).errorsCleared s.now) := rfl

theorem errorsCleared_of_error_now {h : PageHdr} {now : Nat} {c : BitVec 16} {i : Word32} (here : h.errCyc = some (now, c, i)) :
    h.errorsCleared now = { h with error := true, errCode := c, errInfo := i, errEdge := now + 1 } := by
  rw [PageHdr.errorsCleared, here]
  exact if_pos rfl

theorem errorsCleared_of_no_error {h : PageHdr} {now : Nat} (none_now : ∀ e c i, h.errCyc = some (e, c, i) → e ≠ now) :
    h.errorsCleared now = { h with error := false, errCode := 0, errInfo := 0 } := by
  unfold PageHdr.errorsCleared
  split
  · exact if_neg (none_now _ _ _ ‹_›)
  · rfl

theorem freezePage_sets (live : (s.hdrAt page).freeze = false) : freezePage page true s = s.setHdr page { s.hdrAt page with
    freeze := true, frozen := (roOffsets page).map (fun off => (off, s.liveReg page off)) } :=
  (if_neg (by simp [live])).trans (if_pos rfl)

theorem freezePage_clears (held : (s.hdrAt page).freeze = true) :
    freezePage page false s = s.setHdr page { s.hdrAt page with freeze := false, thawEdge := s.now + 1 } :=
  (if_neg (by simp [held])).trans (if_neg (by simp))

theorem sget_map_key {α : Type} (d : α) (g : Nat → α) {l : List Nat} {k : Nat} (mem : k ∈ l) :
    sget d (l.map (fun i => (i, g i))) k = g k := by
  induction l with
  | nil => simp at mem
  | cons i l ih =>
    by_cases hi : i = k
    · simp [sget, hi]
    · simp [sget, hi, ih ((List.mem_cons.1 mem).resolve_left (Ne.symm hi))]

/-- A frozen read-only register reads as it did when FREEZE was set. -/
theorem readReg_frozen {off : Nat} {g : Nat → Word32} (frozen : (s.hdrAt page).freeze = true)
    (held : (s.hdrAt page).frozen = (roOffsets page).map (fun off => (off, g off))) (mem : off ∈ roOffsets page) :
    s.readReg page off = g off := by
  refine (if_pos (.inl frozen)).trans ?_
  rw [held]
  exact sget_map_key _ g mem

/-! ### Soft resets of APG, CAP and UPD pages (R386) -/

/-- The state in which the latches of a page are empty, its requests are dropped and its reset edge is noted. -/
def State.resetBegun (s : State) (page : Nat) : State :=
  let u := (s.modHdr page (fun h => { h with resetEdge := s.now + 1 })).dropRequests page
  { u with latches := u.latches.filter (fun e => e.1 / 0x2000 ≠ page) }

theorem page_numbers : pgChip = 0 ∧ pgUpd = 3 ∧ pgMbox = 4 ∧ pgHmc = 0xC0 ∧ pgTrg = 0x200 ∧ pgSch = 0x300 ∧ pgCal = 0x380 ∧
    pgTss = 0x610 := ⟨rfl, rfl, rfl, rfl, rfl, rfl, rfl, rfl⟩

theorem unitSoftReset_plain (plain : 0x140 ≤ page ∧ page < 0x180 ∨ page = pgUpd) : unitSoftReset page s = s.resetRegs page := by
  have pages := page_numbers
  unfold unitSoftReset
  iterate 15 rw [if_neg (by omega)]

theorem unitSoftReset_cap (cap : 0x180 ≤ page ∧ page < 0x200) : unitSoftReset page s = capSoftReset (page - 0x180) s := by
  have pages := page_numbers
  unfold unitSoftReset
  iterate 13 rw [if_neg (by omega)]
  rw [if_pos cap]

theorem pageResetRun_ends (ends : 0x140 ≤ page ∧ page < 0x200 ∨ page = pgUpd) :
    pageResetRun page (s.modHdr page (fun h => { h with resetEdge := s.now + 1 })) =
      (unitSoftReset page (s.resetBegun page)).pageResetDone page := by
  have pages := page_numbers
  unfold pageResetRun
  iterate 5 rw [if_neg (by omega)]
  rfl

theorem capSoftReset_frame (i : Nat) (s : State) :
    capSoftReset i s = { s.resetRegs (pgCap i) with cap := (capSoftReset i s).cap } := rfl

/-- What a reset of an APG, CAP or UPD page changes beside the header. -/
theorem unitSoftReset_frame (ends : 0x140 ≤ page ∧ page < 0x200 ∨ page = pgUpd) :
    unitSoftReset page s = { s.resetRegs page with cap := (unitSoftReset page s).cap } := by
  by_cases cap : 0x180 ≤ page ∧ page < 0x200
  · have number : pgCap (page - 0x180) = page := by simp only [pgCap]; omega
    rw [unitSoftReset_cap cap, capSoftReset_frame, number]
  · rw [unitSoftReset_plain (by omega)]

theorem exec_pageSoftReset (page : BitVec 16) (here : pageExists page.toNat = true) :
    exec (.pageSoftReset page) s = .next (pageSoftReset page.toNat (s.redoReset page.toNat)) := onPage_exists _ here

theorem pageSoftReset_ignored (idle : (s.hdrAt page).busy = true ∨ (s.hdrAt page).up = false) : pageSoftReset page s = s :=
  if_pos (idle.imp_right Bool.eq_false_iff.1)

theorem pageSoftReset_up (ready : (s.hdrAt page).busy = false) (up : (s.hdrAt page).up = true) : pageSoftReset page s =
    if s.resetRefused page then s.recordErr page errAssignBusy
    else pageResetRun page (s.modHdr page (fun h => { h with resetEdge := s.now + 1 })) := if_neg (by simp [ready, up])

/-- A reset that ends at once stores the header, the page's registers and what it drops. -/
theorem pageSoftReset_ends (ends : 0x140 ≤ page ∧ page < 0x200 ∨ page = pgUpd) (ready : (s.hdrAt page).busy = false)
    (up : (s.hdrAt page).up = true) (free : s.resetRefused page = false) :
    pageSoftReset page s = (unitSoftReset page (s.resetBegun page)).pageResetDone page := by
  rw [pageSoftReset_up ready up, if_neg (Bool.eq_false_iff.1 free), pageResetRun_ends ends]

theorem noted_resetRefused (r : List Nat) : (s.noted r).resetRefused page = s.resetRefused page := rfl

theorem pageResetDone_unitSoftReset_frame {r : List Nat} (ends : 0x140 ≤ page ∧ page < 0x200 ∨ page = pgUpd) :
    ∃ t, (unitSoftReset page ((s.noted r).resetBegun page)).pageResetDone page = t ∧
      t = { s with redo := r, hdr := t.hdr, regs := t.regs, latches := t.latches, hmc := t.hmc, cap := t.cap } ∧
      Becomes State.hdrAt page { up := (s.hdrAt page).up, evtMask := (s.hdrAt page).evtMask, resetEdge := s.now + 1 } s t ∧
      t.regs = ((s.noted r).resetRegs page).regs := by
  rw [unitSoftReset_frame ends]
  generalize (unitSoftReset page ((s.noted r).resetBegun page)).cap = c
  have begun (j : Nat) : ((s.noted r).resetBegun page).hdrAt j =
      if j = page then { s.hdrAt page with resetEdge := s.now + 1 } else s.hdrAt j := setHdr_hdrAt ..
  refine ⟨_, rfl, rfl, .of_reads fun j => (setHdr_hdrAt ..).trans ?_, rfl⟩
  have kept : State.hdrAt { ((s.noted r).resetBegun page).resetRegs page with cap := c } = ((s.noted r).resetBegun page).hdrAt := rfl
  rw [kept, begun, begun, if_pos rfl]
  split <;> rfl

end

/-- Settles O41: each command stores to the header of its page, and a soft reset that ends at once to the page's registers too. -/
theorem pageHeaderCommands : Obligations.PageHeaderCommands := by
  unfold Obligations.PageHeaderCommands
  refine ⟨fun page s => ?commands, fun page s here => ?resets⟩
  case commands =>
    intro u
    obtain ⟨r, hr⟩ : ∃ r, u = s.noted r := ⟨_, redoReset_noted s page.toNat⟩
    refine ⟨fun here => ⟨fun bits => ?events, fun v => ?mask, ?clear, ?sets, ?thaws⟩, fun reserved c hc => ?reserved⟩
    case events =>
      refine ⟨_, onPage_exists (evtRawClear page.toNat bits) here, ?_⟩
      rw [← show u = s.redoReset page.toNat from rfl, hr]
      exact (writeRise_signals ..).of_setHdr
    case mask =>
      refine ⟨_, onPage_exists (evtMaskWrite page.toNat v) here, ?_⟩
      rw [← show u = s.redoReset page.toNat from rfl, hr]
      exact (writeRise_signals ..).of_setHdr
    case clear =>
      refine ⟨_, onPage_exists (errorClear page.toNat) here, ?_⟩
      rw [← show u = s.redoReset page.toNat from rfl, hr, errorClear_stores]
      refine ⟨rfl, fun c i here => ?_, fun none_now => .of_reads fun j => (setHdr_hdrAt ..).trans ?_⟩
      · rw [setHdr_hdrAt, if_pos rfl, errorsCleared_of_error_now (h := (s.noted r).hdrAt page.toNat) (now := (s.noted r).now) here]
        exact ⟨rfl, rfl, rfl⟩
      · rw [errorsCleared_of_no_error (h := (s.noted r).hdrAt page.toNat) (now := (s.noted r).now) none_now]
        rfl
    case sets =>
      intro live
      refine ⟨_, onPage_exists (freezePage page.toNat true) here, ?_⟩
      rw [← show u = s.redoReset page.toNat from rfl, hr, freezePage_sets (s := s.noted r) live]
      have self : ∀ v, ((s.noted r).setHdr page.toNat v).hdrAt page.toNat = v := fun v => (setHdr_hdrAt ..).trans (if_pos rfl)
      refine ⟨rfl, by rw [self], fun off mem => ?_⟩
      exact readReg_frozen (g := fun off => (s.noted r).liveReg page.toNat off) (by rw [self]) (by rw [self]) mem
    case thaws =>
      intro held
      refine ⟨_, onPage_exists (freezePage page.toNat false) here, ?_⟩
      rw [← show u = s.redoReset page.toNat from rfl, hr, freezePage_clears (s := s.noted r) held]
      exact ⟨rfl, .of_reads fun j => setHdr_hdrAt ..⟩
    case reserved =>
      simp only [List.mem_cons, List.not_mem_nil, or_false] at hc
      rcases hc with rfl | rfl | rfl | rfl | rfl | rfl <;> exact onPage_reserved _ reserved
  case resets =>
    intro u
    obtain ⟨r, hr⟩ : ∃ r, u = s.noted r := ⟨_, redoReset_noted s page.toNat⟩
    have run : exec (.pageSoftReset page) s = .next (pageSoftReset page.toNat u) := exec_pageSoftReset page here
    rw [run, hr]
    refine ⟨fun idle => ?_, fun ready up refused => ⟨?_, recordErr_frame ..⟩, fun ends ready up free => ?_⟩
    · rw [pageSoftReset_ignored (s := s.noted r) idle]
    · rw [pageSoftReset_up (s := s.noted r) ready up]
      exact congrArg _ (if_pos refused)
    · obtain ⟨t, done, frame, hdr, regs⟩ := pageResetDone_unitSoftReset_frame (s := s) (r := r) ends
      have reg : t.reg = ((s.noted r).resetRegs page.toNat).reg := by
        funext p off
        rw [State.reg, regs, State.reg]
      refine ⟨t, congrArg _ ((pageSoftReset_ends (s := s.noted r) ends ready up
        ((noted_resetRefused r).trans free)).trans done), frame, by rwa [up] at hdr, fun off h => ?_,
        fun p off other h => ?_⟩
      · rw [reg, resetRegs_reg _ _ _ h, if_pos ⟨rfl, rfl⟩]
      · rw [reg, resetRegs_reg _ _ _ h, if_neg fun h => other h.1]
        rfl

end Sys2Proof.Machine
end

section
/-! PROOFS. Writes of block registers of the SEQ, APG and CAP pages (R386): what the chapter refuses, and the bits that are stored. -/

namespace Sys2Proof.Machine

theorem pageExists_seq_apg_cap : ∀ i : Fin 0x100, pageExists (i.val + 0x100) = true := by decide +kernel

/-- A page of SEQ, APG or CAP and an aligned offset of its block. -/
structure BlockWord (p o : Nat) : Prop where
  page : 0x100 ≤ p ∧ p < 0x200
  off : 0x100 ≤ o ∧ o < 0x1000
  aligned : o % 4 = 0

section
variable {s : State} {p o : Nat} {v : Word32} {path : Path} {r : RegSpec}

theorem BlockWord.exists (h : BlockWord p o) : pageExists p = true := by
  obtain ⟨p_lo, p_hi⟩ := h.page
  have found := pageExists_seq_apg_cap ⟨p - 0x100, by omega⟩
  rwa [Nat.sub_add_cancel p_lo] at found

/-! ### One word at an address (R386, R388) -/

theorem toNat_wordAddr (h : BlockWord p o) : (BitVec.ofNat 26 (p * 0x1000 + o)).toNat = p * 0x1000 + o := by
  obtain ⟨⟨-, p_hi⟩, ⟨-, o_hi⟩, -⟩ := h
  rw [BitVec.toNat_ofNat]
  omega

theorem bothWords_one {off : Nat} {f : Nat → Word32 → State → Except Fault State} (aligned : off % 4 = 0) :
    bothWords off v none f s = f off v s := by
  refine (if_neg (by simpa [bar2Aligned] using aligned)).trans ?_
  cases f off v s <;> rfl

theorem exec_registerWrite_word (h : BlockWord p o) :
    exec (.registerWrite false (BitVec.ofNat 26 (p * 0x1000 + o)) v none path) s =
      toRes (wordWrite false path (p * 0x1000 + o) v s) := by
  have aligned : (p * 0x1000 + o) % 4 = 0 := by have := h.aligned; omega
  change toRes (bothWords _ v none (wordWrite false path) s) = _
  rw [toNat_wordAddr h, bothWords_one aligned]

/-- A write of a block register comes to the description of that register. -/
theorem wordWrite_block (h : BlockWord p o) : wordWrite false path (p * 0x1000 + o) v s =
    match specAt p o with
    | none => .error (.undefinedBehaviour 1)
    | some r => if v &&& ~~~ (r.rw ||| r.other) ≠ 0 then .error (.undefinedBehaviour 2) else blockWrite p o r v path s := by
  have here := h.exists
  have pages := page_numbers
  obtain ⟨⟨p_lo, p_hi⟩, ⟨o_lo, o_hi⟩, -⟩ := h
  have page : (p * 0x1000 + o) / 0x1000 = p := by omega
  have off : (p * 0x1000 + o) % 0x1000 = o := by omega
  unfold wordWrite
  simp only [Bool.false_eq_true, if_false, page, off]
  refine (if_neg (by simp)).trans ((if_neg (by omega)).trans ((if_neg (by omega)).trans ((if_neg ?_).trans ((if_neg (by omega)).trans rfl))))
  rintro (missing | ⟨-, tss⟩)
  · exact missing here
  · omega

theorem exec_registerWrite_reserved (h : BlockWord p o) (none_here : specAt p o = none) :
    exec (.registerWrite false (BitVec.ofNat 26 (p * 0x1000 + o)) v none path) s = .fault (.undefinedBehaviour 1) := by
  rw [exec_registerWrite_word h, wordWrite_block h, none_here]
  rfl

theorem exec_registerWrite_reserved_bits (h : BlockWord p o) (spec : specAt p o = some r) (bad : v &&& ~~~ (r.rw ||| r.other) ≠ 0) :
    exec (.registerWrite false (BitVec.ofNat 26 (p * 0x1000 + o)) v none path) s = .fault (.undefinedBehaviour 2) := by
  rw [exec_registerWrite_word h, wordWrite_block h, spec]
  exact congrArg toRes (if_pos bad)

theorem exec_registerWrite_register (h : BlockWord p o) (spec : specAt p o = some r) (good : v &&& ~~~ (r.rw ||| r.other) = 0) :
    exec (.registerWrite false (BitVec.ofNat 26 (p * 0x1000 + o)) v none path) s = toRes (blockWrite p o r v path s) := by
  rw [exec_registerWrite_word h, wordWrite_block h, spec]
  exact congrArg toRes (if_neg (not_not.2 good))

/-! ### What the chapter of the register says (R36, R74, R135, R217) -/

theorem blockWrite_ignored {n : List Nat} (hn : s.redoReset p = s.noted n)
    (idle : (s.ready p = false ∧ s.resetNow p = false) ∨ r.ro = true) : blockWrite p o r v path s = .ok (s.noted n) := by
  unfold blockWrite
  rw [hn]
  refine if_pos (idle.imp_left fun ⟨not_ready, not_now⟩ => ?_)
  rintro (ready | now)
  · exact Bool.eq_false_iff.1 not_ready ready
  · exact Bool.eq_false_iff.1 not_now now

theorem noted_writeRefused (n : List Nat) : (s.noted n).writeRefused p o v path = s.writeRefused p o v path := rfl

theorem blockWrite_acts (h : BlockWord p o) {n : List Nat} (hn : s.redoReset p = s.noted n)
    (acts : s.ready p = true ∨ s.resetNow p = true) (stored : r.ro = false) : blockWrite p o r v path s =
      match s.writeRefused p o v path with
      | some code => .ok ((s.noted n).recordErr p code)
      | none => .ok ((s.noted n).storeReg p o r v) := by
  have pages := page_numbers
  obtain ⟨p_lo, p_hi⟩ := h.page
  unfold blockWrite
  rw [hn]
  refine (if_neg ?_).trans ((if_neg (by omega)).trans ?_)
  · rintro (idle | ro)
    · exact idle acts
    · exact Bool.eq_false_iff.1 stored ro
  · dsimp only
    rw [if_neg (by omega), noted_writeRefused]
    cases s.writeRefused p o v path with
    | some code => rfl
    | none => exact if_neg fun overlap => by omega

/-- What a write of a block register stores: its writable bits. -/
def State.stored (s : State) (p o : Nat) (r : RegSpec) (v : Word32) : State :=
  s.setReg p o ((s.reg p o &&& ~~~ r.rw) ||| (v &&& r.rw))

theorem keptBits_block (h : BlockWord p o) : s.keptBits p o = 0 := by
  obtain ⟨p_lo, p_hi⟩ := h.page
  exact (if_neg (by omega)).trans (if_neg (by omega))

theorem storeReg_block (h : BlockWord p o) : s.storeReg p o r v = (s.stored p o r v).written p o (s.reg p o) v := by
  have pages := page_numbers
  obtain ⟨p_lo, p_hi⟩ := h.page
  have all (a b : Word32) : (a &&& (~~~ b ||| 0)) ||| (v &&& b &&& ~~~ 0) = (a &&& ~~~ b) ||| (v &&& b) := by
    rw [show (~~~ 0 : Word32) = BitVec.allOnes 32 from rfl, BitVec.and_allOnes]
    simp
  unfold State.storeReg
  dsimp only
  rw [if_neg (show ¬ (p = pgTrg ∧ 0x400 ≤ o) by omega), keptBits_block h, if_neg (by simp), all, State.stored]

theorem written_block (h : BlockWord p o) (old : Word32) : s.written p o old v =
    if p < 0x140 ∧ o = 0x100 then s.modSeq (p - 0x100) (fun q =>
      if q.acceptEdge = s.now + 1 then { q with maquette := bit v 0, maqMatch := bit v 4 } else q) else s := by
  have pages := page_numbers
  have time : pgTime 0 = 0x10 := rfl
  obtain ⟨p_lo, p_hi⟩ := h.page
  unfold State.written
  iterate 5 rw [if_neg (by omega)]
  by_cases seq : p < 0x140 ∧ o = 0x100
  · rw [if_pos seq, if_pos (by omega)]
  · rw [if_neg seq]
    iterate 6 rw [if_neg (by omega)]

theorem writeRefused_seq_apg {code : BitVec 16} (p_lo : 0x100 ≤ p) (p_hi : p < 0x180)
    (refused : s.writeRefused p o v path = some code) : code = errAssignBusy := by
  have only_busy (b : Bool) (h : (if b then some errAssignBusy else none) = some code) : code = errAssignBusy := by
    cases b
    · cases h
    · exact (Option.some.inj h).symm
  unfold State.writeRefused at refused
  dsimp only at refused
  by_cases seq : p < 0x140
  · rw [if_pos ⟨p_lo, seq⟩] at refused
    exact only_busy _ refused
  · rw [if_neg (by omega), if_pos (by omega)] at refused
    exact only_busy _ refused

end

/-- Settles O42: a write of a block register is refused, ignored or undefined, or stores the writable bits. -/
theorem registerWrites : Obligations.RegisterWrites := by
  unfold Obligations.RegisterWrites
  intro page off v path s aligned p o hp ho
  have here : BlockWord p o := ⟨by omega, by omega, by omega⟩
  obtain ⟨n, hn⟩ : ∃ n, s.redoReset p = s.noted n := ⟨_, redoReset_noted s p⟩
  dsimp only
  refine ⟨exec_registerWrite_reserved here, fun r spec => ⟨exec_registerWrite_reserved_bits here spec, fun good idle => ?_,
    fun good acts stored => ?_⟩⟩
  · rw [exec_registerWrite_register here spec good, blockWrite_ignored hn idle, hn]
    rfl
  · rw [exec_registerWrite_register here spec good, blockWrite_acts here hn acts stored, hn]
    refine ⟨fun free other => ?_, fun free off_ctrl seq => ?_, fun code refused => ?_⟩
    · rw [free]
      dsimp only
      rw [storeReg_block here, written_block here, if_neg (by omega)]
      rfl
    · rw [free]
      dsimp only
      rw [storeReg_block here, written_block here, if_pos ⟨seq, off_ctrl⟩]
      refine ⟨_, rfl, rfl, .of_reads fun j => ?_⟩
      rw [modSeq_eq, setSeq_seqAt]
      rfl
    · rw [refused]
      refine ⟨rfl, ?_, fun p_hi => writeRefused_seq_apg here.page.1 p_hi refused⟩
      rw [recordErr_frame]
      rfl

end Sys2Proof.Machine
end

section
/-! PROOFS. Reads of registers and tables (R384 to R391): where an address leads, and what a read gives and loads. -/

namespace Sys2Proof.Machine

/-! ### Pages of the map (R384) -/

theorem blocks_end : ∀ b ∈ blocks, b.1 + b.2.1 ≤ 0x611 := by decide +kernel

theorem page_lt_of_exists {page : Nat} (here : pageExists page = true) : page < 0x611 := by
  have regs : blockAt page ≠ [] := of_decide_eq_true here
  unfold blockAt at regs
  split at regs
  next b found =>
    have within := List.find?_some found
    have bound := blocks_end b (List.mem_of_find?_eq_some found)
    simp only [decide_eq_true_eq] at within
    omega
  next => exact absurd rfl regs

/-! ### The latches of a pair (R389) -/

theorem latchKey_inj {page o o' : Nat} {path : Path} (h : latchKey page o path = latchKey page o' path) : o = o' := by
  unfold latchKey at h
  omega

/-- Values stored under the keys of a list: a key of the list gives its value, any other what it gave. -/
theorem sget_foldl_sput_keys {α : Type} (d : α) (key : Nat → Nat) (g : Nat → α) (inj : ∀ i j, key i = key j → i = j)
    (l : List Nat) (m : Sparse α) :
    (∀ o ∈ l, sget d (l.foldl (fun m o => sput m (key o) (g o)) m) (key o) = g o) ∧
    ∀ k, (∀ o ∈ l, k ≠ key o) → sget d (l.foldl (fun m o => sput m (key o) (g o)) m) k = sget d m k := by
  induction l generalizing m with
  | nil => simp
  | cons i l ih =>
    obtain ⟨mem, other⟩ := ih (sput m (key i) (g i))
    refine ⟨fun o ho => ?_, fun k hk => ?_⟩
    · by_cases again : o ∈ l
      · exact mem o again
      · obtain rfl := (List.mem_cons.1 ho).resolve_right again
        refine (other (key o) fun j hj same => again (inj _ _ same ▸ hj)).trans ?_
        rw [sget_sput, if_pos rfl]
    · refine (other k fun o ho => hk o (List.mem_cons_of_mem _ ho)).trans ?_
      rw [sget_sput, if_neg (hk i List.mem_cons_self)]

section
variable {a : BitVec 26} {bar2 : Bool} {path : Path} {s : State} {page off : Nat}

/-- What a read of a register of a page answers and loads. -/
theorem wordRead_gives (page off : Nat) (path : Path) (s : State) :
    wordRead page off path s = { s with hostOut := (wordRead page off path s).hostOut, latches := (wordRead page off path s).latches } ∧
    (wordRead page off path s).hostOut = (if isLatched page off then sget (s.readReg page off) s.latches (latchKey page off path)
      else s.readReg page off).zeroExtend 64 ∧
    (∀ o ∈ latchedBy page off, sget 0 (wordRead page off path s).latches (latchKey page o path) = s.readReg page o) ∧
    ∀ k, (∀ o ∈ latchedBy page off, k ≠ latchKey page o path) → sget 0 (wordRead page off path s).latches k = sget 0 s.latches k :=
  ⟨rfl, rfl, sget_foldl_sput_keys 0 (latchKey page · path) (s.readReg page) (fun _ _ => latchKey_inj) _ _⟩

/-! ### Where an address leads (R388) -/

theorem exec_lowWordRead_misaligned (h : a.toNat % 4 ≠ 0) : exec (.lowWordRead bar2 a path) s = .fault (.undefinedBehaviour 3) :=
  if_pos h

/-- Page and offset of an aligned address, BAR2 giving the TSS page for its control block. -/
structure Leads (a : BitVec 26) (bar2 : Bool) (page off : Nat) : Prop where
  page_eq : page = if bar2 then pgTss else a.toNat / 0x1000
  off_eq : off = a.toNat % 0x1000
  aligned : a.toNat % 4 = 0

/-- The address is that of a page of the map in its BAR: the control block in BAR2, any other page in BAR0. -/
structure OfPage (a : BitVec 26) (bar2 : Bool) (page off : Nat) : Prop extends Leads a bar2 page off where
  here : pageExists page = true
  control : bar2 = true → a.toNat / 0x1000 = 0x500
  plain : bar2 = false → page ≠ pgTss

/-- A read of an address of a page: the reads that remove an entry, the local memory of an engine, or a register. -/
theorem exec_lowWordRead_page (h : OfPage a bar2 page off) : exec (.lowWordRead bar2 a path) s =
    if page = pgTss ∧ off = 0x140 then execApplyIdRead path s
    else if 0x100 ≤ page ∧ page < 0x140 ∧ off = 0x268 then execMarkIdRead (Fin.ofNat 64 (page - 0x100)) path s
    else if 0x310 ≤ page ∧ page < 0x328 ∧ (off = 0x138 ∨ off = 0x13C) ∧ ¬ s.weIdleOff (page - 0x310) then
      .next (s.recordErr page errWeBusy)
    else if off < 0x24 ∨ (specAt page off).isSome then .next (wordRead page off path s)
    else .fault (.undefinedBehaviour 1) := by
  obtain ⟨⟨page_eq, off_eq, aligned⟩, here, control, plain⟩ := h
  have below := page_lt_of_exists here
  change execLowWordRead bar2 a path s = _
  unfold execLowWordRead
  dsimp only
  rw [← page_eq, ← off_eq]
  refine (if_neg (not_not.2 aligned)).trans ((if_neg fun bad => bad.2 (control bad.1)).trans ((if_neg (by omega)).trans
    ((if_neg (by omega)).trans (if_neg ?_))))
  rintro (missing | ⟨bar0, tss⟩)
  · exact missing here
  · exact plain (Bool.eq_false_iff.2 bar0) tss

theorem exec_lowWordRead_register (h : OfPage a bar2 page off) (reg : off < 0x24 ∨ (specAt page off).isSome = true)
    (no_apply : ¬ (page = pgTss ∧ off = 0x140)) (no_mark : ¬ (0x100 ≤ page ∧ page < 0x140 ∧ off = 0x268))
    (idle : ¬ (0x310 ≤ page ∧ page < 0x328 ∧ (off = 0x138 ∨ off = 0x13C) ∧ s.weIdleOff (page - 0x310) = false)) :
    exec (.lowWordRead bar2 a path) s = .next (wordRead page off path s) := by
  rw [exec_lowWordRead_page h, if_neg no_apply, if_neg no_mark, if_neg (by simpa using idle), if_pos reg]

theorem exec_lowWordRead_applyId (h : OfPage a bar2 page off) (tss : page = pgTss) (at_id : off = 0x140) :
    exec (.lowWordRead bar2 a path) s = exec (.applyIdRead path) s := by
  rw [exec_lowWordRead_page h, if_pos ⟨tss, at_id⟩]
  rfl

theorem exec_lowWordRead_markId (h : OfPage a bar2 page off) (q : Fin 64) (seq : page = 0x100 + q.val) (at_id : off = 0x268) :
    exec (.lowWordRead bar2 a path) s = exec (.markIdRead q path) s := by
  have pages := page_numbers
  have page_q : Fin.ofNat 64 (page - 0x100) = q := Fin.ext (by simp only [Fin.val_ofNat]; omega)
  rw [exec_lowWordRead_page h, if_neg (by omega), if_pos (by omega), page_q]
  rfl

theorem exec_lowWordRead_weBusy (h : OfPage a bar2 page off)
    (busy : 0x310 ≤ page ∧ page < 0x328 ∧ (off = 0x138 ∨ off = 0x13C) ∧ s.weIdleOff (page - 0x310) = false) :
    exec (.lowWordRead bar2 a path) s = .next (s.recordErr page errWeBusy) := by
  have pages := page_numbers
  rw [exec_lowWordRead_page h, if_neg (by omega), if_neg (by omega), if_pos (by simpa using busy)]

/-! ### Tables of BAR2 and of MSI-X (R146, R148, R391) -/

/-- A read of a table word gives it and changes nothing else. -/
def Gives (bar2 : Bool) (a : BitVec 26) (path : Path) (s : State) (v : Word32) : Prop :=
  exec (.lowWordRead bar2 a path) s = .next { s with hostOut := v.zeroExtend 64 }

theorem gives_entry (aligned : a.toNat % 4 = 0) (table : a.toNat < 0x400000) :
    Gives true a path s ((sget 0 s.tss.entries (a.toNat / 32)).extractLsb' (8 * (a.toNat % 32)) 32) :=
  (if_neg (not_not.2 aligned)).trans ((if_pos ⟨rfl, by omega⟩).trans (if_pos table))

theorem gives_header (aligned : a.toNat % 4 = 0) (lo : 0x400000 ≤ a.toNat) (hi : a.toNat < 0x420000) :
    Gives true a path s ((sget 0 s.tss.headers ((a.toNat - 0x400000) / 8)).extractLsb' (8 * (a.toNat % 8)) 32) :=
  (if_neg (not_not.2 aligned)).trans ((if_pos ⟨rfl, by omega⟩).trans ((if_neg (by omega)).trans (if_pos hi)))

theorem gives_apgTab (aligned : a.toNat % 4 = 0) (owned : (apgTabOwner a.toNat).isSome = true) :
    Gives true a path s (sget 0 s.apgTab a.toNat) := by
  have lo : 0x600000 ≤ a.toNat := by
    by_contra below
    rw [apgTabOwner, if_neg (by omega)] at owned
    cases owned
  exact (if_neg (not_not.2 aligned)).trans ((if_pos ⟨rfl, by omega⟩).trans ((if_neg (by omega)).trans
    ((if_neg (by omega)).trans (if_pos owned))))

theorem gives_msixPend (aligned : a.toNat % 4 = 0) (page_eq : a.toNat / 0x1000 = 0x1008) (lo : a.toNat % 0x1000 < 256) :
    Gives false a path s (s.msixPend.extractLsb' (8 * (a.toNat % 0x1000)) 32) :=
  (if_neg (not_not.2 aligned)).trans ((if_neg (by simp)).trans ((if_neg (by simp [page_eq])).trans
    (if_pos ⟨by simp, page_eq, lo⟩)))

theorem gives_msixTable (aligned : a.toNat % 4 = 0) (lo : 0x1000 ≤ a.toNat / 0x1000) (hi : a.toNat / 0x1000 < 0x1008)
    (no_mask : a.toNat % 0x1000 % 16 ≠ 12) : Gives false a path s (s.reg 0x1000 (a.toNat - 0x1000000)) := by
  refine (if_neg (not_not.2 aligned)).trans ((if_neg (by simp)).trans ((if_pos ⟨by simp, lo, hi⟩).trans ?_))
  dsimp only
  rw [if_neg (show ¬ (a.toNat - 0x1000000) % 16 = 12 by omega)]

/-- An address of BAR0 outside the pages of the map: only PAGE_ID is read there (R384). -/
theorem exec_lowWordRead_reserved (aligned : a.toNat % 4 = 0)
    (reserved : pageExists (a.toNat / 0x1000) = false ∨ a.toNat / 0x1000 = pgTss)
    (no_table : ¬ (0x1000 ≤ a.toNat / 0x1000 ∧ a.toNat / 0x1000 < 0x1008))
    (no_pend : ¬ (a.toNat / 0x1000 = 0x1008 ∧ a.toNat % 0x1000 < 256)) :
    exec (.lowWordRead false a path) s =
      if a.toNat % 0x1000 = 0 then .next { s with hostOut := 0 } else .fault (.undefinedBehaviour 1) := by
  refine (if_neg (not_not.2 aligned)).trans ((if_neg (by simp)).trans ((if_neg fun h => no_table h.2).trans
    ((if_neg fun h => no_pend h.2).trans ((if_pos ?_).trans (if_congr (by simp) rfl rfl)))))
  exact reserved.imp (fun missing => by simp [missing]) (fun tss => ⟨by simp, tss⟩)

end

/-- Settles O43: an aligned read comes to a register of a page, a table or a reserved page. -/
theorem registerReads : Obligations.RegisterReads := by
  unfold Obligations.RegisterReads
  intro a bar2 path s
  dsimp only
  refine ⟨exec_lowWordRead_misaligned, fun aligned => ⟨fun here reg control plain => ?_, ?_, ?_, ?_, ?_, ?_, ?_⟩⟩
  · have of_page : OfPage a bar2 (if bar2 then pgTss else a.toNat / 0x1000) (a.toNat % 0x1000) := ⟨⟨rfl, rfl, aligned⟩, here, control, plain⟩
    refine ⟨fun no_apply no_mark idle => ?_, ?_, ?_, fun busy => ?_⟩
    · exact ⟨_, exec_lowWordRead_register of_page reg no_apply no_mark idle, wordRead_gives ..⟩
    · rintro rfl at_id
      exact exec_lowWordRead_applyId of_page rfl (by omega)
    · exact fun q seq at_id => exec_lowWordRead_markId of_page q seq at_id
    · exact ⟨_, exec_lowWordRead_weBusy of_page busy, recordErr_frame .., recordErr_sets ..⟩
  · rintro rfl table
    exact gives_entry aligned table
  · rintro rfl lo hi
    exact gives_header aligned lo hi
  · rintro rfl owned
    exact gives_apgTab aligned owned
  · rintro rfl page_eq lo
    exact gives_msixPend aligned page_eq lo
  · rintro rfl lo hi no_mask
    exact gives_msixTable aligned lo hi no_mask
  · rintro rfl reserved no_table no_pend
    rw [exec_lowWordRead_reserved aligned reserved no_table no_pend]
    exact ⟨fun zero => if_pos zero, fun other => if_neg other⟩

end Sys2Proof.Machine
end

section
/-! PROOFS. Chip resets (R394 to R403): what a reset wipes, and whether the device then stays in reset or boots. -/

namespace Sys2Proof.Machine

section
variable {s : State}

/-! ### What a chip reset leaves (R403) -/

/-- A byte of HBM after its contents are lost. -/
theorem hbmLoseAll_hbmGet {k : Nat} (hk : k < 64 * pcBytes) :
    s.hbmLoseAll.hbmGet k = Config.lostByte (sget 0 s.hbmLost (k / pcBytes)) k := by
  have lost : sget 0 s.hbmLoseAll.hbmLost (k / pcBytes) = sget 0 s.hbmLost (k / pcBytes) + 1 :=
    sget_map_key 0 (fun n => sget 0 s.hbmLost n + 1) (List.mem_range.2 (Nat.div_lt_of_lt_mul (Nat.mul_comm .. ▸ hk)))
  change s.hbmLoseAll.hbmBlank k = _
  rw [State.hbmBlank, lost]

theorem wiped_cold (s : State) (phase : ChipPhase) (cause : Word32) : Cold phase cause s (s.wiped phase cause) := by
  obtain ⟨t, stopped, frame, -, -⟩ := burnStop_stops s
  have mgt_same : t.mgt = s.mgt := by rw [frame]
  refine ⟨?_, fun active => ?_, fun idle => ?_, fun k hk => ?_⟩
  · rw [State.wiped, stopped, frame]
    rfl
  · rw [State.wiped, stopped]
    change ((if t.mgt.sess.active then _ else _ : Session)).state = _ ∧ (if t.mgt.sess.active then _ else _ : Session).reason = _
    rw [mgt_same, if_pos active]
    exact ⟨rfl, rfl⟩
  · change s.burnStop.fuse.words = _
    unfold State.burnStop
    rw [idle]
    rfl
  · have lost : s.burnStop.hbmLost = s.hbmLost := by rw [stopped, frame]
    exact (hbmLoseAll_hbmGet hk).trans (by rw [lost])

section
variable {u : State} {phase : ChipPhase} {cause : Word32}

theorem Cold.phase_eq (h : Cold phase cause s u) : u.mgt.phase = phase := by rw [h.fields]
theorem Cold.rails_eq (h : Cold phase cause s u) : u.mgt.rails = s.mgt.rails := by rw [h.fields]
theorem Cold.resetN_eq (h : Cold phase cause s u) : u.mgt.resetN = s.mgt.resetN := by rw [h.fields]
theorem Cold.railsGood_eq (h : Cold phase cause s u) : u.mgt.railsGood = s.mgt.railsGood := by
  rw [Mgt.railsGood, h.rails_eq, Mgt.railsGood]

end

/-! ### The device stays in reset, or boots (R398) -/

theorem tryRelease_stays (held : s.mgt.phase ≠ .reset ∨ s.mgt.railsGood = false ∨ s.mgt.resetN = true) : s.tryRelease = s := by
  refine if_neg ?_
  rintro ⟨in_reset, rails_good, released⟩
  rcases held with running | missing | low
  · exact running in_reset
  · exact Bool.eq_false_iff.1 missing rails_good
  · exact released low

theorem tryRelease_boots (in_reset : s.mgt.phase = .reset) (rails_good : s.mgt.railsGood = true)
    (released : s.mgt.resetN = false) : s.tryRelease = s.boot :=
  if_pos ⟨in_reset, rails_good, by simp [released]⟩

theorem chipReset_stays {cause : Word32} (held : s.mgt.railsGood = false ∨ s.mgt.resetN = true) :
    s.chipReset cause = s.wiped .reset cause := by
  have cold := wiped_cold s .reset cause
  refine tryRelease_stays (.inr ?_)
  rwa [cold.railsGood_eq, cold.resetN_eq]

theorem chipReset_boots {cause : Word32} (rails_good : s.mgt.railsGood = true) (released : s.mgt.resetN = false) :
    s.chipReset cause = (s.wiped .reset cause).boot := by
  have cold := wiped_cold s .reset cause
  exact tryRelease_boots cold.phase_eq (cold.railsGood_eq.trans rails_good) (cold.resetN_eq.trans released)

theorem railsGood_lacks {m : Mgt} {r : Nat} (hr : r < 5) : ({ m with rails := clrBit m.rails r } : Mgt).railsGood = false := by
  refine decide_eq_false fun good => ?_
  have at_r := congrArg (BitVec.getLsbD · r) good
  interval_cases r <;> simp [clrBit] at at_r

theorem powered_iff {m : Mgt} : m.powered = true ↔ m.phase ≠ .unpowered := decide_eq_true_iff

/-! ### The commands (R394, R400, R402) -/

theorem exec_chipReset_wrongKey {key : BitVec 8} (hr : s.ready pgRcp = true) (wrong : key ≠ 0x5A) :
    exec (.chipReset key) s = .next (s.recordErr pgRcp 0x0051) :=
  congrArg Host.Outcome.next ((whenReady_of_ready _ hr).trans (if_neg wrong))

theorem exec_chipReset_key (hr : s.ready pgRcp = true) : exec (.chipReset 0x5A) s = .next (s.chipReset 4) :=
  congrArg Host.Outcome.next ((whenReady_of_ready _ hr).trans (if_pos rfl))

/-- RESET_N held low. -/
def State.resetHeld (s : State) : State := { s with mgt := { s.mgt with resetN := true } }

theorem exec_resetN_powered (powered : s.mgt.phase ≠ .unpowered) :
    exec .resetN s = .next (s.resetHeld.wiped .reset 2) :=
  congrArg Host.Outcome.next ((if_pos (powered_iff.2 powered)).trans (chipReset_stays (.inr rfl)))

theorem exec_resetN_unpowered (unpowered : s.mgt.phase = .unpowered) : exec .resetN s = .next s.resetHeld :=
  congrArg Host.Outcome.next (if_neg fun powered => powered_iff.1 powered unpowered)

/-- The watchdog of a device that boots counts against the slot it boots from. -/
def State.failCounted (s : State) : State :=
  { s with mgt := { s.mgt with
      fails := if s.mgt.phase = .booting then
        s.mgt.fails.set (b2n s.mgt.bootedB) (min 15 (s.mgt.fails.getD (b2n s.mgt.bootedB) 0 + 1)) else s.mgt.fails } }

theorem exec_mgtWatchdog (live : s.mgt.phase = .booting ∨ s.mgt.phase = .up) :
    exec .mgtWatchdog s = .next (s.failCounted.chipReset 8) := by
  refine congrArg Host.Outcome.next ((if_pos live).trans (congrArg (State.chipReset · 8) ?_))
  by_cases booting : s.mgt.phase = .booting
  · rw [if_pos booting, State.failCounted, if_pos booting]
    rfl
  · rw [if_neg booting, State.failCounted, if_neg booting]

/-- A rail is no longer power good. -/
def State.railLost (s : State) (r : Nat) : State := { s with mgt := { s.mgt with rails := clrBit s.mgt.rails r } }

section
variable {rail : Fin 7}

theorem exec_railFault_powered (core : rail.val < 5) (good : s.mgt.rails.getLsbD rail = true) (powered : s.mgt.phase ≠ .unpowered) :
    exec (.railFault rail) s = .next (((s.railLost rail).raiseEvt pgRcp 2).wiped .reset s.mgt.cause) := by
  refine congrArg Host.Outcome.next ((if_pos ⟨core, good⟩).trans ((if_pos (powered_iff.2 powered)).trans (chipReset_stays (.inl ?_))))
  rw [raiseEvt_mgt]
  exact railsGood_lacks core

theorem exec_railFault_unpowered (core : rail.val < 5) (good : s.mgt.rails.getLsbD rail = true)
    (unpowered : s.mgt.phase = .unpowered) : exec (.railFault rail) s = .next (s.railLost rail) :=
  congrArg Host.Outcome.next ((if_pos ⟨core, good⟩).trans (if_neg fun powered => powered_iff.1 powered unpowered))

theorem exec_railFault_ignored (other : 5 ≤ rail.val ∨ s.mgt.rails.getLsbD rail = false) : exec (.railFault rail) s = .next s := by
  refine congrArg Host.Outcome.next (if_neg ?_)
  rintro ⟨core, good⟩
  rcases other with outer | missing
  · omega
  · exact Bool.eq_false_iff.1 missing good

theorem railLost_raiseEvt_frame (s : State) (r : Nat) : ∃ v, v = (s.railLost r).raiseEvt pgRcp 2 ∧
    v = { s with mgt := { s.mgt with rails := clrBit s.mgt.rails r }, hdr := v.hdr, outbox := v.outbox, pcieHeld := v.pcieHeld,
                 msixPend := v.msixPend } ∧
    (v.hdrAt pgRcp).evtRaw = (s.hdrAt pgRcp).evtRaw ||| 2 := by
  refine ⟨_, rfl, raiseEvt_frame .., ?_⟩
  rw [raiseEvt_raw, if_pos rfl]
  rfl

end
end

/-- Settles O44: every chip reset wipes the device and then waits for rails and RESET_N, or boots. -/
theorem chipResets : Obligations.ChipResets := by
  unfold Obligations.ChipResets
  intro key rail s
  refine ⟨fun hr wrong => ⟨exec_chipReset_wrongKey hr wrong, recordErr_frame ..⟩, ?_,
    fun powered => ⟨_, wiped_cold .., exec_resetN_powered powered⟩, exec_resetN_unpowered, fun live => ?_, fun core good powered => ?_,
    exec_railFault_ignored, exec_railFault_unpowered⟩
  · rintro hr rfl
    rw [exec_chipReset_key hr]
    exact ⟨_, wiped_cold s .reset 4, fun held => congrArg Host.Outcome.next (chipReset_stays held),
      fun rails_good released => congrArg Host.Outcome.next (chipReset_boots rails_good released)⟩
  · rw [exec_mgtWatchdog live]
    exact ⟨_, wiped_cold s.failCounted .reset 8, fun held => congrArg Host.Outcome.next (chipReset_stays held),
      fun rails_good released => congrArg Host.Outcome.next (chipReset_boots rails_good released)⟩
  · obtain ⟨v, raised, frame, raw⟩ := railLost_raiseEvt_frame s rail
    refine ⟨v, _, frame, raw, wiped_cold v .reset s.mgt.cause, ?_⟩
    rw [exec_railFault_powered core good powered, raised]

end Sys2Proof.Machine
end

section
/-! PROOFS. Power, the reference clock and the temperature (R398, R400, R427, R429). -/

namespace Sys2Proof.Machine

section
variable {s : State} {rail : Fin 7} {temp : BitVec 16}

/-! ### Power of the chip and release of its reset (R398, R400) -/

/-- BOOT_FAILS and the update session after a change of VDD_AUX, with the rails as `r`. -/
def State.auxChanged (s : State) (r : BitVec 7) : State := { s with mgt := { s.mgt with rails := r, fails := [0, 0], sess := {} } }

/-- POWER_ON_RESET, which boots at once where nothing holds the reset. -/
theorem exec_powerOnReset (s : State) :
    exec .powerOnReset s = .next ((s.wiped .reset 1).auxChanged (setBit (s.wiped .reset 1).mgt.rails 5)).tryRelease := rfl

theorem exec_vddAuxLoss (s : State) :
    exec .vddAuxLoss s = .next ((s.wiped .unpowered 0).auxChanged (clrBit (s.wiped .unpowered 0).mgt.rails 5)) := rfl

theorem exec_resetNRelease (s : State) :
    exec .resetNRelease s = .next ({ s with mgt := { s.mgt with resetN := false } } : State).tryRelease := rfl

theorem exec_railPowerGood (core : rail.val ≠ 5) : exec (.railPowerGood rail) s =
    .next ({ s with mgt := { s.mgt with rails := setBit s.mgt.rails rail } } : State).tryRelease :=
  congrArg Host.Outcome.next (if_neg core)

theorem exec_railPowerGood_aux (aux : rail.val = 5) : exec (.railPowerGood rail) s = .next s :=
  congrArg Host.Outcome.next (if_pos aux)

/-- A device in reset with the levels of its pins boots; any other state stays. -/
theorem next_tryRelease {c : Instr} {v : State} (run : exec c s = .next v.tryRelease) :
    (v.mgt.phase = .reset → v.mgt.railsGood = true → v.mgt.resetN = false → exec c s = .next v.boot) ∧
    (v.mgt.phase ≠ .reset ∨ v.mgt.railsGood = false ∨ v.mgt.resetN = true → exec c s = .next v) :=
  ⟨fun in_reset good released => run.trans (congrArg Host.Outcome.next (tryRelease_boots in_reset good released)),
    fun held => run.trans (congrArg Host.Outcome.next (tryRelease_stays held))⟩

/-! ### The reference clock and the temperature (R427, R429) -/

theorem exec_refclkLoss (present : s.mgt.refclk = true) : exec .refclkLoss s =
    .next ((s.modMgt (fun m => { m with refclk := false, refLost := some s.now })).raiseEvt pgRcp 1) :=
  congrArg Host.Outcome.next (if_pos present)

theorem exec_pllStop {e : Nat} (lost : s.mgt.refLost = some e) (due : e + 4000 ≤ s.now) :
    exec .pllStop s = .next { s with mgt := { s.mgt with pllLocked := false, refLost := none } } := by
  change Host.Outcome.next _ = _
  rw [lost]
  exact congrArg Host.Outcome.next (if_pos due)

/-- TEMP_LIMIT. -/
def State.tempLimit (s : State) : Int := ((s.reg pgChip 0x11C).extractLsb' 0 16).toInt

theorem exec_tempWarn (temp : BitVec 16) (s : State) : exec (.tempWarn temp) s =
    .next (if s.mgt.powered ∧ s.tempLimit ≤ temp.toInt ∧ s.mgt.temp.toInt < s.tempLimit then
      (s.modMgt (fun m => { m with temp := temp })).raiseEvt pgChip 2 else s.modMgt (fun m => { m with temp := temp })) := rfl

theorem mgtOnly_refl (s : State) : MgtOnly s s := rfl

theorem modMgt_raiseEvt_mgtOnly (s : State) (f : Mgt → Mgt) (p : Nat) (b : Word32) : MgtOnly s ((s.modMgt f).raiseEvt p b) :=
  mgtOnly_trans (mgtOnly_modMgt (mgtOnly_refl s) f) (raiseEvt_mgtOnly ..)

theorem modMgt_raiseEvt_raw (s : State) (f : Mgt → Mgt) (p : Nat) (b : Word32) :
    (((s.modMgt f).raiseEvt p b).hdrAt p).evtRaw = (s.hdrAt p).evtRaw ||| b := by
  rw [raiseEvt_raw, if_pos rfl]
  rfl

theorem tempWarn_sets (temp : BitVec 16) (s : State) : ∃ t, exec (.tempWarn temp) s = .next t ∧ MgtOnly s t ∧
    t.mgt = { s.mgt with temp := temp } ∧
    (s.mgt.phase ≠ .unpowered → s.tempLimit ≤ temp.toInt → s.mgt.temp.toInt < s.tempLimit →
      (t.hdrAt pgChip).evtRaw = (s.hdrAt pgChip).evtRaw ||| 2) ∧
    (temp.toInt < s.tempLimit → t.hdr = s.hdr) := by
  refine ⟨_, exec_tempWarn temp s, ?_⟩
  by_cases warns : s.mgt.powered ∧ s.tempLimit ≤ temp.toInt ∧ s.mgt.temp.toInt < s.tempLimit
  · rw [if_pos warns]
    exact ⟨modMgt_raiseEvt_mgtOnly .., raiseEvt_mgt .., fun _ _ _ => modMgt_raiseEvt_raw .., fun below => by omega⟩
  · rw [if_neg warns]
    exact ⟨mgtOnly_modMgt (mgtOnly_refl s) _, rfl, fun powered reaches rises => absurd ⟨powered_iff.2 powered, reaches, rises⟩ warns,
      fun _ => rfl⟩

end

/-- Settles O45: power and its loss wipe the device; the clock and the temperature change management's state alone. -/
theorem powerAndClocks : Obligations.PowerAndClocks := by
  unfold Obligations.PowerAndClocks
  refine ⟨fun rail s => ⟨⟨_, wiped_cold s .reset 1, ?_⟩, ⟨_, wiped_cold s .unpowered 0, exec_vddAuxLoss s⟩, ?_, ?_,
    exec_railPowerGood_aux⟩, fun temp s => ⟨fun present => ?_, fun e => exec_pllStop, tempWarn_sets temp s⟩⟩
  · rintro v rfl
    have cold := wiped_cold s .reset 1
    obtain ⟨boots, stays⟩ := next_tryRelease (exec_powerOnReset s)
    exact ⟨fun held => stays (.inr (held.imp_right cold.resetN_eq.trans)),
      fun good released => boots cold.phase_eq good (cold.resetN_eq.trans released)⟩
  · rintro v rfl
    obtain ⟨boots, stays⟩ := next_tryRelease (exec_resetNRelease s)
    exact ⟨fun in_reset good => boots in_reset good rfl, fun held => stays (held.imp_right .inl)⟩
  · rintro core v rfl
    obtain ⟨boots, stays⟩ := next_tryRelease (exec_railPowerGood (s := s) core)
    exact ⟨boots, stays⟩
  · exact ⟨_, exec_refclkLoss present, modMgt_raiseEvt_mgtOnly .., raiseEvt_mgt .., modMgt_raiseEvt_raw ..⟩

end Sys2Proof.Machine
end

section
/-! PROOFS. The mailbox (R395, R413, R415): a request taken up and answered, the doorbell, and the pin record. -/

namespace Sys2Proof.Machine

section
variable {s : State} {r : MboxReq}

/-! ### A request that firmware takes up, and its answer (R395) -/

/-- No request waits. -/
def State.taken (s : State) : State := s.modMgt (fun m => { m with waiting := [] })

theorem taken_mgtOnly (s : State) : MgtOnly s s.taken := mgtOnly_modMgt (mgtOnly_refl s) _

/-- A command that answers the request it takes from state `u`, which differs from `v` in management alone. -/
theorem takeReq_answers {c status : Nat} {f : MboxReq → State → State} {pay : List Word32} {u v : State} (h : Asked c r s)
    (answers : f r s.taken = u.answer r status pay) (only : MgtOnly v u) (no_more : u.mgt.waiting = []) :
    ∃ t, takeReq c f s = .next t ∧ MgtOnly v t ∧ t = u.answer r status pay ∧ t.mgt = u.mgt.answered r status pay u.now := by
  obtain ⟨answer_only, answer_mgt⟩ := answer_host u r status pay h.host no_more
  refine ⟨_, ?_, mgtOnly_trans only answer_only, rfl, answer_mgt⟩
  rw [takeReq_asked h f, ← answers]
  refine congrArg Host.Outcome.next (reject_nil _ ?_)
  rw [← State.taken, answers, answer_mgt]
  rfl

/-- A command that only answers. -/
theorem takeReq_only_answers {c status : Nat} {f : MboxReq → State → State} {pay : List Word32} (h : Asked c r s)
    (answers : f r s.taken = s.taken.answer r status pay) : ∃ t, takeReq c f s = .next t ∧ MgtOnly s t ∧
      t = s.taken.answer r status pay ∧ t.mgt = s.mgt.answered r status pay s.now :=
  takeReq_answers h answers (taken_mgtOnly s) rfl

/-- DENIED raises its event (R415). -/
theorem answer_denied_event (s : State) (r : MboxReq) (pay : List Word32) (host : r.src = none) :
    ((s.answer r stDenied pay).hdrAt pgUpd).evtRaw.getLsbD 2 = true := by
  unfold State.answer
  rw [if_pos rfl, host]
  dsimp only
  rw [raiseEvt_raw, if_neg (by decide)]
  change ((s.raiseEvt pgUpd 4).hdrAt pgUpd).evtRaw.getLsbD 2 = true
  rw [raiseEvt_raw, if_pos rfl]
  simp

/-! ### The doorbell (R395) -/

/-- The request whose words the mailbox registers hold. -/
def State.hostReq (s : State) : MboxReq :=
  { src := none, words := (List.range 16).map (fun i => s.reg pgMbox (0x200 + 4 * i)), edge := s.now }

/-- The host's request waits, in front of those of neighbours of its cycle. -/
def State.rung (s : State) : State :=
  { s with mgt := { s.mgt with
      mboxBusy := true
      waiting := s.mgt.waiting.filter (fun x => x.edge ≠ s.now) ++ [s.hostReq] ++ s.mgt.waiting.filter (fun x => x.edge = s.now) } }

theorem rejectHead_without_agent (no_agent : s.mgt.agent = false) (n : Nat) : s.rejectHead n = s := by
  cases n with
  | zero => rfl
  | succ n =>
    unfold State.rejectHead
    split
    · exact if_pos (by simp [no_agent])
    · rfl

theorem rejectHead_takes {l : List MboxReq} {n : Nat} (head : s.mgt.waiting = r :: l) (known : s.mgt.knows r.cmd = true)
    (length : lenOk r = true) : s.rejectHead n = s := by
  cases n with
  | zero => rfl
  | succ n =>
    unfold State.rejectHead
    rw [head]
    dsimp only
    rw [if_neg (show ¬ ¬ s.mgt.knows r.cmd = true by simp [known]), if_neg (show ¬ ¬ lenOk r = true by simp [length]), ite_self]

/-- An unknown command that waits alone is answered BAD_CMD. -/
theorem reject_unknown (head : s.mgt.waiting = [r]) (agent : s.mgt.agent = true) (unknown : s.mgt.knows r.cmd = false) :
    s.reject = s.taken.answer r stBadCmd := by
  unfold State.reject
  rw [head]
  change s.rejectHead 1 = _
  unfold State.rejectHead
  rw [head]
  exact (if_neg (by simp [agent])).trans (if_pos (by simp [unknown]))

theorem rung_waits_alone (empty : s.mgt.waiting = []) : s.rung.mgt.waiting = [s.hostReq] := by simp [State.rung, empty]

theorem exec_doorbell (hr : s.ready pgMbox = true) (idle : s.mgt.mboxBusy = false) (free : s.mgt.rspValid = false) :
    exec .doorbell s = .next s.rung.reject :=
  congrArg Host.Outcome.next ((whenReady_of_ready _ hr).trans (if_neg (by simp [idle, free])))

theorem exec_doorbell_refused (hr : s.ready pgMbox = true) (busy : s.mgt.mboxBusy = true ∨ s.mgt.rspValid = true) :
    exec .doorbell s = .next (s.recordErr pgMbox 0x0050) :=
  congrArg Host.Outcome.next ((whenReady_of_ready _ hr).trans (if_pos busy))

theorem rung_reject_waits (waits : s.mgt.agent = false ∨ (s.mgt.waiting = [] ∧ s.mgt.knows s.hostReq.cmd = true ∧
    lenOk s.hostReq = true)) : s.rung.reject = s.rung := by
  rcases waits with no_agent | ⟨empty, known, length⟩
  · exact rejectHead_without_agent (s := s.rung) no_agent _
  · exact rejectHead_takes (rung_waits_alone empty) known length

theorem rung_reject_unknown (agent : s.mgt.agent = true) (empty : s.mgt.waiting = []) (unknown : s.mgt.knows s.hostReq.cmd = false) :
    MgtOnly s s.rung.reject ∧ s.rung.reject.mgt = s.mgt.answered s.hostReq 1 [] s.now := by
  rw [reject_unknown (rung_waits_alone empty) agent unknown]
  obtain ⟨only, mgt⟩ := answer_host s.rung.taken s.hostReq stBadCmd [] rfl rfl
  exact ⟨mgtOnly_trans (mgtOnly_modMgt (mgtOnly_modMgt (mgtOnly_refl s) fun _ => s.rung.mgt) _) only, mgt⟩

theorem exec_mboxAck (hr : s.ready pgMbox = true) (valid : s.mgt.rspValid = true) : exec .mboxAck s =
    .next (if s.mgt.rspEdge ≠ s.now + 1 then { s with mgt := { s.mgt with rspValid := false } } else s) :=
  congrArg Host.Outcome.next ((whenReady_of_ready _ hr).trans (if_congr (and_iff_right valid) rfl rfl))

/-! ### Messages of neighbours (R415) -/

theorem exec_mboxMessage_waits {port : Fin 6} {words : List Word32} (up : (s.zpAt port).isUp = true) (no_agent : s.mgt.agent = false) :
    exec (.mboxMessage port words) s = .next { s with mgt := { s.mgt with
      waiting := s.mgt.waiting ++ [{ src := some port.val, words := words, edge := s.now }] } } :=
  congrArg Host.Outcome.next ((if_pos up).trans (rejectHead_without_agent (s := s.pushReq _) no_agent _))

theorem exec_mboxMessage_down {port : Fin 6} {words : List Word32} (down : (s.zpAt port).isUp = false) :
    exec (.mboxMessage port words) s = .next s :=
  congrArg Host.Outcome.next (if_neg (Bool.eq_false_iff.1 down))

/-! ### The pin record (R413) -/

/-- The pin record after a request that names `n`: slot A, slot B, none, or another value, which changes nothing. -/
def Mgt.pinned (m : Mgt) (n : Word32) : Mgt :=
  { m with pin := if n = 0 then some false else if n = 1 then some true else if n = 2 then none else m.pin }

theorem pinned_eq (m : Mgt) (n : Word32) : (if n = 0 then { m with pin := some false } else if n = 1 then { m with pin := some true }
    else if n = 2 then { m with pin := none } else m) = m.pinned n := by
  unfold Mgt.pinned
  split
  · rfl
  · split
    · rfl
    · split <;> rfl

theorem pinned_named (m : Mgt) {n : Word32} (named : n.toNat ≤ 2) :
    { m with pin := if n.toNat = 2 then none else some (decide (n.toNat = 1)) } = m.pinned n := by
  obtain ⟨k, hk⟩ : ∃ k, n = BitVec.ofNat 32 k ∧ k ≤ 2 := ⟨n.toNat, by simp, named⟩
  obtain ⟨rfl, at_most⟩ := hk
  interval_cases k <;> rfl

theorem pinned_other (m : Mgt) {n : Word32} (other : 2 < n.toNat) : m.pinned n = m := by
  have differs (k : Word32) (hk : k.toNat ≤ 2) : n ≠ k := fun same => by rw [same] at other; omega
  unfold Mgt.pinned
  rw [if_neg (differs 0 (by decide)), if_neg (differs 1 (by decide)), if_neg (differs 2 (by decide))]

theorem updPin_answers (r : MboxReq) (s : State) :
    updPin r s = (s.modMgt (·.pinned (r.w 1))).answer r (if r.w 1 ≤ 2 then 0 else 5) [] := by
  by_cases named : (r.w 1).toNat ≤ 2
  · refine (if_neg (not_lt.2 named)).trans ?_
    rw [if_pos (show r.w 1 ≤ 2 from named), State.modMgt, State.modMgt, pinned_named _ named]
    rfl
  · refine (if_pos (not_le.1 named)).trans ?_
    rw [if_neg (show ¬ r.w 1 ≤ 2 from named), State.modMgt, pinned_other _ (not_le.1 named)]
    rfl

theorem exec_updPin (h : Asked 0x24 r s) : ∃ t, exec .updPin s = .next t ∧ MgtOnly s t ∧
    t.mgt = (s.mgt.pinned (r.w 1)).answered r (if r.w 1 ≤ 2 then 0 else 5) [] s.now := by
  obtain ⟨t, run, only, -, mgt⟩ := takeReq_answers (f := updPin) h (updPin_answers r s.taken) (mgtOnly_modMgt (taken_mgtOnly s) _) rfl
  exact ⟨t, run, only, mgt⟩

end

/-- Settles O47: the doorbell leaves its request waiting or answers it at once, and a query is one answer. -/
theorem mailbox : Obligations.Mailbox := by
  unfold Obligations.Mailbox
  refine ⟨fun port words s => ⟨fun hr busy => ⟨exec_doorbell_refused hr busy, recordErr_frame ..⟩, fun hr idle free => ?_,
    fun hr valid => ?_, exec_mboxMessage_waits, exec_mboxMessage_down⟩, fun r s => ⟨fun h => ?_, fun h => ?_, fun h => ?_, fun h => ?_⟩⟩
  · have run := exec_doorbell hr idle free
    exact ⟨fun waits => run.trans (congrArg Host.Outcome.next (rung_reject_waits waits)),
      fun agent empty unknown => ⟨_, run, rung_reject_unknown agent empty unknown⟩⟩
  · have run := exec_mboxAck hr valid
    exact ⟨fun old => run.trans (congrArg Host.Outcome.next (if_pos old)),
      fun now => run.trans (congrArg Host.Outcome.next (if_neg (not_not.2 now)))⟩
  · obtain ⟨t, run, only, -, mgt⟩ := takeReq_only_answers (s := s) h (f := fun r s => s.answer r stOk ((List.range 5).map (fun i =>
      BitVec.ofNat 32 (comp (s.slotHeader s.mgt.bootedB) i 4 4)))) rfl
    exact ⟨t, run, only, mgt⟩
  · obtain ⟨t, run, only, -, mgt⟩ := takeReq_only_answers (s := s) h (f := fun r s => s.answer r stOk
      [s.mgt.temp.signExtend 32, BitVec.ofInt 32 (s.pcAt 0).temp, BitVec.ofInt 32 (s.pcAt 32).temp]) rfl
    exact ⟨t, run, only, mgt⟩
  · obtain ⟨t, run, only, -, mgt⟩ := takeReq_only_answers (s := s) h (f := fun r s => s.answer r stOk
      [s.mgt.sess.stat, BitVec.ofNat 32 s.mgt.sess.bytes]) rfl
    exact ⟨t, run, only, mgt⟩
  · rw [pinned_eq]
    exact exec_updPin h

end Sys2Proof.Machine
end

section
/-! PROOFS. Key fuses (R335, R415, R416): one fuse programmed, the burn buffer and a burn over the mailbox. -/

namespace Sys2Proof.Machine

section
variable {s : State} {r : MboxReq}

/-! ### One key fuse (R416, R417) -/

/-- From `s` to `t` fuse `n` alone is programmed and request `r` answered OK. -/
structure OneFuse (s : State) (r : MboxReq) (n : Nat) (t : State) : Prop where
  only : MgtOnly { s with fuse := t.fuse } t
  fuse : t.fuse = { s.fuse with words := t.fuse.words }
  set : t.fuseWord (n / 32) = setBit (s.fuseWord (n / 32)) (n % 32)
  stay : ∀ k, k ≠ n / 32 → t.fuseWord k = s.fuseWord k
  mgt : t.mgt = s.mgt.answered r 0 [] s.now

theorem MgtOnly.fuse_eq {t : State} (h : MgtOnly s t) : t.fuse = s.fuse := by rw [h]

theorem takeReq_oneFuse {c n : Nat} {f : MboxReq → State → State} (h : Asked c r s)
    (programs : f r s.taken = (s.taken.fuseBit n).answer r stOk) : ∃ t, takeReq c f s = .next t ∧ OneFuse s r n t := by
  obtain ⟨t, run, only, -, mgt⟩ := takeReq_answers h programs (mgtOnly_refl _) rfl
  have words (k : Nat) : t.fuseWord k = if k = n / 32 then setBit (s.fuseWord (n / 32)) (n % 32) else s.fuseWord k := by
    rw [State.fuseWord, only.fuse_eq]
    exact sget_sput ..
  refine ⟨t, run, ⟨?_, ?_, (words _).trans (if_pos rfl), fun k other => (words k).trans (if_neg other), mgt⟩⟩
  · unfold MgtOnly
    conv_lhs => rw [only]
    rw [only.fuse_eq]
    rfl
  · rw [only.fuse_eq]
    rfl

theorem epochBump_programs (idle : s.fuse.burn = none) (good : s.vqps = true) (room : s.epoch < 64)
    (reached : s.epoch + 1 ≤ bundleEpoch (s.slotHeader s.mgt.bootedB)) :
    epochBump r s = (s.fuseBit (18048 + s.epoch)).answer r stOk := by
  refine (if_neg (by simp [idle])).trans (if_neg ?_)
  rintro (low | full | behind)
  · exact low good
  · omega
  · omega

theorem revoke_programs (idle : s.fuse.burn = none) (good : s.vqps = true) (slot : (r.w 1).toNat < 3)
    (other : (r.w 1).toNat ≠ bundleSigner (s.slotHeader s.mgt.bootedB))
    (left : ∃ i < 3, i ≠ (r.w 1).toNat ∧ s.revoked.getLsbD i = false) :
    revoke r s = (s.fuseBit (18112 + (r.w 1).toNat)).answer r stOk := by
  refine (if_neg (by simp [idle])).trans (if_neg ?_)
  rintro (low | beyond | own | last)
  · exact low good
  · omega
  · exact other own
  · obtain ⟨i, small, not_it, valid⟩ := left
    have mem : i ∈ (List.range 3).filter (fun i => ¬ s.revoked.getLsbD i) := List.mem_filter.2 ⟨List.mem_range.2 small, by simp [valid]⟩
    exact not_it (List.mem_singleton.1 (last ▸ mem))

/-- EPOCH_BUMP and REVOKE are answered BUSY while a burn runs and DENIED without VQPS. -/
theorem keyFuse_refuses {c : Nat} {i : Instr} (mem : (c, i) ∈ [(0x28, Instr.epochBump), (0x29, .revoke)]) (h : Asked c r s) :
    (s.fuse.burn = none → s.vqps = false → ∃ t, exec i s = .next t ∧ MgtOnly s t ∧ t.mgt = s.mgt.answered r 5 [] s.now) ∧
    (s.fuse.burn ≠ none → ∃ t, exec i s = .next t ∧ MgtOnly s t ∧ t.mgt = s.mgt.answered r 3 [] s.now) := by
  have answers {f : MboxReq → State → State} {status : Nat} (run : exec i s = takeReq c f s)
      (ans : f r s.taken = s.taken.answer r status) :
      ∃ t, exec i s = .next t ∧ MgtOnly s t ∧ t.mgt = s.mgt.answered r status [] s.now := by
    obtain ⟨t, took, only, -, mgt⟩ := takeReq_only_answers h ans
    exact ⟨t, run.trans took, only, mgt⟩
  simp only [List.mem_cons, List.not_mem_nil, or_false, Prod.mk.injEq] at mem
  obtain ⟨rfl, rfl⟩ | ⟨rfl, rfl⟩ := mem
  · refine ⟨fun idle low => answers (f := epochBump) rfl ?_, fun going => answers (f := epochBump) rfl ?_⟩
    · exact (if_neg (by simp [State.taken, State.modMgt, idle])).trans (if_pos (.inl (Bool.eq_false_iff.1 low)))
    · exact if_pos (Option.isSome_iff_ne_none.2 going)
  · refine ⟨fun idle low => answers (f := revoke) rfl ?_, fun going => answers (f := revoke) rfl ?_⟩
    · exact (if_neg (by simp [State.taken, State.modMgt, idle])).trans (if_pos (.inl (Bool.eq_false_iff.1 low)))
    · exact if_pos (Option.isSome_iff_ne_none.2 going)

/-! ### The burn buffer and its burn (R335, R415) -/

/-- The state with `b` as the burn buffer. -/
def State.buffered (s : State) (b : Sparse Word32) : State := s.setFuse { s.fuse with buf := b }

/-- The burn buffer with the words of a request from address `a`. -/
def MboxReq.fill (r : MboxReq) (a n : Nat) (b : Sparse Word32) : Sparse Word32 :=
  (List.range n).foldl (fun b i => sput b ((a + i) % 512) (r.w (2 + i))) b

theorem foldState_buf (a : Nat) (l : List Nat) (s : State) :
    foldState l (fun i s => s.setFuse { s.fuse with buf := sput s.fuse.buf ((a + i) % 512) (r.w (2 + i)) }) s =
      s.buffered (l.foldl (fun b i => sput b ((a + i) % 512) (r.w (2 + i))) s.fuse.buf) := by
  induction l generalizing s with
  | nil => rfl
  | cons i l ih =>
    rw [foldState_cons, ih]
    rfl

theorem fuseBuf_answers (r : MboxReq) (s : State) :
    fuseBuf r s = (s.buffered (r.fill (r.w 1).toNat (r.len - 1) s.fuse.buf)).answer r stOk :=
  congrArg (State.answer · r stOk) (foldState_buf ..)

theorem sget_fill (a n i : Nat) (b : Sparse Word32) (few : n ≤ 512) (hi : i < n) : sget 0 (r.fill a n b) ((a + i) % 512) = r.w (2 + i) := by
  induction n with
  | zero => omega
  | succ n ih =>
    rw [MboxReq.fill, List.range_succ, List.foldl_append, List.foldl_cons, List.foldl_nil, sget_sput]
    by_cases last : i = n
    · rw [last, if_pos rfl]
    · rw [if_neg (by omega)]
      exact ih (by omega) (by omega)

theorem exec_fuseBuf (h : Asked 0x2A r s) : ∃ t, exec .fuseBuf s = .next t ∧
    MgtOnly { s with fuse := { s.fuse with buf := t.fuse.buf } } t ∧ t.mgt = s.mgt.answered r 0 [] s.now ∧
    ∀ i < r.len - 1, sget 0 t.fuse.buf (((r.w 1).toNat + i) % 512) = r.w (2 + i) := by
  have few : r.len - 1 ≤ 512 := by
    have := (fld_eq_div_mod (r.w 0) 16 8)
    simp only [MboxReq.len]
    omega
  obtain ⟨t, run, only, -, mgt⟩ := takeReq_answers h (fuseBuf_answers r s.taken) (mgtOnly_refl _) rfl
  have buf : t.fuse.buf = r.fill (r.w 1).toNat (r.len - 1) s.fuse.buf := by rw [only.fuse_eq]; rfl
  refine ⟨t, run, ?_, mgt, fun i hi => by rw [buf, sget_fill _ _ _ _ few hi]⟩
  unfold MgtOnly
  conv_lhs => rw [only]
  rw [buf]
  rfl

/-- A FUSE_BURN that the burn refuses. -/
theorem exec_fuseBurn_refused {code : Nat} (h : Asked 0x2B r s)
    (refused : s.taken.burn (fld (r.w 1) 16 8) (fld (r.w 1) 0 16) = (some code, s.taken)) :
    ∃ t, exec .fuseBurn s = .next t ∧ MgtOnly { s with fuse := { s.fuse with cmdStat := code } } t ∧
      t.mgt = s.mgt.answered r (if code = 1 then stBusy else stDenied) [] s.now := by
  have answers : fuseBurn r s.taken =
      (s.taken.setFuse { s.fuse with cmdStat := code }).answer r (if code = 1 then stBusy else stDenied) := by
    rw [fuseBurn, refused]
    rfl
  obtain ⟨t, run, only, -, mgt⟩ := takeReq_answers (v := { s with fuse := { s.fuse with cmdStat := code } }) h answers rfl rfl
  exact ⟨t, run, only, mgt⟩

theorem exec_fuseBurn_begins {len : Nat} (h : Asked 0x2B r s) (len_eq : len = fld (r.w 1) 16 8) (idle : s.fuse.burn = none)
    (room : len + 1 ≤ s.fuse.free) (good : s.vqps = true) (some_len : 0 < len) (most : len ≤ 64) : ∃ t b, exec .fuseBurn s = .next t ∧
      MgtOnly { s with fuse := { s.fuse with free := s.fuse.free - (len + 1), burnBlock := 184 - s.fuse.free, burn := some b } } t ∧
      t.mgt = s.mgt.answered r 0 [] s.now := by
  have begun := burn_begins (s := s.taken) (gen := fld (r.w 1) 0 16) idle room good some_len most
  have answers : fuseBurn r s.taken = (s.taken.burn len (fld (r.w 1) 0 16)).2.answer r stOk := by
    rw [fuseBurn, ← len_eq, begun]
  rw [begun] at answers
  obtain ⟨t, run, only, -, mgt⟩ := takeReq_answers (v := s.setFuse _) h answers rfl rfl
  exact ⟨t, _, run, only, mgt⟩

end

/-- Settles O50: each command is one answer, after at most one fuse, a filled buffer or a burn that begins. -/
theorem keyFuses : Obligations.KeyFuses := by
  unfold Obligations.KeyFuses
  intro r s
  dsimp only
  refine ⟨fun h idle good room reached => ?_, fun h idle good slot other left => ?_, fun c mem h => keyFuse_refuses mem h, exec_fuseBuf,
    fun h => ⟨fun going => ?_, fun len len_eq idle room => ⟨fun low => ?_, fun good some_len most => ?_⟩⟩⟩
  · obtain ⟨t, run, only, fuse, set, stay, mgt⟩ := takeReq_oneFuse (f := epochBump) h
      (epochBump_programs (s := s.taken) idle good room reached)
    exact ⟨t, run, only, fuse, set, stay, mgt⟩
  · obtain ⟨t, run, only, fuse, set, stay, mgt⟩ := takeReq_oneFuse (f := revoke) h
      (revoke_programs (s := s.taken) idle good slot other left)
    exact ⟨t, run, only, fuse, set, stay, mgt⟩
  · exact exec_fuseBurn_refused h (burn_while_burning (s := s.taken) going)
  · have len_fld : len = fld (r.w 1) 16 8 := len_eq.trans (fld_eq_div_mod (r.w 1) 16 8).symm
    exact exec_fuseBurn_refused h (burn_without_vqps (s := s.taken) idle (len_fld ▸ room) low)
  · exact exec_fuseBurn_begins h (len_eq.trans (fld_eq_div_mod (r.w 1) 16 8).symm) idle room good some_len most

end Sys2Proof.Machine
end

section
/-! PROOFS. Update sessions (R415): who holds the lock, and what each command does to the session. -/

namespace Sys2Proof.Machine

section
variable {s : State} {r : MboxReq}

/-! ### Who holds the lock (R415) -/

theorem locked_of_neighbour {p : Nat} (host : r.src = none) (active : s.mgt.sess.active = true)
    (holder : s.mgt.sess.owner = some (some p)) : s.locked r = true :=
  decide_eq_true ⟨active, by simp [holder, host]⟩

theorem not_locked_of_inactive (idle : s.mgt.sess.active = false) : ¬ s.locked r = true := by simp [State.locked, idle]

theorem not_owns_of_inactive (idle : s.mgt.sess.active = false) : ¬ s.owns r = true := by simp [State.owns, idle]

theorem not_locked_of_host (host : r.src = none) (holder : s.mgt.sess.owner = some none) : ¬ s.locked r = true := by
  simp [State.locked, holder, host]

theorem owns_of_host (host : r.src = none) (active : s.mgt.sess.active = true) (holder : s.mgt.sess.owner = some none) :
    s.owns r = true := decide_eq_true ⟨active, by rw [holder, host]⟩

theorem active_of_receiving (state : s.mgt.sess.state = .receiving) : s.mgt.sess.active = true := decide_eq_true (.inl state)

theorem active_of_headerOk (state : s.mgt.sess.state = .headerOk) : s.mgt.sess.active = true := decide_eq_true (.inr (.inl state))

/-- The commands of a session, each with its number and its function. -/
inductive SessCmd : Nat → Instr → (MboxReq → State → State) → Prop
  | opens : SessCmd 0x20 .updOpen updOpen
  | data : SessCmd 0x21 .updData updData
  | commit : SessCmd 0x22 .updCommit updCommit
  | abort : SessCmd 0x23 .updAbort updAbort

section
variable {c : Nat} {i : Instr} {f : MboxReq → State → State}

theorem SessCmd.of_mem (mem : (c, i) ∈ [(0x20, Instr.updOpen), (0x21, .updData), (0x22, .updCommit), (0x23, .updAbort)]) :
    ∃ f, SessCmd c i f := by
  simp only [List.mem_cons, List.not_mem_nil, or_false, Prod.mk.injEq] at mem
  obtain ⟨rfl, rfl⟩ | ⟨rfl, rfl⟩ | ⟨rfl, rfl⟩ | ⟨rfl, rfl⟩ := mem
  · exact ⟨_, .opens⟩
  · exact ⟨_, .data⟩
  · exact ⟨_, .commit⟩
  · exact ⟨_, .abort⟩

theorem SessCmd.exec_eq (h : SessCmd c i f) (s : State) : exec i s = takeReq c f s := by cases h <;> rfl

theorem SessCmd.busy (h : SessCmd c i f) (locked : s.locked r = true) : f r s = s.answer r stBusy := by
  cases h <;> exact if_pos locked

theorem SessCmd.denied (h : SessCmd c i f) (later : c ≠ 0x20) (idle : s.mgt.sess.active = false) : f r s = s.answer r stDenied := by
  have free := not_locked_of_inactive (r := r) idle
  have no_owner := not_owns_of_inactive (r := r) idle
  cases h with
  | opens => exact absurd rfl later
  | data => exact (if_neg free).trans (if_pos (.inl no_owner))
  | commit => exact (if_neg free).trans (if_pos (.inl no_owner))
  | abort => exact (if_neg free).trans (if_pos no_owner)

theorem SessCmd.exec_busy {p : Nat} (h : SessCmd c i f) (asked : Asked c r s) (active : s.mgt.sess.active = true)
    (holder : s.mgt.sess.owner = some (some p)) :
    ∃ t, exec i s = .next t ∧ MgtOnly s t ∧ t.mgt = s.mgt.answered r 3 [] s.now := by
  obtain ⟨t, run, only, -, mgt⟩ := takeReq_only_answers asked (h.busy (locked_of_neighbour (s := s.taken) asked.host active holder))
  exact ⟨t, (h.exec_eq s).trans run, only, mgt⟩

theorem SessCmd.exec_denied (h : SessCmd c i f) (asked : Asked c r s) (later : c ≠ 0x20) (idle : s.mgt.sess.active = false) :
    ∃ t, exec i s = .next t ∧ MgtOnly s t ∧ t.mgt = s.mgt.answered r 5 [] s.now ∧ (t.hdrAt pgUpd).evtRaw.getLsbD 2 = true := by
  obtain ⟨t, run, only, t_eq, mgt⟩ := takeReq_only_answers asked (h.denied (s := s.taken) later idle)
  exact ⟨t, (h.exec_eq s).trans run, only, mgt, t_eq ▸ answer_denied_event _ _ _ asked.host⟩

end

/-! ### UPD_OPEN -/

/-- Management with the session that UPD_OPEN begins. -/
def Mgt.opened (m : Mgt) (r : MboxReq) (iv : BitVec 96) (now : Nat) : Mgt :=
  { m with
    flash := eraseSector m.flash (slotBase m.target + slotTrailer), flashOps := [.erase],
    sess := { state := .receiving, owner := some r.src, targetB := m.target, total := (r.w 1).toNat, dataAt := now, storeIv := iv } }

/-- The state in which that session has begun; its STORE_IV is drawn. -/
def State.opened (s : State) (r : MboxReq) : State :=
  { (s.fresh 96).2 with mgt := s.mgt.opened r (s.fresh 96).1 s.now }

theorem updOpen_opens (idle : s.mgt.sess.active = false) : updOpen r s = (s.opened r).answer r stOk :=
  (if_neg (not_locked_of_inactive idle)).trans (if_neg (Bool.eq_false_iff.1 idle))

theorem sget_eraseSector (f : List Host.Cell) (b a : Nat) :
    sget erased (eraseSector f b) a = if a / 65536 = b / 65536 then erased else sget erased f a := by
  refine (sget_filter_key erased f (fun k => decide (k / 65536 ≠ b / 65536)) a).trans ?_
  by_cases same : a / 65536 = b / 65536 <;> simp [same]

theorem exec_updOpen (h : Asked 0x20 r s) (idle : s.mgt.sess.active = false) : ∃ t, exec .updOpen s = .next t ∧
    MgtOnly { s with freeCtr := s.freeCtr + 1 } t ∧ t.mgt = (s.mgt.opened r (s.fresh 96).1 s.now).answered r 0 [] s.now := by
  obtain ⟨t, run, only, -, mgt⟩ := takeReq_answers (v := { s with freeCtr := s.freeCtr + 1 }) h (updOpen_opens (s := s.taken) idle) rfl rfl
  exact ⟨t, run, only, mgt⟩

/-! ### UPD_DATA -/

/-- The session has received `l` too. -/
def State.extended (s : State) (l : List Byte) : State :=
  s.modSess (fun v => { v with received := v.received ++ l, dataAt := s.now })

theorem extended_mgtOnly (s : State) (l : List Byte) : MgtOnly s (s.extended l) := rfl

/-- Data that leave the header incomplete only extend what was received. -/
theorem sessData_extends {l : List Byte} (state : s.mgt.sess.state = .receiving)
    (short : s.mgt.sess.received.length + l.length < 1024) (fits : s.mgt.sess.received.length + l.length ≤ s.mgt.sess.total) :
    s.sessData l = s.extended l := by
  have length : (s.extended l).mgt.sess.received.length = s.mgt.sess.received.length + l.length := List.length_append
  have within : ¬ (s.extended l).mgt.sess.received.length > (s.extended l).mgt.sess.total :=
    length ▸ Nat.not_lt.2 fits
  have no_header : ¬ ((s.extended l).mgt.sess.state = .receiving ∧ bundleHeader ≤ (s.extended l).mgt.sess.received.length) :=
    fun h => Nat.not_le.2 short (length ▸ h.2)
  have still : (s.extended l).mgt.sess.state ≠ .headerOk := fun h => by cases state.symm.trans h
  unfold State.sessData
  dsimp only
  rw [← State.extended, if_neg within, if_neg no_header, if_neg fun h => still h.1]
  exact if_neg fun h => still h.1

theorem updData_appends (host : r.src = none) (state : s.mgt.sess.state = .receiving) (holder : s.mgt.sess.owner = some none)
    (serves : s.readStatus (pair64 (r.w 1) (r.w 2)).toNat (r.w 3).toNat = .ok) :
    updData r s = (s.answer r stOk).sessData (s.hbmRead (pair64 (r.w 1) (r.w 2)).toNat (r.w 3).toNat) := by
  have active := active_of_receiving state
  refine (if_neg (not_locked_of_host host holder)).trans ((if_neg ?_).trans ?_)
  · rintro (foreign | committing)
    · exact foreign (owns_of_host host active holder)
    · rw [state] at committing
      cases committing
  · dsimp only
    rw [host]
    exact if_neg (not_not.2 serves)

theorem exec_updData (h : Asked 0x21 r s) (state : s.mgt.sess.state = .receiving) (holder : s.mgt.sess.owner = some none)
    (short : s.mgt.sess.received.length + (r.w 3).toNat < 1024)
    (fits : s.mgt.sess.received.length + (r.w 3).toNat ≤ s.mgt.sess.total)
    (serves : s.readStatus (pair64 (r.w 1) (r.w 2)).toNat (r.w 3).toNat = .ok) : ∃ t, exec .updData s = .next t ∧ MgtOnly s t ∧
    t.mgt = (s.extended (s.hbmRead (pair64 (r.w 1) (r.w 2)).toNat (r.w 3).toNat)).mgt.answered r 0 [] s.now := by
  obtain ⟨only, mgt⟩ := answer_host s.taken r stOk [] h.host rfl
  have now : (s.taken.answer r stOk).now = s.now := by rw [only]; rfl
  have sess : (s.taken.answer r stOk).mgt.sess = s.mgt.sess := by rw [mgt]; rfl
  have data : updData r s.taken = (s.taken.answer r stOk).extended (s.hbmRead (pair64 (r.w 1) (r.w 2)).toNat (r.w 3).toNat) := by
    rw [updData_appends (s := s.taken) h.host state holder serves]
    refine sessData_extends ?_ ?_ ?_
    · rw [sess, state]
    · rw [sess, hbmRead_length]
      exact short
    · rw [sess, hbmRead_length]
      exact fits
  refine ⟨(s.taken.answer r stOk).extended (s.hbmRead (pair64 (r.w 1) (r.w 2)).toNat (r.w 3).toNat),
    (takeReq_asked h updData).trans (congrArg Host.Outcome.next ?_),
    mgtOnly_trans (mgtOnly_trans (taken_mgtOnly s) only) (extended_mgtOnly ..), ?_⟩
  · rw [← State.taken, data]
    exact reject_nil _ (congrArg Mgt.waiting mgt)
  · rw [State.extended, now, State.modSess, State.modMgt, mgt]
    rfl

/-! ### UPD_COMMIT and UPD_ABORT -/

/-- The session waits for trailer and commit word. -/
def State.committing (s : State) (r : MboxReq) : State :=
  { s with mgt := { s.mgt with
      flashOps := [.trailer, .commit], sess := { s.mgt.sess with state := .committing, commitReq := some r } } }

theorem updCommit_commits (host : r.src = none) (state : s.mgt.sess.state = .headerOk) (holder : s.mgt.sess.owner = some none)
    (idle : s.mgt.flashOps = []) (whole : s.mgt.sess.bytes = 1024 + payloadBytes s.mgt.sess.header) :
    updCommit r s = s.committing r := by
  refine (if_neg (not_locked_of_host host holder)).trans (if_neg ?_)
  rintro (foreign | other | part | writing)
  · exact foreign (owns_of_host host (active_of_headerOk state) holder)
  · exact other state
  · exact part whole
  · exact writing idle

theorem updCommit_denied (host : r.src = none) (holder : s.mgt.sess.owner = some none)
    (part : s.mgt.sess.bytes ≠ 1024 + payloadBytes s.mgt.sess.header) : updCommit r s = s.answer r stDenied :=
  (if_neg (not_locked_of_host host holder)).trans (if_pos (.inr (.inr (.inl part))))

theorem exec_updCommit_commits (h : Asked 0x22 r s) (state : s.mgt.sess.state = .headerOk) (holder : s.mgt.sess.owner = some none)
    (idle : s.mgt.flashOps = []) (whole : s.mgt.sess.bytes = 1024 + payloadBytes s.mgt.sess.header) :
    exec .updCommit s = .next (s.taken.committing r) := by
  refine (takeReq_asked h updCommit).trans (congrArg Host.Outcome.next ?_)
  rw [← State.taken, updCommit_commits (s := s.taken) h.host state holder idle whole]
  exact reject_nil _ rfl

theorem exec_updCommit_denied (h : Asked 0x22 r s) (holder : s.mgt.sess.owner = some none)
    (part : s.mgt.sess.bytes ≠ 1024 + payloadBytes s.mgt.sess.header) :
    ∃ t, exec .updCommit s = .next t ∧ MgtOnly s t ∧ t.mgt = s.mgt.answered r 5 [] s.now := by
  obtain ⟨t, run, only, -, mgt⟩ := takeReq_only_answers h (updCommit_denied (s := s.taken) h.host holder part)
  exact ⟨t, run, only, mgt⟩

/-- Management whose session ended FAILED with reason ABORTED, its lock free. -/
def Mgt.aborted (m : Mgt) : Mgt :=
  { m with flashOps := [], sess := { m.sess with state := .failed, reason := .aborted, owner := none, expect := 0, commitReq := none } }

theorem sessFail_aborted (active : s.mgt.sess.active = true) (no_commit : s.mgt.sess.commitReq = none) :
    s.sessFail .aborted = (s.modMgt Mgt.aborted).raiseEvt pgUpd 1 := by
  refine (if_pos active).trans ?_
  unfold State.sessEnd
  dsimp only
  rw [no_commit]
  rfl

/-- An answer that is not DENIED raises no event of the UPD page. -/
theorem answer_ok_hdrAt (s : State) (r : MboxReq) (pay : List Word32) (host : r.src = none) :
    ((s.answer r stOk pay).hdrAt pgUpd).evtRaw = (s.hdrAt pgUpd).evtRaw := by
  unfold State.answer
  rw [if_neg (by decide), host]
  dsimp only
  rw [raiseEvt_raw, if_neg (by decide)]
  rfl

theorem exec_updAbort (h : Asked 0x23 r s) (state : s.mgt.sess.state = .receiving ∨ s.mgt.sess.state = .headerOk)
    (holder : s.mgt.sess.owner = some none) (no_commit : s.mgt.sess.commitReq = none) : ∃ t, exec .updAbort s = .next t ∧ MgtOnly s t ∧
    t.mgt = s.mgt.aborted.answered r 0 [] s.now ∧ (t.hdrAt pgUpd).evtRaw.getLsbD 0 = true := by
  have active : s.mgt.sess.active = true := state.elim active_of_receiving active_of_headerOk
  have ends : updAbort r s.taken = (s.taken.sessFail .aborted).answer r stOk :=
    (if_neg (not_locked_of_host (s := s.taken) h.host holder)).trans (if_neg (not_not.2 (owns_of_host (s := s.taken) h.host active holder)))
  rw [sessFail_aborted (s := s.taken) active no_commit] at ends
  have only : MgtOnly s ((s.taken.modMgt Mgt.aborted).raiseEvt pgUpd 1) :=
    mgtOnly_trans (taken_mgtOnly s) (modMgt_raiseEvt_mgtOnly ..)
  obtain ⟨t, run, t_only, t_eq, mgt⟩ := takeReq_answers h ends only (by rw [raiseEvt_mgt]; rfl)
  refine ⟨t, run, t_only, ?_, ?_⟩
  · rw [mgt, raiseEvt_mgt, raiseEvt_now]
    rfl
  · rw [t_eq, answer_ok_hdrAt _ _ _ h.host, modMgt_raiseEvt_raw]
    simp

end

/-- Settles O48: the source of a request decides between BUSY, DENIED and its effect on the session. -/
theorem updateSessions : Obligations.UpdateSessions := by
  unfold Obligations.UpdateSessions
  intro r s
  dsimp only
  refine ⟨fun h idle => ?_, fun c mem h => ?_, fun h state holder short fits serves => exec_updData h state holder short fits serves,
    fun h state holder idle => ⟨exec_updCommit_commits h state holder idle, exec_updCommit_denied h holder⟩,
    fun h state holder no_commit => ?_⟩
  · obtain ⟨t, run, only, mgt⟩ := exec_updOpen h idle
    refine ⟨t, run, only, ?_, fun a => ?_⟩
    · rw [mgt, Mgt.opened, h.host]
      rfl
    · rw [State.flashByte, mgt]
      exact sget_eraseSector ..
  · obtain ⟨f, cmd⟩ := SessCmd.of_mem mem
    exact ⟨fun p => cmd.exec_busy h, cmd.exec_denied h⟩
  · obtain ⟨t, run, only, mgt, event⟩ := exec_updAbort h state holder no_commit
    refine ⟨t, run, only, mgt.trans ?_, event⟩
    rw [Mgt.aborted, ← no_commit]

end Sys2Proof.Machine
end

section
/-! PROOFS. Boot (R386, R405, R413, R414): the pages brought up, the slot chosen, and the stages up to BOOT_DONE. -/

namespace Sys2Proof.Machine

/-! ### Pages that boot brings up (R386) -/

section
variable {s : State}

theorem pagesUp_hdrAt (l : List Nat) (s : State) (p : Nat) :
    (s.pagesUp l).hdrAt p = if p ∈ l then { s.hdrAt p with up := true } else s.hdrAt p := by
  induction l generalizing s with
  | nil => rfl
  | cons i l ih =>
    rw [State.pagesUp, foldState_cons, ← State.pagesUp, ih, State.pageUp, modHdr_eq, setHdr_hdrAt]
    by_cases first : p = i
    · subst first
      simp
    · simp [first]

theorem pagesUp_up {l : List Nat} {p : Nat} (mem : p ∈ l) : ((s.pagesUp l).hdrAt p).up = true := by
  rw [pagesUp_hdrAt, if_pos mem]

/-- A page that is up stays up when others are brought up. -/
theorem pagesUp_keeps_up {l : List Nat} {p : Nat} (up : (s.hdrAt p).up = true) : ((s.pagesUp l).hdrAt p).up = true := by
  rw [pagesUp_hdrAt]
  split
  · rfl
  · exact up

theorem pagesUp_frame (l : List Nat) (s : State) : s.pagesUp l = { s with hdr := (s.pagesUp l).hdr } :=
  foldState_keeps (fun t => t = { s with hdr := t.hdr }) _ (fun _ _ h => by rw [h]; rfl) l s rfl

theorem pagesUp_mgt (l : List Nat) (s : State) : (s.pagesUp l).mgt = s.mgt := by rw [pagesUp_frame]

theorem pageUp_mgt (p : Nat) (s : State) : (s.pageUp p).mgt = s.mgt := rfl

theorem modMgt_mgt (f : Mgt → Mgt) (s : State) : (s.modMgt f).mgt = f s.mgt := rfl

theorem modMgt_hdrAt (f : Mgt → Mgt) (s : State) (p : Nat) : (s.modMgt f).hdrAt p = s.hdrAt p := rfl

theorem loadTrims_frame (s : State) : s.loadTrims = { s with chan := s.loadTrims.chan } :=
  foldState_keeps (fun t => t = { s with chan := t.chan }) _
    (fun _ _ h => foldState_keeps (fun t => t = { s with chan := t.chan }) _ (fun _ _ h => by rw [h]; rfl) _ _ h) _ _ rfl

theorem raiseEvt_stores (p : Nat) (b : Word32) : ∃ v : PageHdr, v.up = (s.hdrAt p).up ∧
    (s.raiseEvt p b = s.setHdr p v ∨ s.raiseEvt p b = (s.setHdr p v).rise p) := by
  unfold State.raiseEvt
  dsimp only
  refine ⟨_, ?_, (em _).symm.imp (fun h => if_neg h) (fun h => if_pos h)⟩
  rfl

theorem raiseEvt_up (p j : Nat) (b : Word32) : ((s.raiseEvt p b).hdrAt j).up = (s.hdrAt j).up := by
  obtain ⟨v, up, stored⟩ := raiseEvt_stores (s := s) p b
  have hdr : (s.raiseEvt p b).hdrAt j = (s.setHdr p v).hdrAt j := by
    rcases stored with quiet | rises
    · rw [quiet]
    · rw [rises, rise_hdrAt]
  rw [hdr, setHdr_hdrAt]
  split
  · rw [up, ‹j = p›]
  · rfl

/-! ### ROM, FUSE and SLOT (R413, R414) -/

/-- A state with nothing but management and fuses. -/
def bootCore (m : Mgt) (w : Sparse Word32) : State := { mgt := m, fuse := { words := w } }

/-- The slot to boot follows from management (pin record, BOOT_FAILS, flash) and the fuses. -/
theorem bootSlot_core (s : State) : s.bootSlot = (bootCore s.mgt s.fuse.words).bootSlot := rfl

theorem bootSlot_congr {t : State} (mgt : t.mgt = s.mgt) (words : t.fuse.words = s.fuse.words) : t.bootSlot = s.bootSlot := by
  rw [bootSlot_core, mgt, words, ← bootSlot_core]

theorem loadTrims_mgt (s : State) : s.loadTrims.mgt = s.mgt := by rw [loadTrims_frame]

theorem loadTrims_hdrAt (s : State) (p : Nat) : s.loadTrims.hdrAt p = s.hdrAt p := by
  rw [loadTrims_frame, State.hdrAt, State.hdrAt]

theorem loadTrims_fuse (s : State) : s.loadTrims.fuse = s.fuse := by rw [loadTrims_frame]

theorem pagesUp_fuse (l : List Nat) (s : State) : (s.pagesUp l).fuse = s.fuse := by rw [pagesUp_frame]

theorem fuseScan_mgt (s : State) : s.fuseScan.mgt = s.mgt := rfl

theorem fuseScan_hdrAt (s : State) (p : Nat) : s.fuseScan.hdrAt p = s.hdrAt p := rfl

theorem fuseScan_words (s : State) : s.fuseScan.fuse.words = s.fuse.words := rfl

/-- What boot has done before it chooses a slot. -/
def State.scanned (s : State) : State := ((s.pagesUp earlyPages).fuseScan).loadTrims

theorem scanned_mgt (s : State) : s.scanned.mgt = s.mgt := by
  rw [State.scanned, loadTrims_mgt, fuseScan_mgt, pagesUp_mgt]

theorem scanned_hdrAt (s : State) (p : Nat) : s.scanned.hdrAt p = (s.pagesUp earlyPages).hdrAt p := by
  rw [State.scanned, loadTrims_hdrAt, fuseScan_hdrAt]

theorem scanned_bootSlot (s : State) : s.scanned.bootSlot = s.bootSlot := by
  refine bootSlot_congr (scanned_mgt s) ?_
  rw [State.scanned, loadTrims_fuse, fuseScan_words, pagesUp_fuse]

/-- RESET_N is high. -/
def State.outOfReset (s : State) : State := { s with mgt := { s.mgt with resetN := false } }

theorem outOfReset_bootSlot (s : State) : s.outOfReset.bootSlot = s.bootSlot := rfl

/-- The release of the reset of a powered device. -/
theorem exec_resetNRelease_boots (in_reset : s.mgt.phase = .reset) (good : s.mgt.railsGood = true) :
    exec .resetNRelease s = .next s.outOfReset.boot :=
  (exec_resetNRelease s).trans (congrArg Host.Outcome.next (tryRelease_boots in_reset good rfl))

theorem boot_of_none (none_valid : s.bootSlot = none) :
    s.boot = s.scanned.modMgt (fun m => { m with phase := .recovery, stage := .recovery, verA := 0, verB := 0 }) := by
  have chosen := (scanned_bootSlot s).trans none_valid
  unfold State.boot
  dsimp only
  rw [← State.scanned, chosen]

/-- Management once firmware of slot `b` has been started. -/
structure Booting (b : Bool) (m m' : Mgt) : Prop where
  phase : m'.phase = .booting
  stage : m'.stage = .mgt
  bootedB : m'.bootedB = b
  fwReady : m'.fwReady = m.fwReady

theorem boot_of_some {b : Bool} (chosen : s.bootSlot = some b) : Booting b s.mgt s.boot.mgt := by
  have same : s.scanned.bootSlot = some b := (scanned_bootSlot s).trans chosen
  unfold State.boot
  dsimp only
  rw [← State.scanned, same]
  dsimp only
  rw [modMgt_mgt, pageUp_mgt, scanned_mgt]
  exact ⟨rfl, rfl, rfl, rfl⟩

/-! ### FW_READY and CLOCK (R395, R405) -/

/-- Of management only the mailbox has changed. -/
def MailboxOnly (m m' : Mgt) : Prop :=
  m' = { m with mboxBusy := m'.mboxBusy, rspValid := m'.rspValid, rspEdge := m'.rspEdge, rsp := m'.rsp, waiting := m'.waiting }

theorem MailboxOnly.trans {m m' m'' : Mgt} (h : MailboxOnly m m') (h' : MailboxOnly m' m'') : MailboxOnly m m'' := by
  unfold MailboxOnly at *
  rw [h', h]

theorem answer_mailboxOnly (r : MboxReq) (status : Nat) (pay : List Word32) (s : State) : MailboxOnly s.mgt (s.answer r status pay).mgt := by
  have denied : (if status = stDenied then s.raiseEvt pgUpd 4 else s).mgt = s.mgt := by
    split
    · exact raiseEvt_mgt ..
    · rfl
  unfold State.answer
  dsimp only
  split
  · rw [raiseEvt_mgt, State.modMgt, denied]
    rfl
  · rw [zpSend_frame]
    change MailboxOnly s.mgt (if status = stDenied then s.raiseEvt pgUpd 4 else s).mgt
    rw [denied]
    rfl

theorem rejectHead_mailboxOnly (n : Nat) (s : State) : MailboxOnly s.mgt (s.rejectHead n).mgt := by
  induction n generalizing s with
  | zero => rfl
  | succ n ih =>
    have answered (l : List MboxReq) (r : MboxReq) (status : Nat) :
        MailboxOnly s.mgt (((s.modMgt (fun m => { m with waiting := l })).answer r status).rejectHead n).mgt :=
      MailboxOnly.trans (m' := { s.mgt with waiting := l }) rfl
        ((answer_mailboxOnly r status [] (s.modMgt (fun m => { m with waiting := l }))).trans (ih _))
    unfold State.rejectHead
    split
    · split
      · rfl
      · split
        · exact answered ..
        · split
          · exact answered ..
          · rfl
    · rfl

/-- Firmware runs, and boot is at CLOCK. -/
def State.firmware (s : State) : State := s.modMgt (fun m => { m with fwReady := true, stage := .clock })

theorem clockStage_waits (absent : s.mgt.refclk = false) : s.clockStage = s := if_neg (by simp [absent])

theorem pageUp_up (p : Nat) (s : State) : ((s.pageUp p).hdrAt p).up = true := by
  rw [State.pageUp, modHdr_eq, setHdr_hdrAt, if_pos rfl]

/-- Without REFCLK boot waits at CLOCK. -/
theorem exec_fwReady (booting : s.mgt.phase = .booting) (stage : s.mgt.stage = .mgt) (absent : s.mgt.refclk = false) :
    exec .fwReady s = .next (s.firmware.reject.pageUp (pgTime 0)) := by
  have mailbox : MailboxOnly s.firmware.mgt s.firmware.reject.mgt := rejectHead_mailboxOnly ..
  refine congrArg Host.Outcome.next ((if_pos ⟨booting, stage⟩).trans (clockStage_waits ?_))
  rw [← State.firmware, pageUp_mgt, mailbox]
  exact absent

/-- Firmware has been started and the PLL left as it was. -/
theorem firmware_reject_mgt (s : State) : s.firmware.reject.mgt.fwReady = true ∧ s.firmware.reject.mgt.stage = .clock ∧
    s.firmware.reject.mgt.pllLocked = s.mgt.pllLocked := by
  have mailbox : MailboxOnly s.firmware.mgt s.firmware.reject.mgt := rejectHead_mailboxOnly ..
  refine ⟨?_, ?_, ?_⟩ <;> rw [mailbox] <;> rfl

theorem refclkDetect_idle (idle : s.mgt.phase ≠ .booting ∨ s.mgt.stage ≠ .clock) :
    exec .refclkDetect s = .next { s with mgt := { s.mgt with refclk := true } } := by
  refine congrArg Host.Outcome.next (if_neg ?_)
  rintro ⟨booting, clock, -⟩
  rcases idle with other | other
  · exact other booting
  · exact other clock

theorem stackPower_frame (k : Nat) (s : State) : s.stackPower k = { s with hmc := (s.stackPower k).hmc } :=
  foldState_keeps (fun t => t = { s with hmc := t.hmc }) _ (fun _ _ h => by rw [h]; rfl) _ _ rfl

theorem stackPower_mgt (k : Nat) (s : State) : (s.stackPower k).mgt = s.mgt := by rw [stackPower_frame]

theorem stackPower_hdrAt (k : Nat) (s : State) (p : Nat) : (s.stackPower k).hdrAt p = s.hdrAt p := by
  rw [stackPower_frame, State.hdrAt, State.hdrAt]

/-- REFCLK is present: the PLL locks, and the pages of time and HBM come up. -/
def State.clocked (s : State) : State :=
  ((s.modMgt (fun m => { m with refclk := true, pllLocked := true, stage := .hbm })).pagesUp ((List.range 4).map pgTime)).pagesUp
    (pgHmc :: (List.range 64).map pgPc)

theorem exec_refclkDetect (booting : s.mgt.phase = .booting) (stage : s.mgt.stage = .clock) :
    exec .refclkDetect s = .next (s.clocked.stackPower 0) :=
  congrArg Host.Outcome.next (if_pos ⟨booting, stage, rfl⟩)

theorem clocked_mgt (s : State) : s.clocked.mgt = { s.mgt with refclk := true, pllLocked := true, stage := .hbm } := by
  rw [State.clocked, pagesUp_mgt, pagesUp_mgt, modMgt_mgt]

theorem clocked_up {p : Nat} (mem : p ∈ (List.range 4).map pgTime ∨ p = pgHmc) : (s.clocked.hdrAt p).up = true := by
  rcases mem with time | rfl
  · exact pagesUp_keeps_up (pagesUp_up time)
  · exact pagesUp_up List.mem_cons_self

/-! ### BOOT_DONE (R405, R413) -/

theorem banksStage_mgt (s : State) : s.banksStage.mgt = { s.mgt with stage := .banks, banksAt := some s.now } :=
  foldState_keeps (fun t => t.mgt = { s.mgt with stage := .banks, banksAt := some s.now }) _
    (fun _ _ h => by rw [enqueueBank_frame]; exact h) _ _ rfl

/-- Every stage up to BANKS is behind, and every page up. -/
def State.bootEnded (s : State) : State :=
  ((if s.mgt.stage = .banks then s else s.banksStage).pagesUp sources).modMgt (fun m => { m with
    phase := .up, stage := .done, fails := m.fails.set (b2n m.bootedB) 0 })

theorem exec_bootDone (booting : s.mgt.phase = .booting) (stage : s.mgt.stage = .links ∨ s.mgt.stage = .peFw ∨ s.mgt.stage = .banks) :
    exec .bootDone s = .next (s.bootEnded.raiseEvt pgChip 1) :=
  congrArg Host.Outcome.next (if_pos ⟨booting, stage⟩)

theorem bootEnded_mgt (s : State) : s.bootEnded.mgt =
    { s.mgt with phase := .up, stage := .done, banksAt := s.bootEnded.mgt.banksAt, fails := s.mgt.fails.set (b2n s.mgt.bootedB) 0 } := by
  rw [State.bootEnded, modMgt_mgt, pagesUp_mgt]
  split
  · rfl
  · rw [banksStage_mgt]

theorem bootEnded_up {p : Nat} (mem : p ∈ sources) : (s.bootEnded.hdrAt p).up = true := by
  rw [State.bootEnded, modMgt_hdrAt]
  exact pagesUp_up mem

end

/-- Settles O46: each stage of boot, by what it does to management and which pages it brings up. -/
theorem bootStages : Obligations.BootStages := by
  unfold Obligations.BootStages
  intro s
  refine ⟨fun in_reset good fresh => ⟨_, exec_resetNRelease_boots in_reset good, fun none_valid => ?_, fun b chosen => ?_⟩,
    fun booting stage absent => ⟨_, exec_fwReady booting stage absent, ?_⟩, refclkDetect_idle,
    fun booting stage => ⟨_, exec_refclkDetect booting stage, ?_⟩, fun booting stage => ⟨_, exec_bootDone booting stage, ?_⟩⟩
  · rw [boot_of_none ((outOfReset_bootSlot s).trans none_valid), modMgt_mgt]
    refine ⟨rfl, rfl, fun p => ?_⟩
    rw [modMgt_hdrAt, scanned_hdrAt, pagesUp_hdrAt]
    have blank : s.outOfReset.hdrAt p = {} := by
      change sget {} s.hdr p = {}
      rw [fresh]
      rfl
    rw [blank, ← earlyPages]
    by_cases early : p ∈ earlyPages
    · rw [if_pos early, decide_eq_true early]
    · rw [if_neg early, decide_eq_false early]
  · obtain ⟨phase, stage, booted, fw⟩ := boot_of_some ((outOfReset_bootSlot s).trans chosen)
    exact ⟨phase, stage, booted, fw⟩
  · obtain ⟨fw, clock, pll⟩ := firmware_reject_mgt s
    rw [pageUp_mgt]
    exact ⟨fw, clock, pll, pageUp_up ..⟩
  · rw [stackPower_mgt, stackPower_hdrAt, clocked_mgt]
    refine ⟨rfl, rfl, booting, clocked_up (.inr rfl), fun d hd => ?_⟩
    rw [stackPower_hdrAt]
    exact clocked_up (.inl (List.mem_map.2 ⟨d, List.mem_range.2 hd, rfl⟩))
  · rw [raiseEvt_mgt, raiseEvt_raw, if_pos rfl, bootEnded_mgt]
    refine ⟨rfl, rfl, fun p mem => ?_, rfl, by simp⟩
    rw [raiseEvt_up]
    exact bootEnded_up mem

end Sys2Proof.Machine
end
